-- ==== Sys2Proof/Word.lean ====
section
/-!
DEFINITION. The words of the machine: bytes, 16-, 32- and 64-bit words, digests and numeric encodings, with their plainest arithmetic.
-/

namespace Sys2Proof

/-- One byte. -/
abbrev Byte := BitVec 8
/-- A 16-bit word (status codes R18, half-precision encodings). -/
abbrev Half := BitVec 16
/-- A 32-bit word: scalar registers and sync counters (R100), registers (R506). -/
abbrev Word := BitVec 32
/-- A 64-bit word: beat counts (R356), steps, packet sequence numbers. -/
abbrev DWord := BitVec 64
/-- A SHA-256 digest or another 256-bit value. -/
abbrev Digest := BitVec 256

/-- Condition `a ≤ b` modulo 2^32: a counter `c` has reached `b` when (c − b) mod 2^32 < 2^31 (R126). -/
def Word.reached (c b : Word) : Bool := (c - b).toNat < 2 ^ 31

end Sys2Proof
end

