-- ==== Sys2Proof/Records.lean ====
section
/-!
DEFINITION. The records of the manual that commands carry and the state holds: descriptors, plan records, image records, frames,
control messages and sealed objects, each with the fields of its table.
-/

namespace Sys2Proof

/-! ## Numbers on the wire -/

/-- An F24 or ICF scalar in the 8-byte form of R204: class, sign, exponent and 24-bit significand. -/
inductive NumLit where
  | nan
  | inf (neg : Bool)
  | zero (neg : Bool)
  | fin (neg : Bool) (sig : Nat) (exp : Int)     -- value ± sig × 2^exp
deriving DecidableEq, Repr

/-! ## Core programs (04) -/

/-- Where an instruction issues: device core index of R549 and context slot of R100. -/
structure Site where
  core : Nat
  ctx  : Fin 8
deriving DecidableEq, Repr

/-- The predicate fields of the common header (Table 4-2). -/
structure Pred where
  pred : Fin 8
  pneg : Bool
deriving DecidableEq, Repr

/-- The completion-counter fields CNT and CNTEN (Tables 4-7 to 4-10). -/
structure CntSel where
  cnt : Fin 16
  en  : Bool
deriving DecidableEq, Repr

/-- CMP conditions (Table 4-5). -/
inductive CmpCond where
  | eq | ne | ltu | geu | lts | ges
deriving DecidableEq, Repr

/-- TDADD target field (Table 4-6). -/
inductive TdField where
  | base | scaleBase | indexBase | tensorId
deriving DecidableEq, Repr

/-- ACCMODE of MMA and MMAT (Table 4-7). -/
inductive AccMode where
  | empty | continue | addend | raw
deriving DecidableEq, Repr

/-- A tile descriptor (Table 4-11), its fields at their widths. -/
structure TileDesc where
  base        : BitVec 20 := 0
  stride      : BitVec 16 := 0
  fmtd        : BitVec 8  := 0
  rowsM1      : BitVec 6  := 0
  colsM1      : BitVec 13 := 0
  scaleBase   : BitVec 20 := 0
  scaleStride : BitVec 16 := 0
  tensorId    : BitVec 32 := 0
  lrow        : BitVec 32 := 0
  indexBase   : BitVec 50 := 0
deriving DecidableEq, Repr

/-- The B operand of a vector operation (BSRC of Table 5-1): none, tensor TDB, scalar register, or BF16 immediate. -/
inductive BSrc where
  | none | tensor | reg | imm
deriving DecidableEq, Repr

/-- The common operand fields of a format V instruction (Table 4-9). -/
structure VOp where
  bsrc  : BSrc
  tdd   : Fin 64
  tda   : Fin 64
  tdb   : Fin 64
  gs    : Fin 32
  cnt   : CntSel
  imm16 : BitVec 16
deriving DecidableEq, Repr

/-- What appended a start-queue entry: the event that rules about the entry's completion refer to (R226, R234, R239, R302, R322). -/
inductive EntryTag where
  | plain
  | forward (stage step mb layer : Nat)
  | backward (stage step mb layer : Nat)
  | recompute (stage step mb layer : Nat)
  | batch (ctx : Nat) (id : Nat)
  | pause (ctx slot : Nat)
deriving DecidableEq, Repr

/-- A start-queue entry (R102): entry index and four arguments, and what appended it. -/
structure StartEntry where
  entry : BitVec 12
  args  : List Word
  tag   : EntryTag := .plain
deriving DecidableEq, Repr

/-- The engines of a core (R103, R187): the arrays and the vector engine have an owner, the queues of DMA, link and Stem are per context. -/
inductive Engine where
  | array (n : Fin 2)
  | vector
  | dma (ctx : Fin 8)
  | link (ctx : Fin 8)
  | stem (ctx : Fin 8)
deriving DecidableEq, Repr

/-! ## The plan (records of chapters 4 to 14) -/

inductive CtxKind where
  | teacher | training | serving | online | data
deriving DecidableEq, Repr

/-- Context record (Table 12-1) with the counter classes of R125 (`remote` holds the counters of class REMOTE). -/
structure CtxRec where
  ctx : Nat
  kind : CtxKind
  be : Bool
  partner : Nat
  waitLimit : Nat
  tSpBase : Nat
  tSpSize : Nat
  sSpBase : Nat
  sSpSize : Nat
  tImBase : Nat
  tImSize : Nat
  sImBase : Nat
  sImSize : Nat
  remote : List Nat
  reservedZero : Bool := true
deriving DecidableEq, Repr

inductive RegionKind where
  | teacher | student | cellar | buddy | table | scratch
deriving DecidableEq, Repr

/-- A range of the table region (R27): interleaved, or pinned to the stack pair of one MSD. `teacher`: it holds a teacher-table shard;
`shard`: it holds an embedding shard, its moments or its row shadow, read by the Table Engine of that MSD. -/
structure TableRange where
  base : Nat
  size : Nat
  pin : Option Nat
  shardMsd : Option Nat := none
  teacher : Bool := false
deriving DecidableEq, Repr

/-- A region of the plan's region table (R27, R28, R334). -/
structure RegionRec where
  index : Nat
  kind : RegionKind
  base : Nat
  size : Nat
  owner : Nat
  pinned : Bool := false
  ranges : List TableRange := []
deriving DecidableEq, Repr

/-- A context's program on a set of cores of one type (R101), with its descriptor pool (R111). -/
structure ProgRec where
  ctx : Nat
  cores : List Nat
  words : List DWord
  poolBase : Nat
  pool : List TileDesc
deriving DecidableEq, Repr

/-- Units whose events trigger EVENT records: a composed batch step (R302), a completed loss or acceptance job (R199, R306) by its record, a
commit or skip beat (R265), a pause (R322). -/
inductive EventUnit where
  | batch
  | loss (id : Nat)
  | commit
  | pause
  /-- The stash controller: an event for each layer entry that it appends (log entry 116). -/
  | stash
deriving DecidableEq, Repr

/-- Trigger of a schedule record (TKIND and TRIG of Table 12-3). -/
inductive Trigger where
  | beat (b : Nat)
  | counter (c : Fin 16) (core : Nat) (v : Word)
  | event (unit : EventUnit)
deriving DecidableEq, Repr

/-- Schedule record (Table 12-3); `place` is a core, or an affinity set by its index (R348). -/
structure SchedRec where
  ctx : Nat
  trig : Trigger
  affinity : Bool
  place : Nat
  entry : Nat
  key : Nat
  args : List Word
deriving DecidableEq, Repr

inductive Route where
  | onDie | fabric | pliolo
deriving DecidableEq, Repr

/-- A link channel of the channel table (R118): its ends, its route and the counter of the receiving context that its LRECVs increment. An end
on another device is none: that device has address `peer`, and the core there is `peerCore`. -/
structure ChanRec where
  chan : Nat
  sender : Option Site
  receiver : Option Site
  route : Route
  peer : Option Nat := none
  peerCore : Nat := 0
  cnt : Fin 16 := 0
deriving DecidableEq, Repr

/-- A counter-table entry: a bound event increments counter `c` of a context on a core (R125). -/
structure CounterRef where
  id : Nat
  site : Site
  c : Fin 16
deriving DecidableEq, Repr

inductive PacketKind where
  | full | topk | hidden
deriving DecidableEq, Repr

/-- Target recipe (Table 6-6). -/
structure Recipe where
  buffer : Nat
  kind : PacketKind
  vfmt : BitVec 8
  invT : Word
  k : Nat
  width : Nat
  tap : Nat := 0
deriving DecidableEq, Repr

inductive ConsKind where
  | loss | program | accept
deriving DecidableEq, Repr

/-- Landing-buffer declaration (Table 7-2). -/
structure LandRec where
  buffer : Nat
  score : Nat
  base : Nat
  slotSize : Nat
  slots : Nat
  producer : Nat
  pctx : Fin 8
  ckind : ConsKind
  cctx : Fin 8
  arrive : Fin 16
  release : Fin 16
  joint : Nat
deriving DecidableEq, Repr

inductive LossKind where
  | output | hiddenMse | hiddenCos | accept
deriving DecidableEq, Repr

/-- Segment entry (Table 7-7). -/
structure SegRec where
  buffer : Nat
  score : Nat
  zdesc : Nat
  gdesc : Nat
deriving DecidableEq, Repr

/-- Loss record (Table 7-6) with its segments, its context, the scratch address of its results (R207), its completion counter (R199)
and the devices of its loss-exchange group (R204; empty when GROUP = 0). -/
structure LossRec where
  id : Nat
  kind : LossKind
  gfmt : BitVec 8
  aKl : Word
  aCe : Word
  invT : Word
  invN : Word
  rows : Nat
  labels : Nat
  vocab : Nat
  group : List Nat
  segs : List SegRec
  ctx : Fin 8
  resultOff : Nat
  doneCnt : Fin 16
deriving DecidableEq, Repr

/-- A label array of the scratch region (R200): offset of instance 0 and positions per micro-batch. -/
structure LabelRec where
  id : Nat
  off : Nat
  positions : Nat
deriving DecidableEq, Repr

/-- Stage stash and slot record (Table 8-4); `unitCode` is the UNIT code, unit = 4 KiB × 2^code, and `number` the stage's number in the
pipeline (R235). -/
structure StageRec where
  stage : Nat
  unitCode : Nat
  intBase : Nat
  intUnits : Nat
  rcBase : Nat
  rcSize : Nat
  slotOff : Nat
  slotBytes : Nat
  ctx : Fin 8
  cores : List Nat
  number : Nat := 0
deriving DecidableEq, Repr

/-- Layer stash record (Table 8-5). -/
structure LayerRec where
  layer : Nat
  stage : Nat
  recompute : Bool
  units : Nat
  fwdEntry : Nat
  bwdEntry : Nat
  boundOff : Nat
  boundSize : Nat
  /-- Tensors that the layer writes or reads, and its recovery entries where it has them (R259). -/
  tensors : List Nat := []
  recFwd : Option Nat := none
  recBwd : Option Nat := none
deriving DecidableEq, Repr

/-- An entry of a stage's schedule (R235): the forward or backward entry of a layer for a micro-batch of the step. -/
structure OrderRec where
  stage : Nat
  fwd : Bool
  layer : Nat
  mb : Nat
deriving DecidableEq, Repr

/-- Update record (Table 9-2). `cols` is O for a matrix in transposed order (R215), 0 otherwise; `stage` holds the tensor; `staging` is the
staging area of a row-sparse table at its owner, as offset and bytes within the table region (R250). -/
structure UpdRec where
  tensorId : Nat
  prog : Nat
  wdesc : BitVec 8
  copy : Nat
  hist : Nat
  elems : Nat
  wOff : Nat
  copyOff : Nat
  momOff : Nat
  momStride : Nat
  sparse : Bool
  stage : Nat
  cols : Nat
  staging : Option (Nat × Nat) := none
deriving DecidableEq, Repr

/-- FUU operations (Table 9-4). -/
inductive FuuOp where
  | add | sub | mul | fma | div | sqrt | min | max | abs | powu | lr | stw | stm1 | stm2
deriving DecidableEq, Repr

/-- A FUU operation word (Table 9-3), its operands naming f0–f15 (below 16) and k0–k15 (16 to 31). -/
structure FuuWord where
  op : FuuOp
  d : Fin 16
  a : Fin 32
  b : Fin 32
  c : Fin 32
deriving DecidableEq, Repr

/-- Update program (R245); `lr` holds the breakpoints (step, FP32 rate). -/
structure FuuProg where
  nmom : Nat
  consts : List Word
  lr : List (Nat × Word)
  ops : List FuuWord
deriving DecidableEq, Repr

/-- Update policy record (Table 9-5). -/
structure PolicyRec where
  initE : Int := 0
  minE : Int := 0
  maxE : Int := 0
  backoff : Nat := 1
  growth : Nat := 0
  recover : Nat := 1
  commitLead : Nat := 16
  commitLimit : Nat := 1
  swordAddr : Nat := 0
deriving DecidableEq, Repr

/-- History entry (Table 9-6); `weight` is KIND 0x01. -/
structure HistRec where
  baseId : Nat
  count : Nat
  e4m3 : Bool
  margin : Nat
  initExp : Int
  weight : Bool
  h : Nat
deriving DecidableEq, Repr

/-- Bucket entry (Table 10-2), with the Q that the plan holds for a compressed bucket (R282). -/
structure BucketRec where
  tensorId : Nat
  cols : Nat
  elem0 : Nat
  elems : Nat
  rank : Nat
  lrOff : Nat
  q : List Word := []
deriving DecidableEq, Repr

/-- Exchange channel record (Table 10-1) with its buckets and members. `ctx` is the context whose LREDs feed it. -/
structure ExchRec where
  chan : Nat
  sparse : Bool
  owner : Nat
  sumOff : Nat
  sumSize : Nat
  carryOff : Nat
  recvCnt : Nat
  buckets : List BucketRec
  members : List Nat
  ctx : Fin 8
deriving DecidableEq, Repr

/-- Job record (Table 14-3) with member entries (device address, partner role), the commit tree as (address, parent address) pairs
without the root, and the spare list. -/
structure JobRec where
  job : Nat
  ctxMask : BitVec 8
  extEvery : Nat
  ckptEvery : Nat
  haltSettle : Nat
  restoreLimit : Nat
  bankBytes : Nat
  restartMax : Nat
  members : List (Nat × Nat)
  tree : List (Nat × Nat)
  spares : List Nat
deriving DecidableEq, Repr

/-- Serving policy record (Table 11-3), with the vocabulary size, the page-set count and the offsets of the plan's serving areas. -/
structure ServeRec where
  ctx : Fin 8
  slots : Nat
  slotBytes : Nat
  stepTokens : Nat
  chunk : Nat
  inflight : Nat
  sinkPages : Nat
  recentPages : Nat
  maxRingLog2 : Nat
  maxContext : Nat
  psetBytes : Nat
  npset : Nat
  summaryTtl : Nat
  ringHold : Nat
  verdictMax : Nat
  summaryBytes : Nat
  reqOff : Nat
  statusOff : Nat
  vocab : Nat
  draftBase : Nat
  slotCnt : Nat
  /-- Cellar offsets of page set 0, of slot 0's page list (4 bytes a page), of slot 0's draft page set and of the summary pool, and the
  acceptance record (R301, R302, R305, R306, R323). -/
  psetBase : Nat := 0
  listBase : Nat := 0
  draftSetBase : Nat := 0
  summaryBase : Nat := 0
  accept : Nat := 0
deriving DecidableEq, Repr

/-- Data binding record (Table 14-11). -/
structure DataRec where
  ctx : Fin 8
  relCommit : Bool
  relCnt : Nat
  slots : Nat
  slotBytes : Nat
  tableOff : Nat
  statusOff : Nat
  spm : Nat
  sampleBase : Nat
  arriveCnt : Nat
deriving DecidableEq, Repr

/-- A shard of an embedding table (R175, R27): rows [row0, row0 + nrows) at a table-region offset, on one MSD of this device, or on the
device `remote`. `shadow` is the row shadow of a student shard, as offset and bytes within the table region (R251). -/
structure ShardRec where
  table : Nat
  row0 : Nat
  nrows : Nat
  off : Nat
  msd : Nat
  remote : Option Nat := none
  shadow : Option (Nat × Nat) := none
deriving DecidableEq, Repr

/-- An embedding table (R175): element count and format of a row, total rows, and whether it is the teacher's. -/
structure TableRec where
  table : Nat
  d : Nat
  fmt : BitVec 8
  rows : Nat
  teacher : Bool
  tensorId : Nat := 0
deriving DecidableEq, Repr

/-- A mixture-of-experts declaration (R172, R173). -/
structure MoeRec where
  experts : Nat
  select : Nat
  capacity : Nat
deriving DecidableEq, Repr

/-- A KV page of a page set (R169, R301): head dimension, format descriptor, and offset of the page within the page set. -/
structure KvRec where
  headDim : Nat
  fmt : BitVec 8
  off : Nat := 0
deriving DecidableEq, Repr

/-- An adapter area (R232, R320): its slots, region, rank and scale, region offset and bytes per slot. -/
structure AdapterArea where
  slots : Nat
  teacher : Bool
  rank : Nat
  scale : Word
  base : Nat := 0
  slotBytes : Nat := 0
deriving DecidableEq, Repr

/-- The plan's adapter declarations (R232): rank, FP32 scale. -/
structure AdapterDecl where
  ctx : Nat
  rank : Nat
  scale : Word
deriving DecidableEq, Repr

/-- Accounting record (R350). -/
structure AcctRec where
  beats : Nat := 1024
  off : Nat := 0
  drainLimit : Nat := 1
deriving DecidableEq, Repr

/-- A piece of a declared chain: the device and core that form it (none: this device), the instructions of the context's program there that begin
it and that read it out or save it, and the terms it adds, which count where this plan does not hold the instructions. -/
structure ChainPiece where
  device : Option Nat := none
  core : Nat
  first : Nat
  last : Nat
  k : Nat
deriving DecidableEq, Repr

/-- A declared chain (R79, R83, R96): its class (0 narrow, 1 wide, 2 split) and its pieces in the order of K. DESIGN CHOICE (log entry 84): the
manual speaks of chains that a plan declares and gives no record for them. -/
structure ChainDecl where
  ctx : Nat
  cls : Nat
  pieces : List ChainPiece
deriving DecidableEq, Repr

/-! ### Declarations of placement and order

The manual has the verifier check where a plan places heads, tap points, stages, splits and frozen matrices, and in which order it adds and
sends, and gives no record for them. DESIGN CHOICE (log entry 60): each is a record of this section. -/

/-- A head shard of the teacher or of the student (R29, R168): its weight tensor, its device, its vocabulary range [lo, hi), the part
[k0, k1) of the head's K that it holds, and the devices whose landing buffers consume it (R180). -/
structure HeadRec where
  teacher : Bool
  tensorId : Nat
  device : Nat
  lo : Nat
  hi : Nat
  k0 : Nat
  k1 : Nat
  k : Nat
  consumers : List Nat := []
deriving DecidableEq, Repr

/-- A tap point of the teacher: its device, and the devices whose landing buffers consume it (R180). -/
structure TapRec where
  device : Nat
  consumers : List Nat
deriving DecidableEq, Repr

/-- A stage of the whole pipeline (R30, R235): its number, the devices on which it lies, and whether it holds a trainable parameter (R231). -/
structure StagePlace where
  number : Nat
  devices : List Nat
  trainable : Bool := true
deriving DecidableEq, Repr

/-- A boundary channel between two stages (R236), with the micro-batches in the order of the schedule at the end that another device holds;
none where this device holds that end too. -/
structure BoundRec where
  chan : Nat
  fwd : Bool
  sender : Nat
  receiver : Nat
  remote : Option (List Nat) := none
deriving DecidableEq, Repr

/-- One addition of a declared accumulation order (R218): the S-core and instruction that make it, the micro-batch, and the block; the layer in whose
backward entry it stands (none: an entry of the plan's schedule), and how often that entry has executed the instruction before it. -/
structure AddRec where
  core : Nat
  instr : Nat
  mb : Nat
  block : Nat
  layer : Option Nat := none
  nth : Nat := 0
deriving DecidableEq, Repr

/-- The declared order of a gradient buffer (R218), or of a tensor at which contributions meet (R221), in a context. -/
structure OrderDecl where
  fanIn : Bool
  ctx : Nat
  tensorId : Nat
  adds : List AddRec
deriving DecidableEq, Repr

/-- A frozen matrix (R230, R231): its tensor, format, place in the student region, and the layers that read it. -/
structure FrozenRec where
  tensorId : Nat
  fmtd : BitVec 8
  off : Nat
  bytes : Nat
  layers : List Nat
deriving DecidableEq, Repr

/-- A plan: the records of chapters 4 to 14. Its binary layout is outside the freeze (R9), so it is held as the records themselves. -/
structure Plan where
  readable : Bool := true
  /-- Breaches of a record's layout that the records below cannot hold (a reserved field or code), as (verifier code of the record's type,
  index of the record): R134. -/
  breaches : List (Nat × Nat) := []
  digest : Digest := 0
  bytes : Nat := 0
  seed : DWord := 0
  microBatches : Nat := 1
  contexts : List CtxRec := []
  regions : List RegionRec := []
  programs : List ProgRec := []
  schedule : List SchedRec := []
  affinity : List (List Nat) := []
  channels : List ChanRec := []
  counters : List CounterRef := []
  recipes : List Recipe := []
  landings : List LandRec := []
  landingArea : Nat := 0
  losses : List LossRec := []
  labels : List LabelRec := []
  stages : List StageRec := []
  layers : List LayerRec := []
  /-- The entries of a step on each stage, in the order of R235. -/
  order : List OrderRec := []
  updates : List UpdRec := []
  fuuProgs : List FuuProg := []
  policy : PolicyRec := {}
  hist : List HistRec := []
  exch : List ExchRec := []
  jobs : List JobRec := []
  serve : List ServeRec := []
  data : List DataRec := []
  tables : List TableRec := []
  shards : List ShardRec := []
  moe : List MoeRec := []
  kv : List KvRec := []
  adapterAreas : List AdapterArea := []
  adapters : List AdapterDecl := []
  acct : AcctRec := {}
  stepAcctOff : Nat := 0
  chains : List ChainDecl := []
  huskDigest : Digest := 0
  heads : List HeadRec := []
  taps : List TapRec := []
  /-- Device-split groups (R168), stages of the pipeline and the devices in pipeline position order (R235). -/
  splits : List (List Nat) := []
  places : List StagePlace := []
  pipeline : List Nat := []
  bounds : List BoundRec := []
  orders : List OrderDecl := []
  frozen : List FrozenRec := []
  /-- Teacher tensors with the formats that the Husk fixes (R163). -/
  teacherTensors : List (Nat × BitVec 8) := []
  /-- The loss jobs, by LOSS_ID, of every other device of this device's loss-exchange groups, in that device's order (R204). -/
  lossOrders : List (Nat × List Nat) := []
deriving DecidableEq, Repr

/-! ## The configuration image (16) -/

structure BeatPlot where
  source : Nat := 0
  periodCode : Nat := 2
  excludeMax : Nat := 0
  startLead : Nat := 4096
  joinLimit : Nat := 30000
  lockLimit : Nat := 60000
  podAlt : Nat := 1
  rowAlt : Nat := 1
  plotAltX : Nat := 1
  plotAltY : Nat := 0
deriving DecidableEq, Repr

structure NumPolicy where
  srEnable : Nat := 0
  srBits : Nat := 12
  canonMask : BitVec 8 := 0
deriving DecidableEq, Repr

/-- Exchange policy (Table 10-6). -/
structure ExchPolicy where
  straggler : Nat := 0
  stragglerLimit : Nat := 65536
  exchLimit : Nat := 1048576
  checkShift : Nat := 8
  lowrank : Nat := 1
  defaultRank : Nat := 32
deriving DecidableEq, Repr

structure PlanDirEntry where
  slot : Nat
  bytes : Nat
  digest : Digest
deriving DecidableEq, Repr

/-- The records of an image (Tables 16-6, 16-7), omitted ones at their defaults (R463). -/
structure ImageRecs where
  n : Nat := 1
  p : Nat := 1
  x : Nat := 1
  y : Nat := 1
  beat : BeatPlot := {}
  numeric : NumPolicy := {}
  exch : ExchPolicy := {}
  autoRestart : Nat := 0
  spares : Nat := 0
  exportPolicy : BitVec 32 := 0
  onlineDistill : Nat := 0
  sealMask : BitVec 8 := 0x1F
  initial : Nat := 0xFF
  directory : List PlanDirEntry := []
  operatorKeys : List Digest := []
  licensorKeys : List Digest := []
  fwSvnCommit : Nat := 0
  ipv6Prefix : DWord := 0
  ipv4Base : Word := 0
  ptpDomain : Nat := 0
  capW : Nat := 2400
deriving DecidableEq, Repr

/-- An HSS signature as the device judges it (R429): the LMS height and the Winternitz parameter of each of its levels, and whether it verifies under the
signer's key. -/
structure SigInfo where
  levels : List (Nat × Nat)
  verifies : Bool
deriving DecidableEq, Repr

/-- Whether a signature has the parameters that R429 admits, and verifies. -/
def SigInfo.valid (x : SigInfo) : Bool :=
  x.verifies && decide (1 ≤ x.levels.length) && decide (x.levels.length ≤ 3)
    && x.levels.all fun l => [5, 10, 15, 20, 25].contains l.1 && [1, 2, 4, 8].contains l.2

/-- An image bank's content (R461): the 96 bytes of its header, its records, and its signature as bytes and as the device judges it under SIGNER's
key. -/
structure Image where
  header : List Byte
  body : List Byte
  signature : List Byte
  sig : SigInfo
deriving DecidableEq, Repr

/-- A firmware bank (R459): the 64 bytes of its header, its code, its signature as bytes and as the device judges it, and the digest of the key under which
it verifies. -/
structure Firmware where
  header : List Byte
  code : List Byte
  signature : List Byte
  signer : Digest
  sig : SigInfo
deriving DecidableEq, Repr

/-- How the device judges the signature of a bank that has come over the Vine (R429): of a firmware bank also the digest of the key under which it
verifies. -/
structure BankSig where
  sig : SigInfo
  signer : Digest := 0
deriving DecidableEq, Repr

/-! ## Frames and control messages (10, 13, 17) -/

/-- The Umyan header fields of a received frame (Table 17-2). `tagOk` is the outcome of the AES-256-GCM check, `reservedOk` says that every
reserved header field is zero and that CLASS is one of Table 17-3; `subtypeOk`, for CTRL and MGMT frames, that the subtype is one that Table
17-5 or R503 gives to frames towards the device. -/
structure Frame where
  session : Nat
  psn : Nat
  ackPsn : Nat
  ackMap : DWord
  window : Nat
  last : Bool
  length : Nat
  offset : Nat
  tagOk : Bool
  reservedOk : Bool
  subtypeOk : Bool := true
deriving DecidableEq, Repr

inductive Authority where
  | operator | licensor | client
deriving DecidableEq, Repr

/-- READY record (Table 9-7). -/
structure ReadyRec where
  job : Nat
  step : Nat
  version : Nat
  devices : Nat
  nfGrad : Bool
  nfUpdate : Bool
  amax : List Word
deriving DecidableEq, Repr

/-- Commit marker (R263). -/
structure Marker where
  job : Nat
  step : Nat
  version : Nat
  commit : Bool
  nfGrad : Bool
  nfUpdate : Bool
  commitBeat : Nat
  amax : List Word
deriving DecidableEq, Repr

/-- Beat marker (Table 13-4). -/
structure BeatMarker where
  secondary : Bool
  altRoot : Bool
  refLost : Bool
  depth : Nat
  periodCode : Nat
  origin : Nat
  beat : Nat
  form : Nat
  sender : Nat
deriving DecidableEq, Repr

/-- Join record (Table 13-11). -/
structure JoinRec where
  address : Nat
  devices : Nat
  excluded : Nat
  firstBad : Nat
  digest : Digest
  beatHwm : Nat
  code : Nat
deriving DecidableEq, Repr

/-- Strap entry of a Vine STRAP frame, and the straps a device samples (Table 13-6, Table 18-2). -/
structure Straps where
  podId : BitVec 4 := 0
  rowX : BitVec 5 := 0
  rowY : BitVec 5 := 0
  rootSel : Bool := false
deriving DecidableEq, Repr

/-- An XFER frame (R376): firmware or image, LAST, target position, BLOCK, LENGTH, STATUS and the data. -/
structure Xfer where
  image : Bool
  last : Bool
  target : Nat
  block : Nat
  length : Nat
  status : Nat
  data : List Byte := []
deriving DecidableEq, Repr

/-- An ENUM frame at a device (R375, R471): NEXT, and whether it is the frame that this device, driving VINE_CK, has sent (log entry 118). -/
structure EnumIn where
  next : Nat
  own : Bool := false
deriving DecidableEq, Repr

/-- The start of a formation phase (R380), with the excluded devices outside the pod, which no message of the phases before brings (R384, log entry
117). -/
structure PhaseStart where
  phase : Nat
  away : List Nat := []
deriving DecidableEq, Repr

/-- Vine frames (Table 13-6) as a device sends them on. -/
inductive VineFrame where
  | enum (next : Nat)
  | strap (l : List Straps)
  | ebeat (count : Nat)
  | state (l : List Nat)
  | ping (j : Nat)
  | xfer (x : Xfer)
deriving DecidableEq, Repr

/-- A discovery HELLO (R382): the sender's address, port and lane, its joinable state and FORM. -/
structure Hello where
  addr : Nat
  port : Nat
  lane : Nat
  joinable : Bool
  form : Nat
deriving DecidableEq, Repr

/-- The announcement of the acting Plot Root (R380, R381): JOIN_BEAT, the excluded addresses, FORM, the acting Plot Root, and, when one
device rejoins alone, that device. -/
structure Announce where
  joinBeat : Nat
  excluded : List Nat
  form : Nat
  origin : Nat
  only : Option Nat
deriving DecidableEq, Repr

/-- Exact element (Table 10-5). -/
structure ExactEl where
  acc : Int
  nan : Bool
  pinf : Bool
  ninf : Bool
  negz : Bool
deriving DecidableEq, Repr

/-- The payload of an exchange contribution or partial: FP32 elements, exact elements, or none (an excluded contribution, R287). -/
inductive Payload where
  | fp32 (w : List Word)
  | exact (e : List ExactEl)
  | none
deriving DecidableEq, Repr

/-- Kinds of exchange chunk (Table 10-3). -/
inductive ChunkKind where
  | gradient | parameters | lowP | lowR | lowPhQ
deriving DecidableEq, Repr

/-- An exchange chunk (Table 10-3). `node` is the lowest address of the subtree of R272 whose partial it carries, `bit` how many address bits
are already combined in it. -/
structure Chunk where
  chan : Nat
  kind : ChunkKind
  nonfinite : Bool
  check : Bool
  carry : Bool
  idx : Nat
  step : Nat
  count : Nat
  chunk : Nat
  elems : Nat
  node : Nat
  bit : Nat
  payload : Payload
deriving DecidableEq, Repr

/-- A parameter chunk (R270, R279): BF16 values of the range of a bucket from element `off`, and the elements of the bucket. -/
structure ParamChunk where
  chan : Nat
  idx : Nat
  version : Nat
  off : Nat
  vals : List Half
  elems : Nat
deriving DecidableEq, Repr

/-- A chunk on its way, with the device it is going to (R275, R279). -/
structure Sent (α : Type) where
  dst : Nat
  chunk : α
deriving DecidableEq, Repr

/-- What an INIT frame carries beside AUTHORITY and CLIENT: KEY_DIGEST, N_i and KEM_CT (R489). -/
structure InitKeys where
  key : Digest
  ni : Digest
  kemCt : List Byte
deriving DecidableEq, Repr

/-- What PROVE carries (R431, R489): of an operator or a licensor the public key, beside the signature; of a client the HMAC over the transcript. -/
structure Proof where
  publicKey : List Byte := []
  mac : Digest := 0
deriving DecidableEq, Repr

/-- What an attestation request names: its nonce and a Husk (R502). -/
structure AttestReq where
  nonce : Digest
  husk : Digest
deriving DecidableEq, Repr

/-- What OWNER_CLAIM carries: the owner's key digest and the claim challenge (R427). -/
structure OwnerClaim where
  key : Digest
  challenge : Digest
deriving DecidableEq, Repr

/-- Fault record (Table 14-2). -/
structure FaultRec where
  code : Half
  device : Bool
  ctx : Nat
  job : Nat
  address : Nat
  attempt : Nat
  beat : Nat
  phase : Nat
  step : Nat
  detail : List Nat
deriving DecidableEq, Repr

/-- Where the bag list of a lookup job stands (R176, R328): at a scratch-region offset in 128-byte units, or in the slot of a RANK request, of
which every candidate names its bag records. -/
inductive BagSrc where
  | scratch (off : Nat)
  | cands (ctx : Fin 8) (slot : Nat)
deriving DecidableEq, Repr

/-- A part that a checkpoint bank holds (R399, R412). -/
structure PartHeld where
  version : Nat
  role : Nat
  map : Digest
deriving DecidableEq, Repr

/-- A member's halted report (Table 14-8): the intact parts of its local and of its hosted banks, and the newest checkpoint that it has seen
committed (log entry 121). -/
structure HaltedRep where
  job : Nat
  attempt : Nat
  address : Nat
  locals : List PartHeld
  hosted : List PartHeld
  committed : Option Nat := none
deriving DecidableEq, Repr

/-- An exclusion of a RESTART with REPLAY (R407). -/
structure Exclusion where
  step : Nat
  chan : Nat
  idx : Nat
  role : Nat
deriving DecidableEq, Repr

/-- What the coordinator of a restart decides (R407, R409 to R412): the attempt that halted, the version restored (none: the initial
weights), the substitutions as (role, new address), whether the version is the external one that a RESTART named, and the end version and
exclusions of a replay. -/
structure Assignment where
  attempt : Nat
  version : Option Nat
  subst : List (Nat × Nat)
  external : Bool
  replay : Option Nat := none
  exclusions : List Exclusion := []
  /-- Roles whose part comes from the hosted bank of their partner (R412). -/
  hosted : List Nat := []
deriving DecidableEq, Repr

/-- How the settle of a halted job ends on a device (R408): the coordinator decides, or its decision arrives at a member. -/
inductive SettleMsg where
  | decide
  | assigned (a : Assignment)
  | stopped (code : Nat)
deriving DecidableEq, Repr

/-- Checkpoint manifest (Table 14-7). -/
structure Manifest where
  job : Nat
  form : Nat
  version : Nat
  u : Nat
  e : Int
  growth : Nat
  planDigest : Digest
  mapDigest : Digest
  histDigest : Digest
  ckptBeat : Nat
  seed : DWord
  sampleFirst : Nat
  carryPending : Bool
  recovery : Bool
  attempt : Nat
  /-- MB: the first micro-batch to run. -/
  mb : BitVec 16 := 0
deriving DecidableEq, Repr

/-- What a member restores its part from (R258, R412, R413): the part's bytes when they come from a hosted bank or operator storage, and
the manifest when it is delivered with the part. -/
structure RestoreSrc where
  part : Option (List Byte) := none
  manifest : Option Manifest := none
deriving DecidableEq, Repr

/-- The three per-row loss-exchange records (Table 7-9). -/
inductive LossExch where
  | maxima (u z t : NumLit) (status : Byte)
  | sums (q s1 p : NumLit)
  | partials (kl ce : NumLit) (status : Byte)
deriving DecidableEq, Repr

/-- Pooling modes of a bag (Table 6-4). -/
inductive Pool where
  | sum | mean | max | wsum
deriving DecidableEq, Repr

/-- One accumulator element: the 640-bit value whose least significant bit weighs 2^−298 and its status bits (R78), with the class of
its chain; the content of a raw accumulator record (Table 3-3). The defaults are the empty element. -/
structure RawRec where
  acc : BitVec 640 := 0
  nan : Bool := false
  inv : Bool := false
  pinf : Bool := false
  ninf : Bool := false
  negz : Bool := true
  cls : BitVec 2 := 0
deriving DecidableEq, Repr

/-- A partial bag result from another device (R179). -/
inductive BagPartial where
  | raw (valid : Nat) (els : List RawRec)
  | max (valid : Nat) (els : List Word) (nan : Bool)
deriving DecidableEq, Repr

/-- A row-sparse gradient list (R249) with its contribution count (R289). -/
structure SparseList where
  step : Nat
  source : Nat
  nonfinite : Bool
  rows : List (Nat × List Word)
  count : Nat := 1
deriving DecidableEq, Repr

/-! ## Security objects (15) -/

/-- Tensor entry of a Husk (Table 15-8). -/
structure HuskTensor where
  tensorId : Nat
  fmtd : BitVec 8
  table : Bool
  off : Nat
  bytes : Nat
deriving DecidableEq, Repr

/-- A chunk of a Husk (R437): its granule, its ciphertext and its tag. -/
structure HuskChunk where
  n : Nat
  data : List Byte
  tag : BitVec 128
deriving DecidableEq, Repr

/-- A recipient of a Husk (Table 15-7). -/
structure HuskRecipient where
  device : Digest
  kemCt : List Byte
  wrapped : List Byte
deriving DecidableEq, Repr

/-- A Husk (R434): the bytes of its header, of the licensor's signature, and of its recipient and tensor tables, its chunks in the order of delivery,
and the signature as the device judges it under the key that LICENSOR names. -/
structure Husk where
  header : List Byte
  signature : List Byte
  recipTable : List Byte
  tensorTable : List Byte
  chunks : List HuskChunk
  sig : SigInfo
deriving DecidableEq, Repr

/-- A meter grant (R447). -/
structure Grant where
  huskId : Digest
  deviceId : Digest
  seq : Nat
  limit : Nat
  signer : Digest
  sig : SigInfo
  reservedOk : Bool
deriving DecidableEq, Repr

/-- One state of a mask automaton (Table 11-5): bitmap index, default next state, exceptions (token, next). Next state 0xFFFF_FFFE is ACCEPT. -/
structure MaskState where
  mask : Nat
  dflt : Nat
  exc : List (Nat × Nat)
deriving DecidableEq, Repr

/-- A mask object (Table 11-4); a bitmap is the list of tokens it allows, in ascending order. -/
structure MaskObj where
  automaton : Bool
  vocab : Nat
  start : Nat
  states : List MaskState
  bitmaps : List (List Nat)
deriving DecidableEq, Repr

/-- A summary as the device knows it: the record of Table 11-10 with the bytes it occupies; the context whose pool holds it and its offset in the
Cellar (log entry 96); `client`, the CLIENT whose request was paused (R433), none for an imported summary, whose record names none; and the tokens of
positions 0 to LENGTH with their marks of Table 11-11 (R327). -/
structure Summary where
  client : Option Nat := none
  ctx : Fin 8 := 0
  at_ : Nat := 0
  toks : List (Nat × Nat) := []
  conv : DWord
  length : Nat
  lastToken : Nat
  sink : Nat
  recent : Nat
  adapter : Nat
  adapterVer : Nat
  keptBeat : Nat
  planDigest : Digest
  digest : Digest
  bytes : Nat
deriving DecidableEq, Repr

/-- An adapter object (Table 17-5). -/
structure AdapterObj where
  ident : Nat
  version : Nat
  rank : Nat
  teacher : Bool
  weights : List Byte := []
deriving DecidableEq, Repr

/-! ## Serving (11) -/

/-- Output-ring record (Table 11-7). -/
structure RingRec where
  type : Nat
  flags : Nat
  code : Nat
  pos : Nat
  value : Nat
  aux : Nat
deriving DecidableEq, Repr

/-- A request as its slot holds it (Table 11-1). -/
structure Request where
  reqId : Nat := 0
  client : Nat := 0
  kind : Nat := 1
  cls : Nat := 0
  model : Nat := 0
  accept : Nat := 1
  draft : Nat := 0
  flags : Nat := 0
  mask : Nat := 0
  maskId : Nat := 0
  invT : Word := 0
  seed : Nat := 0
  deadline : Nat := 0
  conv : Nat := 0
  adapter : Nat := 0xFFFF
  tAdapter : Nat := 0xFFFF
  maxTok : Nat := 1
  stop : Nat := 0xFFFFFFFF
  nTok : Nat := 1
  ringLog2 : Nat := 6
  reserved : Bool := true
  tokens : List Nat := []
  cands : List (Nat × Nat) := []
deriving DecidableEq, Repr

/-- Scores of a ranking request (R328): the student's by candidate, and the teacher's by candidate. -/
structure RankScores where
  slot : Nat
  student : List Word
  buffer : Nat
deriving DecidableEq, Repr

/-! ## Frames the device sends (17) -/

/-- Detail record of a MGMT report (R503). -/
inductive ReportDetail where
  | none
  | join (r : JoinRec)
  | restart (job : Nat) (f : Option FaultRec) (lost : List Nat) (a : Assignment) (sampleFirst : Nat) (recovery : Bool)
  | fault (f : FaultRec)
  | info (v : List Nat)
deriving DecidableEq, Repr

/-- A MGMT report: status code, reporting address, detail (R503). -/
structure Report where
  code : Nat
  addr : Nat
  detail : ReportDetail
deriving DecidableEq, Repr

/-- An upper-level public key of the identity key with its signature (R419, R422): the number of the tree in its level, its root, and the
identifier, and the randomiser and the values and path of the signature by the leaf of that number one level above. -/
structure UpperKey where
  tree : Nat
  root : Digest
  ident : BitVec 128
  c : Digest
  value : List Byte
deriving DecidableEq, Repr

/-- An identity signature (R419): the bottom leaf, its randomiser, its values and path, and the signed public keys of levels 1 and 2. -/
structure HssSig where
  leaf : Nat
  c : Digest
  value : List Byte
  level1 : Option UpperKey
  level2 : Option UpperKey
deriving DecidableEq, Repr

/-- Attestation report (Table 15-3): the fields that are not fixed, and its signature. -/
structure AttestRep where
  flags : Nat
  nonce : Digest
  fwDigest : Digest
  fwVersion : Nat
  fwSvn : Nat
  fwSvnMin : Nat
  imageSvn : Nat
  imageDigest : Digest
  owner : Digest
  joinDigest : Digest
  husk : Digest
  spent : Nat
  reserved : Nat
  limit : Nat
  grantSeq : Nat
  address : Nat
  state : Nat
  beat : Nat
  leaf : Nat
  challenge : Digest
  signature : Option HssSig := none
deriving DecidableEq, Repr

/-- What a sealed data frame from the device carries. -/
inductive FrameOut where
  | status (cls code target psn : Nat)
  | opened (code : Nat)
  | stream (target index : Nat) (recs : List RingRec)
  | report (r : Report)
  | values (v : List Nat)
  | ckpt (role block : Nat) (exportId : Digest) (data : List Byte) (last : Bool)
  | manifest (m : Manifest)
  | summary (block : Nat) (exportId : Digest) (data : List Byte) (last : Bool)
deriving DecidableEq, Repr

/-! ## Frames that sessions deliver (17) -/

/-- Body of a session's data frame, by class and subtype (Tables 17-3, 17-5). An object class carries the object its series holds, used when
the frame is its last. -/
inductive FrameBody where
  | sample (ctx slot id : Nat) (data : List Byte)
  | req (ctx slot : Nat) (data : List Byte)
  | ack (ctx slot cons : Nat)
  | prove (proof : Proof) (sig : SigInfo)
  | close
  | cancel (ctx slot : Nat)
  | resume (ctx slot : Nat)
  | switch (entry : Nat)
  | restart (job : Nat) (replay : Bool) (vEnd : Nat) (external : Option Nat) (excl : List Exclusion)
  | rejoin
  | drain
  | ticket (client : Nat) (key : Digest)
  | storageKey (key : Digest)
  | pfcSet (on : Bool) (prio : Nat)
  | husk (h : Husk)
  | huskRemove (id : Digest)
  | meterGrant (g : Grant)
  | adapterLoad (a : AdapterObj)
  | adapterRemove (ident : Nat) (teacher : Bool)
  | maskLoad (id : Nat) (data : List Byte)
  | maskRemove (id : Nat)
  | summaryExport (conv : Nat)
  | summaryImport (exportId : Digest) (data : List Byte) (tags : List (BitVec 128))
  | summaryDrop (conv : Nat)
  | ownerTransfer (next signer : Digest) (sig : SigInfo)
  | read (off count : Nat) (meas : List Nat)
  | fwBank (f : Firmware)
  | imageBank (i : Image)
  | planSlot (slot : Nat) (p : Plan)
  | planForSwitch (p : Plan)
  | ckpt (job role : Nat) (exportId : Digest) (part : List Byte) (manifest : Option Manifest) (tags : List (BitVec 128))
deriving DecidableEq, Repr

end Sys2Proof
end

