-- ==== Sys2Proof/Syntax.lean ====
section
/-!
DEFINITION. The commands: one constructor per row of the table of operations and events, with the operands each carries. A sequencer
instruction names the core and context slot that issue it and carries the fields of its format (Tables 4-2 to 4-10); an event carries what
the outside delivers with it.
-/

namespace Sys2Proof

inductive Instr where
  -- sequencer instructions (R106, Table 4-3)
  | nop (at_ : Site) (p : Pred)
  | endProg (at_ : Site) (p : Pred)
  | tend (at_ : Site) (p : Pred)
  | br (at_ : Site) (p : Pred) (imm : Word)
  | loop (at_ : Site) (p : Pred) (ga : Fin 32) (imm : Word) (endIdx : BitVec 12)
  | endloop (at_ : Site) (p : Pred)
  | movi (at_ : Site) (p : Pred) (gd : Fin 32) (imm : Word)
  | add (at_ : Site) (p : Pred) (gd ga gb : Fin 32) (imm : Word)
  | sub (at_ : Site) (p : Pred) (gd ga gb : Fin 32) (imm : Word)
  | mul (at_ : Site) (p : Pred) (gd ga gb : Fin 32) (imm : Word)
  | and (at_ : Site) (p : Pred) (gd ga gb : Fin 32) (imm : Word)
  | or (at_ : Site) (p : Pred) (gd ga gb : Fin 32) (imm : Word)
  | xor (at_ : Site) (p : Pred) (gd ga gb : Fin 32) (imm : Word)
  | shl (at_ : Site) (p : Pred) (gd ga gb : Fin 32) (imm : Word)
  | shr (at_ : Site) (p : Pred) (gd ga gb : Fin 32) (imm : Word)
  | cmp (at_ : Site) (p : Pred) (gd : Fin 32) (cond : CmpCond) (ga gb : Fin 32) (imm : Word)
  | lds (at_ : Site) (p : Pred) (gd ga : Fin 32) (imm : Word)
  | sts (at_ : Site) (p : Pred) (ga gb : Fin 32) (imm : Word)
  | cset (at_ : Site) (p : Pred) (c : Fin 32) (gb : Fin 32) (imm : Word)
  | cinc (at_ : Site) (p : Pred) (c : Fin 32) (gb : Fin 32) (imm : Word)
  | wait (at_ : Site) (p : Pred) (c : Fin 32) (gb : Fin 32) (imm : Word)
  | crd (at_ : Site) (p : Pred) (gd : Fin 32) (c : Fin 32)
  | waitb (at_ : Site) (p : Pred) (ga gb : Fin 32) (imm : Word)
  | beatrd (at_ : Site) (p : Pred) (gd : Fin 32)
  | flagrc (at_ : Site) (p : Pred) (gd gb : Fin 32) (imm : Word)
  | tdld (at_ : Site) (p : Pred) (td : Fin 64) (imm : Word)
  | tdadd (at_ : Site) (p : Pred) (td : Fin 64) (field : TdField) (ga : Fin 32) (imm : Word)
  | mma (at_ : Site) (p : Pred) (tda tdb tdc : Fin 64) (set arr : Fin 2) (mode : AccMode) (cnt : CntSel)
  | mmat (at_ : Site) (p : Pred) (tda tdb tdc : Fin 64) (set arr : Fin 2) (mode : AccMode) (cnt : CntSel)
  | mtwin (at_ : Site) (p : Pred) (tdg tdw tdx : Fin 64) (set0 set1 : Fin 2) (acc0 acc1 : Bool) (cnt : CntSel)
  | mrd (at_ : Site) (p : Pred) (tdc : Fin 64) (set arr : Fin 2) (cnt : CntSel) (gstep : Fin 32)
  | mrdp (at_ : Site) (p : Pred) (tda tdc : Fin 64) (set arr : Fin 2) (cnt : CntSel) (gstep : Fin 32)
  | msav (at_ : Site) (p : Pred) (tdc : Fin 64) (set arr : Fin 2) (cnt : CntSel)
  | vsetl (at_ : Site) (p : Pred) (gb : Fin 32) (imm : Word)
  -- vector operations (R140, Tables 5-3, 5-5, 5-8, 5-9)
  | vmov (at_ : Site) (p : Pred) (o : VOp)
  | vadd (at_ : Site) (p : Pred) (o : VOp)
  | vsub (at_ : Site) (p : Pred) (o : VOp)
  | vmul (at_ : Site) (p : Pred) (o : VOp)
  | vfma (at_ : Site) (p : Pred) (o : VOp)
  | vmin (at_ : Site) (p : Pred) (o : VOp)
  | vmax (at_ : Site) (p : Pred) (o : VOp)
  | vabs (at_ : Site) (p : Pred) (o : VOp)
  | vneg (at_ : Site) (p : Pred) (o : VOp)
  | vclt (at_ : Site) (p : Pred) (o : VOp)
  | vceq (at_ : Site) (p : Pred) (o : VOp)
  | vsel (at_ : Site) (p : Pred) (o : VOp)
  | vrint (at_ : Site) (p : Pred) (o : VOp)
  | vperm (at_ : Site) (p : Pred) (o : VOp)
  | vrcpe (at_ : Site) (p : Pred) (o : VOp)
  | vrsqe (at_ : Site) (p : Pred) (o : VOp)
  | vexp2f (at_ : Site) (p : Pred) (o : VOp)
  | vlog2f (at_ : Site) (p : Pred) (o : VOp)
  | vexp (at_ : Site) (p : Pred) (o : VOp)
  | vexp2 (at_ : Site) (p : Pred) (o : VOp)
  | vlog (at_ : Site) (p : Pred) (o : VOp)
  | vlog2 (at_ : Site) (p : Pred) (o : VOp)
  | vdiv (at_ : Site) (p : Pred) (o : VOp)
  | vsqrt (at_ : Site) (p : Pred) (o : VOp)
  | vrsqrt (at_ : Site) (p : Pred) (o : VOp)
  | vrcp (at_ : Site) (p : Pred) (o : VOp)
  | vsigmoid (at_ : Site) (p : Pred) (o : VOp)
  | vtanh (at_ : Site) (p : Pred) (o : VOp)
  | vsilu (at_ : Site) (p : Pred) (o : VOp)
  | vgelu (at_ : Site) (p : Pred) (o : VOp)
  | vrsum (at_ : Site) (p : Pred) (o : VOp)
  | vrmax (at_ : Site) (p : Pred) (o : VOp)
  | vsoftmax (at_ : Site) (p : Pred) (o : VOp)
  | vlogsoftmax (at_ : Site) (p : Pred) (o : VOp)
  | vrmsnorm (at_ : Site) (p : Pred) (o : VOp)
  | vlnorm (at_ : Site) (p : Pred) (o : VOp)
  | vdsigmoid (at_ : Site) (p : Pred) (o : VOp)
  | vdtanh (at_ : Site) (p : Pred) (o : VOp)
  | vdsilu (at_ : Site) (p : Pred) (o : VOp)
  | vdgelu (at_ : Site) (p : Pred) (o : VOp)
  | vdsoftmax (at_ : Site) (p : Pred) (o : VOp)
  | vdrmsnorm (at_ : Site) (p : Pred) (o : VOp)
  | vdlnorm (at_ : Site) (p : Pred) (o : VOp)
  -- transfers
  | dma (at_ : Site) (p : Pred) (td : Fin 64) (gh : Fin 32) (region : Fin 16) (toHbm : Bool) (hstride : BitVec 16) (cnt : CntSel)
  | lsend (at_ : Site) (p : Pred) (td : Fin 64) (chan : BitVec 16) (cnt : CntSel)
  | lrecv (at_ : Site) (p : Pred) (td : Fin 64) (chan : BitVec 16) (cnt : CntSel)
  | lred (at_ : Site) (p : Pred) (td : Fin 64) (chan : BitVec 16) (cnt : CntSel)
  | stsend (at_ : Site) (p : Pred) (td : Fin 64) (buffer : BitVec 16) (cnt : CntSel)
  -- events of the core
  | engineInstrComplete (core : Nat) (engine : Engine)
  | lrecvFilled (at_ : Site) (chan : BitVec 16) (data : List Byte)
  | waitSatisfied (at_ : Site)
  | waitExpired (at_ : Option Site)
  | startQueueDequeue (at_ : Site)
  | startQueueAppendHeld (at_ : Site)
  -- the beat (13)
  | beatBoundary
  | beatMarker (port lane : Nat) (m : BeatMarker) (frac : Fin 8)
  | beatFailover
  | linkDelayProbe (port lane roundTrip turnaround : Nat)
  | sourceLock (ptpNs : Nat)
  | sourceLockLoss
  | beatPpsIn (err : Int)
  | ptpSync (domain : Nat) (offset : Int)
  -- the Vine, links and formation (13, 16)
  | enum (f : EnumIn)
  | strap (entries : List Straps)
  | ebeat (count : Nat)
  | vineState (entries : List Nat)
  | ping (j : Nat)
  | xfer (x : Xfer) (crc : Word) (sig : BankSig)
  | enumTimeout
  | enumRepeat
  | podFaultN (cycles start : Nat)
  | hello (port lane : Nat) (h : Hello)
  | helloSend
  | formationPhaseStart (p : PhaseStart)
  | joinRecord (r : JoinRec)
  | lockRecord (devices : List Nat)
  | announcement (a : Announce)
  | joinBeat
  | joinTimeout
  -- steps, commits and checkpoints (09, 14)
  | ready (origin : Nat) (r : ReadyRec)
  | commitMarker (m : Marker)
  | commitTimeout (job : Nat)
  | commitBeat (job : Nat)
  | hostedCopyAck (job version : Nat)
  | startReady (job origin : Nat)
  | startRecord (job form beat : Nat)
  | startBeat (job : Nat)
  -- gradient exchange and updates (09, 10)
  | chunk (m : Sent Chunk)
  | stragglerDeadline (chan idx : Nat)
  | exchTimeout (chan : Nat)
  | fuuUpdate (chan : Nat)
  | parameterChunk (m : Sent ParamChunk)
  | receiptStart (stage : Nat)
  | sparseList (chan : Nat) (l : SparseList)
  -- the Stem and the Loss Stage (07), lookups (06) and pipeline appends (08)
  | stemPacketStart (port : Fin 4)
  | stemArrival (buffer : Nat)
  | creditReturn (buffer : Nat)
  | lossJobStart (id step mb : Nat)
  | lossExchange (id mb row origin : Nat) (x : LossExch)
  | lossJobComplete
  | acceptanceJob (ctx : Fin 8) (slot : Nat)
  | draftSample (ctx : Fin 8) (slot id row : Nat)
  | lookupJob (msd : Fin 6) (list : BagSrc) (bags chan statusOff doneCnt : Nat)
  | remoteLookup (msd : Fin 6) (origin serial bag table : Nat) (pool : Pool) (rows : List (Nat × Word))
  | remotePartial (serial bag dev : Nat) (p : BagPartial)
  | forwardAppend (stage step mb layer : Nat)
  | backwardAppend (stage step mb layer : Nat)
  -- serving (11, 12)
  | compose (ctx : Fin 8)
  | batchStepEnd (ctx : Fin 8) (id : Nat) (ranks : List RankScores)
  | deadline (ctx : Fin 8) (slot : Nat)
  | ringHold (ctx : Fin 8) (slot : Nat)
  | pauseComplete (ctx : Fin 8) (slot core entry : Nat)
  | summaryTtl (conv : Nat)
  | accountingWindow
  -- frames and the Ethernet port (17)
  | sample (f : Frame) (ctx slot sampleId : Nat) (data : List Byte)
  | req (f : Frame) (ctx slot : Nat) (data : List Byte)
  | ack (f : Frame) (ctx slot cons : Nat)
  | ackOnly (f : Frame)
  | ackOnlySend (session : Nat)
  | retransmitTimeout (session psn : Nat)
  | sessionIdleTimeout (session : Nat)
  | pcsSearch
  | alignmentLoss
  | pfcFrame (prio quanta : Nat)
  | addressDuplicate (kind : Fin 3)
  | init (authority : Authority) (client : Nat) (x : InitKeys) (kemOk reservedOk busy : Bool)
  | prove (f : Frame) (proof : Proof) (sig : SigInfo)
  | close (f : Frame)
  | cancel (f : Frame) (ctx slot : Nat)
  | streamResume (f : Frame) (ctx slot : Nat)
  | switch (f : Frame) (entry : Nat)
  | drainComplete
  | drainTimeout
  | restart (f : Frame) (job : Nat) (replay : Bool) (vEnd : Nat) (ext : Option Nat) (excl : List Exclusion)
  | rejoin (f : Frame)
  | drain (f : Frame)
  | ticket (f : Frame) (client : Nat) (key : Digest)
  | storageKey (f : Frame) (key : Digest)
  | pfcSet (f : Frame) (on : Bool) (prio : Nat)
  | husk (f : Frame) (h : Husk)
  | peerLoad (dst : Option Nat) (h : Husk) (srcs : List (List HuskChunk))
  | huskRemove (f : Frame) (id : Digest)
  | meterGrant (f : Frame) (g : Grant)
  | meterRequest (st : Fin 10)
  | adapterLoad (f : Frame) (a : AdapterObj)
  | adapterRemove (f : Frame) (ident : Nat) (teacher : Bool)
  | maskLoad (f : Frame) (id : Nat) (data : List Byte)
  | maskRemove (f : Frame) (id : Nat)
  | summaryExport (f : Frame) (conv : Nat)
  | summaryImport (f : Frame) (exportId : Digest) (data : List Byte) (tags : List (BitVec 128))
  | summaryDrop (f : Frame) (conv : Nat)
  | ownerClaim (r : OwnerClaim) (sig : SigInfo) (reservedOk : Bool)
  | ownerTransfer (f : Frame) (next signer : Digest) (sig : SigInfo)
  | read (f : Frame) (off count : Nat) (meas : List Nat)
  -- registers, NVM and objects (15 to 18)
  | errRejectNew (events : Nat)
  | firmwareBank (f : Frame) (fw : Firmware)
  | imageBank (f : Frame) (i : Image)
  | planSlot (f : Frame) (slot : Nat) (p : Plan)
  | planForSwitch (f : Frame) (p : Plan)
  | bankWriteComplete
  | ckpt (f : Frame) (job role : Nat) (exportId : Digest) (part : List Byte) (m : Option Manifest) (tags : List (BitVec 128))
  | attest (q : AttestReq) (reservedOk busy : Bool)
  | keyDerivation
  -- faults and restarts (14), the journal (16)
  | faultNotice (from_ job attempt : Nat) (f : FaultRec)
  | haltedReport (r : HaltedRep)
  | haltSettle (job : Nat) (m : SettleMsg)
  | restoreComplete (job from_ : Nat) (src : RestoreSrc) (recovery : Bool)
  | restoreTimeout (job : Nat)
  | journalDurable (burnOk : Bool)
  | compaction
  | compactionComplete
  -- power, reset and temperature (19, 16)
  | pwrEnRise (lowMs : Nat)
  | pwrEnFall
  | resetNAssert
  | resetNRise (st : Straps) (nvmPresN torn : Bool)
  | bootConfigure
  | vinOutOfRange
  | vinRecovery
  | pwrcapNFall
  | pwrcapNRise
  | thermAlert
  | thermAlertRelease
  | thermalTrip (idx : Nat)
  | thermalShutdown
  | hbmUncorrectable (addr : Nat)
  | sramUncorrectable (unit : Nat)
  | linkDown (port lane : Nat)
  | localCopyComplete (job : Nat)
  | hostedCopy (job role version : Nat) (part : List Byte)
  | rowShadowCopyComplete (table : Nat)
  | halfEraseComplete
  | joinableLimit
  | pcsAlignmentLock
  | osfpModuleEvent (present appOk dpFault : Bool) (modState dpState : Nat)
  | pfcPauseExpiry
deriving DecidableEq, Repr

end Sys2Proof
end

