-- ==== Sys2Proof/Decode.lean ====
section
/-!
DEFINITION. The command that a 64-bit instruction word of a core program spells (Tables 4-2 to 4-10, 5-1), and the command that a word spells by
the bits of the table of operations and events: no row of that table has bits, so none (log entry 16).
-/

namespace Sys2Proof.Machine

/-! ## Instruction words (Tables 4-2, 4-4 to 4-10) -/

/-- Bits [lo + n − 1 : lo] of a 64-bit word. -/
def bf (w : DWord) (lo n : Nat) : Nat := w.toNat / 2 ^ lo % 2 ^ n

def wOp (w : DWord) : Nat := bf w 56 8
def wPred (w : DWord) : Nat := bf w 53 3
def wPneg (w : DWord) : Bool := bf w 52 1 == 1
def wImm (w : DWord) : Nat := bf w 0 32
def wGd (w : DWord) : Nat := bf w 47 5
def wGa (w : DWord) : Nat := bf w 42 5
def wGb (w : DWord) : Nat := bf w 37 5
def wSub (w : DWord) : Nat := bf w 32 5
def wTd (w : DWord) : Nat := bf w 46 6
def wTdb (w : DWord) : Nat := bf w 40 6
def wTdc (w : DWord) : Nat := bf w 34 6
/-- Execution is not conditional (Table 4-2). -/
def wAlways (w : DWord) : Bool := wPred w == 0 && !wPneg w
def wNever (w : DWord) : Bool := wPred w == 0 && wPneg w
def wMode (w : DWord) : Nat := bf w 30 2
def wChan (w : DWord) : Nat := bf w 30 16
def wVfunc (w : DWord) : Nat := bf w 44 6
def wBsrc (w : DWord) : Nat := bf w 50 2
def wTdd (w : DWord) : Nat := bf w 38 6
def wVa (w : DWord) : Nat := bf w 32 6
def wVb (w : DWord) : Nat := bf w 26 6
def wGs (w : DWord) : Nat := bf w 21 5
def wImm16 (w : DWord) : Nat := bf w 0 16

/-- Opcodes of Table 4-3. -/
def opcodes : List Nat :=
  [0x00, 0x01, 0x02, 0x03, 0x04, 0x05, 0x10, 0x11, 0x12, 0x13, 0x14, 0x15, 0x16, 0x17, 0x18, 0x19, 0x1A, 0x20, 0x21, 0x22, 0x23, 0x24, 0x25,
   0x26, 0x27, 0x30, 0x31, 0x40, 0x41, 0x42, 0x43, 0x44, 0x45, 0x50, 0x51, 0x60, 0x70, 0x71, 0x72, 0x73]

/-- A nonzero reserved field, or a field that Table 4-7 says is 0. HSTRIDE = 0 is none (log entry 105). -/
def wReserved (w : DWord) : Bool :=
  let op := wOp w
  if op == 0x30 || op == 0x31 then bf w 32 7 != 0
  else if op == 0x40 || op == 0x41 then bf w 0 20 != 0
  else if op == 0x42 then bf w 0 25 != 0
  else if op == 0x43 || op == 0x45 then bf w 0 20 != 0 || wTd w != 0 || wTdb w != 0 || wMode w != 0
  else if op == 0x44 then bf w 0 20 != 0 || wTdb w != 0 || wMode w != 0
  else if op == 0x60 then bf w 0 15 != 0
  else if op == 0x70 || op == 0x71 || op == 0x72 || op == 0x73 then bf w 0 25 != 0
  else false

/-! ## The command that a word spells -/

/-- A field of a word as a bounded number. -/
def bfin (w : DWord) (lo n : Nat) : Fin (2 ^ n) := ⟨bf w lo n, Nat.mod_lt _ (Nat.two_pow_pos n)⟩

def wPredOf (w : DWord) : Pred := ⟨bfin w 53 3, wPneg w⟩
def wImmOf (w : DWord) : Word := BitVec.ofNat 32 (wImm w)
/-- CNT and CNTEN of formats M, W and L. -/
def wCntM (w : DWord) : CntSel := ⟨bfin w 26 4, bf w 25 1 == 1⟩
/-- CNT and CNTEN of format V. -/
def wCntV (w : DWord) : CntSel := ⟨bfin w 17 4, bf w 16 1 == 1⟩
/-- CNT and CNTEN of format D. -/
def wCntD (w : DWord) : CntSel := ⟨bfin w 32 4, bf w 31 1 == 1⟩
def wChanOf (w : DWord) : BitVec 16 := BitVec.ofNat 16 (wChan w)

/-- CMP conditions (Table 4-5); the others are reserved. -/
def cmpCondOf : Nat → Option CmpCond
  | 0 => some .eq | 1 => some .ne | 2 => some .ltu | 3 => some .geu | 4 => some .lts | 5 => some .ges | _ => none

/-- FIELD of Table 4-6. -/
def tdFieldOf : Nat → TdField
  | 0 => .base | 1 => .scaleBase | 2 => .indexBase | _ => .tensorId

/-- ACCMODE of Table 4-7. -/
def accModeOf : Nat → AccMode
  | 0 => .empty | 1 => .continue | 2 => .addend | _ => .raw

/-- BSRC of Table 5-1. -/
def bsrcOf : Nat → BSrc
  | 0 => .none | 1 => .tensor | 2 => .reg | _ => .imm

/-- The operand fields of format V (Table 4-9). -/
def wVOp (w : DWord) : VOp :=
  { bsrc := bsrcOf (wBsrc w), tdd := bfin w 38 6, tda := bfin w 32 6, tdb := bfin w 26 6, gs := bfin w 21 5, cnt := wCntV w,
    imm16 := BitVec.ofNat 16 (wImm16 w) }

/-- The vector operation of an OP code (Tables 5-3, 5-5, 5-8, 5-9); the others are reserved. -/
def vopOf : Nat → Option (Site → Pred → VOp → Instr)
  | 0x00 => some .vmov | 0x01 => some .vadd | 0x02 => some .vsub | 0x03 => some .vmul | 0x04 => some .vfma | 0x05 => some .vmin
  | 0x06 => some .vmax | 0x07 => some .vabs | 0x08 => some .vneg | 0x09 => some .vclt | 0x0A => some .vceq | 0x0B => some .vsel
  | 0x0C => some .vrint | 0x28 => some .vperm | 0x10 => some .vrcpe | 0x11 => some .vrsqe | 0x12 => some .vexp2f | 0x13 => some .vlog2f
  | 0x18 => some .vexp | 0x19 => some .vexp2 | 0x1A => some .vlog | 0x1B => some .vlog2 | 0x1C => some .vdiv | 0x1D => some .vsqrt
  | 0x1E => some .vrsqrt | 0x1F => some .vrcp | 0x20 => some .vsigmoid | 0x21 => some .vtanh | 0x22 => some .vsilu | 0x23 => some .vgelu
  | 0x30 => some .vrsum | 0x31 => some .vrmax | 0x34 => some .vsoftmax | 0x35 => some .vlogsoftmax | 0x36 => some .vrmsnorm
  | 0x37 => some .vlnorm | 0x38 => some .vdsigmoid | 0x39 => some .vdtanh | 0x3A => some .vdsilu | 0x3B => some .vdgelu
  | 0x3C => some .vdsoftmax | 0x3D => some .vdrmsnorm | 0x3E => some .vdlnorm
  | _ => none

/-- Format S (Table 4-4); `endIdx` is the place of the ENDLOOP that the verifier matches to a LOOP (R108). -/
def decodeS (a : Site) (endIdx : BitVec 12) (w : DWord) : Option Instr :=
  let p := wPredOf w
  let gd : Fin 32 := bfin w 47 5
  let ga : Fin 32 := bfin w 42 5
  let gb : Fin 32 := bfin w 37 5
  let sub : Fin 32 := bfin w 32 5
  let imm := wImmOf w
  match wOp w with
  | 0x00 => some (.nop a p)
  | 0x01 => some (.endProg a p)
  | 0x02 => some (.tend a p)
  | 0x03 => some (.br a p imm)
  | 0x04 => some (.loop a p ga imm endIdx)
  | 0x05 => some (.endloop a p)
  | 0x10 => some (.movi a p gd imm)
  | 0x11 => some (.add a p gd ga gb imm)
  | 0x12 => some (.sub a p gd ga gb imm)
  | 0x13 => some (.mul a p gd ga gb imm)
  | 0x14 => some (.and a p gd ga gb imm)
  | 0x15 => some (.or a p gd ga gb imm)
  | 0x16 => some (.xor a p gd ga gb imm)
  | 0x17 => some (.shl a p gd ga gb imm)
  | 0x18 => some (.shr a p gd ga gb imm)
  | 0x19 => (cmpCondOf sub.val).map fun c => .cmp a p gd c ga gb imm
  | 0x1A => some (.lds a p gd ga imm)
  | 0x20 => some (.sts a p ga gb imm)
  | 0x21 => some (.cset a p sub gb imm)
  | 0x22 => some (.cinc a p sub gb imm)
  | 0x23 => some (.wait a p sub gb imm)
  | 0x24 => some (.crd a p gd sub)
  | 0x25 => some (.waitb a p ga gb imm)
  | 0x26 => some (.beatrd a p gd)
  | 0x27 => some (.flagrc a p gd gb imm)
  | 0x51 => some (.vsetl a p gb imm)
  | _ => none

/-- Formats T, M, W, V, D and L (Tables 4-6 to 4-10). -/
def decodeEng (a : Site) (w : DWord) : Option Instr :=
  let p := wPredOf w
  let td : Fin 64 := bfin w 46 6
  let tdb : Fin 64 := bfin w 40 6
  let tdc : Fin 64 := bfin w 34 6
  let set : Fin 2 := bfin w 33 1
  let arr : Fin 2 := bfin w 32 1
  let cnt := wCntM w
  match wOp w with
  | 0x30 => some (.tdld a p td (wImmOf w))
  | 0x31 => some (.tdadd a p td (tdFieldOf (bf w 39 2)) (bfin w 41 5) (wImmOf w))
  | 0x40 => some (.mma a p td tdb tdc set arr (accModeOf (wMode w)) cnt)
  | 0x41 => some (.mmat a p td tdb tdc set arr (accModeOf (wMode w)) cnt)
  | 0x42 => some (.mtwin a p td tdb tdc set arr (bf w 31 1 == 1) (bf w 30 1 == 1) cnt)
  | 0x43 => some (.mrd a p tdc set arr cnt (bfin w 20 5))
  | 0x44 => some (.mrdp a p td tdc set arr cnt (bfin w 20 5))
  | 0x45 => some (.msav a p tdc set arr cnt)
  | 0x50 => (vopOf (wVfunc w)).map fun f => f a p (wVOp w)
  | 0x60 => some (.dma a p td (bfin w 41 5) (bfin w 37 4) (bf w 36 1 == 1) (BitVec.ofNat 16 (bf w 15 16)) (wCntD w))
  | 0x70 => some (.lsend a p td (wChanOf w) cnt)
  | 0x71 => some (.lrecv a p td (wChanOf w) cnt)
  | 0x72 => some (.lred a p td (wChanOf w) cnt)
  | 0x73 => some (.stsend a p td (wChanOf w) cnt)
  | _ => none

/-- The command that an instruction word at a core and context slot spells; none for a reserved opcode, condition or operation code, or a
nonzero reserved field (R105, R106, R140). -/
def decodeWord (a : Site) (endIdx : BitVec 12) (w : DWord) : Option Instr :=
  if wReserved w then none else (decodeS a endIdx w).or (decodeEng a w)

end Sys2Proof.Machine

namespace Sys2Proof

def decodeTableWord (_nbits _w : Nat) : Option Instr := none

end Sys2Proof
end

