-- ==== Sys2Proof/Machine/Num.lean ====
section
/-!
DEFINITION. Storage formats, decoding, the three roundings, block scaling, the counter-based generator, compensated pairs and split
products (chapter 02). Values are exact rationals; a rounding answers the encoding and the numeric flags it raises.
-/

namespace Sys2Proof.Machine

/-- A value of the internal common form (R57): class zero, finite nonzero, infinity or NaN. `fin` holds a nonzero exact value. -/
inductive Num where
  | nan
  | inf (neg : Bool)
  | zero (neg : Bool)
  | fin (v : Rat)
deriving DecidableEq, Repr

/-- Numeric flags as the bits of the flag word of Table 2-8. -/
abbrev Flags := Word
def flNanIn : Flags := 1
def flInvalid : Flags := 2
def flOvf : Flags := 4
def flUnf : Flags := 8
def flLaneOob : Flags := 16

/-- 2^e for any integer e. -/
def pow2 : Int → Rat
  | .ofNat n => mkRat (2 ^ n) 1
  | .negSucc n => mkRat 1 (2 ^ (n + 1))

/-- floor(log2 v) of a positive rational, exact. -/
def ilog2 (v : Rat) : Int :=
  let e : Int := (Nat.log2 v.num.natAbs : Int) - (Nat.log2 v.den : Int)
  if pow2 e ≤ v then e else e - 1

def Num.isNan : Num → Bool
  | .nan => true
  | _ => false
def Num.isInf : Num → Bool
  | .inf _ => true
  | _ => false
def Num.isZero : Num → Bool
  | .zero _ => true
  | _ => false
def Num.isFinite : Num → Bool
  | .zero _ => true
  | .fin _ => true
  | _ => false
/-- The sign of a value; a NaN has none (false). -/
def Num.sign : Num → Bool
  | .nan => false
  | .inf n => n
  | .zero n => n
  | .fin v => decide (v < 0)
/-- The exact rational of a finite value (0 for the others). -/
def Num.val : Num → Rat
  | .fin v => v
  | _ => 0
def Num.neg : Num → Num
  | .nan => .nan
  | .inf n => .inf (!n)
  | .zero n => .zero (!n)
  | .fin v => .fin (-v)
def Num.abs : Num → Num
  | .nan => .nan
  | .inf _ => .inf false
  | .zero _ => .zero false
  | .fin v => .fin (if v < 0 then -v else v)
/-- The value of a rational, a zero with the sign given. -/
def Num.ofRat (v : Rat) (negZero : Bool := false) : Num := if v = 0 then .zero negZero else .fin v
def Num.one : Num := .fin 1
def Num.half : Num := .fin (mkRat 1 2)

/-- The wire form of R204. -/
def Num.ofLit : NumLit → Num
  | .nan => .nan
  | .inf n => .inf n
  | .zero n => .zero n
  | .fin n sig e => Num.ofRat ((if n then -1 else 1) * (sig : Rat) * pow2 e) n

/-- Exact sum (Table 5-4); none for infinities of opposite signs. Both operands are not NaN. -/
def Num.addX (x y : Num) : Option Num :=
  match x, y with
  | .nan, _ => some .nan
  | _, .nan => some .nan
  | .inf a, .inf b => if a = b then some (.inf a) else none
  | .inf a, _ => some (.inf a)
  | _, .inf b => some (.inf b)
  | _, _ => some (Num.ofRat (x.val + y.val) (match x, y with | .zero true, .zero true => true | _, _ => false))

/-- Exact product (R84, Table 5-4); none for 0 × ∞. Both operands are not NaN. -/
def Num.mulX (x y : Num) : Option Num :=
  match x, y with
  | .nan, _ => some .nan
  | _, .nan => some .nan
  | .inf a, .inf b => some (.inf (a != b))
  | .inf _, .zero _ => none
  | .zero _, .inf _ => none
  | .inf a, .fin v => some (.inf (a != decide (v < 0)))
  | .fin v, .inf b => some (.inf (decide (v < 0) != b))
  | .fin a, .fin b => some (.fin (a * b))
  | _, _ => some (.zero (x.sign != y.sign))

/-- Order of two values that are not NaN. -/
def Num.lt (x y : Num) : Bool :=
  match x, y with
  | .inf true, .inf true => false
  | .inf true, _ => true
  | _, .inf true => false
  | .inf false, _ => false
  | _, .inf false => true
  | _, _ => decide (x.val < y.val)
/-- Equality of values: zeros of either sign are equal. -/
def Num.eqv (x y : Num) : Bool :=
  match x, y with
  | .inf a, .inf b => a == b
  | .inf _, _ => false
  | _, .inf _ => false
  | .nan, _ => false
  | _, .nan => false
  | _, _ => decide (x.val = y.val)

/-! ## Formats -/

/-- Storage formats (Table 2-1). -/
inductive Fmt where
  | fp32 | bf16 | fp16 | e4m3 | e5m2 | e2m3 | e3m2 | e2m1 | int8 | e8m0
deriving DecidableEq, Repr

namespace Fmt
/-- Format codes (Table 2-5). -/
def ofCode : Nat → Option Fmt
  | 0 => some .fp32 | 1 => some .bf16 | 2 => some .fp16 | 3 => some .e4m3 | 4 => some .e5m2
  | 5 => some .e2m3 | 6 => some .e3m2 | 7 => some .e2m1 | 8 => some .int8 | 9 => some .e8m0
  | _ => none
def width : Fmt → Nat
  | .fp32 => 32 | .bf16 => 16 | .fp16 => 16 | .e4m3 => 8 | .e5m2 => 8 | .e2m3 => 6 | .e3m2 => 6 | .e2m1 => 4 | .int8 => 8 | .e8m0 => 8
def expBits : Fmt → Nat
  | .fp32 => 8 | .bf16 => 8 | .fp16 => 5 | .e4m3 => 4 | .e5m2 => 5 | .e2m3 => 2 | .e3m2 => 3 | .e2m1 => 2 | .int8 => 0 | .e8m0 => 8
def fracBits : Fmt → Nat
  | .fp32 => 23 | .bf16 => 7 | .fp16 => 10 | .e4m3 => 3 | .e5m2 => 2 | .e2m3 => 3 | .e3m2 => 2 | .e2m1 => 1 | .int8 => 0 | .e8m0 => 0
def bias : Fmt → Int
  | .fp32 => 127 | .bf16 => 127 | .fp16 => 15 | .e4m3 => 7 | .e5m2 => 15 | .e2m3 => 1 | .e3m2 => 3 | .e2m1 => 1 | .int8 => 0 | .e8m0 => 127
/-- Formats with infinity: FP32, BF16, FP16 and E5M2. -/
def hasInf : Fmt → Bool
  | .fp32 => true | .bf16 => true | .fp16 => true | .e5m2 => true
  | _ => false
/-- Magnitude of the largest finite encoding. -/
def maxBits : Fmt → Nat
  | .fp32 => 0x7F7FFFFF | .bf16 => 0x7F7F | .fp16 => 0x7BFF | .e4m3 => 0x7E | .e5m2 => 0x7B | .e2m3 => 0x1F | .e3m2 => 0x1F | .e2m1 => 0x7
  | .int8 => 0x7F | .e8m0 => 0xFE
/-- Canonical NaN (Table 2-3); 0 for the formats without one. -/
def nanBits : Fmt → Nat
  | .fp32 => 0x7FC00000 | .bf16 => 0x7FC0 | .fp16 => 0x7E00 | .e4m3 => 0x7F | .e5m2 => 0x7E | .e8m0 => 0xFF
  | _ => 0
/-- emax_e of Table 2-6. -/
def emax : Fmt → Int
  | .e2m1 => 2 | .e2m3 => 2 | .e3m2 => 4 | .e4m3 => 8 | .e5m2 => 15 | .int8 => 6
  | _ => 0
def signBit (f : Fmt) (neg : Bool) : Nat := if neg then 2 ^ (f.width - 1) else 0
def infBits (f : Fmt) (neg : Bool) : Nat := f.signBit neg + (2 ^ f.expBits - 1) * 2 ^ f.fracBits
end Fmt

/-- decode(bits, fmt) (R45, R46): exact. -/
def decode (f : Fmt) (bits : Nat) : Num :=
  match f with
  | .int8 => Num.ofRat (if bits ≥ 128 then (bits : Rat) - 256 else (bits : Rat))
  | .e8m0 => if bits = 0xFF then .nan else .fin (pow2 ((bits : Int) - 127))
  | _ =>
    let m := f.fracBits
    let s := decide (bits / 2 ^ (f.width - 1) % 2 = 1)
    let e := bits / 2 ^ m % 2 ^ f.expBits
    let fr := bits % 2 ^ m
    let ones := decide (e = 2 ^ f.expBits - 1)
    if f.hasInf && ones && fr != 0 then .nan
    else if f == .e4m3 && ones && fr == 7 then .nan
    else if f.hasInf && ones then .inf s
    else
      let v : Rat := if e = 0 then (fr : Rat) * pow2 (1 - f.bias - m) else ((2 ^ m + fr : Nat) : Rat) * pow2 ((e : Int) - f.bias - m)
      Num.ofRat (if s then -v else v) s

/-- The largest finite value of a format. -/
def maxFinite (f : Fmt) : Rat := (decode f f.maxBits).val

/-- The encoding of a finite magnitude that the floating-point format represents exactly. -/
def encodeMag (f : Fmt) (a : Rat) : Nat :=
  if a = 0 then 0 else
    let m := f.fracBits
    let e := max (ilog2 a) (1 - f.bias)
    let q := (a / pow2 (e - m)).floor.toNat
    if q < 2 ^ m then q else ((e + f.bias).toNat) * 2 ^ m + (q - 2 ^ m)

/-- Rounding modes (R59); stochastic rounding carries its draw r and its bit count (R66). -/
inductive RMode where
  | rne
  | rtz
  | sr (r bits : Nat)
deriving DecidableEq, Repr

/-- Whether a value that lies the fraction `f` beyond its lower neighbour `k` (in units of the spacing) rounds up. -/
def roundUp (mode : RMode) (k : Int) (f : Rat) : Bool :=
  match mode with
  | .rne => decide (f > mkRat 1 2) || (decide (f = mkRat 1 2) && decide (k % 2 = 1))
  | .rtz => false
  | .sr r bits => decide ((r : Int) < (f * pow2 bits).floor)

/-- The encoding and the flags of a rounding. -/
structure Enc where
  bits : Nat
  fl : Flags := 0
deriving DecidableEq, Repr

/-- What an infinity becomes when it is written (R61). -/
def writeInf (f : Fmt) (sat neg : Bool) : Enc :=
  match f with
  | .int8 => ⟨if neg then 0x80 else 0x7F, flOvf⟩
  | .e4m3 => if sat then ⟨f.signBit neg + 0x7E, flOvf⟩ else ⟨0x7F, flInvalid⟩
  | _ => if f.hasInf then ⟨f.infBits neg, 0⟩ else ⟨f.signBit neg + f.maxBits, flOvf⟩

/-- What an overflowing result becomes (R60). -/
def writeOvf (f : Fmt) (sat neg : Bool) (mode : RMode) : Enc :=
  if sat || mode == .rtz then ⟨f.signBit neg + f.maxBits, flOvf⟩
  else if f.hasInf then ⟨f.infBits neg, flOvf⟩
  else ⟨f.nanBits, flOvf⟩

/-- round_to(x, fmt, mode) (R59 to R62): the encoding delivered and the flags raised. -/
def roundTo (f : Fmt) (sat : Bool) (mode : RMode) (x : Num) : Enc :=
  match x with
  | .nan => if f == .int8 then ⟨0, flInvalid⟩ else ⟨f.nanBits, 0⟩
  | .inf n => writeInf f sat n
  | .zero n => if f == .int8 then ⟨0, 0⟩ else ⟨f.signBit n, 0⟩
  | .fin v =>
    let neg := decide (v < 0)
    let a := if v < 0 then -v else v
    let q : Rat := if f == .int8 then 1 else pow2 (max (ilog2 a) (1 - f.bias) - f.fracBits)
    let k := (a / q).floor
    let fr := a / q - k
    let y : Rat := ((if roundUp mode k fr then k + 1 else k : Int) : Rat) * q
    if f == .int8 then
      if !neg && decide (y > 127) then ⟨0x7F, flOvf⟩
      else if neg && decide (y > 128) then ⟨0x80, flOvf⟩
      else
        let n := y.floor.toNat
        ⟨if neg then (256 - n) % 256 else n, 0⟩
    else if y > maxFinite f then writeOvf f sat neg mode
    else ⟨f.signBit neg + encodeMag f y, if y = 0 then flUnf else 0⟩

/-- round_rne and round_rtz without saturation. -/
def roundRne (f : Fmt) (x : Num) : Enc := roundTo f false .rne x
def roundRtz (f : Fmt) (x : Num) : Enc := roundTo f false .rtz x

/-! ## Stochastic rounding (R66 to R69) -/

/-- One round of philox on (c0, c1, c2, c3) with key (k0, k1). -/
def philoxRound (c : Nat × Nat × Nat × Nat) (k0 k1 : Nat) : Nat × Nat × Nat × Nat :=
  let p0 := 0xD2511F53 * c.1
  let p1 := 0xCD9E8D57 * c.2.2.1
  (((p1 / 2 ^ 32) ^^^ c.2.1) ^^^ k0, p1 % 2 ^ 32, ((p0 / 2 ^ 32) ^^^ c.2.2.2) ^^^ k1, p0 % 2 ^ 32)

def philoxRounds : Nat → Nat × Nat × Nat × Nat → Nat → Nat → Nat × Nat × Nat × Nat
  | 0, c, _, _ => c
  | n + 1, c, k0, k1 => philoxRounds n (philoxRound c k0 k1) ((k0 + 0x9E3779B9) % 2 ^ 32) ((k1 + 0xBB67AE85) % 2 ^ 32)

/-- philox (R67): ten rounds. -/
def philox (c0 c1 c2 c3 k0 k1 : Nat) : Nat × Nat × Nat × Nat := philoxRounds 10 (c0, c1, c2, c3) k0 k1

/-- sr_word(purpose, tensor_id, step, i, seed) (R67). -/
def srWord (purpose tensorId step i seed : Nat) : Nat :=
  let block := i / 4
  let w := philox (block % 2 ^ 32) ((block / 2 ^ 32) % 2 ^ 16 + purpose * 2 ^ 16) (tensorId % 2 ^ 32) (step % 2 ^ 32)
    ((seed % 2 ^ 32) ^^^ ((step / 2 ^ 32) % 2 ^ 32)) ((seed / 2 ^ 32) % 2 ^ 32)
  match i % 4 with
  | 0 => w.1
  | 1 => w.2.1
  | 2 => w.2.2.1
  | _ => w.2.2.2

/-- What a covered write is captured under (R255): the job, the history entry that covers the tensor, the STEP of the writing entry and the
exponent in force. -/
structure CapKey where
  job : Nat
  entry : Nat
  step : Nat
  exp : Int
deriving DecidableEq, Repr

/-- What a write needs to form its rounding mode for element index i: the mode of its descriptor and the inputs of sr_word. -/
structure SrCtx where
  rnd : Nat := 0
  enabled : Bool := false
  bits : Nat := 12
  purpose : Nat := 0
  tensorId : Nat := 0
  step : Nat := 0
  seed : Nat := 0
  /-- What the write captures (R255). -/
  cap : Option CapKey := none
deriving DecidableEq, Repr

/-- The rounding mode of element i (R50, R53, R67). -/
def SrCtx.mode (c : SrCtx) (i : Nat) : RMode :=
  if c.rnd = 1 then .rtz
  else if c.rnd = 2 && c.enabled then .sr (srWord c.purpose c.tensorId c.step i c.seed / 2 ^ (32 - c.bits)) c.bits
  else .rne

/-! ## Block scaling (R54 to R56) -/

/-- quantize_block: the scale byte, the element encodings and the flags (R56). `mode i` is the rounding of element i of the block. -/
def quantizeBlock (f : Fmt) (mode : Nat → RMode) (x : List Num) : Nat × List Nat × Flags :=
  if x.any Num.isNan then (0xFF, x.map (fun _ => 0), 0)
  else if x.any Num.isInf then (0xFF, x.map (fun _ => 0), flInvalid)
  else
    let amax := x.foldl (fun m v => max m v.abs.val) 0
    let s : Int := if amax = 0 then -127 else min (max (ilog2 amax - f.emax) (-127)) 127
    let q := x.zipIdx.map fun (v, i) =>
      let y : Num := match v with | .fin w => .fin (w / pow2 s) | z => z
      (roundTo f true (mode i) y).bits
    ((s + 127).toNat, q, 0)

/-- The value of a block-scaled element (R55). -/
def scaled (f : Fmt) (bits scale : Nat) : Num :=
  if scale = 0xFF then .nan
  else match decode f bits with
    | .fin v => .fin (v * pow2 ((scale : Int) - 127))
    | z => z

/-! ## Format descriptors (R50) -/

def fmtdFmt (d : BitVec 8) : Option Fmt := Fmt.ofCode (d.toNat % 16)
def fmtdBlk (d : BitVec 8) : Bool := d.getLsbD 4
def fmtdSat (d : BitVec 8) : Bool := d.getLsbD 5
def fmtdRnd (d : BitVec 8) : Nat := d.toNat / 64
/-- Whether Table 2-5 lets a tensor be stored in a format with this BLK; E8M0 is for scale arrays only. -/
def fmtdStored (d : BitVec 8) : Bool :=
  match fmtdFmt d with
  | some f => f != .e8m0 && !(fmtdBlk d && (f == .fp32 || f == .bf16 || f == .fp16)) && (fmtdBlk d || decide (8 ≤ f.width))
  | none => false

/-! ## Pairs and split products -/

/-- pair(v, fmt) (R70): hi, lo and the flags of hi. -/
def pairOf (f : Fmt) (v : Rat) : Nat × Nat × Flags :=
  let hi := roundRne f (Num.ofRat v)
  match decode f hi.bits with
  | .inf _ => (hi.bits, 0, hi.fl)
  | .nan => (hi.bits, 0, hi.fl)
  | h => (hi.bits, (roundTo f false .rne (Num.ofRat (v - h.val))).bits, hi.fl)

/-- Rounding toward zero to `p` significant bits without exponent limits (icf8 of R72). -/
def truncSig (p : Nat) (v : Rat) : Rat :=
  if v = 0 then 0 else
    let a := if v < 0 then -v else v
    let q := pow2 (ilog2 a + 1 - p)
    let t : Rat := ((a / q).floor : Rat) * q
    if v < 0 then -t else t

/-- split3 (R72). -/
def split3 (x : Rat) : Rat × Rat × Rat :=
  let x1 := truncSig 8 x
  let x2 := truncSig 8 (x - x1)
  (x1, x2, x - x1 - x2)

/-- The contribution of a split product of finite nonzero operands (R73). -/
def splitProduct (a b : Rat) : Rat :=
  let (a1, a2, a3) := split3 a
  let (b1, b2, b3) := split3 b
  a1 * b1 + a1 * b2 + a2 * b1 + a1 * b3 + a2 * b2 + a3 * b1

/-- Rounding to nearest even to `p` significant bits without exponent limits. -/
def roundSig (p : Nat) (v : Rat) : Rat :=
  if v = 0 then 0 else
    let a := if v < 0 then -v else v
    let q := pow2 (ilog2 a + 1 - p)
    let k := (a / q).floor
    let y : Rat := ((if roundUp .rne k (a / q - k) then k + 1 else k : Int) : Rat) * q
    if v < 0 then -y else y

/-- round_icf (R82). -/
def roundIcf (v : Rat) : Rat := roundSig 48 v

end Sys2Proof.Machine
end

