-- ==== Sys2Proof/Config.lean ====
section
/-!
DEFINITION. What an implementation fixes and the free values: each `opaque` constant stands for a value that the manual leaves open
(R151, R149, R160); no proof can see what it is.
-/

namespace Sys2Proof.Config

/-- Cores of the device (R549): T-cores 0 to 9,215, S-cores 9,216 to 10,367. -/
def numTCores : Nat := 9216
def numSCores : Nat := 1152
def numCores : Nat := 10368
/-- Contexts of a device (R333). -/
def numCtx : Nat := 8
/-- Bytes of a T-core and of an S-core scratchpad (Table 1-2, R120). -/
def tScratchBytes : Nat := 384 * 1024
def sScratchBytes : Nat := 768 * 1024
/-- Bytes of HBM: twelve stacks of 36 GB (R13, Table 0-2). -/
def hbmBytes : Nat := 432 * 10 ^ 9
/-- Instructions that the instruction memory of a T-core and of an S-core holds (R101). -/
def tImemInstrs : Nat := 2048
def sImemInstrs : Nat := 4096
/-- The most engine instructions of one context that are incomplete on one core (R123). -/
def maxIncomplete : Nat := 16
/-- Start-queue entries per context and core (Table 4-1). -/
def startQueueMax : Nat := 16
/-- The tile limit in cycles (R131). -/
def tileLimit : Nat := 2048

/-- FREE VALUE (R149, R151, log entry 3): how many units in the last place the fast-path value of function `op` on the
operands `a`, `b` stands, in halves of a unit, away from the correctly rounded F24 value, before it is held to the published bound.
It is a fixed function of the operands within this generation. -/
opaque fastOffset (op : Nat) (a b : Rat) : Int

/-- FREE VALUE (R160, log entry 4): whether the exact mathematical value of function `op` rounds up, asked only where the model's
interval arithmetic cannot decide which of two neighbouring F24 values is nearer. -/
opaque hardCaseUp (op : Nat) (a b : Rat) : Bool

/-- FREE VALUE (R423, R427, R449, R451, log entry 5): the n-th 256-bit draw of the Trust Block's true random generator. -/
opaque trng (n : Nat) : BitVec 256

/-- FREE VALUE (R385, R393, log entry 6): SHA-256 and the other digests of the standards the manual cites; the manual does not define them. -/
opaque sha256 (bytes : List (BitVec 8)) : BitVec 256

/-- FREE VALUES (R418, R419, R422, log entry 87): the identity seed that HKDF-SHA-256 derives from the unique device secret; the randomiser C of
the LMOTS signature by leaf `leaf` of the tree level `level`; the root and the identifier I of tree `tree` of a level; byte `i` of the one-time values
and the path of an LMS signature over a message. -/
opaque identitySeed (uds : BitVec 256) : BitVec 256
opaque randomiser (seed : BitVec 256) (level leaf : Nat) : BitVec 256
opaque lmsRoot (seed : BitVec 256) (level tree : Nat) : BitVec 256
opaque lmsId (seed : BitVec 256) (level tree : Nat) : BitVec 128
opaque lmsByte (seed c : BitVec 256) (level leaf : Nat) (msg : List (BitVec 8)) (i : Nat) : BitVec 8

/-- FREE VALUES (R418, R436, Table 15-1, log entry 87): byte `i` of the ML-KEM-1024 encapsulation key, or of the decapsulation key, that the device
derives from its unique secret; the shared secret that a decapsulation gives; the device certificate that Vrellaud made of DEVICE_ID and KEM_DIGEST. -/
opaque kemByte (uds : BitVec 256) (secret : Bool) (i : Nat) : BitVec 8
opaque kemDecaps (key ct : List (BitVec 8)) : BitVec 256
opaque certificate (device kem : BitVec 256) : List (BitVec 8)

/-- FREE VALUES (R431, R436, R437, R440, R451, R474, R487, R489, log entry 87): HKDF-SHA-256 of a key, a salt and an info, with 32 and with 64 bytes;
HMAC-SHA-256; AES-256 key unwrap, none where its check fails; byte `i` of the key stream of AES-256-GCM for a key and nonce, and its tag over additional data
and ciphertext. -/
opaque hkdf (ikm salt info : List (BitVec 8)) : BitVec 256
opaque hkdf64 (ikm salt info : List (BitVec 8)) : BitVec 512
opaque hmac (key msg : List (BitVec 8)) : BitVec 256
opaque keyUnwrap (kek : BitVec 256) (wrapped : List (BitVec 8)) : Option (BitVec 256)
opaque gcmStream (key : BitVec 256) (nonce : List (BitVec 8)) (i : Nat) : BitVec 8
opaque gcmTag (key : BitVec 256) (nonce aad data : List (BitVec 8)) : BitVec 128

/-- FREE VALUES (R166, R449, log entry 87): the key that HKDF-SHA-256 forms from K_boot for a region index and rotation count, and the 4,096
bytes that AES-256-XTS makes of a granule under a key and tweak. -/
opaque regionKey (boot : BitVec 512) (region rotation : Nat) : BitVec 512
opaque xts (key : BitVec 512) (tweak : Nat) (plain : List (BitVec 8)) : List (BitVec 8)

/-- FREE VALUES (R327, log entry 97): token and mark of position `pos` of a conversation whose summary came from another device. -/
opaque pastToken (conv : BitVec 64) (pos : Nat) : BitVec 32
opaque pastMark (conv : BitVec 64) (pos : Nat) : BitVec 2

/-- FREE VALUE (R329, log entry 10): AUX of a RANKED record of a teacher-alone request whose teacher score may not be exported. -/
opaque openWord (n : Nat) : BitVec 32

/-- FREE VALUE (R487, R491, log entry 15): the WINDOW that the device advertises, less 1, before it is held to 1 to 1,024. -/
opaque window : Nat

/-- FREE VALUE (R121, R173, R392, R482, log entry 22): how many of the events of device counter `cnt` that no command names the hardware has seen in
the beat `beat`: bank conflicts, assignments to experts that were full, errors that the ECC corrected, frames that the port itself discards. -/
opaque unseen (cnt beat : Nat) : Nat

/-- Bytes of the reorder pool (R493) and the most sessions (R490). -/
def poolBytes : Nat := 32 * 2 ^ 20
def maxSessions : Nat := 8192

end Sys2Proof.Config
end

