-- ==== Sys2Proof/Machine/Bytes.lean ====
section
/-!
DEFINITION. Bytes: the little-endian and the network order of numbers (R12), the identity key with its public key and signatures (R418, R419, R422),
and the byte form of a Husk (R434 to R438).
-/

namespace Sys2Proof.Machine

/-! ## Numbers in bytes -/

/-- Little-endian value of bytes (R12). -/
def leNat : List Byte → Nat
  | [] => 0
  | b :: r => b.toNat + 256 * leNat r

/-- `n` little-endian bytes of a value. -/
def natLe : Nat → Nat → List Byte
  | 0, _ => []
  | n + 1, v => BitVec.ofNat 8 v :: natLe n (v / 256)

/-- Big-endian bytes of a number, and back: the network order of headers and security objects (R12). -/
def natBe (n v : Nat) : List Byte := (natLe n v).reverse
def beNat (l : List Byte) : Nat := leNat l.reverse
/-- The n-byte little-endian field at offset `o` of an object (R12). -/
def leField (b : List Byte) (o n : Nat) : Nat := leNat ((b.drop o).take n)
/-- The n-byte big-endian field at offset o of a byte map (R12). -/
def beField (b : List Byte) (o n : Nat) : Nat := beNat ((b.drop o).take n)
/-- The 32 bytes of a digest or key, first byte first. -/
def digestBytes (d : Digest) : List Byte := natBe 32 d.toNat
/-- A digest of 32 bytes at an offset. -/
def digestAt (l : List Byte) (off : Nat) : Digest := BitVec.ofNat 256 (beField l off 32)
/-- The bytes of a label. -/
def ascii (t : String) : List Byte := t.toList.map fun c => BitVec.ofNat 8 c.toNat

/-! ## Records of faults and checkpoints -/

/-- Exponent byte in two's complement. -/
def expByte (e : Int) : Byte := BitVec.ofInt 8 e

/-- The 192 bytes of a checkpoint manifest, in network order (R401, Table 14-7). -/
def manifestBytes (m : Manifest) : List Byte :=
  natBe 4 m.job ++ natBe 4 m.form ++ natBe 8 m.version ++ natBe 8 m.u ++ [expByte m.e, 0, 0, 0] ++ natBe 4 m.growth ++ digestBytes m.planDigest
    ++ digestBytes m.mapDigest ++ digestBytes m.histDigest ++ natBe 8 m.ckptBeat ++ natBe 8 m.seed.toNat ++ natBe 8 m.sampleFirst ++ natBe 2 m.mb.toNat
    ++ natBe 2 (m.carryPending.toNat + 2 * m.recovery.toNat) ++ natBe 4 m.attempt ++ List.replicate 32 0

/-- The fault record in bytes (Table 14-2); values of DETAIL stand in 4 bytes each. -/
def faultBytes (f : FaultRec) : List Byte :=
  natBe 2 f.code.toNat ++ [if f.device then 2 else 1] ++ natBe 1 f.ctx ++ natBe 4 f.job ++ natBe 4 f.address ++ natBe 4 f.attempt ++ natBe 8 f.beat
    ++ natBe 4 f.phase ++ List.replicate 4 0 ++ natBe 8 f.step ++ ((f.detail.flatMap fun v => natBe 4 v) ++ List.replicate 24 0).take 24

/-! ## AES-256-GCM -/

/-- The key stream on a block: enciphering and deciphering alike. -/
def gcmCrypt (key : Digest) (nonce l : List Byte) : List Byte := l.zipIdx.map fun e => e.1 ^^^ Config.gcmStream key nonce e.2

/-- A block sealed, with its tag; and a block opened, none where the tag fails. -/
def gcmSeal (key : Digest) (nonce aad plain : List Byte) : List Byte × BitVec 128 :=
  let data := gcmCrypt key nonce plain
  (data, Config.gcmTag key nonce aad data)
def gcmOpen (key : Digest) (nonce aad data : List Byte) (tag : BitVec 128) : Option (List Byte) :=
  if tag = Config.gcmTag key nonce aad data then some (gcmCrypt key nonce data) else none

/-! ## The identity key (R418, R419, R422)

Type codes and layouts of LMS and LMOTS public keys and signatures are those of RFC 8554: LMS_SHA256_M32_H15 is 7, LMOTS_SHA256_N32_W4 is 3. -/

/-- The 56 bytes of an LMS public key. -/
def lmsKeyBytes (ident : BitVec 128) (root : Digest) : List Byte := natBe 4 7 ++ natBe 4 3 ++ natBe 16 ident.toNat ++ digestBytes root

/-- The 2,668 bytes of an LMS signature by leaf q of its tree: the LMOTS signature and the path. -/
def lmsSigBytes (q : Nat) (c : Digest) (value : List Byte) : List Byte :=
  natBe 4 q ++ natBe 4 3 ++ digestBytes c ++ value.take 2144 ++ natBe 4 7 ++ value.drop 2144

/-- The 60 bytes of the identity public key: the HSS key with L = 3. -/
def identityKeyBytes (seed : Digest) : List Byte := natBe 4 3 ++ lmsKeyBytes (Config.lmsId seed 0 0) (Config.lmsRoot seed 0 0)

/-- DEVICE_ID of a unique secret: SHA-256 of its identity public key. -/
def deviceIdOf (uds : Digest) : Digest := Config.sha256 (identityKeyBytes (Config.identitySeed uds))

/-- The 1,568 bytes of the encapsulation key, and the 3,168 bytes of the decapsulation key, of a unique secret. -/
def encapKeyBytes (uds : Digest) : List Byte := (List.range 1568).map (Config.kemByte uds false)
def decapKeyBytes (uds : Digest) : List Byte := (List.range 3168).map (Config.kemByte uds true)

/-- The one-time values and the path of a signature: 67 values and 15 nodes of 32 bytes. -/
def lmsValue (seed c : Digest) (level leaf : Nat) (msg : List Byte) : List Byte :=
  (List.range 2624).map fun i => Config.lmsByte seed c level leaf msg i

/-- The public key of tree `tree` of level `n` + 1 with the signature over it by leaf `tree` of level `n` (R419, R422). -/
def upperKey (seed : Digest) (n tree : Nat) : UpperKey :=
  let root := Config.lmsRoot seed (n + 1) tree
  let ident := Config.lmsId seed (n + 1) tree
  let c := Config.randomiser seed n tree
  { tree, root, ident, c, value := lmsValue seed c n tree (lmsKeyBytes ident root) }

end Sys2Proof.Machine

namespace Sys2Proof
open Machine

def UpperKey.bytes (k : UpperKey) : List Byte := lmsKeyBytes k.ident k.root

/-- A signed public key of a signature: the signature by its leaf one level above, and the key. -/
def UpperKey.signed (k : UpperKey) : List Byte := lmsSigBytes (k.tree % 2 ^ 15) k.c k.value ++ k.bytes

/-- The 8,120 bytes of an identity signature (R419): the number of levels less one, two signed public keys, and the bottom signature. -/
def HssSig.bytes (x : HssSig) : List Byte :=
  natBe 4 2 ++ ((x.level1.map UpperKey.signed).getD []) ++ ((x.level2.map UpperKey.signed).getD []) ++ lmsSigBytes (x.leaf % 2 ^ 15) x.c x.value

/-! ## The byte form of a Husk (Tables 15-6 to 15-8) -/

def Husk.huskId (h : Husk) : Digest := digestAt h.header 8
def Husk.licensor (h : Husk) : Digest := digestAt h.header 40
def Husk.policy (h : Husk) : BitVec 32 := BitVec.ofNat 32 (beField h.header 72 4)
def Husk.sigLen (h : Husk) : Nat := beField h.header 76 4
def Husk.meterLimit (h : Husk) : Nat := beField h.header 80 8
def Husk.teacherBytes (h : Husk) : Nat := beField h.header 88 8
def Husk.nRecip (h : Husk) : Nat := beField h.header 96 4
def Husk.nTensor (h : Husk) : Nat := beField h.header 100 4

/-- HUSK_DIGEST: SHA-256 over the header (R434). -/
def Husk.huskDigest (h : Husk) : Digest := Config.sha256 h.header

/-- The recipient entries (Table 15-7). -/
def Husk.recipients (h : Husk) : List HuskRecipient :=
  (List.range h.nRecip).map fun i =>
    let e := (h.recipTable.drop (1640 * i)).take 1640
    { device := digestAt e 0, kemCt := (e.drop 32).take 1568, wrapped := e.drop 1600 }

/-- The tensor entries (Table 15-8). -/
def Husk.tensors (h : Husk) : List HuskTensor :=
  (List.range h.nTensor).map fun i =>
    let e := (h.tensorTable.drop (32 * i)).take 32
    { tensorId := beField e 0 4, fmtd := BitVec.ofNat 8 (beField e 4 1), table := beField e 5 1 == 1, off := beField e 8 8, bytes := beField e 16 8 }

/-- Whether MAGIC, VERSION and the lengths are as Table 15-6 says, and no reserved field or value stands anywhere (R434). -/
def Husk.formOk (h : Husk) : Bool :=
  h.header.length == 256 && beField h.header 0 4 == 0x4855534B && beField h.header 4 2 == 1 && beField h.header 6 2 == 0 && beField h.header 200 56 == 0
    && h.policy.toNat / 32 == 0 && h.signature.length == h.sigLen && h.recipTable.length == 1640 * h.nRecip && h.tensorTable.length == 32 * h.nTensor
    && decide (1 ≤ h.nRecip) && decide (h.nRecip ≤ 131072) && decide (1 ≤ h.nTensor) && decide (h.nTensor ≤ 1048576)
    && (List.range h.nTensor).all fun i =>
      let e := (h.tensorTable.drop (32 * i)).take 32
      decide (beField e 5 1 < 2) && beField e 6 2 == 0 && beField e 24 8 == 0

/-- Whether RECIP_DIGEST and TENSOR_DIGEST match their tables. -/
def Husk.digestsOk (h : Husk) : Bool :=
  digestAt h.header 104 == Config.sha256 h.recipTable && digestAt h.header 136 == Config.sha256 h.tensorTable

/-- Whether CHUNK_ROOT is the digest of these tags in granule order. -/
def Husk.rootOk (h : Husk) (l : List HuskChunk) : Bool := digestAt h.header 168 == Config.sha256 (l.flatMap fun c => natBe 16 c.tag.toNat)

/-- Key-wrapping key of a shared secret (R436): bound to the Husk and its header. -/
def Husk.kek (h : Husk) (ss : Digest) : Digest :=
  Config.hkdf (digestBytes ss) (digestBytes h.huskId) (ascii "husk-wrap" ++ digestBytes h.huskDigest)

/-- Nonce and additional data of granule n (R437). -/
def granuleNonce (n : Nat) : List Byte := natBe 4 0 ++ natBe 8 n
def Husk.granuleAad (h : Husk) (n : Nat) : List Byte := digestBytes h.huskId ++ natBe 8 n

/-- A chunk opened under K_c, and a granule sealed again (R437, R440). -/
def Husk.openChunk (h : Husk) (key : Digest) (c : HuskChunk) : Option (List Byte) :=
  gcmOpen key (granuleNonce c.n) (h.granuleAad c.n) c.data c.tag
def Husk.sealGranule (h : Husk) (key : Digest) (n : Nat) (plain : List Byte) : HuskChunk :=
  let x := gcmSeal key (granuleNonce n) (h.granuleAad n) plain
  { n, data := x.1, tag := x.2 }

/-! ## The byte form of firmware banks and images (R459, R461, R462, Tables 16-4 to 16-7) -/

def Firmware.version (f : Firmware) : Word := BitVec.ofNat 32 (beField f.header 4 4)
def Firmware.seq (f : Firmware) : DWord := BitVec.ofNat 64 (beField f.header 8 8)
def Firmware.svn (f : Firmware) : Nat := beField f.header 16 2
/-- What the bank holds, the signature last. -/
def Firmware.content (f : Firmware) : List Byte := f.header ++ f.code ++ f.signature
/-- FW_DIGEST, over bytes 0 to BYTES − 1 (log entry 125). -/
def Firmware.digest (f : Firmware) : Digest := Config.sha256 (f.header ++ f.code)

/-- Whether the header is that of Table 16-4, over this code and signature. -/
def Firmware.headerOk (f : Firmware) : Bool :=
  let bytes := beField f.header 20 4
  f.header.length == 64 && beField f.header 0 4 == 0x454C4657 && beField f.header 18 2 == 0 && beField f.header 28 36 == 0
    && bytes == 64 + f.code.length && beField f.header 24 4 == f.signature.length && decide (bytes + f.signature.length ≤ 8 * 2 ^ 20)

def Image.seq (i : Image) : DWord := BitVec.ofNat 64 (beField i.header 8 8)
def Image.svn (i : Image) : Word := BitVec.ofNat 32 (beField i.header 16 4)
def Image.signer (i : Image) : Digest := digestAt i.header 32
def Image.content (i : Image) : List Byte := i.header ++ i.body ++ i.signature
/-- SHA-256 of the image, over bytes 0 to BYTES − 1 (log entry 125). -/
def Image.digest (i : Image) : Digest := Config.sha256 (i.header ++ i.body)

/-- A record of an image (R462): its head and its body, with its LENGTH in bytes, the padding, and all its bytes. -/
structure ImageRec where
  type : Nat
  flags : Nat
  rsv : Nat
  body : List Byte
  pad : List Byte
  all : List Byte

/-- The records of an image, one after another; none where a LENGTH runs beyond the end. The first argument bounds their number. -/
def readImageRecs : Nat → List Byte → Option (List ImageRec)
  | 0, l => if l.isEmpty then some [] else none
  | n + 1, l =>
    if l.isEmpty then some []
    else
      let len := beField l 4 4
      let full := 8 + (len + 7) / 8 * 8
      if l.length < full then none
      else (readImageRecs n (l.drop full)).map fun r =>
        { type := beField l 0 2, flags := beField l 2 1, rsv := beField l 3 1, body := (l.drop 8).take len, pad := (l.take full).drop (8 + len)
          all := l.take full } :: r

def Image.recList (i : Image) : List ImageRec := (readImageRecs i.body.length i.body).getD []

/-- TYPE, FIELD and OPTIONAL of each record. -/
def Image.types (i : Image) : List (Nat × Bool × Bool) := i.recList.map fun r => (r.type, r.flags % 2 == 1, r.flags / 2 % 2 == 1)

/-- The field-wide records of an image, in their order, of which FIELD_DIGEST is formed (R385, R462). -/
def Image.fieldRecords (i : Image) : List Byte := (i.recList.filter fun r => r.flags % 2 == 1).flatMap ImageRec.all

/-- The bytes of a listed body that Table 16-7 gives to fields, and the reserved bytes among them as place and number. -/
def bodyForm (type : Nat) (b : List Byte) : Nat × List (Nat × Nat) :=
  match type with
  | 0x10 => (4, [])
  | 0x11 => (20, [])
  | 0x12 => (3, [])
  | 0x13 => (12, [])
  | 0x14 => (2, [])
  | 0x15 => (5, [])
  | 0x16 => (1, [])
  | 0x17 => (8 + 40 * beField b 1 1, (2, 6) :: (List.range (beField b 1 1)).map fun k => (9 + 40 * k, 3))
  | 0x20 => (8 + 32 * beField b 0 1, [(1, 7)])
  | 0x21 => (8 + 32 * beField b 0 1, [(1, 7)])
  | 0x22 => (2, [])
  | 0x30 => (13, [])
  | 0x31 => (2, [])
  | _ => (b.length, [])

/-- Whether a record is framed as R462 says: no reserved bit, zero padding, a body that holds its fields, and zeros at the bytes that Table 16-7 does not
show (log entry 119). -/
def ImageRec.ok (r : ImageRec) : Bool :=
  let (n, z) := bodyForm r.type r.body
  r.flags / 4 == 0 && r.rsv == 0 && r.pad.all (· == 0) && decide (n ≤ r.body.length) && (r.body.drop n).all (· == 0)
    && z.all fun e => beField r.body e.1 e.2 == 0

/-- Whether the header and the framing of the records are as Table 16-5 and R462 say. -/
def Image.headerOk (i : Image) : Bool :=
  i.header.length == 96 && beField i.header 0 4 == 0x454C494D && beField i.header 4 2 == 1 && beField i.header 6 2 == 0
    && beField i.header 20 4 == 96 + i.body.length && beField i.header 24 2 == i.recList.length && beField i.header 26 2 == 0
    && beField i.header 28 4 == i.signature.length && beField i.header 64 32 == 0 && (readImageRecs i.body.length i.body).isSome
    && i.recList.all ImageRec.ok

/-- The body of the record of a TYPE. -/
def Image.bodyOf (i : Image) (t : Nat) : Option (List Byte) := (i.recList.find? fun r => r.type == t).map ImageRec.body
def Image.has (i : Image) (t : Nat) : Bool := (i.bodyOf t).isSome

/-- The digests of a key record. -/
def keysOf (b : List Byte) : List Digest := (List.range (beField b 0 1)).map fun k => digestAt b (8 + 32 * k)

/-- The fields of the image's records, each omitted record at its defaults (R4, R463). The default PLOT_ALT depends on X (Table 13-2). -/
def Image.records (i : Image) : ImageRecs :=
  let d : ImageRecs := {}
  let top := i.bodyOf 0x10
  let g (b : List Byte) (o n : Nat) : Nat := beField b o n
  let x := match top with | some b => g b 2 1 | none => 1
  { n := match top with | some b => g b 0 1 | none => 1
    p := match top with | some b => g b 1 1 | none => 1
    x
    y := match top with | some b => g b 3 1 | none => 1
    beat := match i.bodyOf 0x11 with
      | some b => { d.beat with source := g b 0 1, periodCode := g b 1 1, excludeMax := g b 2 2, startLead := g b 4 4, joinLimit := g b 8 4
                                lockLimit := g b 12 4, podAlt := g b 16 1, rowAlt := g b 17 1, plotAltX := g b 18 1, plotAltY := g b 19 1 }
      | none => if x = 1 then { d.beat with plotAltX := 0, plotAltY := 1 } else d.beat
    numeric := match i.bodyOf 0x12 with
      | some b => { d.numeric with srEnable := g b 0 1, srBits := g b 1 1, canonMask := BitVec.ofNat 8 (g b 2 1) }
      | none => d.numeric
    exch := match i.bodyOf 0x13 with
      | some b => { d.exch with straggler := g b 0 1, checkShift := g b 1 1, lowrank := g b 2 1, defaultRank := g b 3 1, stragglerLimit := g b 4 4
                                exchLimit := g b 8 4 }
      | none => d.exch
    autoRestart := match i.bodyOf 0x14 with | some b => g b 0 1 | none => 0
    spares := match i.bodyOf 0x14 with | some b => g b 1 1 | none => 0
    exportPolicy := match i.bodyOf 0x15 with | some b => BitVec.ofNat _ (g b 0 4) | none => 0
    onlineDistill := match i.bodyOf 0x15 with | some b => g b 4 1 | none => 0
    sealMask := match i.bodyOf 0x16 with | some b => BitVec.ofNat _ (g b 0 1) | none => d.sealMask
    initial := match i.bodyOf 0x17 with | some b => g b 0 1 | none => 0xFF
    directory := match i.bodyOf 0x17 with
      | some b => (List.range (g b 1 1)).map fun k =>
        { slot := g b (8 + 40 * k) 1, bytes := g b (12 + 40 * k) 4, digest := digestAt b (16 + 40 * k) }
      | none => []
    operatorKeys := match i.bodyOf 0x20 with | some b => keysOf b | none => []
    licensorKeys := match i.bodyOf 0x21 with | some b => keysOf b | none => []
    fwSvnCommit := match i.bodyOf 0x22 with | some b => g b 0 2 | none => 0
    ipv6Prefix := match i.bodyOf 0x30 with | some b => BitVec.ofNat _ (g b 0 8) | none => 0
    ipv4Base := match i.bodyOf 0x30 with | some b => BitVec.ofNat _ (g b 8 4) | none => 0
    ptpDomain := match i.bodyOf 0x30 with | some b => g b 12 1 | none => 0
    capW := match i.bodyOf 0x31 with | some b => g b 0 2 | none => 2400 }

end Sys2Proof
end

