-- ==== Sys2Proof/Machine/State.lean ====
section
/-!
DEFINITION. The state of the device: every register, store, queue and unit state the manual gives it, as plain data; the reasons a step can
stop; and the machine right after reset.
-/

namespace Sys2Proof.Machine

/-- Reasons a step ends in a fault. -/
inductive Fault where
  /-- Raised by every command that names a core, when its device core index is not below 10,368 (R549). Safe: no next state is claimed. -/
  | noSuchAddress (addr : Nat)
deriving DecidableEq, Repr

/-- Reasons a step is refused. -/
inductive Refusal where
  /-- Raised by the dispatch arm of a command that has no meaning yet. Safe: no next state is claimed. -/
  | notModelled (mnemonic : String)
deriving DecidableEq, Repr

/-! ## Cores (04, 12) -/

/-- An unsatisfied WAIT or WAITB: what it waits for, and the beat of its issue (R126, R129). -/
inductive WaitFor where
  | counter (c : Fin 16) (target : Word)
  | beat (target : Nat)
deriving DecidableEq, Repr

structure WaitSt where
  what : WaitFor
  since : Nat
deriving DecidableEq, Repr

/-- Vector operations by OP code (Tables 5-3, 5-5, 5-8, 5-9). -/
abbrev VOpc := BitVec 6

/-- A captured engine operation: descriptors and registers as copied at issue (R104). -/
inductive EngOp where
  | mma (transposed : Bool) (a b c : TileDesc) (set arr : Fin 2) (mode : AccMode)
  | mtwin (g w x : TileDesc) (set0 set1 : Fin 2) (acc0 acc1 : Bool)
  | mrd (c : TileDesc) (set arr : Fin 2) (step : Nat)
  | mrdp (a c : TileDesc) (set arr : Fin 2)
  | msav (c : TileDesc) (set arr : Fin 2)
  | vop (op : VOpc) (bsrc : BSrc) (d a b : TileDesc) (gs : Word) (gsNamed : Bool) (imm : BitVec 16) (step : Nat) (vl : Nat)
  | dma (td : TileDesc) (off : Nat) (region : Fin 16) (toHbm : Bool) (hstride : Nat)
  | lsend (td : TileDesc) (chan : Nat)
  | lrecv (td : TileDesc) (chan : Nat)
  | lred (td : TileDesc) (chan : Nat)
  | stsend (td : TileDesc) (buffer : Nat)
deriving DecidableEq, Repr

/-- Progress of an issued engine instruction: queued, started, or (STSEND) waiting for its packets. -/
inductive Phase where
  | queued | started
deriving DecidableEq, Repr

/-- An issued, incomplete engine instruction: its context, engines, captured operation, ranges (R123), completion counter, flags that it
posts on completion (R128), the serial number of its entry, and the engines whose release a tile boundary has bound to its completion (R338),
each with whether the boundary was a remote wait. -/
structure EngJob where
  ctx : Fin 8
  engines : List Engine
  op : EngOp
  phase : Phase
  cnt : CntSel
  fl : Word := 0
  srcs : List (Nat × Nat) := []
  dsts : List (Nat × Nat) := []
  entryNo : Nat := 0
  /-- STEP of the entry that issued it, to which captures of R255 are attributed, and its micro-batch number. -/
  step : Nat := 0
  mb : Nat := 0
  /-- LRED and LRECV on an exchange channel: which transfer of the bucket it belongs to (R283). -/
  part : Nat := 0
  release : List (Fin 3 × Bool) := []
  /-- STSEND and DMA: rows not yet sent or moved. -/
  left : Nat := 0
  /-- DMA: a row moved so far lay beyond its region (R117). -/
  bad : Bool := false
deriving DecidableEq, Repr

/-- Per-context sequencer state of a core (Table 4-1), with the entry in progress (R102), its wait, and the entries whose END has executed
but whose engine instructions are incomplete. `running`: a program is in progress. -/
structure CtxSt where
  pc : BitVec 12 := 0
  g : Vector Word 32 := Vector.replicate 32 0
  p : BitVec 8 := 1
  c : Vector Word 16 := Vector.replicate 16 0
  td : Vector TileDesc 64 := Vector.replicate 64 {}
  loops : List (Word × BitVec 12) := []
  vl : BitVec 8 := 0
  queue : List StartEntry := []
  running : Bool := false
  wait : Option WaitSt := none
  tag : EntryTag := .plain
  entryNo : Nat := 0
  ending : List (Nat × EntryTag) := []
  halted : Bool := false
deriving DecidableEq, Repr

/-- A core: its eight context slots, the accumulator sets (index 2 × array + set; [] is empty), the owners and last owners of array 0,
array 1 and the vector engine (R337), the last issuing context of each class (R336), and the issued, incomplete engine instructions in
issue order. -/
structure CoreSt where
  ctx : Vector CtxSt 8 := Vector.replicate 8 {}
  acc : Vector (List (List RawRec)) 4 := Vector.replicate 4 []
  own : Vector (Option (Fin 8)) 3 := Vector.replicate 3 none
  lastOwn : Vector (Option (Fin 8)) 3 := Vector.replicate 3 none
  jobs : List EngJob := []
deriving DecidableEq, Repr

/-- A link channel's traffic on this device (R118): data of sends not yet landed, and counts of sends and posts since the last start. -/
structure ChanSt where
  inFlight : List (List Byte) := []
  sends : Nat := 0
  posts : Nat := 0
deriving DecidableEq, Repr

/-! ## Table Engine (06) -/

/-- A bag of a lookup job (Table 6-4) with what its valid indices have given so far; `owing`: devices whose partial is outstanding. -/
structure BagSt where
  bad : Bool := false
  table : Nat := 0
  pool : Pool := .sum
  ofmt : BitVec 8 := 0
  oob : Bool := false
  valid : Nat := 0
  raw : List RawRec := []
  mx : List Num := []
  owing : List Nat := []
deriving DecidableEq, Repr

/-- An open lookup job (R176). -/
structure LookupSt where
  serial : Nat
  chan : Nat
  ctx : Fin 8
  statusOff : Nat
  doneCnt : Nat
  bags : List BagSt
deriving DecidableEq, Repr

/-! ## Stem and Loss Stage (07) -/

/-- A landing buffer with its credits: packets started, landed, freed, credits returned, packets claimed by loss jobs, and packets between
the Target Former and the slot (R192 to R194). -/
structure BufSt where
  sent : Nat := 0
  arrived : Nat := 0
  freed : Nat := 0
  returned : Nat := 0
  taken : Nat := 0
  flight : List (List Byte) := []
deriving DecidableEq, Repr

/-- Teacher values of a packet: every column, or selected pairs (vocabulary index, value) with the residual (R183). -/
inductive Teacher where
  | full (t : List Num)
  | topk (pairs : List (Nat × Num)) (rlse : Num)
deriving DecidableEq, Repr

/-- One segment of a row of an open loss job: student values, teacher values and the packet's status byte. -/
structure LossSeg where
  col0 : Nat
  z : List Num
  t : Teacher
  status : Nat
deriving DecidableEq, Repr

/-- A row of an open loss job with its label and the exchange records held, by device address (R204). -/
structure LossRowSt where
  segs : List LossSeg
  label : Option Nat := none
  oob : Bool := false
  x1 : List (Nat × LossExch) := []
  x2 : List (Nat × LossExch) := []
  x3 : List (Nat × LossExch) := []
deriving DecidableEq, Repr

/-- A loss-exchange record that has come before its job opened here (R204): the job's record and micro-batch, the row and the sender. -/
structure EarlyExch where
  id : Nat
  mb : Nat
  row : Nat
  origin : Nat
  body : LossExch
deriving DecidableEq, Repr

/-- An open job of the Loss Stage (R199): its record, step, micro-batch, loss scale read at its start, beat of opening, and rows. -/
structure LossJob where
  id : Nat
  step : Nat
  mb : Nat
  lam : Num
  since : Nat
  rows : List LossRowSt
deriving DecidableEq, Repr

/-! ## Student stash, slots and step accounts (08) -/

/-- A live record of the stash controller (R226): micro-batch sequence number, layer, its units, whether it is demoted, and whether its
forward pass ran the recovery entry of R259, which its recomputation then repeats (R228). -/
structure LiveRec where
  q : Nat
  layer : Nat
  run : Option Nat
  units : Nat
  demoted : Bool
  recov : Bool
deriving DecidableEq, Repr

/-- Weight slot states (Table 8-6). -/
inductive SlotPhase where
  | free | shadow | current | retiring
deriving DecidableEq, Repr

structure SlotSt where
  ph : SlotPhase := .free
  version : Nat := 0
deriving DecidableEq, Repr

/-- A stage: live records in append order, its two weight slots, the micro-batches bound to each (R239), whether a receipt or an FUU
write waits for a slot, with the version it waits for, whether one has waited in this beat (R238), and how many entries of the schedule of a
step have been appended (R235). -/
structure StageSt where
  live : List LiveRec := []
  slots : Vector SlotSt 2 := #v[{ ph := .current }, {}]
  bound : List (Nat × Fin 2) := []
  waiting : Option Nat := none
  waited : Bool := false
  pos : Nat := 0
deriving DecidableEq, Repr

/-- A step account under way (R241): `idle` counts idle beats so far, `idleAt` those up to the last backward completion. -/
structure AcctSt where
  step : Nat
  first : Nat
  lastBwd : Nat := 0
  mbs : List Nat := []
  demote : Nat := 0
  recompute : Nat := 0
  slotWait : Nat := 0
  idle : Nat := 0
  idleAt : Nat := 0
deriving DecidableEq, Repr

/-! ## Gradient exchange (10) -/

/-- A member's contribution to a bucket (R269): elements whose LRED has issued, the beat of entry, elements read, whether it was late
(R286), whether its late data is to be dropped, the loss-scale exponent when it was found late, and whether its chunks have gone into the
exchange, on the primary and on the check route. -/
structure LeafSt where
  idx : Nat
  step : Nat
  issued : Nat := 0
  entry : Option Nat := none
  data : List (Nat × Word) := []
  late : Bool := false
  drop : Bool := false
  exp : Int := 0
  sent : Bool := false
  sentChk : Bool := false
deriving DecidableEq, Repr

/-- A low-rank factor that the exchange programs are entering on this device (R283): its bucket, step and transfer, and the elements read. -/
structure LowSt where
  idx : Nat
  step : Nat
  part : Nat
  data : List (Nat × Word) := []
deriving DecidableEq, Repr

/-- A gradient row that the local Table Engine has received for its sparse list (R249): step, micro-batch and S-core of the LRED, table row,
values. -/
structure SparseRow where
  step : Nat
  mb : Nat
  core : Nat
  row : Nat
  vals : List Word
deriving DecidableEq, Repr

/-- A carried contribution (R288): its bucket, the step in which it was late, its values with their loss-scale exponent, and the step to
whose contribution it has been added. -/
structure CarrySt where
  idx : Nat
  step : Nat
  exp : Int
  vals : List Word
  usedIn : Option Nat := none
deriving DecidableEq, Repr

/-- A bucket sum in a sum area (R276) waiting for the FUU. -/
structure SumSt where
  idx : Nat
  step : Nat
  count : Nat
  nonfinite : Bool
deriving DecidableEq, Repr

/-- An exchange channel on this device: its contributions and carries; the adders' next bucket and chunks of it gone, on the primary (with
the non-finite bits seen) and on the check route (R273, R294); partials held; final sums of checked buckets on both routes; sums waiting for
the FUU; buckets processed and compared in this step; elements of the new version received by bucket (R280); low-rank sums and factors held
for the exchange programs, factors that they are entering, and elements of each bucket whose LRECV has been posted (R283); sparse lists
held at the owner, and rows of this device's own list (R249, R250). -/
structure ExchSt where
  leafs : List LeafSt := []
  carries : List CarrySt := []
  next : Nat := 0
  gone : Nat := 0
  nf : Bool := false
  nextChk : Nat := 0
  goneChk : Nat := 0
  parts : List Chunk := []
  finals : List Chunk := []
  checks : List Chunk := []
  sums : List SumSt := []
  processed : List Nat := []
  compared : List Nat := []
  got : List (Nat × Nat) := []
  low : List Chunk := []
  lowIn : List LowSt := []
  posted : List (Nat × Nat) := []
  lists : List SparseList := []
  own : List SparseRow := []
deriving DecidableEq, Repr

/-- A row of a table's row shadow (R251): the context that trains the table, table, row, weights as BF16, moments. -/
structure ShadowRow where
  ctx : Nat
  table : Nat
  row : Nat
  w : List Nat
  m1 : List Nat
  m2 : List Nat
deriving DecidableEq, Repr

/-- A scale-history entry (R254 to R257): A_s of the last committed steps in FP32, newest first, the exponent in force, for a weight copy also the
exponent that the next update forms it with, and whether the entry is in recovery (R259). -/
structure HistSt where
  vals : List Word := []
  exp : Int := 0
  copyExp : Int := 0
  recovering : Bool := false
deriving DecidableEq, Repr

/-- A capture of R255: job, history entry, step, and the maximum of |x| × 2^−e so far. -/
structure CaptSt where
  job : Nat
  entry : Nat
  step : Nat
  max : Rat
deriving DecidableEq, Repr

/-- A claimed or complete slot of a sample table (R405, R495): the session that claimed it, its SAMPLE_ID, bytes written, and its place
in the order of completion. -/
structure SampleSlot where
  session : Nat
  id : Nat
  written : Nat
  done : Option Nat := none
deriving DecidableEq, Repr

/-! ## Journal (16) -/

/-- Bodies of journal records (Table 16-10). -/
inductive JnlBody where
  | epochOpen (e : Nat)
  | leafReserve (q : Nat)
  | meterReserve (husk : Digest) (total : Nat)
  | meterGrant (husk : Digest) (seq limit : Nat)
  /-- The licensor and METER_LIMIT stand beside the fields of Table 16-10, for the entry that R444 keeps (log entry 124). -/
  | huskBind (husk digest licensor : Digest) (limit : Nat)
  | svnMin (v : Nat)
  /-- The manifest, and the bytes of the HISTORY section. -/
  | manifest (m : Manifest) (hist : List Byte)
  | stored (job version role : Nat)
  | fault (f : FaultRec)
  | stepSkip (job step reason : Nat)
  | straggler (job step chan idx member policy : Nat)
  | scaleRecovery (job version affected recover : Nat)
  | boot (count fw img version : Nat) (init : Bool)
  | beatMark
deriving DecidableEq, Repr

/-- A journal record (Table 16-9): its SEQ, BEAT_TIME and body. -/
structure JnlRec where
  seq : Nat
  time : Nat
  body : JnlBody
deriving DecidableEq, Repr

/-- A half of the journal (R473): erased, holding a valid HALF_OPEN with GEN and SNAP_SEQ, whether COMPLETE is valid and its last copied SEQ, and the
records. -/
structure Half where
  erased : Bool := true
  gen : Nat := 0
  snap : Nat := 0
  complete : Bool := false
  copied : Nat := 0
  recs : List JnlRec := []
deriving DecidableEq, Repr

/-- The journal: its halves, the active one, the SEQ of the last record, records requested and not yet durable, the snapshot point of a
compaction under way (R477), the highest BEAT_TIME, and whether replay found a torn record that compaction has not yet left behind (R476). -/
structure JnlSt where
  half : Vector Half 2 := #v[{}, {}]
  active : Fin 2 := 0
  seq : Nat := 0
  queue : List JnlRec := []
  compact : Option Nat := none
  hwm : Nat := 0
  torn : Bool := false
deriving DecidableEq, Repr

/-! ## Device, errors, counters (01, 14, 18) -/

/-- Device states (Table 0-7); `code` gives the encoding of Table 18-3. -/
inductive DevState where
  | off | reset | boot | hold | safe | configured | joined | run | drain | halt
deriving DecidableEq, Repr

def DevState.code : DevState → Nat
  | .off => 0 | .reset => 1 | .boot => 2 | .hold => 3 | .safe => 4 | .configured => 5 | .joined => 6 | .run => 7 | .drain => 8 | .halt => 9

/-- The ERR block (Table 18-5) but for the numeric flag words. -/
structure ErrSt where
  sticky : Word := 0
  lastCode : Word := 0
  lastLoc : Word := 0
  lastBeat : DWord := 0
  rejectTotal : Word := 0
  rejectNew : BitVec 16 := 0
  faultCnt : Word := 0
  first : Option FaultRec := none
deriving DecidableEq, Repr

/-- Job states (R408) with the codes of STS_JOBS. -/
inductive JobState where
  | none | running | halted | restoring | starting | stopped
deriving DecidableEq, Repr

def JobState.code : JobState → Nat
  | .none => 0 | .running => 1 | .halted => 2 | .restoring => 3 | .starting => 4 | .stopped => 5

/-- A checkpoint bank of the buddy-checkpoint region (R399): the part it holds, complete or not, and its length. -/
structure BankSt where
  version : Option Nat := none
  complete : Bool := false
  role : Nat := 0
  bytes : Nat := 0
deriving DecidableEq, Repr

/-- A checkpoint copy under way (R398): its version, local bank, which of its two copies is safe, the beat in which the version became
CURRENT, whether a carry existed then (R401), and whether it waits for an export to free its bank (R402). -/
structure CkptRun where
  version : Nat
  bank : Fin 2
  localDone : Bool := false
  hostedDone : Bool := false
  beat : Nat := 0
  carry : Bool := false
  waiting : Bool := false
deriving DecidableEq, Repr

/-- A RESTART that waits for the end of the halt phase, or for the entry to JOINED (R408, R411): its external version and replay. -/
structure RestartReq where
  ext : Option Nat := none
  replay : Option Nat := none
  exclusions : List Exclusion := []
deriving DecidableEq, Repr

/-- What the coordinator holds of a restart (R408, R414): halted reports, the beat of the first notice or report, members whose restore is
complete, the beat at which restore began, automatic restarts in succession, the last check mismatch, the fault record, the RESTART that waits, the
roles lost, whether a member entered scale recovery, and the state of a job in which the coordinator itself has no role. -/
structure CoordSt where
  reports : List HaltedRep := []
  since : Option Nat := none
  restored : List Nat := []
  restoreSince : Option Nat := none
  autos : Nat := 0
  mismatch : Option (List Nat) := none
  fault : Option FaultRec := none
  late : List Nat := []
  request : Option RestartReq := none
  lost : List Nat := []
  recovery : Bool := false
  view : JobState := .none
deriving DecidableEq, Repr

/-- A job on this device: its state, attempt and whether a notice of this attempt has been taken (R395, R408); the step under way, update
count, loss-scale exponent, growth counter and moment-bank selector (R243, R252, R253, R265); its scale history; the exchange base (R286);
READY records held by address, whether this device's own is among them, the beat of the first (R262, R264); the non-finite findings of the
step (R260); the marker held (R263); whether READY waits for a checkpoint, the copy under way, the banks L0, L1, H0 and H1, the newest
committed checkpoint and an export under way (R398 to R402); start-ready records held by address, the start beat, whether the job has
ever started, whether roles were substituted, and the assignment in force (R373, R408 to R413); the end version and exclusions of a replay
(R407); committed steps left of a scale recovery (R259); SAMPLE_FIRST (R404); and the coordinator's part of a restart. -/
structure JobSt where
  st : JobState := .none
  attempt : Nat := 0
  notified : Bool := false
  step : Nat := 0
  u : Nat := 0
  e : Int := 0
  growth : Nat := 0
  cur : Bool := false
  hist : List HistSt := []
  base : Nat := 0
  ready : List (Nat × ReadyRec) := []
  readySent : Bool := false
  firstReady : Option Nat := none
  nfGrad : Bool := false
  nfUpdate : Bool := false
  marker : Option Marker := none
  ckptHold : Bool := false
  ckpt : Option CkptRun := none
  banks : Vector BankSt 4 := Vector.replicate 4 {}
  committed : Option Nat := none
  exporting : Option (Nat × Fin 2) := none
  /-- Committed checkpoints due for export while another is exported, oldest first (R402). -/
  exportDue : List Nat := []
  /-- The session and last PSN of the export's frames; none while no session or key takes them. -/
  exportTx : Option (Nat × Nat) := none
  startReady : List Nat := []
  startSent : Bool := false
  startBeat : Option Nat := none
  started : Bool := false
  substituted : Bool := false
  assign : Option Assignment := none
  /-- The part that CKPT frames have brought for this role, and its manifest when one came (R413). -/
  extern : Option (List Byte) := none
  externMan : Option Manifest := none
  replayEnd : Option Nat := none
  exclusions : List Exclusion := []
  recoverLeft : Nat := 0
  sampleFirst : Nat := 0
  coord : CoordSt := {}
deriving DecidableEq, Repr

/-- What the commit, skip or start of a job in beat `beat` has changed, so that a halt that takes effect in the same beat comes before it (R396): the
job and its stages before it, the bytes that its row shadows replaced and the tables that they made wait, the journal records it requested, whether it
was a skip, and whether it moved the device from JOINED to RUN. -/
structure JobUndo where
  beat : Nat
  job : JobSt
  stages : List (Nat × StageSt) := []
  cells : List (Nat × Byte) := []
  copies : List Nat := []
  seq : Nat := 0
  seqEnd : Nat := 0
  skip : Bool := false
  joined : Bool := false
deriving DecidableEq, Repr

/-- What the device sends. -/
inductive Out where
  | notice (dst job attempt : Nat) (f : FaultRec)
  | halted (dst : Nat) (r : HaltedRep)
  | assign (dst job : Nat) (a : Assignment)
  | restoreDone (dst job : Nat) (recovery : Bool)
  | stopped (dst job code : Nat)
  /-- A hosted part goes to the device that restores its role (R412, R413). -/
  | hostedPart (dst job role version : Nat) (part : List Byte)
  /-- A Vine frame; a HELLO on a port and lane; a join record, a lock record, the announcement, a beat marker; probes of a link; a low pulse
  on POD_FAULT_N in VINE_CK cycles. -/
  | vine (f : VineFrame)
  | hello (port lane : Nat) (h : Hello)
  | join (dst : Nat) (r : JoinRec)
  | locked (dst : Nat) (devices : List Nat)
  | announce (dst : Nat) (a : Announce)
  | beatMarker (port lane dst : Nat) (m : BeatMarker)
  | probes (port lane : Nat)
  | podFault (cycles : Nat)
  | startReady (dst job : Nat)
  | startRecord (dst job form beat : Nat)
  | hosted (dst job role version : Nat) (part : List Byte)
  | hostedAck (dst job version : Nat)
  /-- A sealed data frame of a session, a retransmission included; a plain STATUS outside a session (R490); an ACCEPT; an ACK_ONLY frame. -/
  | frame (session psn : Nat) (w : FrameOut)
  | plainStatus (code : Nat)
  | accept (session : Nat) (nonce : Digest) (sig : HssSig)
  | ackOnly (session psn ackPsn : Nat) (ackMap : DWord)
  /-- An ATTEST reply: the report, the encapsulation key and the device certificate (R425, R502). -/
  | attest (r : AttestRep) (kem cert : List Byte)
  /-- A peer load: the bound Husk with the chunks of the granules that this device holds, sealed again (R440). -/
  | huskPeer (dst : Nat) (h : Husk)
  /-- A PFC frame that stops or releases the peer (R485). -/
  | pfc (stop : Bool)
  /-- Rows of an LSEND whose receiver is on another device. -/
  | linkData (chan : Nat) (data : List Byte)
  | lookup (dst serial bag table : Nat) (pool : Pool) (rows : List (Nat × Word))
  | bagPartial (dst serial bag : Nat) (p : BagPartial)
  | lossExch (dst id mb row : Nat) (r : LossExch)
  | ready (dst : Nat) (r : ReadyRec)
  | marker (dst : Nat) (m : Marker)
  /-- Exchange and parameter chunks over a port, on their way to a device (Table 10-4). -/
  | chunk (port dst : Nat) (c : Chunk)
  | param (port dst : Nat) (c : ParamChunk)
  | sparse (dst : Nat) (chan : Nat) (l : SparseList)
deriving DecidableEq, Repr

/-! ## Serving (11) -/

/-- Request states (Table 11-2); `claimed` is a slot that a session is writing. -/
inductive ReqPhase where
  | claimed | admitted | prefill | decode | pausing | ending
deriving DecidableEq, Repr

/-- What a decode round of a batch step has decided: emitted tokens with their ring flags, and the code that ends the request after them;
`nan` says that a row was NONFINITE. -/
structure Round where
  toks : List (Nat × Nat)
  code : Option Nat := none
  nan : Bool := false
deriving DecidableEq, Repr

/-- A request slot that is not FREE (R298 to R327, R495 to R499). `toks` are the tokens of positions base, base + 1, … with their marks
(Table 11-11), `filled` the prompt positions prefilled, `gen` the tokens generated; `sets` are the page sets by page index; `sigma` the
state of the automaton, `adVer` the version of the student adapter; `drafts` the draft of the round under way; `ringOut` says that the ring kept the request out of the last
composition; `cancel` that a CANCEL has landed; `ring` holds the records from CONS to PROD and `sent` counts those sent; `owned` is the
conversation whose summary the request has taken over. -/
structure ReqSt where
  ph : ReqPhase := .claimed
  session : Option Nat := none
  client : Nat := 0
  written : Nat := 0
  r : Request := {}
  admBeat : Nat := 0
  base : Nat := 0
  toks : List Nat := []
  marks : List Nat := []
  past : List (Nat × Nat) := []
  filled : Nat := 0
  gen : Nat := 0
  sets : List (Nat × Nat) := []
  sAdapter : Option Nat := none
  tAdapter : Option Nat := none
  adVer : Nat := 0
  sigma : Nat := 0
  inStep : Option Nat := none
  drafts : List Nat := []
  draftStop : Bool := false
  draftNan : Bool := false
  round : Option Round := none
  ringOut : Bool := false
  cancel : Bool := false
  prod : Nat := 0
  cons : Nat := 0
  sent : Nat := 0
  ring : List RingRec := []
  termBeat : Option Nat := none
  owned : Option Summary := none
  saved : Option Summary := none
deriving DecidableEq, Repr

/-- Work of a request in a batch step (R302). -/
inductive Work where
  | prefill (n : Nat)
  | round
  | rank
deriving DecidableEq, Repr

/-- A batch step in flight. -/
structure BatchSt where
  id : Nat
  ctx : Fin 8
  items : List (Nat × Work)
deriving DecidableEq, Repr

/-- Adapter slot states (Table 11-9); a FREE slot is not listed. -/
inductive AdapterPhase where
  | loading | live | draining
deriving DecidableEq, Repr

structure AdapterSt where
  ph : AdapterPhase
  ident : Nat
  version : Nat
  teacher : Bool
  rank : Nat
  loaded : Bool := false
deriving DecidableEq, Repr

/-! ## Sessions and the Ethernet port (17) -/

/-- A data frame of the device that is not acknowledged: whether it has left, its retransmissions, and whether ACK_MAP has already caused
one (R492). -/
structure TxFrame where
  psn : Nat
  what : FrameOut
  sent : Bool := false
  retx : Nat := 0
  fast : Bool := false
deriving DecidableEq, Repr

/-- A data frame that waits in the reorder pool (R493). -/
structure Early where
  f : Frame
  body : FrameBody
deriving DecidableEq, Repr

/-- A session (R489 to R494, R500): whether OPEN carried 0x0000; its authority, CLIENT and key digest; the highest PSN delivered, frames
waiting ahead of a gap, the last ACK_ONLY PSN accepted and sent; its own unacknowledged frames, next PSN, and the peer's last
acknowledgement and window; arrivals not yet acknowledged; and the incoming object as its kind and next block. -/
structure SessionSt where
  opened : Bool := false
  authority : Authority := .client
  client : Nat := 0
  key : Digest := 0
  transcript : Digest := 0
  keyIn : Digest := 0
  keyOut : Digest := 0
  rx : Nat := 0
  early : List Early := []
  aoRx : Nat := 0
  aoTx : Nat := 0
  tx : List TxFrame := []
  txNext : Nat := 1
  peerAck : Nat := 0
  peerWindow : Nat := 1
  owed : Nat := 0
  obj : Option (Nat × Nat) := none
deriving DecidableEq, Repr

/-- The Ethernet port (R481 to R486): whether the link is up, whether 400GBASE-R is the mode tried or in use, whether the module lets the
port come up, its presence, fault and CMIS states, PFC on and its priority, whether a received PFC frame stops transmission and whether a sent one
stands, and the addresses found in use by others (0 link-local, 1 prefix, 2 IPv4). -/
structure EthSt where
  up : Bool := false
  mode400 : Bool := false
  moduleOk : Bool := true
  present : Bool := false
  dpFault : Bool := false
  modState : Nat := 0
  dpState : Nat := 0
  pfc : Option Nat := none
  paused : Bool := false
  pausing : Bool := false
  dup : List Nat := []
deriving DecidableEq, Repr

/-! ## Security (15) -/

/-- A meter entry (R444, R445): RESERVED in units, teacher MACs reserved and not issued, a reservation in units that is not yet durable,
GRANT_SEQ, the current limit and whether it is a grant's, RESERVED as carried over at the last boot, and teacher MACs subtracted since then
in earlier bindings. -/
structure MeterSt where
  reserved : Nat := 0
  pool : Nat := 0
  asked : Option Nat := none
  grantSeq : Nat := 0
  limit : Nat := 0
  granted : Bool := false
  carried : Nat := 0
  macs : Nat := 0
  licensor : Digest := 0
  exhausted : Bool := false
deriving DecidableEq, Repr

/-- A request for an identity signature that waits: an attestation report, or the ACCEPT of a session that is to be set up, with the INIT
payload that it answers (R421, R423, R489). -/
inductive SignReq where
  | report (nonce husk : Digest)
  | accept (authority : Authority) (client : Nat) (key : Digest) (payload : List Byte)
deriving DecidableEq, Repr

/-- A Husk that waits for key derivation (R458): the session and PSN that delivered its last frame. -/
structure HeldHusk where
  session : Nat
  psn : Nat
  husk : Husk
deriving DecidableEq, Repr

/-- Security state: meter stations TCD 0 to 3 and MSD 0 to 5 in teacher MACs; the bound Husk with its policy and licensor; the MACs subtracted for it
since boot (R443 to R446); the stations that wait for units; meter entries by HUSK_ID; burned OWNER slots, FW_SVN_MIN and EPOCH
bits (Table 15-2); whether keys are derived, the active epoch, the next leaf, the end of the reserved block, and the requests that wait
for a leaf (R419 to R424); the claim challenge; tickets by CLIENT and the storage key (R432); the last 16 reports (R502); rotation counts
of the regions (R449); the digest of the Vrellaud firmware key in ROM, the unique device secret, K_boot and the K_c of the bound Husk (Table 15-1); the
identity public key and the KEM key pair once they are derived; the header, signature and tables of the bound Husk (R440); the level-1 and level-2 public keys formed
since the reset, with their signatures (R422); the journalled IMAGE_SVN minimum (R430); how many TRNG values have been drawn; and Husks that wait for keys. -/
structure SecSt where
  station : Vector Nat 10 := Vector.replicate 10 0
  husk : Option Digest := none
  policy : BitVec 32 := 0
  licensor : Digest := 0
  macs : Nat := 0
  short : List (Fin 10) := []
  meters : List (Nat × MeterSt) := []
  owners : List Digest := []
  fwSvnMin : Nat := 0
  epochs : Nat := 0
  keys : Bool := false
  epoch : Option Nat := none
  epochAsked : Bool := false
  nextLeaf : Nat := 0
  leafEnd : Nat := 0
  leafAsked : Bool := false
  waiting : List SignReq := []
  challenge : Digest := 0
  tickets : List (Nat × Digest) := []
  storageKey : Option Digest := none
  reports : List AttestRep := []
  rotation : List (Nat × Nat) := []
  romKey : Digest := 1
  uds : Digest := 0
  identityKey : List Byte := []
  encapKey : List Byte := []
  decapKey : List Byte := []
  huskObj : Option Husk := none
  bootKey : BitVec 512 := 0
  contentKey : Option Digest := none
  upper : Vector (Option UpperKey) 2 := Vector.replicate 2 none
  imageSvnMin : Nat := 0
  draws : Nat := 0
  held : List HeldHusk := []
deriving DecidableEq, Repr

/-! ## NVM (16) -/

/-- A write of a firmware bank, image bank or plan slot under way (R467). -/
inductive NvmWrite where
  | firmware (bank : Fin 2) (f : Firmware)
  | image (bank : Fin 2) (i : Image)
  | plan (slot : Nat) (p : Plan)
deriving DecidableEq, Repr

/-- The NVM but for the journal (R453 to R456): fitted and answering, its capacity in MiB, firmware and image banks, plan slots, the
write under way, the session and PSN that it came from, and the device certificate of the identity area (R418). -/
structure NvmSt where
  fitted : Bool := true
  answers : Bool := true
  supported : Bool := true
  mib : Nat := 128
  fw : Vector (Option Firmware) 2 := Vector.replicate 2 none
  img : Vector (Option Image) 2 := Vector.replicate 2 none
  plans : List (Nat × Plan) := []
  write : Option NvmWrite := none
  writer : Option (Nat × Nat) := none
  cert : List Byte := Config.certificate (deviceIdOf 0) (Config.sha256 (encapKeyBytes 0))
deriving DecidableEq, Repr

/-! ## The Vine, links, formation and the beat (13, 16) -/

/-- The Vine on this device (R374 to R378, R471, R472, R376): whether a second master has stopped driving VINE_CK; the NEXT
with which ENUM came back; the entries last seen in
STRAP and STATE; as master, whether an ENUM is on its way, the position that a PING asks, the break position found, the transfer under way
as (image, target, next block, repeats) and the positions served in this boot of theirs; as target, the next block expected
and the data received. -/
structure VineSt where
  stopped : Bool := false
  count : Option Nat := none
  straps : List Straps := []
  states : List Nat := []
  enumOut : Bool := false
  ping : Option Nat := none
  brk : Option Nat := none
  tx : Option (Bool × Nat × Nat × Nat) := none
  served : List Nat := []
  rxNext : Nat := 0
  rxData : List Byte := []
deriving DecidableEq, Repr

/-- A Pliolo port, or a lane of port 7 (Tables 13-9, 18-10): STATE, locked lanes, delay in 1/8 ns, the best probe of the set under way as
(round trip, turnaround) with the probes taken, and what its neighbour claims. -/
structure PortSt where
  st : Nat := 0
  lanes : Nat := 0
  delay : Nat := 0
  best : Option (Nat × Nat) := none
  probes : Nat := 0
  neigh : Option Hello := none
deriving DecidableEq, Repr

/-- Formation (R379 to R387): the phase, 0 when none runs; whether JOIN_LIMIT of joinability has run out; the pod positions known joinable;
the lowest code of phases 1 to 3; the join records held, by level × 2^17 + address, and the levels whose combined record has gone; the
Plot's record at the acting Plot Root; devices locked; the join beat; whether this device rejoins alone; and at the acting Plot Root the
devices accepted for rejoin, those that have rejoined with their beats, and those known to have left. `podRoot`, `rowRoot` and `plotRoot`
say which roles this device holds. -/
structure FormSt where
  phase : Nat := 0
  closed : Bool := false
  joinable : List Nat := []
  code : Nat := 0
  recs : List (Nat × JoinRec) := []
  sent : List Nat := []
  total : Option JoinRec := none
  locks : List Nat := []
  joinBeat : Option Nat := none
  alone : Bool := false
  accepted : List Nat := []
  rejoined : List (Nat × Nat) := []
  failed : List Nat := []
  podRoot : Bool := false
  rowRoot : Bool := false
  plotRoot : Bool := false
deriving DecidableEq, Repr

/-- The beat on this device (R361 to R368): δ of the last primary marker in 1/8 ns, DEPTH, whether phase 5 has locked and the markers
counted towards it, whether it steers from the secondary upstream, the beats of the last valid markers of both upstreams and the last δ of
the secondary one, valid primary markers since the failover, REF_LOST, and at the acting Plot Root the lock of its source, the edges or
Sync intervals in range, and the start count that waits for a PPS edge. -/
structure BeatSt where
  dev : Int := 0
  depth : Nat := 0
  locked : Bool := false
  run : Nat := 0
  secondary : Bool := false
  lastPri : Nat := 0
  lastSec : Option Nat := none
  devSec : Option Int := none
  back : Nat := 0
  refLost : Bool := false
  source : Bool := false
  ppsRun : Nat := 0
  ptpRun : Nat := 0
  start : Option Nat := none
deriving DecidableEq, Repr

/-! ## Power and temperature (19) -/

/-- Power and pins (R525 to R534): the input in range, PWR_EN, PWR_GOOD, RESET_N, the cap, the alert, whether issue has stopped at a trip,
whether a shutdown waits for PWR_EN to fall, CAP_W, and the measurements of Table 18-9 as last refreshed. -/
structure PwrSt where
  vin : Bool := true
  en : Bool := true
  good : Bool := true
  resetN : Bool := true
  cap : Bool := false
  alert : Bool := false
  trip : Bool := false
  shut : Bool := false
  capW : Nat := 2400
  mv : Nat := 0
  w : Nat := 0
  temps : Vector Nat 13 := Vector.replicate 13 0
deriving DecidableEq, Repr

/-! ## The state -/

/-- The state of the device. -/
structure State where
  /-- Commands that are waiting, first in first out. -/
  pending : List Instr := []
  /-- HBM and scratchpads: HBM byte h at address h, scratchpad byte a of core n at 2^40 + n × 2^20 + a; an unlisted byte reads 0. -/
  mem : List Host.Cell := []
  /-- Cores that differ from their initial state, by device core index (R549). -/
  cores : List (Nat × CoreSt) := []
  /-- Numeric flag words (R63). -/
  flags : Vector Word 8 := Vector.replicate 8 0
  chans : List (Nat × ChanSt) := []
  plan : Option Plan := none
  /-- The records of the applied image, omitted ones at their defaults (R4, R463), and whether an image is applied (R513). -/
  img : ImageRecs := {}
  imgApplied : Bool := false
  beat : Nat := 0
  /-- Phase of the beat in ns (R356). -/
  phase : Nat := 0
  dev : DevState := .boot
  /-- The device address, of which the position is valid once the Vine has given it (R43, R44). -/
  addr : Nat := 0
  addrValid : Bool := false
  /-- Whether the beat is acquired (R364), and the Join Digest, 0 before JOINED (R386). -/
  acquired : Bool := false
  joinDigest : Digest := 0
  err : ErrSt := {}
  /-- Device counters of Table 18-7, by (offset − 0x4000) / 8. -/
  devCnt : Vector DWord 21 := Vector.replicate 21 0
  /-- Context counters of Table 18-8: bank, then bank offset / 8. -/
  ctxCnt : Vector (Vector DWord 16) 8 := Vector.replicate 8 (Vector.replicate 16 0)
  jobs : List (Nat × JobSt) := []
  /-- By job: what its last keyed action changed (R396). -/
  undos : List (Nat × JobUndo) := []
  sec : SecSt := {}
  lookups : List LookupSt := []
  nextLookup : Nat := 0
  /-- Landing buffers that differ from empty, by buffer; the last STSEND source served by each Target Former, as core × 8 + context
  (R193). -/
  bufs : List (Nat × BufSt) := []
  former : Vector (Option Nat) 4 := Vector.replicate 4 none
  /-- Open jobs of the Loss Stage, in queue order. -/
  loss : List LossJob := []
  lossEarly : List EarlyExch := []
  /-- Whether a Target Former has held a row that waits for credit in this beat (R195). -/
  stemStall : Vector Bool 4 := Vector.replicate 4 false
  stages : List (Nat × StageSt) := []
  accts : List (Nat × AcctSt) := []
  /-- Whether an entry of each context has been in progress on an S-core in this beat (R241). -/
  busy : Vector Bool 8 := Vector.replicate 8 false
  /-- Captures of R255. -/
  capt : List CaptSt := []
  exch : List (Nat × ExchSt) := []
  /-- Tables whose row shadow is being copied into place (R251). -/
  shadowCopy : List Nat := []
  shadow : List ShadowRow := []
  jnl : JnlSt := {}
  /-- Slots of sample tables that are not FREE, by context × 2^30 + slot, and how many slots have completed. -/
  samples : List (Nat × SampleSlot) := []
  sampleSerial : Nat := 0
  /-- Schedule records that have triggered since they were armed, by their place in the schedule, and the KEY of the last entry of context c
  on core n, by 8 × n + c (R347, R348). -/
  fired : List Nat := []
  keys : List (Nat × Nat) := []
  /-- FORM in force (R365), the acting Plot Root, and the addresses excluded from the Plot (R381). -/
  form : Nat := 0
  origin : Nat := 0
  excluded : List Nat := []
  /-- Request slots that are not FREE, by context × 2^20 + slot, batch steps in flight, and how many have been composed (R300, R302). -/
  reqs : List (Nat × ReqSt) := []
  batches : List BatchSt := []
  nextBatch : Nat := 0
  /-- Adapter slots that are not FREE, by slot; the highest version of each identifier, by 2 × identifier + (1 for the teacher's). -/
  adapters : List (Nat × AdapterSt) := []
  adapterHigh : List (Nat × Nat) := []
  /-- Mask objects by MASK_ID, and those to be freed when no request refers to them (R307). -/
  masks : List (Nat × MaskObj) := []
  maskFree : List Nat := []
  /-- Listed summaries by CONV (R323). -/
  summaries : List (Nat × Summary) := []
  /-- Sessions by SESSION, the next SESSION to give, and MGMT reports that wait for an OPERATOR session (R489, R503). -/
  sessions : List (Nat × SessionSt) := []
  nextSession : Nat := 1
  reports : List Report := []
  eth : EthSt := {}
  /-- The device's identity (R418): SHA-256 of the identity public key of its unique secret. -/
  deviceId : Digest := deviceIdOf 0
  nvm : NvmSt := {}
  /-- Banks that the boot started and applied (R459, R466), and the directory entry of the loaded plan: 0xFE from IMAGE kind 0x04, 0xFF none. -/
  fwRun : Option (Fin 2) := none
  imgRun : Option (Fin 2) := none
  planEntry : Nat := 0xFF
  /-- The plan last received in IMAGE frames of kind 0x04 (R501). -/
  planRx : Option Plan := none
  /-- A plan switch under way, as the new plan and its directory entry (R353); none in a DRAIN without one. -/
  switch : Option (Plan × Nat) := none
  drainSince : Nat := 0
  /-- The context of each class that issued last on a core, by 2 × core + class (R336). -/
  turns : List (Nat × Fin 8) := []
  /-- Start-queue entries in progress that were appended to several cores, with the cores on which they have not completed (R102). -/
  openEntries : List (EntryTag × List Nat) := []
  /-- Entries that the die sequencers hold for full start queues, oldest first (R102). -/
  heldEntries : List (Site × StartEntry) := []
  /-- The straps as sampled, NVM_PRES_N with them in `nvm` (R43). -/
  straps : Straps := {}
  vine : VineSt := {}
  /-- Pliolo ports, by port × 8 + lane (lane 0 but on port 7 of the Pod Root). -/
  ports : List (Nat × PortSt) := []
  formation : FormSt := {}
  bt : BeatSt := {}
  pwr : PwrSt := {}
  /-- Why the device stays in BOOT, 0 for no reason (R453, R456, R459). -/
  bootCode : Nat := 0
  /-- Whether the journal was opened fresh at this boot (R476). -/
  jnlInit : Bool := false
  /-- What the device has sent, in order. -/
  out : List Out := []
deriving DecidableEq, Repr

/-- A firmware bank as shipped: programmed and verified (R548). Its content is the model's own. -/
def shippedFirmware : Firmware :=
  { header := natBe 4 0x454C4657 ++ natBe 4 1 ++ natBe 8 1 ++ natBe 4 0 ++ natBe 4 64 ++ List.replicate 40 0
    code := [], signature := [], signer := 1, sig := ⟨[(5, 8)], true⟩ }

/-- The machine right after reset (R511: entry to BOOT), as shipped (R548). -/
def State.reset : State := { nvm := { fw := #v[some shippedFirmware, some shippedFirmware] } }

end Sys2Proof.Machine
end

