-- ==== Sys2Proof/Machine/Ops.lean ====
section
/-!
DEFINITION. Named operations over memory, core state and registers: sparse maps, bytes, words, tiles under their descriptors, counters.
-/

namespace Sys2Proof.Machine

/-! ## Sparse maps: lists of (key, value), keys strictly rising -/

def aget {α : Type} : List (Nat × α) → Nat → Option α
  | [], _ => none
  | (k, v) :: r, a => if a = k then some v else if a < k then none else aget r a

def aput {α : Type} : List (Nat × α) → Nat → α → List (Nat × α)
  | [], a, v => [(a, v)]
  | (k, w) :: r, a, v => if a = k then (a, v) :: r else if a < k then (a, v) :: (k, w) :: r else (k, w) :: aput r a v

def adel {α : Type} : List (Nat × α) → Nat → List (Nat × α)
  | [], _ => []
  | (k, w) :: r, a => if a = k then r else if a < k then (k, w) :: r else (k, w) :: adel r a

/-- Whether the meter entry of the bound Husk is exhausted (R446). -/
def SecSt.exhausted (x : SecSt) : Bool := (x.husk.bind fun h => aget x.meters h.toNat).any MeterSt.exhausted

/-! ## Memory: an unlisted byte reads 0 (log entry 1) -/

/-- The byte at an address. -/
def memGet : List Host.Cell → Nat → Byte
  | [], _ => 0
  | (k, v) :: r, a => if a = k then v else if a < k then 0 else memGet r a

/-- Storing a byte; storing 0 removes the entry, so that the form stays canonical. -/
def memPut : List Host.Cell → Nat → Byte → List Host.Cell
  | [], a, v => if v = 0 then [] else [(a, v)]
  | (k, w) :: r, a, v =>
    if a < k then (if v = 0 then (k, w) :: r else (a, v) :: (k, w) :: r)
    else if a = k then (if v = 0 then r else (a, v) :: r)
    else (k, w) :: memPut r a v

/-- Addresses strictly rising from `lo` and no entry equal to what an unlisted address reads as. -/
def memWfFrom : Nat → List Host.Cell → Bool
  | _, [] => true
  | lo, (k, v) :: r => decide (lo ≤ k) && decide (v ≠ 0) && memWfFrom (k + 1) r

/-- The canonical form of memory. -/
def Memory.wf (m : List Host.Cell) : Bool := memWfFrom 0 m

def memPutBytes : List Host.Cell → Nat → List Byte → List Host.Cell
  | m, _, [] => m
  | m, a, b :: r => memPutBytes (memPut m a b) (a + 1) r

def memGetBytes (m : List Host.Cell) (a n : Nat) : List Byte := (List.range n).map fun i => memGet m (a + i)

def memGetLe (m : List Host.Cell) (a n : Nat) : Nat := leNat (memGetBytes m a n)
def memPutLe (m : List Host.Cell) (a n v : Nat) : List Host.Cell := memPutBytes m a (natLe n v)

/-- Zero-filling of a range. -/
def memZero (m : List Host.Cell) (a n : Nat) : List Host.Cell := m.filter fun (k, _) => k < a || a + n ≤ k

/-! ## Cores -/

/-- Whether a device core index names an S-core (R549). -/
def isSCore (n : Nat) : Bool := decide (Config.numTCores ≤ n)
/-- Lane count W (R137) and scratchpad size (R120) of a core. -/
def lanesOf (n : Nat) : Nat := if isSCore n then 128 else 64
def scratchSize (n : Nat) : Nat := if isSCore n then Config.sScratchBytes else Config.tScratchBytes

/-- A core in its initial state (Table 4-1): the active length is the full width. -/
def CoreSt.init (n : Nat) : CoreSt := { ctx := Vector.replicate 8 { vl := BitVec.ofNat 8 (lanesOf n) } }

def State.core (s : State) (n : Nat) : CoreSt := (aget s.cores n).getD (CoreSt.init n)
def State.setCore (s : State) (n : Nat) (c : CoreSt) : State := { s with cores := aput s.cores n c }
def State.ctxAt (s : State) (a : Site) : CtxSt := (s.core a.core).ctx[a.ctx]
def State.setCtx (s : State) (a : Site) (x : CtxSt) : State :=
  let c := s.core a.core
  s.setCore a.core { c with ctx := c.ctx.set a.ctx x }

/-- A scalar register; g0 reads 0 (Table 4-1). -/
def CtxSt.greg (x : CtxSt) (r : Fin 32) : Word := if r = 0 then 0 else x.g[r]
/-- Writing a scalar register; a write to g0 is discarded. -/
def CtxSt.setG (x : CtxSt) (r : Fin 32) (v : Word) : CtxSt := if r = 0 then x else { x with g := x.g.set r v }
/-- A predicate; p0 reads 1. -/
def CtxSt.preg (x : CtxSt) (r : Fin 8) : Bool := if r = 0 then true else x.p.getLsbD r
/-- Writing a predicate; p0 stays 1. -/
def CtxSt.setP (x : CtxSt) (r : Fin 8) (v : Bool) : CtxSt :=
  if r = 0 then x else { x with p := (x.p &&& ~~~(1#8 <<< r.val)) ||| (if v then 1#8 <<< r.val else 0#8) }

/-- Adding to a sync counter, modulo 2^32 (R126). -/
def CtxSt.addC (x : CtxSt) (c : Fin 16) (v : Word) : CtxSt := { x with c := x.c.set c (x.c[c] + v) }

/-- A bound event increments a counter of a context on a core (R125). -/
def State.bump (s : State) (a : Site) (c : Fin 16) (n : Word) : State := s.setCtx a ((s.ctxAt a).addC c n)

/-- The counter-table entry `id` of the plan increments (R125); an entry the plan does not hold increments nothing. -/
def State.bumpEntry (s : State) (id : Nat) (n : Word) : State :=
  match s.plan with
  | none => s
  | some p => match p.counters.find? (fun r => r.id == id) with
    | some r => s.bump r.site r.c n
    | none => s

/-! ## Scratchpad and HBM addresses -/

/-- Where scratchpad byte `a` of core `n` stands in `mem`. -/
def scrAddr (n a : Nat) : Nat := 2 ^ 40 + n * 2 ^ 20 + a

def State.scr (s : State) (n a len : Nat) : List Byte := memGetBytes s.mem (scrAddr n a) len
def State.setScr (s : State) (n a : Nat) (b : List Byte) : State := { s with mem := memPutBytes s.mem (scrAddr n a) b }

end Sys2Proof.Machine

namespace Sys2Proof
open Machine

/-- The region of a kind (its first record) and its base. -/
def Plan.regionOf (p : Plan) (k : RegionKind) : Option RegionRec := p.regions.find? (fun r => r.kind == k)

end Sys2Proof

namespace Sys2Proof.Machine

def State.regionBase (s : State) (k : RegionKind) : Nat := ((s.plan.bind (·.regionOf k)).map (·.base)).getD 0
/-- A scratch-region byte address from an offset in 128-byte units. -/
def State.scratchAt (s : State) (off : Nat) : Nat := s.regionBase .scratch + off * 128

/-! ## Tiles under a descriptor (R109, R110) -/

end Sys2Proof.Machine

namespace Sys2Proof
open Machine

def TileDesc.rows (t : TileDesc) : Nat := t.rowsM1.toNat + 1
def TileDesc.cols (t : TileDesc) : Nat := t.colsM1.toNat + 1
def TileDesc.fmt (t : TileDesc) : Fmt := (fmtdFmt t.fmtd).getD .fp32
/-- Packed row length in bytes. -/
def TileDesc.rowBytes (t : TileDesc) : Nat := (t.cols * t.fmt.width + 7) / 8
/-- Logical index of element (r, c). -/
def TileDesc.index (t : TileDesc) (r c : Nat) : Nat := (t.indexBase.toNat + r * t.lrow.toNat + c) % 2 ^ 50

/-- The ranges a descriptor covers (R123): its rows and, when block-scaled, its scale rows. -/
def TileDesc.ranges (t : TileDesc) : List (Nat × Nat) :=
  (t.base.toNat, t.base.toNat + (t.rows - 1) * t.stride.toNat + t.rowBytes) ::
  (if fmtdBlk t.fmtd then
    [(t.scaleBase.toNat, t.scaleBase.toNat + (t.rows - 1) * t.scaleStride.toNat + (t.cols + 31) / 32)] else [])
/-- The range of a descriptor that addresses raw accumulator records: 96 bytes per column (R91, R112). -/
def TileDesc.rawRanges (t : TileDesc) : List (Nat × Nat) :=
  [(t.base.toNat, t.base.toNat + (t.rows - 1) * t.stride.toNat + 96 * t.cols)]


end Sys2Proof

namespace Sys2Proof.Machine

def rangesHit (x y : List (Nat × Nat)) : Bool := x.any fun (a, b) => y.any fun (c, d) => decide (a < d) && decide (c < b)

/-- The encoding of element c of a packed row that starts at `a` (R49): little-endian packing at any width. -/
def elemBits (m : List Host.Cell) (a : Nat) (f : Fmt) (c : Nat) : Nat :=
  let off := c * f.width
  memGetLe m (a + off / 8) ((off % 8 + f.width + 7) / 8) / 2 ^ (off % 8) % 2 ^ f.width

/-- Storing the encoding of element c of a packed row. -/
def putElemBits (m : List Host.Cell) (a : Nat) (f : Fmt) (c bits : Nat) : List Host.Cell :=
  let off := c * f.width
  let n := (off % 8 + f.width + 7) / 8
  let old := memGetLe m (a + off / 8) n
  let sh := off % 8
  memPutLe m (a + off / 8) n (old % 2 ^ sh + (bits % 2 ^ f.width) * 2 ^ sh + old / 2 ^ (sh + f.width) * 2 ^ (sh + f.width))

/-- The value of element (r, c) of a tile on core n, its block scale applied (R55). -/
def State.elem (s : State) (n : Nat) (t : TileDesc) (r c : Nat) : Num :=
  let b := elemBits s.mem (scrAddr n (t.base.toNat + r * t.stride.toNat)) t.fmt c
  if fmtdBlk t.fmtd then
    scaled t.fmt b (memGet s.mem (scrAddr n (t.scaleBase.toNat + r * t.scaleStride.toNat + c / 32))).toNat
  else decode t.fmt b

/-- A tile as rows of values. -/
def State.tile (s : State) (n : Nat) (t : TileDesc) : List (List Num) :=
  (List.range t.rows).map fun r => (List.range t.cols).map fun c => s.elem n t r c

/-- Storing encodings of some elements of row r. -/
def State.putRow (s : State) (n : Nat) (t : TileDesc) (r : Nat) (els : List (Nat × Nat)) : State :=
  { s with mem := els.foldl (fun m (c, bits) => putElemBits m (scrAddr n (t.base.toNat + r * t.stride.toNat)) t.fmt c bits) s.mem }

/-- Storing the scale byte of block b of row r. -/
def State.putScale (s : State) (n : Nat) (t : TileDesc) (r b v : Nat) : State :=
  { s with mem := memPut s.mem (scrAddr n (t.scaleBase.toNat + r * t.scaleStride.toNat + b)) (BitVec.ofNat 8 v) }

/-- The 32 bytes of a descriptor-pool entry as a descriptor (Table 4-11). -/
def tdOfBytes (b : List Byte) : TileDesc :=
  let v := leNat b
  { base := BitVec.ofNat 20 v, stride := BitVec.ofNat 16 (v / 2 ^ 20), fmtd := BitVec.ofNat 8 (v / 2 ^ 36),
    rowsM1 := BitVec.ofNat 6 (v / 2 ^ 44), colsM1 := BitVec.ofNat 13 (v / 2 ^ 50), scaleBase := BitVec.ofNat 20 (v / 2 ^ 64),
    scaleStride := BitVec.ofNat 16 (v / 2 ^ 84), tensorId := BitVec.ofNat 32 (v / 2 ^ 128), lrow := BitVec.ofNat 32 (v / 2 ^ 160),
    indexBase := BitVec.ofNat 50 (v / 2 ^ 192) }

/-- The 32 bytes of a descriptor. -/
def tdBytes (t : TileDesc) : List Byte :=
  natLe 32 (t.base.toNat + t.stride.toNat * 2 ^ 20 + t.fmtd.toNat * 2 ^ 36 + t.rowsM1.toNat * 2 ^ 44 + t.colsM1.toNat * 2 ^ 50
    + t.scaleBase.toNat * 2 ^ 64 + t.scaleStride.toNat * 2 ^ 84 + t.tensorId.toNat * 2 ^ 128 + t.lrow.toNat * 2 ^ 160
    + t.indexBase.toNat * 2 ^ 192)

/-- Ascending order by a key, equal keys in their order. -/
def insKey {α : Type} (key : α → Nat) (x : α) : List α → List α
  | [] => [x]
  | y :: r => if key x ≤ key y then x :: y :: r else y :: insKey key x r
def sortKey {α : Type} (key : α → Nat) (l : List α) : List α := l.foldr (insKey key) []

/-! ## Captures of the scale history (R255) -/

/-- Raising the capture of a job's history entry in a step to at least v. -/
def captMax : List CaptSt → CapKey → Rat → List CaptSt
  | [], k, v => [⟨k.job, k.entry, k.step, v⟩]
  | x :: r, k, v =>
    if x.job == k.job && x.entry == k.entry && x.step == k.step then { x with max := max x.max v } :: r else x :: captMax r k v

/-- Capturing the finite values that a covered write passes to round_to. -/
def State.capture (s : State) (cap : Option CapKey) (xs : List Num) : State :=
  match cap with
  | none => s
  | some k => { s with capt := captMax s.capt k (xs.foldl (fun m x => max m x.abs.val) 0 * pow2 (-k.exp)) }

/-- The job that contains a context. -/
def State.jobOf (s : State) (c : Fin 8) : Option JobRec := s.plan.bind fun p => p.jobs.find? fun j => j.ctxMask.getLsbD c
def State.jobSt (s : State) (id : Nat) : JobSt := (aget s.jobs id).getD {}
def State.setJob (s : State) (id : Nat) (j : JobSt) : State := { s with jobs := aput s.jobs id j }
/-- The state of the job of a context; that of a context in no job is the initial one. -/
def State.ctxJob (s : State) (c : Fin 8) : JobSt := ((s.jobOf c).map fun j => s.jobSt j.job).getD {}

/-- Whether a commit, a skip or a start keyed to this beat is still to be applied to the job of a context (R240, R372, R373). -/
def State.actionDue (s : State) (c : Fin 8) : Bool :=
  let t := s.ctxJob c
  (t.st == .running && t.marker.any fun m => m.commitBeat == s.beat) || (t.st == .starting && t.startBeat == some s.beat && s.dev != .drain)

/-- The history entry that covers a tensor_id. -/
def State.histEntry (s : State) (tid : Nat) : Option Nat :=
  s.plan.bind fun p => p.hist.findIdx? fun h => decide (h.baseId ≤ tid) && decide (tid < h.baseId + h.count)

/-- What a write by a context in a step captures, under the exponent in force: for a weight copy, the one it is formed with. -/
def State.capOf (s : State) (c : Fin 8) (tid step : Nat) (copy : Bool) : Option CapKey :=
  match s.jobOf c, s.histEntry tid with
  | some j, some i =>
    let h := (s.ctxJob c).hist.getD i {}
    some ⟨j.job, i, step, if copy then h.copyExp else h.exp⟩
  | _, _ => none

/-! ## Flags -/

/-- Posting numeric flags to a context's flag word (R63, R64). -/
def State.postFlags (s : State) (c : Fin 8) (f : Word) : State := { s with flags := s.flags.set c (s.flags[c] ||| f) }

end Sys2Proof.Machine
end

