-- ==== Sys2Proof/Machine/Counters.lean ====
section
/-!
DEFINITION. Counters, rejections and journal requests (R19, R363, R474, R475, R514 to R516).
-/

namespace Sys2Proof.Machine

/-! ## Counters (R516) -/

def cntBankStall : Fin 21 := 0
def cntMoeDrop : Fin 21 := 1
def cntTableOob : Fin 21 := 2
def cntRefLoss : Fin 21 := 7
def cntBeatExcess : Fin 21 := 8
def cntBeatFailover : Fin 21 := 9
def cntEccCorr : Fin 21 := 10
def cntJobHalt : Fin 21 := 11
def cntSampleStale : Fin 21 := 12
def cntJnlWait : Fin 21 := 13
def cntJnlTorn : Fin 21 := 14
def cntJnlCompact : Fin 21 := 15
def cntJnlDrop : Fin 21 := 16
def cntEthDiscard : Fin 21 := 17
def cntEthAuth : Fin 21 := 18
def cntEthRetx : Fin 21 := 19
def cntMgmtDrop : Fin 21 := 20
/-- CNT_STEM_STALL of TCD t. -/
def cntStemStall (t : Fin 4) : Fin 21 := ⟨3 + t.val, by omega⟩

/-- A device counter increments, modulo 2^64. -/
def State.count (s : State) (c : Fin 21) (n : Nat := 1) : State :=
  { s with devCnt := s.devCnt.set c (s.devCnt[c] + BitVec.ofNat 64 n) }

def ccPreempt : Fin 16 := 0
def ccYieldRemote : Fin 16 := 1
def ccYieldMax : Fin 16 := 2
def ccStashDemote : Fin 16 := 3
def ccRecompute : Fin 16 := 4
def ccSlotWait : Fin 16 := 5
def ccStepSkip : Fin 16 := 6
def ccScaleRecover : Fin 16 := 7
def ccStragglerDrop : Fin 16 := 8
def ccStragglerCarry : Fin 16 := 9
def ccBucketNf : Fin 16 := 10
def ccCheck : Fin 16 := 11
def ccCheckMismatch : Fin 16 := 12
def ccRingStall : Fin 16 := 13
def ccPageWait : Fin 16 := 14
def ccVerdictDrop : Fin 16 := 15

/-- A context counter increments in the bank of context `b`, modulo 2^64. -/
def State.countCtx (s : State) (b : Fin 8) (c : Fin 16) (n : Nat := 1) : State :=
  { s with ctxCnt := s.ctxCnt.set b ((s.ctxCnt[b]).set c ((s.ctxCnt[b])[c] + BitVec.ofNat 64 n)) }

/-! ## Rejections (R19, Table 18-5) -/

/-- The register value of ERR_LAST_LOC for a plan rejection in an instruction and in a record (R133, Table 18-5). -/
def locInstr (ctx core idx : Nat) : Nat := idx % 2 ^ 12 + (core % 2 ^ 14) * 2 ^ 12 + (ctx % 8) * 2 ^ 26
def locRecord (idx : Nat) : Nat := idx % 2 ^ 26 + 2 ^ 29

def State.withErr (s : State) (e : ErrSt) : State := { s with err := e }

/-- The error record after a rejection. `cls` is the CLASS of the frame. -/
def State.rejErr (s : State) (code cls loc : Nat) : ErrSt :=
  { s.err with
    lastCode := BitVec.ofNat 32 (code % 2 ^ 16 + (cls % 256) * 2 ^ 16)
    lastLoc := BitVec.ofNat 32 loc
    lastBeat := if s.acquired then BitVec.ofNat 64 s.beat else 0
    rejectTotal := s.err.rejectTotal + 1
    rejectNew := if s.err.rejectNew = 0xFFFF then 0xFFFF else s.err.rejectNew + 1 }

/-- A rejection leaves everything unchanged but the error record and the counters of rejections. -/
def State.reject (s : State) (code : Nat) (cls : Nat := 0) (loc : Nat := 0) : State :=
  s.withErr (s.rejErr code cls loc)

/-- What the device sends. -/
def State.send (s : State) (m : List Out) : State := { s with out := s.out ++ m }

/-! ## Journal requests (R474, R475) -/

/-- Beat time in ns: the count times the period of Table 13-1 (R363), 0 before acquisition (Table 16-9). -/
def State.beatNs (s : State) : Nat := if s.acquired then s.beat * 2 ^ (s.img.beat.periodCode) * 256 else 0

/-- Requesting a journal record: it is numbered, timed and waits to become durable. -/
def State.journal (s : State) (b : JnlBody) : State :=
  { s with jnl := { s.jnl with seq := s.jnl.seq + 1, queue := s.jnl.queue ++ [⟨s.jnl.seq + 1, s.beatNs, b⟩] } }

end Sys2Proof.Machine
end

