-- ==== Sys2Proof/Machine/Send.lean ====
section
/-!
DEFINITION. Sessions: their data frames towards the peer, acknowledgement, closing; MGMT reports (R490 to R494, R503); and the tables of
samples (R404, R405, R495, R497).
-/

namespace Sys2Proof.Machine

def State.session (s : State) (id : Nat) : Option SessionSt := aget s.sessions id
def State.setSession (s : State) (id : Nat) (x : SessionSt) : State := { s with sessions := aput s.sessions id x }

/-- Frames of a session that the peer's window and the port let leave do so (R485, R491). -/
def State.flushTx (s : State) (id : Nat) : State :=
  match s.session id with
  | none => s
  | some x =>
    if !s.eth.up || s.eth.paused then s
    else
      let go (f : TxFrame) : Bool := !f.sent && decide (f.psn ≤ x.peerAck + x.peerWindow)
      let out := (x.tx.filter go).map fun f => Out.frame id f.psn f.what
      (s.setSession id { x with tx := x.tx.map fun f => if go f then { f with sent := true } else f
                                owed := if out.isEmpty then x.owed else 0 }).send out

/-- A data frame of the device joins a session's frames. -/
def State.sendFrame (s : State) (id : Nat) (w : FrameOut) : State :=
  match s.session id with
  | none => s
  | some x => (s.setSession id { x with tx := x.tx ++ [{ psn := x.txNext, what := w }], txNext := x.txNext + 1 }).flushTx id

/-- Open OPERATOR sessions. -/
def State.operators (s : State) : List Nat :=
  s.sessions.filterMap fun (k, x) => if x.opened && x.authority == .operator then some k else none

/-- A MGMT report goes to every open OPERATOR session; with none open it waits in a queue of 64, whose oldest is dropped first (R503). -/
def State.reportFrom (s : State) (r : Report) : State :=
  match s.operators with
  | [] =>
    if s.reports.length < 64 then { s with reports := s.reports ++ [r] }
    else ({ s with reports := s.reports.drop 1 ++ [r] }).count cntMgmtDrop
  | l => l.foldl (fun (t : State) id => t.sendFrame id (.report r)) s

def State.report (s : State) (code : Nat) (d : ReportDetail) : State := s.reportFrom ⟨code, s.addr, d⟩

/-! ## Sealed exports (R451, R500) -/

/-- The key of an export under a base key and a label (R451). -/
def exportKey (base exportId : Digest) (label : List Byte) : Digest := Config.hkdf (digestBytes base) (digestBytes exportId) label

/-- The blocks of a list. -/
def blocksOf (n : Nat) (l : List Byte) : List (List Byte) := (List.range ((l.length + n - 1) / n)).map fun k => (l.drop (n * k)).take n

/-- An export opened block by block, each under its index and with its tag (R451); none where a tag fails. -/
def openExport (base exportId : Digest) (label data : List Byte) (tags : List (BitVec 128)) : Option (List Byte) :=
  let bs := blocksOf 8192 data
  let key := exportKey base exportId label
  if bs.length ≠ tags.length then none
  else ((bs.zip tags).zipIdx.mapM fun e => gcmOpen key (natBe 12 e.2) [] e.1.1 e.1.2).map List.flatten

/-- Sealing an export (R451, R500): an EXPORT_ID is drawn, and the data goes in blocks of 8,192 bytes, each sealed under the export key with its
index; answers the frames that `mk` makes of index, EXPORT_ID, sealed block with its tag, and whether it is the last. -/
def State.sealExport (s : State) (base : Digest) (label data : List Byte) (mk : Nat → Digest → List Byte → Bool → FrameOut) :
    State × List FrameOut :=
  let e := Config.trng s.sec.draws
  let key := exportKey base e label
  let bs := blocksOf 8192 data
  ({ s with sec := { s.sec with draws := s.sec.draws + 1 } },
    bs.zipIdx.map fun (b, k) =>
      let (x, tag) := gcmSeal key (natBe 12 k) [] b
      mk k e (x ++ natBe 16 tag.toNat) (k + 1 == bs.length))

/-- Data frames of a session, in order. -/
def State.sendFrames (s : State) (id : Nat) (l : List FrameOut) : State := l.foldl (fun (t : State) w => t.sendFrame id w) s

/-! ## Sample tables (R404, R405, R495, R497) -/

def sampleKey (c : Fin 8) (slot : Nat) : Nat := c.val * 2 ^ 30 + slot
def State.dataRec (s : State) (c : Fin 8) : Option DataRec := s.plan.bind fun p => p.data.find? fun d => d.ctx == c

/-- Writing the status word of a sample slot (Table 17-8). -/
def State.sampleWord (s : State) (d : DataRec) (slot w : Nat) : State :=
  { s with mem := memPutLe s.mem (s.scratchAt d.statusOff + 4 * slot) 4 w }

/-- A sample slot returns to FREE: its word is 0. -/
def State.freeSample (s : State) (d : DataRec) (slot : Nat) : State :=
  ({ s with samples := adel s.samples (sampleKey d.ctx slot) }).sampleWord d slot 0

/-- The complete slots of a context's table as (slot, state), in order of completion. -/
def State.doneSamples (s : State) (c : Fin 8) : List (Nat × SampleSlot) :=
  let l := s.samples.filterMap fun (k, x) => if k / 2 ^ 30 = c.val && x.done.isSome then some (k % 2 ^ 30, x) else none
  l.foldr (fun x acc =>
    let (a, b) := acc.span fun y => decide (y.2.done.getD 0 < x.2.done.getD 0)
    a ++ x :: b) []

/-- Releases by a COUNTER release: the n oldest complete slots (R405). -/
def State.releaseSamples (s : State) (d : DataRec) (n : Nat) : State :=
  ((s.doneSamples d.ctx).take n).foldl (fun (t : State) e => t.freeSample d e.1) s

/-- Release in the commit beat of a step: every slot that holds a sample of the step (R404, R405). -/
def State.commitSamples (s : State) (c : Fin 8) (step : Nat) : State :=
  match s.dataRec c with
  | none => s
  | some d =>
    if !d.relCommit then s else
      let m := (s.plan.map Plan.microBatches).getD 1
      let mine := s.samples.filterMap fun (k, x) =>
        if k / 2 ^ 30 = c.val && decide (d.sampleBase ≤ x.id) && (x.id - d.sampleBase) / d.spm / m == step then some (k % 2 ^ 30) else none
      mine.foldl (fun (t : State) slot => t.freeSample d slot) s

/-! ## Closing a session (R490, R496) -/

/-- Request slots are kept by context × 2^20 + slot. -/
def reqKey (c : Fin 8) (slot : Nat) : Nat := c.val * 2 ^ 20 + slot
def State.serveRec (s : State) (c : Fin 8) : Option ServeRec := s.plan.bind fun p => p.serve.find? fun r => r.ctx == c
def State.req (s : State) (c : Fin 8) (slot : Nat) : Option ReqSt := aget s.reqs (reqKey c slot)
def State.setReq (s : State) (c : Fin 8) (slot : Nat) (x : ReqSt) : State := { s with reqs := aput s.reqs (reqKey c slot) x }

def ctxOfKey (k m : Nat) : Fin 8 := ⟨k / m % 8, Nat.mod_lt _ (by decide)⟩

/-- The status word of a request slot (Table 17-8). -/
def State.reqWord (s : State) (c : Fin 8) (slot w : Nat) : State :=
  match s.serveRec c with
  | some r => { s with mem := memPutLe s.mem (s.scratchAt r.statusOff + 4 * slot) 4 w }
  | none => s

/-- A request slot returns to FREE (R497). -/
def State.freeReq (s : State) (c : Fin 8) (slot : Nat) : State :=
  ({ s with reqs := adel s.reqs (reqKey c slot) }).reqWord c slot 0

/-- The adapter slot that an incoming object of a session holds in LOADING: objects of kind 6 carry it above their kind (R320, R500). -/
def SessionSt.loading (x : SessionSt) : Option Nat := x.obj.bind fun (k, _) => if k % 16 = 6 && decide (16 ≤ k) then some (k / 16 - 1) else none

/-- A session's incoming object is abandoned (R500); an adapter's slot is FREE again. -/
def State.dropObject (s : State) (id : Nat) : State :=
  match s.session id with
  | none => s
  | some x =>
    let s1 := s.setSession id { x with obj := none }
    match x.loading with
    | some i => { s1 with adapters := s1.adapters.filter fun (k, a) => !(k == i && a.ph == .loading) }
    | none => s1

/-- A session closes: slots that it has claimed and not completed return to FREE, and it streams no more. -/
def State.closeSession (s : State) (id : Nat) : State :=
  let s0 := s.dropObject id
  let s1 := s0.samples.foldl (fun (t : State) (k, x) =>
    if x.session == id && x.done.isNone then
      match t.dataRec (ctxOfKey k (2 ^ 30)) with
      | some d => t.freeSample d (k % 2 ^ 30)
      | none => t
    else t) s0
  let s2 := s1.reqs.foldl (fun (t : State) (k, x) =>
    if x.session == some id then
      if x.ph == .claimed then t.freeReq (ctxOfKey k (2 ^ 20)) (k % 2 ^ 20)
      else { t with reqs := aput t.reqs k { x with session := none } }
    else t) s1
  let jobs := s2.jobs.map fun (k, j) => (k, if (j.exportTx.map (·.1)) == some id then { j with exportTx := none } else j)
  { s2 with sessions := adel s2.sessions id, jobs }

end Sys2Proof.Machine
end

