-- ==== Sys2Proof/Machine/Requests.lean ====
section
/-!
DEFINITION. Request slots: output rings, terminal and verdict records, client accounts, and what a request that ends releases (R303, R315,
R316, R327, R350, R351).
-/

namespace Sys2Proof.Machine

/-! ## Client accounts (R350, Table 12-4) -/

/-- Address of a client's record in the bank of the window under way. -/
def State.acctAddr (s : State) (client : Nat) : Nat :=
  let a := (s.plan.map Plan.acct).getD {}
  s.scratchAt a.off + s.beat / a.beats % 2 * 131072 + client * 32

/-- Adding n to the `size`-byte field at `off` of a client's record. -/
def State.acctAdd (s : State) (client off size n : Nat) : State :=
  let a := s.acctAddr client
  let m := memPutLe s.mem a 2 client
  { s with mem := memPutLe m (a + off) size ((memGetLe m (a + off) size + n) % 2 ^ (8 * size)) }

/-! ## Output rings (R315, R498) -/

def reqTarget (c : Fin 8) (slot : Nat) : Nat := c.val * 2 ^ 29 + slot

/-- Records that have not been sent go out on the stream session, up to 512 in a frame. -/
def streamFrames : Nat → Nat → Nat → List RingRec → List FrameOut
  | 0, _, _, _ => []
  | n + 1, target, index, l =>
    match l with
    | [] => []
    | _ => .stream target index (l.take 512) :: streamFrames n target (index + 512) (l.drop 512)

def State.pumpStream (s : State) (c : Fin 8) (slot : Nat) : State :=
  match s.req c slot with
  | none => s
  | some x => match x.session with
    | none => s
    | some id =>
      let l := x.ring.drop (x.sent - x.cons)
      let s1 := (streamFrames (l.length + 1) (reqTarget c slot) x.sent l).foldl (fun (t : State) w => t.sendFrame id w) s
      s1.setReq c slot { x with sent := x.prod }

/-- Records join a ring (R315). -/
def State.putRing (s : State) (c : Fin 8) (slot : Nat) (l : List RingRec) : State :=
  match s.req c slot with
  | none => s
  | some x => (s.setReq c slot { x with ring := x.ring ++ l, prod := x.prod + l.length }).pumpStream c slot

/-! ## References (R303, R307, R320) -/

/-- Requests that hold adapters, masks and page sets. -/
def ReqPhase.active : ReqPhase → Bool
  | .admitted => true
  | .prefill => true
  | .decode => true
  | _ => false

/-- Draining adapter slots that no request binds, and masks to be freed that none refers to, are freed. -/
def State.settleRefs (s : State) : State :=
  let bound (i : Nat) : Bool := s.reqs.any fun (_, x) => (x.ph.active || x.ph == .pausing) && (x.sAdapter == some i || x.tAdapter == some i)
  let used (m : Nat) : Bool := s.reqs.any fun (_, x) => (x.ph.active || x.ph == .pausing) && x.r.mask != 0 && x.r.maskId == m
  let gone := s.maskFree.filter fun m => !used m
  { s with adapters := s.adapters.filter fun (i, a) => !(a.ph == .draining && !bound i)
           masks := s.masks.filter fun (m, _) => !gone.contains m
           maskFree := s.maskFree.filter fun m => !gone.contains m }

/-- Whether an adapter slot belongs to an identifier of the student or the teacher. -/
def AdapterSt.names (a : AdapterSt) (ident : Nat) (teacher : Bool) : Bool := a.ident == ident && a.teacher == teacher

/-- The LIVE version of an identifier drains, and is FREE when nothing binds it (Table 11-9). -/
def State.retireAdapter (s : State) (ident : Nat) (teacher : Bool) : State :=
  let drain (a : AdapterSt) : AdapterSt := if a.ph == .live && a.names ident teacher then { a with ph := .draining } else a
  let s1 : State := { s with adapters := s.adapters.map fun e => (e.1, drain e.2) }
  s1.settleRefs

/-- Step 6 of R303: the adapters whose last bytes are in become LIVE in ascending version, and an earlier LIVE version of an identifier drains. -/
def State.settleLive (s : State) : State :=
  (sortKey (fun e : Nat × AdapterSt => e.2.version) (s.adapters.filter fun e => e.2.loaded)).foldl (fun (t : State) (i, a) =>
    let u := t.retireAdapter a.ident a.teacher
    { u with adapters := aput u.adapters i { a with ph := .live, loaded := false } }) s

/-! ## The end of a request (R303, R315, R327) -/

/-- The verdict record (Table 11-11): entries with their marks. -/
def verdictBytes (x : ReqSt) (beat : Nat) (first : Nat) (entries : List (Nat × Nat)) : List Byte :=
  let marks := entries.map (·.2)
  let packed := (List.range ((entries.length + 3) / 4)).map fun i =>
    BitVec.ofNat 8 ((List.range 4).foldl (fun v k => v + marks.getD (4 * i + k) 0 * 4 ^ k) 0)
  natLe 4 x.r.reqId ++ natLe 2 x.r.client ++ [if x.r.kind = 2 then 2 else 1, 0] ++ natLe 8 beat ++ natLe 4 entries.length ++ natLe 4 first
    ++ List.replicate 8 0 ++ (entries.flatMap fun e => natLe 4 e.1) ++ packed

/-- The data binding of the plan's online-distillation context, whose table is the verdict ring. -/
def State.verdictRing (s : State) : Option DataRec :=
  s.plan.bind fun p => p.data.find? fun d => p.contexts.any fun c => c.ctx == d.ctx.val && c.kind == .online

/-- Writing a verdict: a free slot is filled and completes like a sample slot; with none the verdict is dropped (R327). -/
def State.writeVerdict (s : State) (b : List Byte) : State :=
  match s.verdictRing with
  | none => s
  | some d =>
    match (List.range d.slots).find? fun i => (aget s.samples (sampleKey d.ctx i)).isNone with
    | none => s.countCtx d.ctx ccVerdictDrop
    | some i =>
      let s1 : State := { s with mem := memPutBytes s.mem (s.scratchAt d.tableOff + i * d.slotBytes) b
                                 samples := aput s.samples (sampleKey d.ctx i) { session := 0, id := 0, written := b.length, done := some s.sampleSerial }
                                 sampleSerial := s.sampleSerial + 1 }
      (s1.sampleWord d i 1).bumpEntry d.arriveCnt 1

/-- The tokens of a sequence from position 0, with their marks. -/
def ReqSt.sequence (x : ReqSt) : List (Nat × Nat) := x.past ++ x.toks.zip x.marks

/-- The verdict of a request that ends with a success code: the last tokens of its sequence, or its candidates in teacher order (R327, R329). -/
def State.verdict (s : State) (c : Fin 8) (x : ReqSt) (code : Nat) (rank : List Nat) : State :=
  if s.img.onlineDistill = 0 || !(x.r.flags.testBit 2) || !(decide (1 ≤ code) && decide (code ≤ 4)) then s
  else
    let vmax := ((s.serveRec c).map ServeRec.verdictMax).getD 0
    if vmax = 0 then s
    else if x.r.kind = 2 then s.writeVerdict (verdictBytes x s.beat 0 (rank.map fun k => (k, 2)))
    else
      let all := x.sequence
      let n := min vmax all.length
      s.writeVerdict (verdictBytes x s.beat (all.length - n) (all.drop (all.length - n)))

/-- A request ends (R303 steps 3 to 5): its terminal and verdict records are written, the slot is ENDING, and what it holds is released. -/
def State.endRequest (s : State) (c : Fin 8) (slot code : Nat) (rank : List Nat := []) : State :=
  match s.req c slot with
  | none => s
  | some x =>
    let n := if x.r.kind = 2 then (if code = 1 then x.r.nTok else 0) else x.gen
    let s1 := s.setReq c slot { x with ph := .ending, sets := [], sAdapter := none, tAdapter := none, owned := none, saved := none, inStep := none
                                       drafts := [], round := none, cancel := false, termBeat := some s.beat }
    let s2 := s1.putRing c slot [{ type := 3, flags := 0, code, pos := 0, value := n, aux := s.beat % 2 ^ 32 }]
    let s3 := s2.verdict c x code rank
    let s4 := s3.acctAdd x.r.client 4 4 1
    (if code = 0x2140 then s4.acctAdd x.r.client 20 4 1 else s4).settleRefs

/-- Ending every unfinished request of a context (Tables 12-5, 14-4). -/
def State.endAll (s : State) (c : Fin 8) (code : Nat) : State :=
  (s.reqs.filter fun (k, x) => ctxOfKey k (2 ^ 20) == c && (x.ph.active || x.ph == .pausing)).foldl
    (fun (t : State) (k, _) => t.endRequest c (k % 2 ^ 20) code) s

end Sys2Proof.Machine
end

