-- ==== Sys2Proof/Machine/Faults.lean ====
section
/-!
DEFINITION. Runtime faults and the halt actions of Table 14-4 (R391 to R397).
-/

namespace Sys2Proof.Machine

/-! ## Jobs of a plan -/

/-- The contexts of a job record. -/
def jobCtxs (j : JobRec) : List (Fin 8) := (List.finRange 8).filter fun c => j.ctxMask.getLsbD c
/-- Tree neighbours of this device in a job's commit tree: its parent and its children (R262, R395). -/
def State.treeParent (s : State) (j : JobRec) : Option Nat := (j.tree.find? (fun e => e.1 == s.addr)).map (·.2)
def State.treeChildren (s : State) (j : JobRec) : List Nat := (j.tree.filter (fun e => e.2 == s.addr)).map (·.1)
def State.treeNeighbours (s : State) (j : JobRec) : List Nat := (s.treeParent j).toList ++ s.treeChildren j

/-! ## Halt actions (Table 14-4) -/

/-- Engines that have an owner, as an index (R337). -/
def ownIdx : Engine → Option (Fin 3)
  | .array n => some ⟨n.val, by omega⟩
  | .vector => some 2
  | _ => none

/-- Whether a started instruction completes through a halt: arrays, vector engine and DMA do; posted ranges and waiting sends are withdrawn. -/
def EngOp.survivesHalt : EngOp → Bool
  | .lsend .. => false
  | .lrecv .. => false
  | .lred .. => false
  | .stsend .. => false
  | _ => true

/-- An engine is left by its owner. An array leaves no sums: its sets are empty when a tile ends, and none passes to another context (R90, R97). -/
def CoreSt.leave (k : CoreSt) (e : Fin 3) : CoreSt :=
  { k with own := k.own.set e none, acc := if e.val < 2 then Vector.ofFn fun i => if i.val / 2 = e.val then [] else k.acc[i] else k.acc }

/-- The halt actions on one core for context c: queues emptied, unstarted instructions discarded, started ones marked to release their
engines when they complete. -/
def haltCore (c : Fin 8) (k : CoreSt) : CoreSt :=
  let x := k.ctx[c]
  let jobs := k.jobs.filterMap fun j =>
    if j.ctx != c then some j
    else if j.phase == .started && j.op.survivesHalt then some { j with release := (j.engines.filterMap ownIdx).map fun e => (e, false) } else none
  let held (e : Fin 3) : Bool := jobs.any fun j => j.ctx == c && j.engines.any fun g => ownIdx g == some e
  let k1 := { k with
    ctx := k.ctx.set c { x with queue := [], running := false, wait := none, loops := [], ending := [], halted := true }
    jobs := jobs }
  ((List.finRange 3).filter fun e => k.own[e] == some c && !held e).foldl CoreSt.leave k1

/-- Whether a context is a teacher context. -/
def State.ctxRec (s : State) (c : Fin 8) : Option CtxRec := s.plan.bind fun p => p.contexts.find? fun r => r.ctx == c.val

/-- Zero-filling of a teacher context's scratchpad share on every core that uses it (R165). -/
def State.zeroShare (s : State) (c : Fin 8) : State :=
  match s.ctxRec c with
  | some r => if r.kind == .teacher then
      { s with mem := s.mem.filter fun (a, _) =>
          !(decide (2 ^ 40 ≤ a) && !isSCore ((a - 2 ^ 40) / 2 ^ 20) && decide (r.tSpBase ≤ (a - 2 ^ 40) % 2 ^ 20)
            && decide ((a - 2 ^ 40) % 2 ^ 20 < r.tSpBase + r.tSpSize)) }
    else s
  | none => s

/-- A stage at a halt: the stash is empty, nothing is bound, and shadow contents are discarded. -/
def StageSt.halt (x : StageSt) : StageSt :=
  { x with live := [], bound := [], waiting := none, waited := false, pos := 0
           slots := x.slots.map fun sl => if sl.ph == .shadow || sl.ph == .retiring then {} else sl }

/-- Station balances return to the Trust Block (R445). -/
def State.returnStations (s : State) : State :=
  match s.sec.husk with
  | none => s
  | some h =>
    let sum := s.sec.station.toList.foldl (· + ·) 0
    let m := (aget s.sec.meters h.toNat).getD {}
    { s with sec := { s.sec with station := Vector.replicate 10 0, short := []
                                 meters := aput s.sec.meters h.toNat { m with pool := m.pool + sum } } }

/-- The halt actions for a context on this device (Table 14-4, R192): its unfinished requests end with REQ_HALTED. -/
def State.haltCtx (s : State) (c : Fin 8) : State :=
  let ends (r : ChanRec) : Bool := (r.sender.map Site.ctx) == some c || (r.receiver.map Site.ctx) == some c
  let chans := (((s.plan.map Plan.channels).getD []).filter ends).map ChanRec.chan
  let p := s.plan.getD {}
  let stageOf (k : Nat) : Bool := p.stages.any fun r => r.stage == k && r.ctx == c
  let tagged : EntryTag → Bool
    | .plain => false
    | .forward k .. => stageOf k
    | .backward k .. => stageOf k
    | .recompute k .. => stageOf k
    | .batch d _ => d == c.val
    | .pause d _ => d == c.val
  let used := ((p.programs.filter fun r => r.ctx == c.val).flatMap ProgRec.cores)
  let s := used.foldl (fun (t : State) n => t.setCore n (t.core n)) s
  let s : State :=
    { s with
      cores := s.cores.map fun (n, k) => (n, haltCore c k)
      heldEntries := s.heldEntries.filter fun h => h.1.ctx != c
      openEntries := s.openEntries.filter fun e => !tagged e.1
      chans := s.chans.filter fun e => !chans.contains e.1
      bufs := s.bufs.filter fun e => !p.landings.any fun l => l.buffer == e.1 && l.pctx == c
      loss := s.loss.filter fun j => !p.losses.any fun r => r.id == j.id && r.ctx == c
      lossEarly := s.lossEarly.filter fun j => !p.losses.any fun r => r.id == j.id && r.ctx == c
      lookups := s.lookups.filter fun j => j.ctx != c
      exch := s.exch.filter fun e => !p.exch.any fun r => r.chan == e.1 && r.ctx == c
      stages := s.stages.map fun e => if stageOf e.1 then (e.1, e.2.halt) else e
      accts := s.accts.filter fun e => e.1 != c.val
      batches := s.batches.filter fun b => b.ctx != c }
  let s := if ((s.ctxRec c).map CtxRec.kind) == some .teacher then s.returnStations else s
  (s.zeroShare c).endAll c 0x214D

/-! ## A halt comes before the other actions of its beat (R396) -/

def localIdx (b : Fin 2) : Fin 4 := ⟨b.val, by omega⟩
def hostedIdx (b : Fin 2) : Fin 4 := ⟨b.val + 2, by omega⟩

/-- Requested records `lo` + 1 to `hi` that are not yet durable are withdrawn. -/
def JnlSt.withdraw (x : JnlSt) (lo hi : Nat) : JnlSt :=
  let gone (r : JnlRec) : Bool := decide (lo < r.seq) && decide (r.seq ≤ hi)
  let n := (x.queue.filter gone).length
  { x with seq := x.seq - n, queue := (x.queue.filter fun r => !gone r).map fun r => if hi < r.seq then { r with seq := r.seq - n } else r }

/-- The bank of a copy that has begun is as it was before. -/
def JobSt.bankBack (t : JobSt) (old : JobSt) : Vector BankSt 4 :=
  match t.ckpt with
  | some c => if c.localDone then t.banks else t.banks.set (localIdx c.bank) old.banks[localIdx c.bank]
  | none => t.banks

/-- A job's commit, skip or start of this very beat is taken back: the job, its stages, its tables, its records and its counter are as before it. -/
def State.unapply (s : State) (j : JobRec) : State :=
  match aget s.undos j.job with
  | none => s
  | some x =>
    if x.beat != s.beat then s
    else
      let t := s.jobSt j.job
      let others := ((s.plan.map Plan.jobs).getD []).any fun q => q.job != j.job && (s.jobSt q.job).st == .running
      let s1 : State :=
        { s with undos := adel s.undos j.job
                 stages := x.stages.foldl (fun l e => aput l e.1 e.2) s.stages
                 mem := x.cells.foldl (fun m e => memPut m e.1 e.2) s.mem
                 shadowCopy := s.shadowCopy.filter x.copies.contains
                 jnl := s.jnl.withdraw x.seq x.seqEnd
                 dev := if x.joined && s.dev == .run && !others && s.reqs.isEmpty then .joined else s.dev }
      let s2 := if x.skip then
          ((jobCtxs j).filter fun c => let k := (s.ctxRec c).map CtxRec.kind; k == some .training || k == some .online).foldl
            (fun (v : State) c => v.countCtx c ccStepSkip (2 ^ 64 - 1)) s1
        else s1
      s2.setJob j.job { x.job with coord := t.coord, exporting := t.exporting, exportTx := t.exportTx, exportDue := t.exportDue
                                   committed := t.committed, banks := t.bankBack x.job }

/-- The halt actions of a job on this member: its contexts halt, copies and exports under way are abandoned, its shadow rows and the captures
of its attempt discarded, and the job is HALTED, or stays STOPPED (Table 14-8). -/
def State.haltJob (s : State) (j : JobRec) : State :=
  let s := (jobCtxs j).foldl State.haltCtx (s.unapply j)
  let t := s.jobSt j.job
  ({ s with shadow := s.shadow.filter fun r => !(jobCtxs j).any fun c => r.ctx == c.val
            capt := s.capt.filter fun x => x.job != j.job }).setJob j.job
    { t with st := if t.st == JobState.stopped then JobState.stopped else JobState.halted, notified := true, ckpt := none, ckptHold := false
             exporting := none, exportTx := none, exportDue := [], marker := none, ready := [], readySent := false
             firstReady := none, nfGrad := false, nfUpdate := false, startBeat := none, startReady := [], startSent := false }

/-! ## Parts held in the banks (R399, R400, R412) -/

/-- Address of bank k of the buddy-checkpoint region: L0, L1, H0, H1 (log entry 8). -/
def State.bankAddr (s : State) (j : JobRec) (k : Nat) : Nat := s.regionBase .buddy + k * j.bankBytes

/-- Whether a part's DIGEST, VERSION and, where it is known, MAP_DIGEST match (R412, Table 14-6). -/
def partIntact (l : List Byte) (v : Nat) (map : Option Digest) : Bool :=
  decide (96 ≤ l.length) && beNat ((l.drop 8).take 8) == v && map.all (fun x => digestAt l 16 == x)
    && digestAt l 64 == Config.sha256 (l.take 64 ++ List.replicate 32 0 ++ l.drop 96)

/-- The intact parts that banks hold: complete, and with their own version and digest. -/
def State.partsHeld (s : State) (j : JobRec) (l : List (Fin 4)) : List PartHeld :=
  l.filterMap fun b =>
    let x := (s.jobSt j.job).banks[b]
    let v := x.version.getD 0
    let part := memGetBytes s.mem (s.bankAddr j b.val) x.bytes
    if x.complete then (if partIntact part v none then some ⟨v, x.role, digestAt part 16⟩ else none) else none

/-- The newest complete part of a pair of banks. -/
def newestOf (a b : BankSt) : Option Nat :=
  match a.complete, b.complete with
  | true, true => if (a.version.getD 0) < (b.version.getD 0) then b.version else a.version
  | true, false => a.version
  | false, true => b.version
  | _, _ => none

/-- A halt phase at the coordinator: its first notice or report begins it. A fault while members restore begins another, with the reports of this
attempt to come again (Table 14-9). -/
def CoordSt.halt (c : CoordSt) (beat : Nat) : CoordSt :=
  if c.restoreSince.isSome then
    { c with reports := [], since := some beat, restored := [], restoreSince := none, fault := none, late := [], recovery := false, view := .halted }
  else { c with since := some (c.since.getD beat), view := .halted }

/-- A halted report goes to the coordinator, the acting Plot Root (R408). -/
def State.reportHalt (s : State) (j : JobRec) (f : Option FaultRec) : State :=
  let t := s.jobSt j.job
  let r : HaltedRep := { job := j.job, attempt := t.attempt, address := s.addr, locals := s.partsHeld j [0, 1], hosted := s.partsHeld j [2, 3]
                         committed := t.committed }
  if s.origin = s.addr then
    let c := t.coord.halt s.beat
    let fr := if c.fault.isSome then c.fault else f
    s.setJob j.job { t with coord := { c with reports := c.reports ++ [r], fault := fr } }
  else s.send [.halted s.origin r]

/-! ## Raising a fault (R393, R395, R397) -/

/-- Codes of device reach (Table 14-1). -/
def deviceReach (code : Nat) : Bool := code == 0x5040 || code == 0x6100 || code == 0x6101 || code == 0x6103

/-- The ERR_STICKY bit of a fault code (Table 18-6). -/
def stickyBit (code : Nat) : Word :=
  if code = 0x6100 then 1 else if code = 0x6101 then 2 else if code = 0x6102 then 4 else if code = 0x6103 then 8
  else if code = 0x5040 then 16 else 0

/-- Writing a fault record: to the journal, and the first since reset or REJOIN stays in ERR_FAULT, every one is counted (R393, R515). -/
def State.recordFault (s : State) (f : FaultRec) : State :=
  let s := (s.journal (.fault f)).report f.code.toNat (.fault f)
  { s with err := { s.err with
      sticky := s.err.sticky ||| stickyBit f.code.toNat
      faultCnt := s.err.faultCnt + 1
      first := match s.err.first with | none => some f | some g => some g } }

/-- The fault record of a code (Table 14-2). -/
def State.faultRec (s : State) (code : Nat) (ctx : Option (Fin 8)) (job : Option JobRec) (detail : List Nat) : FaultRec :=
  let dev := deviceReach code
  { code := BitVec.ofNat 16 code, device := dev
    ctx := if dev then 0xFF else (ctx.map (·.val)).getD 0xFF
    job := if dev then 0xFFFFFFFF else (job.map (·.job)).getD 0xFFFFFFFF
    address := s.addr
    attempt := (job.map fun j => (s.jobSt j.job).attempt).getD 0
    beat := s.beat, phase := s.phase
    step := (job.map fun j => (s.jobSt j.job).step).getD (2 ^ 64 - 1)
    detail := detail }

/-- A job halts on its raising device and its tree neighbours are notified, once per attempt (R395); a device that enters HALT sends no
halted report (R408). -/
def State.haltAndNotify (s : State) (f : FaultRec) (j : JobRec) : State :=
  let first := !(s.jobSt j.job).notified
  let s := s.haltJob j
  if first && f.device then s.send ((s.treeNeighbours j).map fun a => .notice a j.job (s.jobSt j.job).attempt f)
  else if first then (s.send ((s.treeNeighbours j).map fun a => .notice a j.job (s.jobSt j.job).attempt f)).reportHalt j (some f) else s

/-- A fault of context reach: the job of the context halts; a context in no job halts alone (log entry 7). -/
def State.faultCtx (s : State) (code : Nat) (c : Fin 8) (detail : List Nat) : State :=
  let job := s.jobOf c
  let s := match job with | some j => s.unapply j | none => s
  let f := s.faultRec code (some c) job detail
  let s := s.recordFault f
  match job with
  | some j => s.haltAndNotify f j
  | none => s.haltCtx c

/-- A fault of device reach: every job with a context on the device and every context halts, and the device enters HALT from
the states of Table 16-2; POD_FAULT_N pulses (R391, R397, R538). -/
def State.faultDevice (s : State) (code : Nat) (detail : List Nat) : State :=
  let f := s.faultRec code none none detail
  let s := s.recordFault f
  let s := (((s.plan.map (·.jobs)).getD []).filter fun j => j.members.any fun m => m.1 == s.addr).foldl (fun t j => t.haltAndNotify f j) s
  let s := (List.finRange 8).foldl State.haltCtx s
  let s : State := if s.dev == .joined || s.dev == .run || s.dev == .drain then { s with dev := .halt } else s
  s.send [.podFault 256]

/-- Whether bytes a to a + len of HBM lie in the scratch region. -/
def State.inScratch (s : State) (a len : Nat) : Bool :=
  ((s.plan.bind fun p => p.regionOf .scratch).map fun g => decide (g.base ≤ a) && decide (a + len ≤ g.base + g.size)).getD false

/-- A write of a unit to the scratch region for a context (R28): one that leaves the region is discarded and faults REGION_RANGE. -/
def State.scratchPut (s : State) (c : Fin 8) (a : Nat) (b : List Byte) : State :=
  if s.inScratch a b.length then { s with mem := memPutBytes s.mem a b } else s.faultCtx 0x6005 c []

end Sys2Proof.Machine
end

