-- ==== Sys2Proof/Machine/Accum.lean ====
section
/-!
DEFINITION. The accumulator of the matrix arrays (chapter 03): chain classes, terms, block merges, raw records, read-out, and the pooled
sums of the Table Engine that use the same element.
-/

namespace Sys2Proof.Machine

/-- Accumulation classes (R75). -/
inductive ChainClass where
  | narrow | wide | split
deriving DecidableEq, Repr

def Fmt.isNarrow (f : Fmt) : Bool := decide (f.width ≤ 8)

/-- The class of a product is set by its wider operand (R75). -/
def chainClass (a b : Fmt) : ChainClass :=
  if a == .fp32 || b == .fp32 then .split
  else if a.isNarrow && b.isNarrow then .narrow
  else .wide

/-- A term of a chain (R84). -/
inductive Term where
  | nanIn
  | nanInv
  | val (x : Num)
deriving DecidableEq, Repr

/-- product(x, y) (R84). -/
def product (x y : Num) : Term :=
  if x.isNan || y.isNan then .nanIn
  else match Num.mulX x y with
    | some z => .val z
    | none => .nanInv

/-- term(x, y): the split contribution where both operands of a split pair are finite and nonzero, else the product (R82, R73). -/
def termOf (cls : ChainClass) (x y : Num) : Term :=
  match cls, x, y with
  | .split, .fin a, .fin b => .val (Num.ofRat (splitProduct a b))
  | _, _, _ => product x y

/-- A rational multiple of 2^−298 as accumulator bits. -/
def toAcc (v : Rat) : BitVec 640 := BitVec.ofInt 640 (v * pow2 298).floor
/-- The exact value of accumulator bits. -/
def accVal (a : BitVec 640) : Rat := (a.toInt : Rat) * pow2 (-298)

/-- new_state() (R84): the empty element of R78. -/
def emptyEl : RawRec := {}

/-- add_term(st, p) (R84). -/
def addTerm (st : RawRec) (p : Term) : RawRec :=
  match p with
  | .nanIn => { st with nan := true, negz := false }
  | .nanInv => { st with inv := true, negz := false }
  | .val .nan => { st with nan := true, negz := false }
  | .val (.inf false) => { st with pinf := true, negz := false }
  | .val (.inf true) => { st with ninf := true, negz := false }
  | .val (.zero true) => st
  | .val (.zero false) => { st with negz := false }
  | .val (.fin v) => { st with acc := st.acc + toAcc v, negz := false }

/-- An addend or a pooled value enters exactly as decode(c) (R84). -/
def addValue (st : RawRec) (x : Num) : RawRec := addTerm st (if x.isNan then .nanIn else .val x)

/-- Statuses joined, NEGZ kept only when both have it (R82, R92). -/
def joinStatus (st b : RawRec) (acc : BitVec 640) : RawRec :=
  { acc, nan := st.nan || b.nan, inv := st.inv || b.inv, pinf := st.pinf || b.pinf, ninf := st.ninf || b.ninf, negz := st.negz && b.negz,
    cls := st.cls ||| b.cls }

/-- A raw record merges into an element (R92). -/
def mergeRecord (st r : RawRec) : RawRec := joinStatus st r (st.acc + r.acc)

/-- The products of one block of K, added exactly. -/
def blockSum (cls : ChainClass) (st : RawRec) (ab : List (Num × Num)) : RawRec := ab.foldl (fun t (x, y) => addTerm t (termOf cls x y)) st

/-- Merging a block of 32 terms with round_icf (R82). -/
def mergeBlock (st b : RawRec) : RawRec := joinStatus st b (toAcc (roundIcf (accVal st.acc + accVal b.acc)))

/-- Cutting a list into pieces of 32 (`fuel` bounds the number of pieces). -/
def chunks32 {α : Type} : Nat → List α → List (List α)
  | 0, _ => []
  | n + 1, l => if l.isEmpty then [] else l.take 32 :: chunks32 n (l.drop 32)

/-- Accumulation of Σ a_k b_k into an element: exact for narrow chains and in canonical mode (R81, R95), by rounded blocks of 32 for wide
and split chains on the fast path (R82). -/
def accumulate (cls : ChainClass) (canon : Bool) (st : RawRec) (a b : List Num) : RawRec :=
  let ab := a.zip b
  if canon then blockSum .narrow st ab
  else match cls with
    | .narrow => blockSum .narrow st ab
    | c => { (chunks32 (ab.length / 32 + 1) ab).foldl (fun t p => mergeBlock t (blockSum c emptyEl p)) st with cls := st.cls ||| 1 }

/-- The value that read_out delivers before round_to, and its flags (R85). -/
def readOut (st : RawRec) : Num × Flags :=
  if st.nan then (.nan, flNanIn)
  else if st.inv || (st.pinf && st.ninf) then (.nan, flInvalid)
  else if st.pinf then (.inf false, 0)
  else if st.ninf then (.inf true, 0)
  else if st.acc = 0 then (.zero st.negz, 0)
  else (.fin (accVal st.acc), 0)

/-- The bytes of a raw accumulator record (Table 3-3). -/
def recordBytes (r : RawRec) : List Byte :=
  let st : Nat := (if r.nan then 1 else 0) + (if r.inv then 2 else 0) + (if r.pinf then 4 else 0) + (if r.ninf then 8 else 0)
    + (if r.negz then 16 else 0) + r.cls.toNat * 32
  (List.range 80).map (fun i => BitVec.ofNat 8 (r.acc.toNat / 2 ^ (8 * i))) ++ [BitVec.ofNat 8 st] ++ List.replicate 15 0

/-- A record read from its 96 bytes (R91); bytes 81 to 95 are ignored. DESIGN CHOICE (log entry 91): so is the reserved bit 7 of STATUS, of which
Table 3-3 does not say it. -/
def recordParse (b : List Byte) : RawRec :=
  let st := (b.getD 80 0).toNat
  { acc := BitVec.ofNat 640 ((b.take 80).foldr (fun x n => x.toNat + 256 * n) 0),
    nan := st.testBit 0, inv := st.testBit 1, pinf := st.testBit 2, ninf := st.testBit 3, negz := st.testBit 4,
    cls := BitVec.ofNat 2 (st / 32) }

/-- R93: the CLASS of a loaded record is reserved, or 01 for a chain of class 00. -/
def recordClassBad (exactChain : Bool) (r : RawRec) : Bool := decide (r.cls.toNat > 1) || (decide (r.cls.toNat = 1) && exactChain)

/-- The 32 × 32 empty set. -/
def emptySet : List (List RawRec) := List.replicate 32 (List.replicate 32 emptyEl)

/-- Columns of a tile as rows (the transposed port). -/
def transposeTile (m : List (List Num)) : List (List Num) :=
  (List.range ((m.head?.getD []).length)).map fun j => m.map fun r => r.getD j (.zero false)

/-- Accumulation of A × Bᵀ-rows into the corner of a set (R112); elements outside the corner stay as they are. -/
def accumulateSet (cls : ChainClass) (canon : Bool) (set : List (List RawRec)) (a b : List (List Num)) : List (List RawRec) :=
  set.mapIdx fun i row => match a[i]? with
    | none => row
    | some ar => row.mapIdx fun j el => match b[j]? with
      | none => el
      | some br => accumulate cls canon el ar br

/-- Corner-wise combination of a set with a tile of other values (addends or records). -/
def combineSet {α : Type} (f : RawRec → α → RawRec) (set : List (List RawRec)) (cs : List (List α)) : List (List RawRec) :=
  set.mapIdx fun i row => match cs[i]? with
    | none => row
    | some cr => row.mapIdx fun j el => match cr[j]? with
      | none => el
      | some x => f el x

end Sys2Proof.Machine
end

