-- ==== Sys2Proof/Machine/Matrix.lean ====
section
/-!
DEFINITION. What a matrix instruction does when its array starts it (R112 to R115), and the writing of rounded rows that arrays and the
vector engine share (R85 to R89, R139, R144).
-/

namespace Sys2Proof.Machine

/-- Whether a context computes in canonical mode (R94). -/
def State.canonical (s : State) (c : Fin 8) : Bool := s.img.numeric.canonMask.getLsbD c

/-- The inputs of a write's rounding (R50, R53, R67, R87, R144). -/
def State.srCtx (s : State) (t : TileDesc) (purpose step : Nat) (who : Fin 8 × Nat) : SrCtx :=
  { rnd := fmtdRnd t.fmtd, enabled := decide (s.img.numeric.srEnable = 1), bits := s.img.numeric.srBits, purpose,
    tensorId := t.tensorId.toNat, step, seed := ((s.plan.map Plan.seed).getD 0).toNat
    cap := s.capOf who.1 t.tensorId.toNat who.2 false }

/-- Storing values in columns of row r: each rounded once (R144), or by blocks of 32 of which any value is given, missing ones entering
as +0 (R88, R139). Answers the state and the flags. -/
def State.storeRow (s : State) (n : Nat) (t : TileDesc) (sr : SrCtx) (r : Nat) (vals : List (Nat × Num)) : State × Flags :=
  if fmtdBlk t.fmtd then
    let blocks := (List.range ((t.cols + 31) / 32)).filter fun b => vals.any fun (c, _) => c / 32 == b
    blocks.foldl (fun (st : State × Flags) b =>
      let xs := (List.range 32).map fun k => ((vals.find? fun (c, _) => c == 32 * b + k).map (·.2)).getD (.zero false)
      let (sc, q, fl) := quantizeBlock t.fmt (fun k => sr.mode (t.index r (32 * b + k))) xs
      ((st.1.putRow n t r (q.zipIdx.map fun (e, k) => (32 * b + k, e))).putScale n t r b sc, st.2 ||| fl)) (s, 0)
  else
    let encs := vals.map fun (c, v) => (c, roundTo t.fmt (fmtdSat t.fmtd) (sr.mode (t.index r c)) v)
    ((s.putRow n t r (encs.map fun (c, e) => (c, e.bits))).capture sr.cap (vals.map (·.2)), encs.foldl (fun f (_, e) => f ||| e.fl) 0)

/-- An accumulator set, the empty set when nothing is in it. -/
def CoreSt.set (k : CoreSt) (arr set : Fin 2) : List (List RawRec) :=
  let x := k.acc[2 * arr.val + set.val]'(by omega)
  if x.isEmpty then emptySet else x

def CoreSt.putSet (k : CoreSt) (arr set : Fin 2) (x : List (List RawRec)) : CoreSt :=
  { k with acc := k.acc.set (2 * arr.val + set.val) x (by omega) }

def setEl (set : List (List RawRec)) (i j : Nat) : RawRec := (set.getD i []).getD j emptyEl

/-- The raw records that a descriptor addresses (R112). -/
def State.records (s : State) (n : Nat) (t : TileDesc) : List (List RawRec) :=
  (List.range t.rows).map fun i => (List.range t.cols).map fun j =>
    recordParse (s.scr n (t.base.toNat + i * t.stride.toNat + 96 * j) 96)

/-- MMA and MMAT (R112, R113): the set after the instruction, or none when a loaded record's CLASS is refused (R93). -/
def State.mmaSet (s : State) (n : Nat) (ctx : Fin 8) (tr : Bool) (a b c : TileDesc) (set arr : Fin 2) (mode : AccMode) :
    Option (List (List RawRec)) :=
  let canon := s.canonical ctx
  let cls := chainClass a.fmt b.fmt
  let bt := if tr then transposeTile (s.tile n b) else s.tile n b
  let go (st : List (List RawRec)) := accumulateSet cls canon st (s.tile n a) bt
  match mode with
  | .empty => some (go emptySet)
  | .continue => some (go ((s.core n).set arr set))
  | .addend => some (go (combineSet addValue emptySet (s.tile n c)))
  | .raw =>
    let recs := s.records n c
    if recs.any (fun r => r.any (recordClassBad (canon || cls == .narrow))) then none
    else some (go (combineSet mergeRecord emptySet recs))

/-- MTWIN (R114): the sets of array 0 and array 1. -/
def State.mtwinSets (s : State) (n : Nat) (ctx : Fin 8) (g w x : TileDesc) (set0 set1 : Fin 2) (acc0 acc1 : Bool) :
    List (List RawRec) × List (List RawRec) :=
  let canon := s.canonical ctx
  let gt := s.tile n g
  let st0 := if acc0 then (s.core n).set 0 set0 else emptySet
  let st1 := if acc1 then (s.core n).set 1 set1 else emptySet
  (accumulateSet (chainClass g.fmt w.fmt) canon st0 gt (transposeTile (s.tile n w)),
   accumulateSet (chainClass x.fmt g.fmt) canon st1 (s.tile n x) (transposeTile gt))

/-- MRD (R85 to R88, R115): the rows written and the flags. -/
def State.mrdRows (s : State) (n : Nat) (c : TileDesc) (step : Nat) (set : List (List RawRec)) (who : Fin 8 × Nat) :
    State × Flags :=
  let sr := s.srCtx c 0x0002 step who
  (List.range c.rows).foldl (fun (st : State × Flags) i =>
    let vs := (List.range c.cols).map fun j => (j, readOut (setEl set i j))
    let (s', fl) := st.1.storeRow n c sr i (vs.map fun (j, v, _) => (j, v))
    (s', vs.foldl (fun f (_, _, g) => f ||| g) (st.2 ||| fl))) (s, 0)

/-- One compensated pair (R70, R89): hi, lo and the flags of hi. -/
def pairOut (f : Fmt) (el : RawRec) : Nat × Nat × Flags :=
  let (x, fl) := readOut el
  match x with
  | .fin v => pairOf f v
  | z =>
    let e := roundRne f z
    (e.bits, 0, fl ||| e.fl)

/-- MRDP (R89, R115). -/
def State.mrdpRows (s : State) (n : Nat) (a c : TileDesc) (set : List (List RawRec)) : State × Flags :=
  (List.range c.rows).foldl (fun (st : State × Flags) i =>
    let ps := (List.range c.cols).map fun j => (j, pairOut c.fmt (setEl set i j))
    ((st.1.putRow n c i (ps.map fun (j, h, _, _) => (j, h))).putRow n a i (ps.map fun (j, _, l, _) => (j, l)),
     ps.foldl (fun f (_, _, _, g) => f ||| g) st.2)) (s, 0)

/-- MSAV (R91, R115). -/
def State.msavRows (s : State) (n : Nat) (c : TileDesc) (set : List (List RawRec)) : State :=
  (List.range c.rows).foldl (fun st i => (List.range c.cols).foldl (fun st j =>
    st.setScr n (c.base.toNat + i * c.stride.toNat + 96 * j) (recordBytes (setEl set i j))) st) s

end Sys2Proof.Machine
end

