-- ==== Sys2Proof/Machine/Exchange.lean ====
section
/-!
DEFINITION. Gradient exchange: buckets, leaves, the reduction tree and its route, sums at the owner, the check route, and straggler
handling (R267 to R295).
-/

namespace Sys2Proof.Machine

/-! ## Addresses and the route (R272, R275, R294) -/

/-- pos, pod, row_x and row_y of an address (R43). -/
def posOf (a : Nat) : Nat := a % 8
def podOf (a : Nat) : Nat := a / 8 % 16
def rowXOf (a : Nat) : Nat := a / 128 % 32
def rowYOf (a : Nat) : Nat := a / 4096 % 32

/-- Whether an address lies in the Plot of an image. -/
def plotHas (im : ImageRecs) (a : Nat) : Bool :=
  decide (posOf a < im.n) && decide (podOf a < im.p) && decide (rowXOf a < im.x) && decide (rowYOf a < im.y)
    && decide (a < 2 ^ 17)
def State.inPlot (s : State) (a : Nat) : Bool := plotHas s.img a

/-- The device that holds the partial of the subtree at node n whose low b address bits are combined, for a target: the one that matches the target in
every bit whose half of the subtree lies in the Plot. -/
def collOf (im : ImageRecs) (target : Nat) : Nat → Nat → Nat
  | 0, n => n
  | b + 1, n => collOf im target b (if target.testBit b && plotHas im (n + 2 ^ b) then n + 2 ^ b else n)
def State.coll (s : State) : Nat → Nat → Nat → Nat := collOf s.img

/-- A coordinate of the check target (R294): c xor 1 below the extent, else c − 1; the coordinate itself when the extent is 1. -/
def checkCoord (c n : Nat) : Nat := if n < 2 then c else if c ^^^ 1 < n then c ^^^ 1 else c - 1

def State.checkTarget (s : State) (owner : Nat) : Nat :=
  checkCoord (posOf owner) s.img.n + checkCoord (podOf owner) s.img.p * 8 + checkCoord (rowXOf owner) s.img.x * 128
    + checkCoord (rowYOf owner) s.img.y * 4096

/-- Whether the way from b to a of a ring of n goes up: the shorter way, up at equal distances. -/
def ringUp (n a b : Nat) : Bool := decide (2 * ((a + n - b) % n) ≤ n)

/-- The port over which device a sends towards device b: phase 2, phase 1, Row from bit 3 down, Pod (Table 10-4, R279, R294). -/
def portTo (im : ImageRecs) (a b : Nat) : Nat :=
  if rowYOf a ≠ rowYOf b then (if ringUp im.y (rowYOf b) (rowYOf a) then 14 else 15)
  else if rowXOf a ≠ rowXOf b then (if ringUp im.x (rowXOf b) (rowXOf a) then 12 else 13)
  else if podOf a ≠ podOf b then 8 + Nat.log2 (podOf a ^^^ podOf b)
  else if posOf b < posOf a then posOf b else posOf b - 1

/-- A chunk leaves for a device. -/
def State.sendChunk (s : State) (d : Nat) (c : Chunk) : State := s.send [.chunk (portTo s.img s.addr d) d c]
def State.sendParam (s : State) (d : Nat) (c : ParamChunk) : State := s.send [.param (portTo s.img s.addr d) d c]

/-! ## Channels and buckets (R267, R268, R282, R293) -/

def State.updRec (s : State) (tid : Nat) : Option UpdRec := s.plan.bind fun p => p.updates.find? fun u => u.tensorId == tid

def State.exchRec (s : State) (chan : Nat) : Option ExchRec := s.plan.bind fun p => p.exch.find? fun r => r.chan == chan
def State.exchSt (s : State) (chan : Nat) : ExchSt := (aget s.exch chan).getD {}
def State.setExch (s : State) (chan : Nat) (x : ExchSt) : State := { s with exch := aput s.exch chan x }

/-- Whether bucket q of a channel is checked (R293). -/
def checked (shift chan q : Nat) : Bool :=
  let h := ((q * 0x9E3779B9) ^^^ (chan * 0x85EBCA6B)) % 2 ^ 32
  decide (shift ≤ 16) && h / 2 ^ (32 - shift) == 0

def seqOf (r : ExchRec) (step idx : Nat) : Nat := step * r.buckets.length + idx

def State.bucketChecked (s : State) (r : ExchRec) (step idx : Nat) : Bool := checked s.img.exch.checkShift r.chan (seqOf r step idx)

/-- Whether a bucket is compressed (R282). -/
def State.compressed (s : State) (r : ExchRec) (b : BucketRec) : Bool :=
  decide (s.img.exch.lowrank = 1) && !s.canonical r.ctx && b.cols != 0
    && r.members.any (fun m => m / 128 != (r.members.headD 0) / 128)

/-- Rank of a compressed bucket. -/
def State.rankOf (s : State) (b : BucketRec) : Nat :=
  min (min (if b.rank = 0 then s.img.exch.defaultRank else b.rank) (b.elems / b.cols)) b.cols

/-- Elements of one chunk: 1,024 FP32, or 64 exact elements in a canonical context (R270). -/
def State.chunkElems (s : State) (r : ExchRec) : Nat := if s.canonical r.ctx then 64 else 1024
def State.chunkCount (s : State) (r : ExchRec) (elems : Nat) : Nat := (elems + s.chunkElems r - 1) / s.chunkElems r

/-- The step that the adders expect: the step under way of the channel's job (R296). -/
def State.exchStep (s : State) (r : ExchRec) : Nat := (s.ctxJob r.ctx).step
/-- The deadline D_s of the step under way (R286). -/
def State.deadline (s : State) (r : ExchRec) : Nat := (s.ctxJob r.ctx).base + s.img.exch.stragglerLimit
/-- Whether a replay under way treats this device's contribution to a bucket as late (R407). -/
def State.replayExcluded (s : State) (r : ExchRec) (idx step : Nat) : Bool :=
  match s.jobOf r.ctx with
  | none => false
  | some j =>
    let t := s.jobSt j.job
    t.replayEnd.isSome && t.exclusions.any fun e =>
      e.step == step && e.chan == r.chan && e.idx == idx && (j.members[e.role]?.map (·.1)) == some s.addr

/-- Straggler policy of a contribution (R285, R407): a canonical context uses WAIT; a replay uses WAIT but for the contributions it lists. -/
def State.policy (s : State) (r : ExchRec) (idx step : Nat) : Nat :=
  if s.canonical r.ctx then 0
  else if (s.ctxJob r.ctx).replayEnd.isSome && !s.replayExcluded r idx step then 0
  else s.img.exch.straggler

/-! ## FP32 sums (R272, R277) -/

def f32nan : Word := 0x7FC00000

/-- fp32_add. -/
def fp32Add (x y : Word) : Word :=
  match Num.addX (decode .fp32 x.toNat) (decode .fp32 y.toNat) with
  | some z => BitVec.ofNat 32 (roundRne .fp32 z).bits
  | none => f32nan

def f32nonfinite (w : Word) : Bool := decide (w.toNat / 2 ^ 23 % 256 = 255)

/-- The exact element of an FP32 value. -/
def exactOf (w : Word) : ExactEl :=
  match decode .fp32 w.toNat with
  | .nan => ⟨0, true, false, false, false⟩
  | .inf n => ⟨0, false, !n, n, false⟩
  | .zero n => ⟨0, false, false, false, n⟩
  | .fin v => ⟨(v * pow2 149).floor, false, false, false, false⟩

def exactAdd (x y : ExactEl) : ExactEl :=
  ⟨x.acc + y.acc, x.nan || y.nan, x.pinf || y.pinf, x.ninf || y.ninf, x.negz && y.negz⟩

/-- The owner's delivery of an exact element. -/
def exactOut (x : ExactEl) : Word :=
  if x.nan || (x.pinf && x.ninf) then f32nan
  else if x.pinf then 0x7F800000
  else if x.ninf then 0xFF800000
  else if x.acc = 0 then (if x.negz then 0x80000000 else 0)
  else BitVec.ofNat 32 (roundRne .fp32 (.fin ((x.acc : Rat) * pow2 (-149)))).bits

/-- combine of two payloads, the lower address on the left; none is an absent partial. -/
def combinePayload (x y : Payload) : Payload :=
  match x, y with
  | .none, p => p
  | p, .none => p
  | .fp32 a, .fp32 b => .fp32 ((a.zip b).map fun (u, v) => fp32Add u v)
  | .exact a, .exact b => .exact ((a.zip b).map fun (u, v) => exactAdd u v)
  | p, _ => p

def payloadNonfinite : Payload → Bool
  | .fp32 w => w.any f32nonfinite
  | .exact e => e.any fun x => x.nan || x.pinf || x.ninf
  | .none => false

/-- The combination of two partials at one tree node (R271, R272). -/
def combineChunk (lo hi : Chunk) (b : Nat) : Chunk :=
  let p := combinePayload lo.payload hi.payload
  { lo with bit := b + 1, count := lo.count + hi.count, carry := lo.carry || hi.carry,
            nonfinite := lo.nonfinite || hi.nonfinite || payloadNonfinite p, payload := p }

/-! ## Adders (R273, R275, R276) -/

/-- How many address bits a chunk's reduction combines: 7 for a compressed bucket's gradient, else 17. -/
def State.lastBit (s : State) (r : ExchRec) (c : Chunk) : Nat :=
  match c.kind, r.buckets[c.idx]? with
  | .gradient, some b => if s.compressed r b then 7 else 17
  | _, _ => 17

def State.target (s : State) (r : ExchRec) (c : Chunk) : Nat := if c.check then s.checkTarget r.owner else r.owner

/-- Where the combine of a partial takes place: at the Pod level, bits 0 to 2 in one pass at one collector. -/
def State.nextDev (s : State) (r : ExchRec) (c : Chunk) : Nat :=
  if c.bit < 3 then s.coll (s.target r c) 3 (c.node / 8 * 8)
  else s.coll (s.target r c) (c.bit + 1) (c.node / 2 ^ (c.bit + 1) * 2 ^ (c.bit + 1))

def sameChunk (x y : Chunk) : Bool :=
  x.chan == y.chan && x.kind == y.kind && x.idx == y.idx && x.step == y.step && x.chunk == y.chunk && x.check == y.check

/-- What becomes of a partial at this device: held for its partner, sent on, or final here. -/
inductive Fate where
  | held
  | sent (dst : Nat) (c : Chunk)
  | final (c : Chunk)
deriving DecidableEq, Repr

/-- Combining as far as the partials held allow: the partials left, and the fate. -/
def State.climb (s : State) (r : ExchRec) : Nat → List Chunk → Chunk → List Chunk × Fate
  | 0, parts, c => (parts, .final c)
  | fuel + 1, parts, c =>
    if s.lastBit r c ≤ c.bit then (parts, .final c)
    else
      let dest := s.nextDev r c
      if dest != s.addr then (parts, .sent dest c)
      else
        let partner := c.node ^^^ 2 ^ c.bit
        let parent := c.node / 2 ^ (c.bit + 1) * 2 ^ (c.bit + 1)
        if !(r.members.any fun m => m / 2 ^ c.bit == partner / 2 ^ c.bit) then
          State.climb s r fuel parts { c with bit := c.bit + 1, node := parent }
        else match parts.find? (fun p => sameChunk p c && p.node == partner && p.bit == c.bit) with
          | some p =>
            let rest := parts.filter fun x => !(sameChunk x c && x.node == partner && x.bit == c.bit)
            let (lo, hi) := if c.node < partner then (c, p) else (p, c)
            State.climb s r fuel rest { combineChunk lo hi c.bit with node := parent }
          | none => (parts ++ [c], .held)

/-- FP32 words of a final payload; an absent sum is +0 (R276). -/
def payloadWords (n : Nat) : Payload → List Word
  | .fp32 w => w
  | .exact e => e.map exactOut
  | .none => List.replicate n 0

/-- Elements of a chunk of a bucket. -/
def State.chunkLen (s : State) (r : ExchRec) (c : Chunk) : Nat := min (s.chunkElems r) (c.elems - c.chunk * s.chunkElems r)

/-- Address of a sum area (R276). -/
def State.sumAddr (s : State) (r : ExchRec) (q : Nat) : Nat := s.scratchAt r.sumOff + q % 2 * r.sumSize

/-- Whether the FUU has yet to read the sum area of a bucket at its owner: the bucket before the last of the step had it (R276). -/
def State.areaBusy (s : State) (r : ExchRec) (idx : Nat) : Bool :=
  r.owner == s.addr && decide (2 ≤ idx) && !(s.exchSt r.chan).processed.contains (idx - 2)

/-- Whether this device is the collector of its row on a route, where a compressed bucket ends as a row partial and its factors are combined (R275,
R282). -/
def State.collects (s : State) (r : ExchRec) (check : Bool) : Bool :=
  s.coll (if check then s.checkTarget r.owner else r.owner) 7 (s.addr / 128 * 128) == s.addr && r.members.any fun m => m / 128 == s.addr / 128

/-- Elements of P and of R. -/
def State.lowElems (s : State) (b : BucketRec) : Nat × Nat := (b.elems / b.cols * s.rankOf b, b.cols * s.rankOf b)

/-- Chunks of a bucket that pass this device's adders on a route: those of its gradient and, for a compressed bucket at a row collector, those of P
and R (R273, R283). -/
def State.leaveCount (s : State) (r : ExchRec) (idx : Nat) (check : Bool) : Nat :=
  match r.buckets[idx]? with
  | none => 0
  | some b => s.chunkCount r b.elems + if s.compressed r b && s.collects r check then
      s.chunkCount r (s.lowElems b).1 + s.chunkCount r (s.lowElems b).2 else 0

/-- Whether this device's adders of a route grant credit to a bucket: the lowest that has not left them, among the checked ones on the check
route (R273, R294); at the owner its sum area is free (R276). -/
def State.credit (s : State) (r : ExchRec) (step idx : Nat) (check : Bool) : Bool :=
  let x := s.exchSt r.chan
  if check then ((List.range r.buckets.length).find? fun i => decide (x.nextChk ≤ i) && s.bucketChecked r step i) == some idx
  else idx == x.next && !s.areaBusy r idx

/-- A chunk of a bucket has left the adders of a route; the last one lets the next bucket in (R273). -/
def ExchSt.leave (x : ExchSt) (check : Bool) (idx n : Nat) : ExchSt :=
  if check then (if x.goneChk + 1 < n then { x with goneChk := x.goneChk + 1 } else { x with goneChk := 0, nextChk := idx + 1 })
  else (if x.gone + 1 < n then { x with gone := x.gone + 1 } else { x with gone := 0, nf := false, next := idx + 1 })

/-- A chunk leaves this device's adders; a factor that a row collector of the other route enters does not pass them. -/
def State.leaveFor (s : State) (r : ExchRec) (x : ExchSt) (c : Chunk) : ExchSt :=
  if c.kind == .gradient || s.collects r c.check then x.leave c.check c.idx (s.leaveCount r c.idx c.check) else x

/-- Final chunks of a bucket's sum of one kind on one route. -/
def finalsOf (l : List Chunk) (kind : ChunkKind) (idx : Nat) : List Chunk := l.filter fun c => c.idx == idx && c.kind == kind

/-- The first differing element of the sums of the two routes. -/
def firstDiff (a b : List Word) : Nat := ((a.zip b).findIdx? fun (x, y) => x != y).getD (min a.length b.length)

def sumWords (s : State) (r : ExchRec) (l : List Chunk) (n : Nat) : List Word :=
  (List.range n).flatMap fun k => match l.find? fun c => c.chunk == k with
    | some c => payloadWords (s.chunkLen r c) c.payload
    | none => []

/-- The device for which a final chunk is: the owner, or the row collector of a compressed bucket. -/
def State.finalDev (s : State) (r : ExchRec) (c : Chunk) : Nat :=
  if s.lastBit r c = 17 then r.owner else s.coll r.owner 7 (c.node / 128 * 128)

/-- The collectors of both routes for a final chunk. -/
def State.collectors (s : State) (r : ExchRec) (c : Chunk) : List Nat :=
  let t := s.checkTarget r.owner
  [s.finalDev r c, if s.lastBit r c = 17 then t else s.coll t 7 (c.node / 128 * 128)]

/-- A finding that makes the step non-finite as a gradient (R260, R292). -/
def State.markNfGrad (s : State) (c : Fin 8) : State :=
  match s.jobOf c with
  | some j => s.setJob j.job { s.jobSt j.job with nfGrad := true }
  | none => s

/-- A bucket sum waits for the FUU; a non-finite one counts (R276, R292). -/
def State.pushSum (s : State) (r : ExchRec) (x : ExchSt) (m : SumSt) : State :=
  let s1 := s.setExch r.chan { x with sums := x.sums ++ [m] }
  if m.nonfinite then (s1.countCtx r.ctx ccBucketNf).markNfGrad r.ctx else s1

/-- The comparison of a checked bucket once both routes have delivered (R295). `c` is a chunk of it. -/
def State.compare (s : State) (r : ExchRec) (c : Chunk) : State :=
  let x := s.exchSt r.chan
  let kind := c.kind
  let idx := c.idx
  let n := s.chunkCount r c.elems
  let a := finalsOf x.finals kind idx
  let b := finalsOf x.checks kind idx
  if a.length < n || b.length < n then s
  else
    let wa := sumWords s r a n
    let wb := sumWords s r b n
    let cnt (l : List Chunk) : Nat := (l.head?.map Chunk.count).getD 0
    let nf (l : List Chunk) : Bool := l.any Chunk.nonfinite
    let s1 := s.setExch r.chan { x with finals := x.finals.filter fun c => !(c.idx == idx && c.kind == kind)
                                        checks := x.checks.filter fun c => !(c.idx == idx && c.kind == kind)
                                        compared := x.compared ++ [idx] }
    let s2 := s1.countCtx r.ctx ccCheck
    if wa == wb && cnt a == cnt b && nf a == nf b then s2
    else (s2.countCtx r.ctx ccCheckMismatch).faultCtx 0x6032 r.ctx ([r.chan, s.exchStep r, idx, firstDiff wa wb] ++ s.collectors r c)

/-- A final chunk of the primary route at the device that it is for: into the sum area of the owner (R276), or, for a compressed bucket and
for low-rank factors, held for the exchange programs (R283). -/
def State.deliver (s : State) (r : ExchRec) (c : Chunk) : State :=
  let x := s.exchSt r.chan
  let n := s.chunkCount r c.elems
  let keep := s.bucketChecked r c.step c.idx
  let x1 := if keep then { x with finals := x.finals ++ [c] } else x
  if s.lastBit r c != 17 || c.kind != .gradient then
    s.setExch r.chan (s.leaveFor r { x1 with low := x1.low ++ [c] } c)
  else
    let q := seqOf r c.step c.idx
    let words := payloadWords (s.chunkLen r c) c.payload
    let nf := x.nf || c.nonfinite || words.any f32nonfinite
    let s1 : State := { s with mem := memPutBytes s.mem (s.sumAddr r q + c.chunk * s.chunkElems r * 4) (words.flatMap fun (w : Word) => natLe 4 w.toNat) }
    if x.gone + 1 < n then s1.setExch r.chan { x1.leave false c.idx n with nf }
    else s1.pushSum r (x1.leave false c.idx n) ⟨c.idx, c.step, c.count, nf⟩

/-- A final chunk at this device. -/
def State.finish (s : State) (r : ExchRec) (c : Chunk) : State :=
  let dev := s.finalDev r c
  if !c.check then (s.deliver r c).compare r c
  else
    let x := s.exchSt r.chan
    if dev != s.addr then (s.setExch r.chan (s.leaveFor r x c)).sendChunk dev c
    else (s.setExch r.chan (s.leaveFor r { x with checks := x.checks ++ [c] } c)).compare r c

/-- A partial enters the adders of this device. -/
def State.addChunk (s : State) (r : ExchRec) (c : Chunk) : State :=
  let x := s.exchSt r.chan
  let (parts, fate) := s.climb r 18 x.parts c
  let s1 := s.setExch r.chan { x with parts }
  match fate with
  | .held => s1
  | .sent d p =>
    let s2 := s1.sendChunk d p
    if p.bit = 0 then s2
    else s2.setExch r.chan (s.leaveFor r (s2.exchSt r.chan) p)
  | .final p => s1.finish r p

/-! ## Leaves (R269, R271, R286 to R289) -/

/-- The bucket of a channel that a descriptor's range lies in. -/
def bucketOf (r : ExchRec) (t : TileDesc) : Option Nat :=
  r.buckets.findIdx? fun b => b.tensorId == t.tensorId.toNat && decide (b.elem0 ≤ t.index 0 0) && decide (t.index 0 0 < b.elem0 + b.elems)

def ExchSt.leaf (x : ExchSt) (idx step : Nat) : LeafSt := (x.leafs.find? fun l => l.idx == idx && l.step == step).getD { idx, step }
def ExchSt.setLeaf (x : ExchSt) (l : LeafSt) : ExchSt := { x with leafs := (x.leafs.filter fun y => !(y.idx == l.idx && y.step == l.step)) ++ [l] }

/-- The carry that a contribution of a step takes (R288). -/
def ExchSt.carryFor (x : ExchSt) (idx step : Nat) : Option CarrySt :=
  x.carries.find? fun c => c.idx == idx && c.step + 1 == step && (c.usedIn == none || c.usedIn == some step)

/-- The chunks of a contribution or low-rank factor of `elems` elements (R270, R271); no words are an excluded contribution. A factor begins
above the Row level. -/
def State.chunksOf (s : State) (r : ExchRec) (c : Chunk) (w : Option (List Word)) : List Chunk :=
  let m := s.chunkElems r
  let nonfinite := c.nonfinite || (w.getD []).any f32nonfinite
  let node := if c.kind == .gradient then s.addr else s.addr / 128 * 128
  let bit := if c.kind == .gradient then 0 else 7
  (List.range (s.chunkCount r c.elems)).map fun k =>
    let payload : Payload := match w with
      | none => .none
      | some l =>
        let part := (l.drop (k * m)).take m
        if s.canonical r.ctx then .exact (part.map exactOf) else .fp32 part
    { c with nonfinite, chunk := k, node, bit, payload }

/-- The chunks of a contribution or factor go into the exchange on a route. -/
def State.enterChunks (s : State) (r : ExchRec) (c : Chunk) (w : Option (List Word)) : State :=
  (s.chunksOf r c w).foldl (fun (t : State) k => t.addChunk r k) s

/-- Carried values scaled to the exponent in force, rounding only out of the normal range (R288). -/
def carryScale (w : Word) (d : Int) : Word :=
  match decode .fp32 w.toNat with
  | .fin v => BitVec.ofNat 32 (roundRne .fp32 (.fin (v * pow2 d))).bits
  | _ => w

/-- The words of a contribution or factor of n elements that has been read whole. -/
def wordsOf (n : Nat) (data : List (Nat × Word)) : List Word :=
  (List.range n).map fun i => ((data.find? fun (k, _) => k == i).map (·.2)).getD 0

/-- What this device's contribution to a bucket sends: COUNT, CARRY and the words; an excluded contribution when it was late (R287). None while it
has not entered in time or been read whole. -/
def State.leafOut (s : State) (r : ExchRec) (b : BucketRec) (l : LeafSt) : Option (Nat × Bool × Option (List Word)) :=
  let inTime := match l.entry with | some e => decide (e < s.deadline r) && !s.replayExcluded r l.idx l.step | none => false
  if l.late then some (0, false, none)
  else if !inTime || l.data.length < b.elems then none
  else
    let words := wordsOf b.elems l.data
    match (s.exchSt r.chan).carryFor l.idx l.step with
    | none => some (1, false, some words)
    | some c => some (2, true, some ((words.zip c.vals).map fun (n, o) => fp32Add n (carryScale o ((s.ctxJob r.ctx).e - c.exp))))

/-- The leaf after its chunks have gone on a route; what it has read in time is kept until both routes have it. -/
def LeafSt.gone (l : LeafSt) (check both : Bool) : LeafSt :=
  let y := if check then { l with sentChk := true } else { l with sent := true }
  if y.sent && (y.sentChk || !both) && !y.late then { y with data := [] } else y

/-- Whether this device's contribution to a bucket may leave on a route: those of lower buckets have, and its own adder, where it is the first
collector, has credit for it (R268, R273). -/
def State.leafFree (s : State) (r : ExchRec) (idx step : Nat) (check : Bool) : Bool :=
  let x := s.exchSt r.chan
  let target := if check then s.checkTarget r.owner else r.owner
  ((List.range idx).all fun i => let y := x.leaf i step; if check then y.sentChk || !s.bucketChecked r step i else y.sent)
    && (s.coll target 3 (s.addr / 8 * 8) != s.addr || s.credit r step idx check)

/-- This device's contribution to a bucket goes into the exchange on a route, when it can (R271, R287, R288, R294). -/
def State.formLeaf (s : State) (r : ExchRec) (idx step : Nat) (check : Bool) : State :=
  let x := s.exchSt r.chan
  let l := x.leaf idx step
  let both := s.bucketChecked r step idx
  match r.buckets[idx]? with
  | none => s
  | some b =>
    if (if check then l.sentChk || !both else l.sent) || !s.leafFree r idx step check then s
    else match s.leafOut r b l with
      | none => s
      | some (count, carry, w) =>
        let y := x.setLeaf (l.gone check both)
        let carries := if carry then y.carries.map fun k => if k.idx == idx && k.step + 1 == step then { k with usedIn := some step } else k
          else y.carries
        let c : Chunk := { chan := r.chan, kind := .gradient, nonfinite := false, check, carry, idx, step, count, chunk := 0, elems := b.elems
                           node := 0, bit := 0, payload := .none }
        (s.setExch r.chan { y with carries }).enterChunks r c w

/-- Sending every contribution that can leave now, in bucket order. -/
def State.settleLeaves (s : State) (r : ExchRec) (step : Nat) : State :=
  (List.range r.buckets.length).foldl (fun (t : State) i => (t.formLeaf r i step false).formLeaf r i step true) s

/-! ## Low-rank factors (R282, R283)

The exchange programs of a compressed bucket enter their factors with LREDs on the bucket's channel, under its tensor_id, after the gradient
contribution, and take what the exchange brings them with LRECVs (log entry 92). -/

/-- Whether this device is a row collector of a channel, a member or not. -/
def State.rowCollector (s : State) (r : ExchRec) : Bool := s.collects r false

/-- The factors that this device enters for a compressed bucket, in their order: P_k and R_k; at the owner also P̂ and Q. -/
def State.lowEnters (s : State) (r : ExchRec) (b : BucketRec) : List (ChunkKind × Nat) :=
  let (p, q) := s.lowElems b
  if !s.compressed r b then []
  else if r.owner == s.addr then [(.lowP, p), (.lowPhQ, p), (.lowR, q), (.lowPhQ, q)]
  else if s.rowCollector r then [(.lowP, p), (.lowR, q)]
  else []

/-- What this device's exchange programs receive for a compressed bucket, in its order: G_k and P̂; at the owner G_k, P and R. -/
def State.lowTakes (s : State) (r : ExchRec) (b : BucketRec) : List (ChunkKind × Nat) :=
  let (p, q) := s.lowElems b
  if !s.compressed r b then []
  else if r.owner == s.addr then [(.gradient, b.elems), (.lowP, p), (.lowR, q)]
  else if s.rowCollector r then [(.gradient, b.elems), (.lowPhQ, p)]
  else []

/-- The transfer in which element n of a sequence of transfers lies, counted from `k`. -/
def partAt : List (ChunkKind × Nat) → Nat → Nat → Option Nat
  | [], _, _ => none
  | (_, m) :: r, k, n => if n < m then some k else partAt r (k + 1) (n - m)

/-- The transfer that an LRED belongs to at its issue: 0 the gradient contribution, k + 1 the k-th factor. -/
def State.lredPart (s : State) (chan : Nat) (t : TileDesc) (step : Nat) : Nat :=
  match s.exchRec chan with
  | none => 0
  | some r => match bucketOf r t with
    | none => 0
    | some i => match r.buckets[i]? with
      | none => 0
      | some b =>
        let n := ((s.exchSt chan).leaf i step).issued
        if n < b.elems then 0 else (partAt (s.lowEnters r b) 1 (n - b.elems)).getD 5

/-- Bytes of one low-rank bank of a bucket on this device, and the offset of Q in it (R282). -/
def State.lowRankBank (s : State) (r : ExchRec) (b : BucketRec) : Nat × Nat :=
  let e := if s.rowCollector r then b.elems * 4 else 0
  (e + b.cols * s.rankOf b * 4, e)

/-- Devices to which this device passes what the owner sends, the primary route reversed (R279). -/
def State.routeChildren (s : State) (r : ExchRec) : List Nat :=
  let me := s.addr
  let pod := if s.coll r.owner 3 (me / 8 * 8) == me then r.members.filter fun m => m / 8 == me / 8 && m != me else []
  let up := (List.range 14).reverse.flatMap fun i =>
    let b := i + 3
    let n := me / 2 ^ (b + 1) * 2 ^ (b + 1)
    if s.coll r.owner (b + 1) n == me then
      [n, n + 2 ^ b].filterMap fun h =>
        if r.members.any fun m => m / 2 ^ b == h / 2 ^ b then
          let d := s.coll r.owner b h
          if d == me then none else some d
        else none
    else []
  up ++ pod

/-- A KIND 0x05 chunk on this device (R283): it goes on along the reversed route; Q of the next step is stored in the other bank, P̂ is held for
the exchange programs. The factor is told by its element count, P̂ before Q. -/
def State.lowBroadcast (s : State) (r : ExchRec) (c : Chunk) : State :=
  let s := (s.routeChildren r).foldl (fun (t : State) d => t.sendChunk d c) s
  match r.buckets[c.idx]? with
  | none => s
  | some b =>
    let x := s.exchSt r.chan
    let hats := (x.low.filter fun y => y.kind == .lowPhQ && y.idx == c.idx).length
    let isQ := c.elems == b.cols * s.rankOf b && (c.elems != b.elems / b.cols * s.rankOf b || decide (s.chunkCount r c.elems ≤ hats))
    if isQ then
      let (bank, q) := s.lowRankBank r b
      let cur := (s.ctxJob r.ctx).cur
      let a := s.regionBase .table + b.lrOff * 128 + (if cur then 0 else bank) + q + c.chunk * s.chunkElems r * 4
      { s with mem := memPutBytes s.mem a ((payloadWords (s.chunkLen r c) c.payload).flatMap fun (w : Word) => natLe 4 w.toNat) }
    else s.setExch r.chan { x with low := x.low ++ [c] }

/-- E of a bucket keeps its value: bank cur goes into the other one (R283). -/
def State.keepE (s : State) (r : ExchRec) (b : BucketRec) : State :=
  let (bank, e) := s.lowRankBank r b
  let a := s.regionBase .table + b.lrOff * 128
  let cur := (s.ctxJob r.ctx).cur
  { s with mem := memPutBytes s.mem (a + if cur then 0 else bank) (memGetBytes s.mem (a + if cur then bank else 0) e) }

/-- A factor whose words are all read goes into the exchange: P_k and R_k with the COUNT of the row partial, on both routes when the bucket is
checked; P̂ and Q are broadcast by the owner, and with Q the sum that the programs have written waits for the FUU, with the COUNT and flags
of P and R. A NONFINITE flag on P makes P̂ +0 and is set on it, and one on P̂ makes R_k +0 and keeps E. -/
def State.enterFactor (s : State) (r : ExchRec) (b : BucketRec) (idx step elems : Nat) (kind : ChunkKind) (last : Bool) (read : List Word) : State :=
  let x := s.exchSt r.chan
  let held (k : ChunkKind) : List Chunk := finalsOf x.low k idx
  let nf (k : ChunkKind) : Bool := (held k).any Chunk.nonfinite
  let cnt (k : ChunkKind) : Nat := ((held k).head?.map Chunk.count).getD 0
  let c : Chunk := { chan := r.chan, kind, nonfinite := kind == .lowP && nf .gradient || kind == .lowPhQ && !last && nf .lowP, check := false
                     carry := false, idx, step := if kind == .lowPhQ then step + 1 else step
                     count := cnt (if kind == .lowPhQ then .lowP else .gradient), chunk := 0, elems, node := 0, bit := 7, payload := .none }
  let zero : Bool := kind == .lowPhQ && !last && nf .lowP || kind == .lowR && nf .lowPhQ
  let words : List Word := if zero then List.replicate elems 0 else read
  let s := if zero && kind == .lowR then s.keepE r b else s
  if kind == .lowPhQ then
    let s1 := (s.chunksOf r c (some words)).foldl (fun (t : State) k => t.lowBroadcast r k) s
    if last then s1.pushSum r (s1.exchSt r.chan) ⟨idx, step, cnt .lowP, nf .lowP || nf .lowR⟩ else s1
  else
    let s1 := s.enterChunks r c (some words)
    if s.bucketChecked r step idx then s1.enterChunks r { c with check := true } (some words) else s1

/-- An LRED of a factor has been read. -/
def State.lowRead (s : State) (r : ExchRec) (b : BucketRec) (idx step part : Nat) (data : List (Nat × Word)) : State :=
  match (s.lowEnters r b)[part - 1]? with
  | none => s
  | some (kind, n) =>
    let x := s.exchSt r.chan
    let mine (l : LowSt) : Bool := l.idx == idx && l.step == step && l.part == part
    let l : LowSt := (x.lowIn.find? mine).getD { idx, step, part }
    let all := l.data ++ data
    let rest := x.lowIn.filter fun l => !mine l
    if all.length < n then s.setExch r.chan { x with lowIn := rest ++ [{ l with data := all }] }
    else (s.setExch r.chan { x with lowIn := rest }).enterFactor r b idx step n kind (part == 4) (wordsOf n all)

/-- Posting of an LRECV on an exchange channel: the transfer of its bucket that it takes. -/
def State.lowPost (s : State) (chan : Nat) (t : TileDesc) : State × Nat :=
  match s.exchRec chan with
  | none => (s, 0)
  | some r => match bucketOf r t with
    | none => (s, 0)
    | some i => match r.buckets[i]? with
      | none => (s, 0)
      | some b =>
        let x := s.exchSt chan
        let n := (aget x.posted i).getD 0
        (s.setExch chan { x with posted := aput x.posted i (n + t.rows * t.cols) }, (partAt (s.lowTakes r b) 0 n).getD 5)

/-- The words that a posted LRECV of an exchange channel takes, when the transfer is whole here. -/
def State.lowWords (s : State) (chan : Nat) (t : TileDesc) (part : Nat) : Option (List Byte) :=
  (s.exchRec chan).bind fun r => (bucketOf r t).bind fun i => r.buckets[i]?.bind fun b => (s.lowTakes r b)[part]?.bind fun (kind, n) =>
    let l := finalsOf (s.exchSt chan).low kind i
    if l.length < s.chunkCount r n then none
    else
      let w := sumWords s r l (s.chunkCount r n)
      some ((List.range t.rows).flatMap fun i => (List.range t.cols).flatMap fun j => natLe 4 (w.getD (t.index i j - b.elem0) 0).toNat)

/-! ## LRED (R119, R269) -/

/-- Issue of an LRED on a dense channel: the contribution enters with its last LRED (R269). -/
def State.leafIssue (s : State) (chan : Nat) (t : TileDesc) (step : Nat) : State :=
  match s.exchRec chan with
  | none => s
  | some r => if r.sparse then s else match bucketOf r t with
    | none => s
    | some i => match r.buckets[i]? with
      | none => s
      | some b =>
        let x := s.exchSt chan
        let l := x.leaf i step
        let n := l.issued + t.rows * t.cols
        s.setExch chan (x.setLeaf { l with issued := n, entry := if l.entry.isNone && b.elems ≤ n then some s.beat else l.entry })

/-- The FP32 elements of an LRED's range as (bucket element, word). -/
def State.lredData (s : State) (core : Nat) (t : TileDesc) (elem0 : Nat) : List (Nat × Word) :=
  (List.range t.rows).flatMap fun i => (List.range t.cols).map fun j =>
    (t.index i j - elem0, BitVec.ofNat 32 (elemBits s.mem (scrAddr core (t.base.toNat + i * t.stride.toNat)) .fp32 j))

/-- A late contribution that is whole: kept in its carry area under CARRY, discarded under DROP (R288, R289). -/
def State.lateData (s : State) (r : ExchRec) (b : BucketRec) (l : LeafSt) : State :=
  let x := s.exchSt r.chan
  if l.data.length < b.elems then s.setExch r.chan (x.setLeaf l)
  else
    let words := wordsOf b.elems l.data
    let y := x.setLeaf { l with data := [] }
    if s.policy r l.idx l.step = 1 && !l.drop then
      let off := ((r.buckets.take l.idx).map BucketRec.elems).foldl (· + ·) 0
      let s1 : State := { s with mem := memPutBytes s.mem (s.scratchAt r.carryOff + 4 * off) (words.flatMap fun (w : Word) => natLe 4 w.toNat) }
      s1.setExch r.chan { y with carries := y.carries ++ [{ idx := l.idx, step := l.step, exp := l.exp, vals := words }] }
    else s.setExch r.chan y

/-! ## Row-sparse lists (R249, R250) -/

/-- A row is added to a list: rows of one index are summed in FP32, one rounding per addition. -/
def sparsePut (rows : List (Nat × List Word)) (row : Nat) (v : List Word) : List (Nat × List Word) :=
  match aget rows row with
  | none => aput rows row v
  | some w => aput rows row ((w.zip v).map fun (a, b) => fp32Add a b)

/-- The rows that an LRED brings this device's Table Engine, with their token indices. -/
def State.sparseAdd (s : State) (r : ExchRec) (core : Nat) (t : TileDesc) (step mb : Nat) : State :=
  let x := s.exchSt r.chan
  let one (i : Nat) : SparseRow :=
    { step, mb, core, row := if t.lrow = 0 then i else t.index i 0 / t.lrow.toNat
      vals := (List.range t.cols).map fun j => BitVec.ofNat 32 (elemBits s.mem (scrAddr core (t.base.toNat + i * t.stride.toNat)) .fp32 j) }
  s.setExch r.chan { x with own := x.own ++ (List.range t.rows).map one }

/-- This device's rows of a step summed by index, in ascending micro-batch and then in the order of positions: that of the S-cores, and on a core
that of its program (log entry 34). -/
def ExchSt.ownRows (x : ExchSt) (step : Nat) : List (Nat × List Word) :=
  (sortKey (fun y : SparseRow => y.mb * 2 ^ 14 + y.core) (x.own.filter fun y => y.step == step)).foldl (fun a y => sparsePut a y.row y.vals) []

/-- Bytes of a list (R249). -/
def listBytes (l : SparseList) : Nat := l.rows.foldl (fun n (_, v) => n + 8 + 4 * v.length) 32

/-- Whether the owner can take a list: it is merged at once when every list of a lower address has been, or else it fits into the staging area
beside the lists that wait there (R250). -/
def State.sparseRoom (s : State) (r : ExchRec) (l : SparseList) : Bool :=
  let held := (s.exchSt r.chan).lists.filter fun y => y.step == l.step
  let ready (a : Nat) : Bool := r.members.all fun m => decide (a ≤ m) || held.any fun y => y.source == m
  let staged := (held.filter fun y => !ready y.source).foldl (fun n y => n + listBytes y) 0
  let area := (((r.buckets.head?.bind fun b => s.updRec b.tensorId).bind UpdRec.staging).map (·.2)).getD 0
  ready l.source || decide (staged + listBytes l ≤ area)

/-- A list goes to its owner: held there, or sent (R249). -/
def State.putSparse (s : State) (r : ExchRec) (l : SparseList) : State :=
  if r.owner == s.addr then
    let x := s.exchSt r.chan
    s.setExch r.chan { x with lists := x.lists ++ [l] }
  else s.send [.sparse r.owner r.chan l]

/-- The rows of the list of the preceding step that was late under CARRY, scaled to the exponent in force (R288, R289). -/
def State.sparseCarry (s : State) (r : ExchRec) (step : Nat) : Option (List (Nat × List Word)) :=
  let x := s.exchSt r.chan
  (x.leafs.find? fun l => l.idx == 0 && l.step + 1 == step && l.late && !l.drop).map fun l =>
    (x.ownRows l.step).map fun (row, v) => (row, v.map fun w => carryScale w ((s.ctxJob r.ctx).e - l.exp))

/-- This device's list of a step, whole and in time, leaves when its owner has room for it; a late one is replaced by an empty list with count 0
(R289). -/
def State.enterSparse (s : State) (r : ExchRec) (step : Nat) : State :=
  let x := s.exchSt r.chan
  let l := x.leaf 0 step
  let carried := s.sparseCarry r step
  let rows := (carried.getD []).foldl (fun a (row, v) => sparsePut a row v) (x.ownRows step)
  let out : SparseList :=
    if l.late then ⟨step, s.addr, false, [], 0⟩
    else { step, source := s.addr, rows, count := if carried.isSome then 2 else 1, nonfinite := rows.any fun (_, v) => v.any f32nonfinite }
  if l.sent || !(l.late || l.entry.isSome) || r.owner == s.addr && !s.sparseRoom r out then s
  else (s.setExch r.chan (x.setLeaf { l with sent := true })).putSparse r out

/-- This device's sparse list of a step is whole: it has entered, unless it is late. -/
def State.flushSparse (s : State) (r : ExchRec) (step : Nat) : State :=
  let x := s.exchSt r.chan
  let l := x.leaf 0 step
  if l.entry.isSome || l.late || decide (s.deadline r ≤ s.beat) || s.replayExcluded r 0 step then s
  else (s.setExch r.chan (x.setLeaf { l with entry := some s.beat })).enterSparse r step

/-- Completion of an LRED: its range has been read (R119, R269, R283). -/
def State.leafRead (s : State) (core chan : Nat) (t : TileDesc) (j : EngJob) : State :=
  match s.exchRec chan with
  | none => s
  | some r =>
    if r.sparse then s.sparseAdd r core t j.step j.mb
    else match bucketOf r t with
    | none => s
    | some i => match r.buckets[i]? with
      | none => s
      | some b =>
        let x := s.exchSt chan
        let l := x.leaf i j.step
        let data := s.lredData core t b.elem0
        let l1 := { l with data := l.data ++ data }
        if j.part ≠ 0 then (s.lowRead r b i j.step j.part data).settleLeaves r j.step
        else if l.late then s.lateData r b l1
        else (s.setExch chan (x.setLeaf l1)).settleLeaves r j.step

end Sys2Proof.Machine
end

