-- ==== Sys2Proof/Machine/Slots.lean ====
section
/-!
DEFINITION. Stages of the student: weight slots, bound micro-batches, and the account of a step (R234, R237 to R241).
-/

namespace Sys2Proof.Machine

def State.stage (s : State) (k : Nat) : StageSt := (aget s.stages k).getD {}
def State.setStage (s : State) (k : Nat) (x : StageSt) : State := { s with stages := aput s.stages k x }
def State.stageRec (s : State) (k : Nat) : Option StageRec := s.plan.bind fun p => p.stages.find? fun r => r.stage == k
/-- The layers of a stage in forward order. -/
def State.stageLayers (s : State) (k : Nat) : List LayerRec := ((s.plan.map (·.layers)).getD []).filter fun l => l.stage == k

/-- The schedule of a step on a stage, and of one of its micro-batches (R235). -/
def State.stageOrder (s : State) (k : Nat) : List OrderRec := ((s.plan.map (·.order)).getD []).filter fun e => e.stage == k
def State.mbOrder (s : State) (k mb : Nat) : List OrderRec := (s.stageOrder k).filter fun e => e.mb == mb
/-- Whether a layer's forward entry is the first of a micro-batch on a stage, and whether its backward entry is the last (R234, R239). -/
def State.firstFwd (s : State) (k mb layer : Nat) : Bool := (((s.mbOrder k mb).filter (·.fwd)).head?.map (·.layer)) == some layer
def State.lastBwd (s : State) (k mb layer : Nat) : Bool := (((s.mbOrder k mb).filter (!·.fwd)).getLast?.map (·.layer)) == some layer

/-- Sequence number of a micro-batch (R234). -/
def State.seqNo (s : State) (step mb : Nat) : Nat := step * ((s.plan.map Plan.microBatches).getD 1) + mb
def fslotOf (q : Nat) : Nat := q % 64

/-- The slot in a phase, and in a phase with a version. -/
def StageSt.slotIn (x : StageSt) (ph : SlotPhase) : Option (Fin 2) := [(0 : Fin 2), 1].find? fun i => x.slots[i].ph == ph
def StageSt.slotAt (x : StageSt) (ph : SlotPhase) (v : Nat) : Option (Fin 2) :=
  [(0 : Fin 2), 1].find? fun i => x.slots[i].ph == ph && x.slots[i].version == v
def StageSt.setSlot (x : StageSt) (i : Fin 2) (sl : SlotSt) : StageSt := { x with slots := x.slots.set i sl }
def StageSt.boundCount (x : StageSt) (i : Fin 2) : Nat := (x.bound.filter fun e => e.2 == i).length

/-- A retiring slot with nothing bound becomes FREE (Table 8-7). -/
def StageSt.retire (x : StageSt) : StageSt :=
  [(0 : Fin 2), 1].foldl (fun (y : StageSt) i => if y.slots[i].ph == .retiring && y.boundCount i == 0 then y.setSlot i {} else y) x

/-- Byte address of a slot of a stage in HBM. -/
def State.slotAddr (s : State) (r : StageRec) (i : Fin 2) : Nat := s.regionBase .student + r.slotOff * 128 + i.val * r.slotBytes

/-- The SHADOW slot of version v for a write: an existing one, or the FREE slot; none makes the write wait (R238). -/
def StageSt.shadowFor (x : StageSt) (v : Nat) : Option (StageSt × Fin 2) :=
  match x.slotAt .shadow v with
  | some i => some (x, i)
  | none => match x.slotIn .shadow, x.slotIn .free with
    | none, some i => some ({ x.setSlot i ⟨.shadow, v⟩ with waiting := none }, i)
    | _, _ => none

/-- A receipt or an FUU write of version v waits for a slot (R238). -/
def StageSt.waitFor (x : StageSt) (v : Nat) : StageSt := { x with waiting := some v, waited := true }

/-! ## Step accounts (R241) -/

def State.acct (s : State) (c : Fin 8) : Option AcctSt := aget s.accts c.val
def State.mapAcct (s : State) (c : Fin 8) (f : AcctSt → AcctSt) : State :=
  match s.acct c with
  | some a => { s with accts := aput s.accts c.val (f a) }
  | none => s

/-- A micro-batch's first forward entry on the device opens or enters the account of its step. -/
def State.acctForward (s : State) (c : Fin 8) (step mb : Nat) : State :=
  let a := match s.acct c with
    | some a => if a.step = step then a else { step, first := s.beat }
    | none => { step, first := s.beat }
  { s with accts := aput s.accts c.val (if a.mbs.contains mb then a else { a with mbs := a.mbs ++ [mb] }) }

/-- Whether an entry of a context is in progress on some S-core (R102). -/
def State.anyEntry (s : State) (c : Fin 8) : Bool :=
  s.cores.any fun (n, k) => isSCore n && ((k.ctx[c]).running || !(k.ctx[c]).ending.isEmpty)

/-- Whether a receipt or an FUU write of a stage of a context has waited in this beat. -/
def State.slotWaits (s : State) (c : Fin 8) : Bool :=
  s.stages.any fun (k, x) => x.waited && (s.stageRec k).any fun r => r.ctx == c

/-- The end of a beat for the accounts: an idle beat counts, and so does a beat in which a receipt has waited (R238, R241). -/
def State.countIdle (s : State) : State :=
  let s1 := (List.finRange 8).foldl (fun (t : State) c =>
    if t.busy[c] || t.anyEntry c then t else t.mapAcct c fun a => { a with idle := a.idle + 1 }) s
  let s2 := (List.finRange 8).foldl (fun (t : State) c =>
    if s.slotWaits c then (t.countCtx c ccSlotWait).mapAcct c fun a => { a with slotWait := a.slotWait + 1 } else t) s1
  { s2 with busy := Vector.ofFn fun c => s2.anyEntry c
            stages := s2.stages.map fun (k, x) => (k, { x with waited := x.waiting.isSome }) }

/-! ## Completion of a backward entry (R239) -/

/-- A backward entry completed: the account takes its beat; when it is the last of its micro-batch on the stage, the micro-batch is no
longer bound and a retiring slot may become FREE. -/
def State.backwardDone (s : State) (k step mb layer : Nat) : State :=
  match s.stageRec k with
  | none => s
  | some r =>
    let s1 := s.mapAcct r.ctx fun a => if a.step = step then { a with lastBwd := s.beat, idleAt := a.idle } else a
    if s.lastBwd k mb layer then
      let x := s1.stage k
      s1.setStage k ({ x with bound := x.bound.filter fun e => e.1 != s.seqNo step mb }).retire
    else s1

end Sys2Proof.Machine
end

