-- ==== Sys2Proof/Machine/Entries.lean ====
section
/-!
DEFINITION. What follows when a start-queue entry completes on all its cores (R102).
-/

namespace Sys2Proof.Machine

/-- When the last backward entry of a step on this device has completed, its sparse lists go to their owners (R249). -/
def State.flushStep (s : State) (c : Fin 8) (step : Nat) : State :=
  let p := s.plan.getD {}
  let m := p.microBatches
  let open_ := p.stages.any fun r => r.ctx == c && (s.stage r.stage).bound.any fun e => e.1 / m == step
  let all := match s.acct c with | some a => a.step == step && decide (m ≤ a.mbs.length) | none => false
  if open_ || !all then s
  else (p.exch.filter fun r => r.sparse && r.ctx == c && r.members.contains s.addr).foldl (fun (t : State) r => t.flushSparse r step) s

/-- The event of an entry that has completed on every core it was appended to. -/
def State.entryComplete (s : State) (tag : EntryTag) : State :=
  match tag with
  | .backward stage step mb layer =>
    let s1 := s.backwardDone stage step mb layer
    match s.stageRec stage with
    | some r => s1.flushStep r.ctx step
    | none => s1
  | _ => s

/-- An entry completes on one core (R102): when it was appended to several cores, its event waits for the last of them. -/
def State.entryDone (s : State) (core : Nat) (tag : EntryTag) : State :=
  match tag with
  | .plain => s
  | _ => match s.openEntries.find? (fun e => e.1 == tag) with
    | none => s.entryComplete tag
    | some (_, cores) =>
      let left := cores.erase core
      let rest := s.openEntries.filter (fun e => e.1 != tag)
      if left.isEmpty then ({ s with openEntries := rest }).entryComplete tag
      else { s with openEntries := rest ++ [(tag, left)] }

end Sys2Proof.Machine
end

