-- ==== Sys2Proof/Machine/Operands.lean ====
section
/-!
DEFINITION. Operand forms of the sequencer instructions (R106): the value b, addresses, and the captured fields of the formats.
-/

namespace Sys2Proof.Machine

/-- b = (g[GB] + IMM) mod 2^32 (R106). -/
def CtxSt.b (x : CtxSt) (gb : Fin 32) (imm : Word) : Word := x.greg gb + imm

/-- The scratchpad address of LDS and STS: (g[GA] + IMM) mod 2^32 with bits [1:0] cleared (R106, R107). -/
def CtxSt.lsAddr (x : CtxSt) (ga : Fin 32) (imm : Word) : Nat := ((x.greg ga + imm) &&& 0xFFFFFFFC#32).toNat

/-- A 64-bit quantity from a register pair: g[r] + 2^32 × g[r + 1] (Table 4-7, R144). -/
def CtxSt.pair (x : CtxSt) (r : Fin 32) : Nat :=
  (x.greg r).toNat + 2 ^ 32 * (if h : r.val + 1 < 32 then (x.greg ⟨r.val + 1, h⟩).toNat else 0)

/-- The step of a stochastic vector store: g28 + 2^32 × g29 (R144). -/
def CtxSt.vstep (x : CtxSt) : Nat := x.pair 28

/-- The target beat of WAITB: g[GA] × 2^32 + g[GB] + IMM (R106). -/
def CtxSt.waitbTarget (x : CtxSt) (ga gb : Fin 32) (imm : Word) : Nat :=
  (x.greg ga).toNat * 2 ^ 32 + (x.greg gb).toNat + imm.toNat

/-- The counter that a SUB field names: SUB[3:0] (Table 4-4). -/
def subCounter (c : Fin 32) : Fin 16 := ⟨c.val % 16, by omega⟩

/-- The predicate that CMP writes: GD[2:0] (Table 4-4). -/
def cmpPred (gd : Fin 32) : Fin 8 := ⟨gd.val % 8, by omega⟩

end Sys2Proof.Machine
end

