-- ==== Sys2Proof/Machine/Transfer.lean ====
section
/-!
DEFINITION. DMA between HBM and scratchpad (R28, R117) and the data of link transfers (R118).
-/

namespace Sys2Proof.Machine

/-- Ranges of the table region, as byte offsets, that hold the low-rank state of this device's buckets (R28, R282). -/
def State.lowRankRanges (s : State) : List (Nat × Nat) :=
  ((s.plan.map Plan.exch).getD []).flatMap fun r =>
    if r.members.contains s.addr || s.rowCollector r then
      (r.buckets.filter fun b => s.compressed r b).map fun b =>
        let e := if s.rowCollector r then b.elems * 4 else 0
        (b.lrOff * 128, b.lrOff * 128 + 2 * (e + b.cols * s.rankOf b * 4))
    else []

/-- Whether a core may read or write a region of a kind (Table 1-4); an S-core writes the table region only within the low-rank ranges. -/
def State.coreAccess (s : State) (k : RegionKind) (sCore write : Bool) (off len : Nat) : Bool :=
  match k with
  | .teacher => !sCore && !write
  | .student => sCore && !write
  | .cellar => true
  | .buddy => false
  | .table => sCore && (!write || s.lowRankRanges.any (fun (a, b) => decide (a ≤ off) && decide (off + len ≤ b)))
  | .scratch => true

/-- The region that an index names. -/
def State.region (s : State) (i : Nat) : Option RegionRec := s.plan.bind fun p => p.regions.find? fun r => r.index == i

/-! ## The sealing stage (R166, R449, R450, log entry 87)

`State.mem` is HBM as accesses see it, on the inner side of the sealing stages; what the memory chips hold is `State.chipGranule`. -/

/-- The bit of SEAL_MASK for a region; the teacher region has none. -/
def sealBit : RegionKind → Option Nat
  | .student => some 0
  | .cellar => some 1
  | .buddy => some 2
  | .table => some 3
  | .scratch => some 4
  | .teacher => none

/-- Whether a region is sealed: the teacher region always, the table region when it holds a teacher table, any other unless SEAL_MASK clears its
bit. -/
def State.sealed (s : State) (g : RegionRec) : Bool :=
  (g.kind == .table && g.ranges.any TableRange.teacher) || match sealBit g.kind with | some n => s.img.sealMask.getLsbD n | none => true

/-- The key of a region: of K_boot, the region and its rotation count. -/
def State.regionKey (s : State) (g : RegionRec) : BitVec 512 :=
  Config.regionKey s.sec.bootKey g.index ((aget s.sec.rotation g.index).getD 0)

/-- What the memory chips hold in granule n of a region: ciphertext where the region is sealed, clear data where not. -/
def State.chipGranule (s : State) (g : RegionRec) (n : Nat) : List Byte :=
  let plain := memGetBytes s.mem (g.base + 4096 * n) 4096
  if s.sealed g then Config.xts (s.regionKey g) n plain else plain

/-- An access to a region through the sealing stage: a write, and the bytes that a read yields. -/
def State.hbmWrite (s : State) (g : RegionRec) (off : Nat) (b : List Byte) : State := { s with mem := memPutBytes s.mem (g.base + off) b }
def State.hbmRead (s : State) (g : RegionRec) (off len : Nat) : List Byte := memGetBytes s.mem (g.base + off) len

/-- One DMA row (R117): rows within the region move; others read as zeros or have their writes discarded. Answers whether the access was
permitted. DESIGN CHOICE (log entry 105): with HSTRIDE = 0, which Table 4-10 leaves out, every row lies at the one offset. -/
def State.dmaRow (s : State) (n : Nat) (t : TileDesc) (reg : Option RegionRec) (off : Nat) (toHbm : Bool) (r : Nat) : State × Bool :=
  let len := t.rowBytes
  let a := t.base.toNat + r * t.stride.toNat
  match reg with
  | none => (if toHbm then s else s.setScr n a (List.replicate len 0), false)
  | some g =>
    let ok := decide (off + len ≤ g.size) && s.coreAccess g.kind (isSCore n) toHbm off len
    if toHbm then (if ok then s.hbmWrite g off (s.scr n a len) else s, ok)
    else (s.setScr n a (if ok then s.hbmRead g off len else List.replicate len 0), ok)

/-- The packed element rows of a descriptor, row by row (R118). -/
def State.rowsData (s : State) (n : Nat) (t : TileDesc) : List Byte :=
  (List.range t.rows).flatMap fun r => s.scr n (t.base.toNat + r * t.stride.toNat) t.rowBytes

/-- Landing data row by row in a range (R118). -/
def State.landRows (s : State) (n : Nat) (t : TileDesc) (data : List Byte) : State :=
  (List.range t.rows).foldl (fun st r =>
    st.setScr n (t.base.toNat + r * t.stride.toNat) ((data.drop (r * t.rowBytes)).take t.rowBytes)) s

def State.chanSt (s : State) (c : Nat) : ChanSt := (aget s.chans c).getD {}
def State.setChan (s : State) (c : Nat) (x : ChanSt) : State := { s with chans := aput s.chans c x }
def State.chanRec (s : State) (c : Nat) : Option ChanRec := s.plan.bind fun p => p.channels.find? fun r => r.chan == c
/-- Whether both ends of a channel are on this device. -/
def chanLocal (r : ChanRec) : Bool := r.sender.isSome && r.receiver.isSome

end Sys2Proof.Machine
end

