-- ==== Sys2Proof/Machine/Transcend.lean ====
section
/-!
DEFINITION. F24 intermediates and the function values of chapter 05 (R148 to R152, R158, R160): interval arithmetic on exact rationals
gives the correctly rounded value; the fast path's own bits stay a free value within the published bounds.
-/

namespace Sys2Proof.Machine

/-- The largest F24 magnitude. -/
def f24Max : Rat := ((2 ^ 24 - 1 : Nat) : Rat) * pow2 2024
def rabs (v : Rat) : Rat := if v < 0 then -v else v

/-- round_f24 of an exact finite value (R148). -/
def roundF24 (v : Rat) : Rat :=
  if v = 0 then 0 else
    let y := roundSig 24 v
    let m := if rabs y ≥ pow2 2048 then f24Max else if rabs y < pow2 (-2048) then pow2 (-2048) else rabs y
    if v < 0 then -m else m

/-- round_f24 of a value; zeros, infinities and NaN pass. -/
def f24 : Num → Num
  | .fin v => .fin (roundF24 v)
  | z => z

/-- F24 sum and product; an invalid combination is delivered as NaN. DEDUCED (log entry 81): the sign of an exact zero sum is that of VADD
(Table 5-4). -/
def add24 (x y : Num) : Num := match Num.addX x y with | some z => f24 z | none => .nan
def sub24 (x y : Num) : Num := add24 x y.neg
def mul24 (x y : Num) : Num := match Num.mulX x y with | some z => f24 z | none => .nan

/-! ## Interval arithmetic -/

/-- A closed interval that contains an exact value. -/
structure Ival where
  lo : Rat
  hi : Rat
deriving DecidableEq, Repr

namespace Ival
def point (v : Rat) : Ival := ⟨v, v⟩
def add (x y : Ival) : Ival := ⟨x.lo + y.lo, x.hi + y.hi⟩
def neg (x : Ival) : Ival := ⟨-x.hi, -x.lo⟩
def mul (x y : Ival) : Ival :=
  let a := x.lo * y.lo
  let b := x.lo * y.hi
  let c := x.hi * y.lo
  let d := x.hi * y.hi
  ⟨min (min a b) (min c d), max (max a b) (max c d)⟩
/-- Reciprocal of a positive interval. -/
def inv (x : Ival) : Ival := ⟨1 / x.hi, 1 / x.lo⟩
end Ival

/-- Working precision in bits. -/
def fxP : Nat := 256
def fxOne : Nat := 2 ^ fxP

/-- Σ 2^P / (k 2^k), k from n down to 1: ln 2 from below, within n units. -/
def ln2Sum : Nat → Nat
  | 0 => 0
  | k + 1 => ln2Sum k + fxOne / ((k + 1) * 2 ^ (k + 1))
def ln2Fix : Nat := ln2Sum 300
def ln2Ival : Ival := ⟨mkRat ln2Fix fxOne, mkRat (ln2Fix + 400) fxOne⟩

/-- Σ x^n / n! in units of 2^-P, from term `t` with index `n`. -/
def expSum (x : Nat) : Nat → Nat → Nat → Nat
  | 0, _, _ => 0
  | fuel + 1, n, t => t + expSum x fuel (n + 1) (t * x / (fxOne * (n + 1)))

/-- e^r of a rational 0 ≤ r < 1 known within 2^22 units of 2^-P, as an interval. -/
def expUnit (r : Rat) : Ival :=
  let x := (r * fxOne).floor.toNat
  let s := expSum x 80 0 fxOne
  ⟨mkRat ((s : Int) - 2 ^ 24) fxOne, mkRat ((s : Int) + 2 ^ 24) fxOne⟩

/-- e^x; arguments beyond ±3,000 stand at their clamp (R148). -/
def expIval (x : Rat) : Ival :=
  if x > 3000 then .point (pow2 5000)
  else if x < -3000 then .point (pow2 (-5000))
  else
    let k := (x * fxOne / ln2Fix).floor
    (expUnit (x - k * mkRat ln2Fix fxOne)).mul (.point (pow2 k))

/-- 2^x. -/
def exp2Ival (x : Rat) : Ival :=
  if x > 3000 then .point (pow2 5000)
  else if x < -3000 then .point (pow2 (-5000))
  else
    let k := x.floor
    (expUnit ((x - k) * mkRat ln2Fix fxOne)).mul (.point (pow2 k))

/-- Σ w^n / (2n+1) in units of 2^-P. -/
def atanhSum (w : Nat) : Nat → Nat → Nat → Nat
  | 0, _, _ => 0
  | fuel + 1, n, t => t / (2 * n + 1) + atanhSum w fuel (n + 1) (t * w / fxOne)

/-- ln a of a positive rational. -/
def lnIval (a : Rat) : Ival :=
  let k0 := ilog2 a
  let m0 := a / pow2 k0
  let big := decide (m0 ≥ mkRat 3 2)
  let k := if big then k0 + 1 else k0
  let m := if big then m0 / 2 else m0
  let z := (m - 1) / (m + 1)
  let g := atanhSum ((z * z * fxOne).floor.toNat) 64 0 fxOne
  let gi : Ival := ⟨mkRat ((g : Int) - 2 ^ 9) fxOne, mkRat ((g : Int) + 2 ^ 9) fxOne⟩
  ((Ival.point (2 * z)).mul gi).add ((Ival.point k).mul ln2Ival)

/-- log2 a. -/
def log2Ival (a : Rat) : Ival := (lnIval a).mul ln2Ival.inv

/-- σ(u) = 1/(1 + e^−u). -/
def sigIval (u : Rat) : Ival :=
  if u > 3000 then ⟨1 - pow2 (-300), 1⟩
  else if u < -3000 then .point (pow2 (-5000))
  else ((Ival.point 1).add (expIval (-u))).inv

def tanhPos (a : Rat) : Ival :=
  if a < pow2 (-40) then ⟨a * (1 - a * a / 3), a * (1 - a * a / 3 + 2 * a * a * a * a / 15)⟩
  else if a > 3000 then ⟨1 - pow2 (-300), 1⟩
  else
    let t := expIval (-2 * a)
    ((Ival.point 1).add t.neg).mul ((Ival.point 1).add t).inv
def tanhIval (a : Rat) : Ival := if a < 0 then (tanhPos (-a)).neg else tanhPos a

/-- The argument of σ in VGELU: 1.5957691216 × (a + 0.044715 a³). -/
def geluU (a : Rat) : Rat := mkRat 15957691216 10000000000 * (a + mkRat 44715 1000000 * a * a * a)

/-- e^−|x| / (1 + e^−|x|)², the derivative of σ. -/
def dsigIval (x : Rat) : Ival :=
  let t := expIval (-(rabs x))
  let d := ((Ival.point 1).add t).inv
  (t.mul d).mul d

/-- The functions of Tables 5-5 and 5-9. -/
inductive VFun where
  | rcpe | rsqe | exp2f | log2f | exp | exp2 | log | log2 | div | sqrt | rsqrt | rcp | sigmoid | tanh | silu | gelu
  | dsigmoid | dtanh | dsilu | dgelu
deriving DecidableEq, Repr

/-- The OP code of a function. -/
def VFun.op : VFun → Nat
  | .rcpe => 0x10 | .rsqe => 0x11 | .exp2f => 0x12 | .log2f => 0x13 | .exp => 0x18 | .exp2 => 0x19 | .log => 0x1A | .log2 => 0x1B
  | .div => 0x1C | .sqrt => 0x1D | .rsqrt => 0x1E | .rcp => 0x1F | .sigmoid => 0x20 | .tanh => 0x21 | .silu => 0x22 | .gelu => 0x23
  | .dsigmoid => 0x38 | .dtanh => 0x39 | .dsilu => 0x3A | .dgelu => 0x3B

/-- The fast bound in ulp24 (Tables 5-5 and 5-9). -/
def VFun.bound : VFun → Nat
  | .exp2f => 1 | .log2f => 1 | .exp => 2 | .exp2 => 1 | .log => 2 | .log2 => 2 | .div => 1 | .sqrt => 1 | .rsqrt => 1 | .rcp => 1
  | .sigmoid => 3 | .tanh => 3 | .silu => 4 | .gelu => 5 | .dsigmoid => 6 | .dtanh => 6 | .dsilu => 8 | .dgelu => 8
  | .rcpe => 0 | .rsqe => 0

/-- Integer square root by bits. -/
def isqrtBits : Nat → Nat → Nat → Nat
  | 0, _, r => r
  | b + 1, n, r => isqrtBits b n (if (r + 2 ^ b) * (r + 2 ^ b) ≤ n then r + 2 ^ b else r)

/-- An interval of √v for v > 0 (a point when the root is exact). -/
def sqrtIval (v : Rat) : Ival :=
  let s : Int := (120 - ilog2 v) / 2
  let x := v * pow2 (2 * s)
  let r := isqrtBits 64 x.floor.toNat 0
  if ((r * r : Nat) : Rat) = x then .point ((r : Rat) * pow2 (-s))
  else ⟨(r : Rat) * pow2 (-s) + pow2 (-s - 64), ((r + 1 : Nat) : Rat) * pow2 (-s) - pow2 (-s - 64)⟩

/-- An interval of f(a) (f(a, b) for VDIV) for a finite nonzero operand inside the domain. -/
def VFun.ival (f : VFun) (a b : Rat) : Ival :=
  match f with
  | .rcpe => .point (1 / a)
  | .rcp => .point (1 / a)
  | .rsqe => sqrtIval (1 / a)
  | .rsqrt => sqrtIval (1 / a)
  | .sqrt => sqrtIval a
  | .div => .point (a / b)
  | .exp => expIval a
  | .exp2 => if a.den = 1 then .point (pow2 (max (min a.num 5000) (-5000))) else exp2Ival a
  | .exp2f => exp2Ival a
  | .log => if a = 1 then .point 0 else lnIval a
  | .log2 => if a = pow2 (ilog2 a) then .point (ilog2 a) else log2Ival a
  | .log2f => if a = 1 then .point 0 else log2Ival a
  | .sigmoid => sigIval a
  | .tanh => tanhIval a
  | .silu => (Ival.point a).mul (sigIval a)
  | .gelu => (Ival.point a).mul (sigIval (geluU a))
  | .dsigmoid => dsigIval a
  | .dtanh => (Ival.point 4).mul (dsigIval (2 * a))
  | .dsilu => (sigIval a).mul ((Ival.point 1).add ((Ival.point a).mul (sigIval (-a))))
  | .dgelu =>
    let u := geluU a
    let s := sigIval u
    s.add (((Ival.point (a * mkRat 15957691216 10000000000 * (1 + mkRat 134145 1000000 * a * a))).mul s).mul (sigIval (-u)))

/-- round_f24 of the exact value that an interval contains (R160); where the interval leaves two neighbours open, the free value decides. -/
def roundIval (f : VFun) (a b : Rat) (iv : Ival) : Rat :=
  let l := roundF24 iv.lo
  let h := roundF24 iv.hi
  if l = h then l else if Config.hardCaseUp f.op a b then h else l

/-- Whether f(a) itself is an F24 value that the manual's exact cases name (Table 5-5). -/
def VFun.exact (f : VFun) (iv : Ival) : Bool :=
  match f with
  | .rcpe => false
  | .rsqe => false
  | _ => decide (iv.lo = iv.hi) && decide (roundF24 iv.lo = iv.lo)

/-- The fast-path F24 value: the free value of R149 and R151, held to the published bound; exact in the exact cases. DESIGN CHOICE (log entry 108):
where the result and the exact value lie on both sides of a power of two, ulp24 is that of the exact value's binade. -/
def fastValue (f : VFun) (a b : Rat) (iv : Ival) : Rat :=
  let y0 := roundIval f a b iv
  if f.exact iv || decide (rabs y0 = f24Max) || decide (rabs y0 = pow2 (-2048)) || decide (y0 = 0) then y0 else
    let ulp := pow2 (ilog2 (rabs y0) - 23)
    let lim := if f.bound = 0 then pow2 (-14) * rabs iv.lo else (f.bound : Rat) * pow2 (ilog2 (min (rabs iv.lo) (rabs iv.hi)) - 23)
    let o := max (min (Config.fastOffset f.op a b) 4096) (-4096)
    let y := roundF24 (y0 + o * ulp / 2)
    if rabs (y - iv.lo) ≤ lim ∧ rabs (y - iv.hi) ≤ lim then y else y0

/-- The F24 value of a function of finite nonzero operands in the mode of the context (R149, R160). -/
def VFun.value (f : VFun) (canon : Bool) (a b : Rat) : Rat :=
  let iv := f.ival a b
  if canon then roundIval f a b iv else fastValue f a b iv

/-- The special values of VDIV (Table 5-6), then the value. -/
def divNum (canon : Bool) (a b : Num) : Num × Flags :=
  match a, b with
  | .nan, _ => (.nan, flNanIn)
  | _, .nan => (.nan, flNanIn)
  | .inf _, .inf _ => (.nan, flInvalid)
  | .inf s, _ => (.inf (s != b.sign), 0)
  | _, .inf t => (.zero (a.sign != t), 0)
  | .zero _, .zero _ => (.nan, flInvalid)
  | .fin _, .zero _ => (.inf (a.sign != b.sign), 0)
  | .zero _, .fin _ => (.zero (a.sign != b.sign), 0)
  | .fin x, .fin y => (Num.ofRat (VFun.div.value canon x y), 0)

/-- The result of a function for an infinite operand (Table 5-6). -/
def VFun.atInf (f : VFun) (neg : Bool) : Num × Flags :=
  match f, neg with
  | .exp, n => (if n then .zero false else .inf false, 0)
  | .exp2, n => (if n then .zero false else .inf false, 0)
  | .rcp, n => (.zero n, 0)
  | .rcpe, n => (.zero n, 0)
  | .sqrt, false => (.inf false, 0)
  | .log, false => (.inf false, 0)
  | .log2, false => (.inf false, 0)
  | .rsqrt, false => (.zero false, 0)
  | .rsqe, false => (.zero false, 0)
  | .sigmoid, n => (if n then .zero false else .one, 0)
  | .tanh, n => (.fin (if n then -1 else 1), 0)
  | .silu, n => (if n then .zero true else .inf false, 0)
  | .gelu, n => (if n then .zero true else .inf false, 0)
  | _, _ => (.nan, flInvalid)

/-- The result of a function for a zero operand (Table 5-6). -/
def VFun.atZero (f : VFun) (neg : Bool) : Num × Flags :=
  match f with
  | .exp => (.one, 0)
  | .exp2 => (.one, 0)
  | .exp2f => (.one, 0)
  | .log => (.inf true, 0)
  | .log2 => (.inf true, 0)
  | .rcp => (.inf neg, 0)
  | .rcpe => (.inf neg, 0)
  | .rsqrt => (.inf neg, 0)
  | .rsqe => (.inf neg, 0)
  | .sqrt => (.zero neg, 0)
  | .tanh => (.zero neg, 0)
  | .silu => (.zero neg, 0)
  | .gelu => (.zero neg, 0)
  | .sigmoid => (.half, 0)
  | _ => (.nan, flInvalid)

/-- Finite nonzero operands for which a function delivers NaN with INVALID (Table 5-6, R151). -/
def VFun.outside (f : VFun) (a : Rat) : Bool :=
  match f with
  | .log => decide (a < 0)
  | .log2 => decide (a < 0)
  | .sqrt => decide (a < 0)
  | .rsqrt => decide (a < 0)
  | .rsqe => decide (a < 0)
  | .exp2f => decide (a < mkRat (-1) 2) || decide (a > mkRat 1 2)
  | .log2f => decide (a < mkRat 3 4) || decide (a ≥ mkRat 3 2)
  | _ => false

/-- The F24 value and flags of a function operation (R149 to R151). -/
def fnF24 (f : VFun) (canon : Bool) (a b : Num) : Num × Flags :=
  match f with
  | .div => divNum canon a b
  | _ => match a with
    | .nan => (.nan, flNanIn)
    | .inf n => f.atInf n
    | .zero n => f.atZero n
    | .fin x => if f.outside x then (.nan, flInvalid) else (Num.ofRat (f.value canon x 0), 0)

/-- exp_v, log_v, div_v and rsqrt_v (R149). -/
def expV (canon : Bool) (x : Num) : Num := (fnF24 .exp canon x .nan).1
def logV (canon : Bool) (x : Num) : Num := (fnF24 .log canon x .nan).1
def divV (canon : Bool) (x y : Num) : Num := (divNum canon x y).1
def rsqrtV (canon : Bool) (x : Num) : Num := (fnF24 .rsqrt canon x .nan).1

/-- The limit of f′ at an infinity (R158). -/
def VFun.derivLimit (f : VFun) (neg : Bool) : Num :=
  match f with
  | .dsilu => if neg then .zero false else .one
  | .dgelu => if neg then .zero false else .one
  | _ => .zero false

/-- The F24 constants 1.5957691216 and 0.134145 of Table 5-9. -/
def geluC1 : Rat := roundF24 (mkRat 15957691216 10000000000)
def geluC2 : Rat := roundF24 (mkRat 134145 1000000)

/-- The σ or tanh that the forward operation of a derivative forms on the fast path (R158): VSIGMOID's and VSILU's σ(a), VTANH's value, and
σ(u) of VGELU. -/
def VFun.inner (f : VFun) (a : Rat) : Rat :=
  if a = 0 then (if f == .dtanh then 0 else mkRat 1 2)
  else match f with
    | .dtanh => VFun.tanh.value false a 0
    | .dgelu => VFun.sigmoid.value false (roundF24 (geluU a)) 0
    | _ => VFun.sigmoid.value false a 0

/-- The expression of Table 5-9 for f′, evaluated from left to right on the forward value `t`, each operation rounded to F24 (R158). -/
def VFun.derivExpr (f : VFun) (a t : Rat) : Rat :=
  let r := roundF24
  match f with
  | .dtanh => r (1 - r (t * t))
  | .dsilu => r (t * r (1 + r (a * r (1 - t))))
  | .dgelu => r (t + r (r (r (r (a * t) * r (1 - t)) * geluC1) * r (1 + r (geluC2 * r (a * a)))))
  | _ => r (t * r (1 - t))

/-- Whether a value lies within the bound of Table 5-9 of the exact derivative. -/
def VFun.within (f : VFun) (iv : Ival) (y : Rat) : Bool :=
  let lim := (f.bound : Rat) * pow2 (ilog2 (min (rabs iv.lo) (rabs iv.hi)) - 23)
  decide (rabs (y - iv.lo) ≤ lim) && decide (rabs (y - iv.hi) ≤ lim)

/-- f′(a) on the fast path (R158): the expression of Table 5-9 on the forward bits. DEDUCED (log entry 82): where that value leaves the bound
of Table 5-9, which the rule states beside it, it is a free value within the bound. -/
def VFun.fastDeriv (f : VFun) (a : Rat) : Rat :=
  let iv := f.ival a 0
  let y := f.derivExpr a (f.inner a)
  if f.within iv y then y else fastValue f a 0 iv

/-- An element-wise derivative: b × f′(a) as an F24 value, and the flags (R158, R160). -/
def derivF24 (f : VFun) (canon : Bool) (a b : Num) : Num × Flags :=
  match a, b with
  | .nan, _ => (.nan, flNanIn)
  | _, .nan => (.nan, flNanIn)
  | .inf n, _ => match Num.mulX b (f.derivLimit n) with | some z => (f24 z, 0) | none => (.nan, flInvalid)
  | _, .fin w =>
    let x := a.val
    let iv := f.ival x 0
    if canon then (Num.ofRat (roundIval f x w (iv.mul (.point w))), 0) else (Num.ofRat (roundF24 (w * f.fastDeriv x)), 0)
  | _, _ => match Num.mulX b (Num.ofRat (if canon then f.value true a.val 0 else f.fastDeriv a.val)) with
    | some z => (f24 z, 0)
    | none => (.nan, flInvalid)

/-! ## Sums (R152) -/

/-- One step of a sum: the first kept value stands as it is, later ones are added and rounded to F24. -/
def sumStep (s : Option Num) (v : Num) : Option Num := match s with | none => some v | some x => some (add24 x v)

/-- canonical_sum. -/
def canonicalSum (v : List (Num × Bool)) : Option Num := v.foldl (fun s (x, k) => if k then sumStep s x else s) none

def combineSlots (x y : Option Num) : Option Num :=
  match x, y with
  | none, y => y
  | x, none => x
  | some a, some b => some (add24 a b)

/-- One level of the tree over 2·w slots. -/
def pairSlots : List (Option Num) → List (Option Num)
  | a :: b :: r => combineSlots a b :: pairSlots r
  | r => r

/-- Iterated halving. -/
def treeSlots : Nat → List (Option Num) → Option Num
  | 0, l => (l.head?).getD none
  | n + 1, l => treeSlots n (pairSlots l)

/-- lane_tree_sum: columns go to slot j mod 64 in ascending order, then a binary tree over the 64 slots. -/
def laneTreeSum (v : List (Num × Bool)) : Option Num :=
  let slots := (List.range 64).map fun k => (v.zipIdx.foldl (fun s ((x, kp), j) => if kp && j % 64 == k then sumStep s x else s) none)
  treeSlots 6 slots

/-- The row sum of a context's mode. -/
def rowSum (canon : Bool) (v : List (Num × Bool)) : Option Num := if canon then canonicalSum v else laneTreeSum v

end Sys2Proof.Machine
end

