-- ==== Sys2Proof/Machine/VecArith.lean ====
section
/-!
DEFINITION. The element and row arithmetic of the vector engine (chapter 05), over values: native operations with their special values,
soft maximum, normalisation, row reductions and the row derivatives. Reading operands and writing destinations is in Vector.lean.
-/

namespace Sys2Proof.Machine

/-- Native operations (Table 5-3) other than VPERM. -/
inductive NatOp where
  | mov | add | sub | mul | fma | min | max | abs | neg | clt | ceq | sel | rint
deriving DecidableEq, Repr

def invalidNan : Num × Flags := (.nan, flInvalid)

/-- Sum, product and fused result with the INVALID cases of Table 5-4. DEDUCED (log entry 81): an exact zero of VFMA has the sign that VADD
gives the sum of the product and d. -/
def vAdd (a b : Num) : Num × Flags := match Num.addX a b with | some z => (z, 0) | none => invalidNan
def vMul (a b : Num) : Num × Flags := match Num.mulX a b with | some z => (z, 0) | none => invalidNan
def vFma (a b d : Num) : Num × Flags := match Num.mulX a b with | some p => vAdd p d | none => invalidNan

/-- Smaller and larger value; −0 is the smaller zero (Table 5-4). -/
def vMin (a b : Num) : Num :=
  if a.isZero && b.isZero then .zero (a.sign || b.sign) else if Num.lt b a then b else a
def vMax (a b : Num) : Num :=
  if a.isZero && b.isZero then .zero (a.sign && b.sign) else if Num.lt a b then b else a

/-- VRINT: to an integer, ties to even. -/
def vRint (a : Num) : Num :=
  match a with
  | .fin v =>
    let k := v.floor
    let n := if roundUp .rne k (v - k) then k + 1 else k
    Num.ofRat n (decide (v < 0))
  | z => z

def boolNum (b : Bool) : Num := if b then .one else .zero false

/-- The exact result of a native operation and its flags before the final rounding (R144, R145, Table 5-4). -/
def nativeOp (op : NatOp) (a b d : Num) : Num × Flags :=
  match op with
  | .sel =>
    let r := if a.isZero then d else b
    (r, if a.isNan || r.isNan then flNanIn else 0)
  | .mov => if a.isNan then (.nan, flNanIn) else (a, 0)
  | .abs => if a.isNan then (.nan, flNanIn) else (a.abs, 0)
  | .neg => if a.isNan then (.nan, flNanIn) else (a.neg, 0)
  | .rint => if a.isNan then (.nan, flNanIn) else (vRint a, 0)
  | .clt => if a.isNan || b.isNan then (.zero false, flNanIn) else (boolNum (Num.lt a b), 0)
  | .ceq => if a.isNan || b.isNan then (.zero false, flNanIn) else (boolNum (Num.eqv a b), 0)
  | .add => if a.isNan || b.isNan then (.nan, flNanIn) else vAdd a b
  | .sub => if a.isNan || b.isNan then (.nan, flNanIn) else vAdd a b.neg
  | .mul => if a.isNan || b.isNan then (.nan, flNanIn) else vMul a b
  | .min => if a.isNan || b.isNan then (.nan, flNanIn) else (vMin a b, 0)
  | .max => if a.isNan || b.isNan then (.nan, flNanIn) else (vMax a b, 0)
  | .fma => if a.isNan || b.isNan || d.isNan then (.nan, flNanIn) else vFma a b d

/-! ## Row operations -/

/-- Row status bits (Table 5-7). -/
def stEmpty : Nat := 1
def stPosInf : Nat := 2
def stNan : Nat := 4
def stInvalid : Nat := 8

/-- The outcome of a row: values by column (those of inactive columns are not written), status byte, flags. -/
structure RowOut where
  ys : List Num
  status : Nat := 0
  fl : Flags := 0
deriving DecidableEq, Repr

def keptOf (xs : List (Num × Bool)) : List Num := xs.filterMap fun (x, k) => if k then some x else none

/-- VRSUM and VRMAX (R155). DEDUCED (log entry 81): a VRMAX over zeros of both signs gives +0, as VMAX does. -/
def rowReduce (canon isMax : Bool) (xs : List (Num × Bool)) : Num × Nat × Flags :=
  let kept := keptOf xs
  let pinf := kept.any (fun x => x == .inf false)
  let ninf := kept.any (fun x => x == .inf true)
  if kept.any Num.isNan then (.nan, stNan, flNanIn)
  else if pinf && ninf && !isMax then (.nan, stInvalid, flInvalid)
  else if pinf then (.inf false, stPosInf, 0)
  else if ninf && !isMax then (.inf true, 0, 0)
  else match kept with
    | [] => (if isMax then .inf true else .zero false, stEmpty, 0)
    | x :: r => if isMax then (r.foldl vMax x, 0, 0) else ((rowSum canon xs).getD (.zero false), 0, 0)

/-- softmax_row (R156): `keep` beside each element; the scale s. DEDUCED (log entry 81): with one +inf, round_f24(−log_v(1)) is −0, the negation
of log_v(1) = +0. -/
def softmaxRow (canon logmode : Bool) (s : Num) (xs : List (Num × Bool)) : RowOut :=
  let live := xs.map fun (x, k) => (x, k && x != .inf true)
  let z : Num := if logmode then .inf true else .zero false
  let all (v : Num) : List Num := xs.map fun _ => v
  let lv := keptOf live
  if lv.any Num.isNan then ⟨all .nan, stNan, flNanIn⟩
  else if !s.isFinite || decide (s.val ≤ 0) then ⟨all .nan, stInvalid, flInvalid⟩
  else match lv with
  | [] => ⟨all z, stEmpty, 0⟩
  | h :: r =>
    let c := (lv.filter (fun x => x == .inf false)).length
    if c > 0 then
      let hit : Num := if logmode then f24 (logV canon (.fin c)).neg else divV canon .one (.fin c)
      ⟨live.map (fun (x, l) => if l && x == .inf false then hit else z), stPosInf, 0⟩
    else
      let m := r.foldl vMax h
      let t := live.map fun (x, l) => if l then (mul24 s (sub24 x m), true) else (Num.zero false, false)
      let e := t.map fun (x, l) => if l then (expV canon x, true) else (Num.zero false, false)
      let sum := (rowSum canon e).getD (.zero false)
      if logmode then
        let ls := logV canon sum
        ⟨t.map (fun (x, l) => if l then sub24 x ls else z), 0, 0⟩
      else ⟨e.map (fun (x, l) => if l then divV canon x sum else z), 0, 0⟩

/-- The cases of R157 that decide a normalisation row before its arithmetic: NaN, infinity or bad ε, empty; `bs` holds the second operand
of a derivative. -/
def normCheck (eps : Option Num) (xs : List (Num × Num × Bool)) : Option (Num × Nat × Flags) :=
  let kept := xs.filter (fun (_, _, k) => k)
  let badEps := match eps with | none => false | some e => !e.isFinite || decide (e.val < 0)
  if kept.any (fun (x, b, _) => x.isNan || b.isNan) then some (.nan, stNan, flNanIn)
  else if badEps || kept.any (fun (x, b, _) => x.isInf || b.isInf) then some (.nan, stInvalid, flInvalid)
  else if kept.isEmpty then some (.zero false, stEmpty, 0)
  else none

/-- d and v of norm_row (R157). -/
def normParts (canon centred : Bool) (eps : Num) (xs : List (Num × Bool)) : List (Num × Bool) × Num :=
  let k : Num := Num.ofRat ((keptOf xs).length : Nat)
  let d := if centred then
      let mu := divV canon ((rowSum canon xs).getD (.zero false)) k
      xs.map fun (x, kp) => if kp then (sub24 x mu, true) else (Num.zero false, false)
    else xs
  let q := (rowSum canon (d.map fun (x, kp) => (if kp then mul24 x x else .zero false, kp))).getD (.zero false)
  (d, add24 (divV canon q k) eps)

/-- norm_row (R157). -/
def normRow (canon centred : Bool) (eps : Num) (xs : List (Num × Bool)) : RowOut :=
  match normCheck (some eps) (xs.map fun (x, k) => (x, .zero false, k)) with
  | some (v, st, fl) => ⟨xs.map (fun _ => v), st, fl⟩
  | none =>
    let (d, v) := normParts canon centred eps xs
    let r := rsqrtV canon v
    ⟨d.map (fun (x, k) => if !k then .zero false else if v.isZero then x else mul24 x r), 0, 0⟩

/-- Row derivatives (R158, Table 5-9). -/
inductive RowDeriv where
  | softmax | rmsnorm | lnorm
deriving DecidableEq, Repr

/-- The mean of kept values: div_v of their sum by their number. -/
def meanOf (canon : Bool) (xs : List (Num × Bool)) : Num :=
  divV canon ((rowSum canon xs).getD (.zero false)) (Num.ofRat ((keptOf xs).length : Nat))

/-- One row of a row derivative: elements (a, b, active). -/
def rowDeriv (canon : Bool) (op : RowDeriv) (eps : Num) (xs : List (Num × Num × Bool)) : RowOut :=
  match normCheck (if op == .softmax then none else some eps) xs with
  | some (v, st, fl) => ⟨xs.map (fun _ => v), st, fl⟩
  | none =>
    match op with
    | .softmax =>
      let sd := (rowSum canon (xs.map fun (y, b, k) => (if k then mul24 b y else .zero false, k))).getD (.zero false)
      ⟨xs.map (fun (y, b, k) => if k then mul24 y (sub24 b sd) else .zero false), 0, 0⟩
    | _ =>
      let centred := op == .lnorm
      let (d, v) := normParts canon centred eps (xs.map fun (x, _, k) => (x, k))
      let mb := meanOf canon (xs.map fun (_, b, k) => (b, k))
      if v.isZero then
        ⟨xs.map (fun (_, b, k) => if !k then .zero false else if centred then sub24 b mb else b), 0, 0⟩
      else
        let r := rsqrtV canon v
        let xh := d.map fun (x, _) => mul24 x r
        let mbx := meanOf canon ((xs.zip xh).map fun ((_, b, k), h) => (if k then mul24 b h else .zero false, k))
        ⟨(xs.zip xh).map (fun ((_, b, k), h) =>
          if !k then .zero false else mul24 r (sub24 (if centred then sub24 b mb else b) (mul24 h mbx))), 0, 0⟩

end Sys2Proof.Machine
end

