-- ==== Sys2Proof/Machine/Vector.lean ====
section
/-!
DEFINITION. What a VOP does when the vector engine starts it (chapter 05): lanes and active length, operands, destination and row status.
-/

namespace Sys2Proof.Machine

/-- What a vector operation code computes. -/
inductive VKind where
  | nat (o : NatOp)
  | perm
  | func (f : VFun)
  | deriv (f : VFun)
  | reduce (isMax : Bool)
  | softmax (logmode : Bool)
  | norm (centred : Bool)
  | rowDeriv (o : RowDeriv)
deriving DecidableEq, Repr

/-- Operation codes (Tables 5-3, 5-5, 5-8, 5-9). -/
def vkind (op : VOpc) : Option VKind :=
  match op.toNat with
  | 0x00 => some (.nat .mov) | 0x01 => some (.nat .add) | 0x02 => some (.nat .sub) | 0x03 => some (.nat .mul) | 0x04 => some (.nat .fma)
  | 0x05 => some (.nat .min) | 0x06 => some (.nat .max) | 0x07 => some (.nat .abs) | 0x08 => some (.nat .neg) | 0x09 => some (.nat .clt)
  | 0x0A => some (.nat .ceq) | 0x0B => some (.nat .sel) | 0x0C => some (.nat .rint) | 0x28 => some .perm
  | 0x10 => some (.func .rcpe) | 0x11 => some (.func .rsqe) | 0x12 => some (.func .exp2f) | 0x13 => some (.func .log2f)
  | 0x18 => some (.func .exp) | 0x19 => some (.func .exp2) | 0x1A => some (.func .log) | 0x1B => some (.func .log2)
  | 0x1C => some (.func .div) | 0x1D => some (.func .sqrt) | 0x1E => some (.func .rsqrt) | 0x1F => some (.func .rcp)
  | 0x20 => some (.func .sigmoid) | 0x21 => some (.func .tanh) | 0x22 => some (.func .silu) | 0x23 => some (.func .gelu)
  | 0x30 => some (.reduce false) | 0x31 => some (.reduce true) | 0x34 => some (.softmax false) | 0x35 => some (.softmax true)
  | 0x36 => some (.norm false) | 0x37 => some (.norm true)
  | 0x38 => some (.deriv .dsigmoid) | 0x39 => some (.deriv .dtanh) | 0x3A => some (.deriv .dsilu) | 0x3B => some (.deriv .dgelu)
  | 0x3C => some (.rowDeriv .softmax) | 0x3D => some (.rowDeriv .rmsnorm) | 0x3E => some (.rowDeriv .lnorm)
  | _ => none

/-- Operations that work by rows: kept set, GS scalar and status bytes (R153). -/
def VKind.byRow : VKind → Bool
  | .reduce _ => true
  | .softmax _ => true
  | .norm _ => true
  | .rowDeriv _ => true
  | _ => false

/-- Whether the operation reads the prior destination element (VFMA, VSEL). -/
def VKind.readsDest : VKind → Bool
  | .nat .fma => true
  | .nat .sel => true
  | _ => false

/-- Number of active columns of a row (R137, R139): all of groups 0 to G − 2 and L′ of the last. -/
def activeCols (lanes vl cols : Nat) : Nat :=
  let g := (cols + lanes - 1) / lanes
  (g - 1) * lanes + min vl (cols - (g - 1) * lanes)

/-- The number of active lanes in group `g` of a row of `cols` columns. -/
def groupActive (lanes vl cols g : Nat) : Nat := min lanes (activeCols lanes vl cols - g * lanes)

/-- The B operand of element (i, j) (R141). DEDUCED (log entry 81): where TDB and TDA are both one row of one shape and ROWB = 1, the first case
of the rule applies. -/
def bOperand (bsrc : BSrc) (same rowb : Bool) (gs : Word) (imm : BitVec 16) (b : List (List Num)) (i j : Nat) : Num :=
  match bsrc with
  | .none => .zero false
  | .reg => decode .fp32 gs.toNat
  | .imm => decode .bf16 imm.toNat
  | .tensor => if same then (b.getD i []).getD j (.zero false)
    else if rowb then (b.getD 0 []).getD i (.zero false)
    else (b.getD 0 []).getD j (.zero false)

/-- VPERM at one position (R147): the value selected and the flags. -/
def vpermAt (arow : List Num) (k : Num) (g lanes active : Nat) (fill : Num) : Num × Flags :=
  let i := k.val.floor
  let (v, f) : Num × Flags := if k.isFinite && decide (0 ≤ i) && decide (i < active) then (arow.getD (g * lanes + i.toNat) fill, 0)
    else (fill, flLaneOob)
  if v.isNan then (.nan, f ||| flNanIn) else (v, f)

/-- The row status byte's address for row i; none when IMM16 = 0 (R153). -/
def statusAddr (imm : BitVec 16) (i : Nat) : Option Nat := if imm = 0 then none else some (imm.toNat * 32 + i)

/-- A row operation on one row: kept values beside their flags of use. -/
def rowOut (canon : Bool) (k : VKind) (scal : Option Num) (xs : List (Num × Num × Bool × Bool)) : RowOut :=
  match k with
  | .softmax lg => softmaxRow canon lg (scal.getD .one) (xs.map fun (x, _, kp, _) => (x, kp))
  | .norm c => normRow canon c (scal.getD (.zero false)) (xs.map fun (x, _, kp, _) => (x, kp))
  | .rowDeriv o => rowDeriv canon o (scal.getD (.zero false)) (xs.map fun (x, b, _, act) => (x, b, act))
  | _ => ⟨xs.map (fun (x, _, _, _) => x), 0, 0⟩

/-- The captured operands of a VOP, as values: rows of A, B and D, the lane count and the active length. -/
structure VArgs where
  canon : Bool
  lanes : Nat
  vl : Nat
  bsrc : BSrc
  same : Bool
  gs : Word
  gsNamed : Bool
  imm : BitVec 16
  a : List (List Num)
  b : List (List Num)
  d : List (List Num)
  cols : Nat
deriving DecidableEq, Repr

/-- The result of an element-wise operation at (i, j) (R144 to R151, R158). -/
def elementOut (k : VKind) (v : VArgs) (i j : Nat) : Num × Flags :=
  let arow := v.a.getD i []
  let a := arow.getD j (.zero false)
  let d := (v.d.getD i []).getD j (.zero false)
  match k with
  | .nat o => nativeOp o a (bOperand v.bsrc v.same (v.imm.getLsbD 0) v.gs v.imm v.b i j) d
  | .func f => fnF24 f v.canon a (bOperand v.bsrc v.same (v.imm.getLsbD 0) v.gs v.imm v.b i j)
  | .deriv f => derivF24 f v.canon a (bOperand v.bsrc v.same (v.imm.getLsbD 0) v.gs v.imm v.b i j)
  | .perm => vpermAt arow ((v.b.getD i []).getD j (.zero false)) (j / v.lanes) v.lanes (groupActive v.lanes v.vl v.cols (j / v.lanes))
      (decode .bf16 v.imm.toNat)
  | _ => (a, 0)

/-- Element i of the kept set of a row (R153): value, second operand, kept, active. -/
def rowArgs (k : VKind) (v : VArgs) (i : Nat) : List (Num × Num × Bool × Bool) :=
  let act := activeCols v.lanes v.vl v.cols
  let masked := match k with | .rowDeriv _ => false | _ => v.bsrc == .tensor
  ((v.a.getD i []).zipIdx).map fun (x, j) =>
    let b := (v.b.getD i []).getD j (.zero false)
    let a := decide (j < act)
    (x, b, a && !(masked && b.isZero), a)

/-- What a VOP writes and raises: the state after all its rows (R137 to R158). -/
def State.vopRows (s : State) (n : Nat) (k : VKind) (d : TileDesc) (v : VArgs) (rows step : Nat) (who : Fin 8 × Nat) :
    State × Flags :=
  let sr := s.srCtx d 0x0003 step who
  let act := activeCols v.lanes v.vl v.cols
  (List.range rows).foldl (fun (st : State × Flags) i =>
    if k.byRow then
      let xs := rowArgs k v i
      let (s1, status, fl) : State × Nat × Flags := match k with
        | .reduce m =>
          let (y, stt, f) := rowReduce v.canon m (xs.map fun (x, _, kp, _) => (x, kp))
          let (s1, f1) := st.1.storeRow n d sr 0 [(i, y)]
          (s1, stt, f ||| f1)
        | _ =>
          let o := rowOut v.canon k (if v.gsNamed then some (decode .fp32 v.gs.toNat) else none) xs
          let (s1, f1) := st.1.storeRow n d sr i ((o.ys.zipIdx.filter fun (_, j) => j < act).map fun (y, j) => (j, y))
          (s1, o.status, o.fl ||| f1)
      let s2 := match statusAddr v.imm i with
        | some a => s1.setScr n a [BitVec.ofNat 8 status]
        | none => s1
      (s2, st.2 ||| fl)
    else
      let ys := (List.range act).map fun j => (j, elementOut k v i j)
      let (s1, f1) := st.1.storeRow n d sr i (ys.map fun (j, y, _) => (j, y))
      (s1, ys.foldl (fun f (_, _, g) => f ||| g) (st.2 ||| f1))) (s, 0)

/-- The operands of a captured VOP. -/
def State.vArgs (s : State) (n : Nat) (ctx : Fin 8) (k : VKind) (bsrc : BSrc) (d a b : TileDesc) (gs : Word) (gsNamed : Bool)
    (imm : BitVec 16) (vl : Nat) : VArgs :=
  { canon := s.canonical ctx, lanes := lanesOf n, vl, bsrc, same := decide (b.rows = a.rows) && decide (b.cols = a.cols), gs, gsNamed, imm
    a := s.tile n a, b := if bsrc == .tensor then s.tile n b else [], d := if k.readsDest then s.tile n d else [], cols := a.cols }

/-- The same format: FMT and BLK, apart from RND and SAT (Table 2-5, R52, R144). -/
def sameFmt (x y : BitVec 8) : Bool := x.toNat % 32 == y.toNat % 32

/-- R143: the destination or the row-status range overlaps a source other than by identity. -/
def vopOverlap (k : VKind) (bsrc : BSrc) (d a b : TileDesc) (imm : BitVec 16) : Bool :=
  let ident (x : TileDesc) : Bool := d.base == x.base && d.stride == x.stride && d.rowsM1 == x.rowsM1 && d.colsM1 == x.colsM1 && sameFmt d.fmtd x.fmtd
  let stat : List (Nat × Nat) := if k.byRow && imm != 0 then [(imm.toNat * 32, imm.toNat * 32 + a.rows)] else []
  let bad (x : TileDesc) : Bool := (!ident x && rangesHit d.ranges x.ranges) || rangesHit stat x.ranges
  bad a || (bsrc == .tensor && bad b)

end Sys2Proof.Machine
end

