-- ==== Sys2Proof/Machine/Engine.lean ====
section
/-!
DEFINITION. Engines of a core: issue, ownership, start, completion, release and pre-emption (R103, R104, R123, R130, R135, R136,
R336 to R346, R443 to R446). An instruction's effect on data is applied when it starts; its flags, counter and release follow when it
completes.
-/

namespace Sys2Proof.Machine

/-- The engines an operation of a context uses (R103); a posted LRECV holds none. -/
def enginesOf (c : Fin 8) : EngOp → List Engine
  | .mma _ _ _ _ _ arr _ => [.array arr]
  | .mtwin .. => [.array 0, .array 1]
  | .mrd _ _ arr _ => [.array arr]
  | .mrdp _ _ _ arr => [.array arr]
  | .msav _ _ arr => [.array arr]
  | .vop .. => [.vector]
  | .dma .. => [.dma c]
  | .lsend .. => [.link c]
  | .lrecv .. => []
  | .lred .. => [.link c]
  | .stsend .. => [.stem c]

/-! ## Ranges of an operation (R123) -/

def srcRanges : EngOp → List (Nat × Nat)
  | .mma _ a b c _ _ mode => a.ranges ++ b.ranges ++
      (match mode with | .addend => c.ranges | .raw => c.rawRanges | _ => [])
  | .mtwin g w x _ _ _ _ => g.ranges ++ w.ranges ++ x.ranges
  | .vop op bsrc d a b _ _ _ _ _ => a.ranges ++ (if bsrc == .tensor then b.ranges else []) ++
      (match vkind op with | some k => if k.readsDest then d.ranges else [] | none => [])
  | .dma td _ _ toHbm _ => if toHbm then td.ranges else []
  | .lsend td _ => td.ranges
  | .lred td _ => td.ranges
  | .stsend td _ => td.ranges
  | _ => []

def dstRanges : EngOp → List (Nat × Nat)
  | .mrd c _ _ _ => c.ranges
  | .mrdp a c _ _ => c.ranges ++ a.ranges
  | .msav c _ _ => c.rawRanges
  | .vop op _ d a _ _ _ imm _ _ => d.ranges ++
      (match vkind op with
       | some k => if k.byRow && imm != 0 then [(imm.toNat * 32, imm.toNat * 32 + a.rows)] else []
       | none => [])
  | .dma td _ _ toHbm _ => if toHbm then [] else td.ranges
  | .lrecv td _ => td.ranges
  | _ => []

/-- The scratchpad share of a context on a core as [lo, hi) (R136, Table 12-1). -/
def State.share (s : State) (a : Site) : Nat × Nat :=
  match s.ctxRec a.ctx with
  | some r => if isSCore a.core then (r.sSpBase, r.sSpBase + r.sSpSize) else (r.tSpBase, r.tSpBase + r.tSpSize)
  | none => (0, 0)

/-- The landing area of an S-core as [lo, hi) (R188). -/
def State.landingSpan (s : State) (core : Nat) : Nat × Nat :=
  let n := (s.plan.map Plan.landingArea).getD 0
  if isSCore core then (Config.sScratchBytes - n, Config.sScratchBytes) else (0, 0)

/-- The landing buffers of a context on an S-core, which its sources may read (R190). -/
def State.landingReadable (s : State) (a : Site) : List (Nat × Nat) :=
  match s.plan with
  | none => []
  | some p => (p.landings.filter fun l => l.cctx == a.ctx && 9216 + l.score == a.core).map fun l => (l.base, l.base + l.slots * l.slotSize)

/-- The program of a context on a core, which holds its descriptor pool (R101, R111). -/
def State.prog (s : State) (a : Site) : Option ProgRec :=
  s.plan.bind fun p => p.programs.find? fun r => r.ctx == a.ctx.val && r.cores.contains a.core
def State.poolRange (s : State) (a : Site) : Nat × Nat :=
  match s.prog a with
  | some r => (r.poolBase, r.poolBase + 32 * r.pool.length)
  | none => (0, 0)

/-- The runtime condition that the ranges of an instruction raise at issue, as its code (R135, R136, R190). -/
def State.rangeCode (s : State) (a : Site) (srcs dsts : List (Nat × Nat)) : Option Nat :=
  let (lo, hi) := s.share a
  let inShare (r : Nat × Nat) : Bool := decide (lo ≤ r.1) && decide (r.2 ≤ hi)
  let land := s.landingSpan a.core
  let readable := s.landingReadable a
  if dsts.any (fun r => !inShare r || rangesHit [r] [land]) then some 0x6001
  else if srcs.any (fun r => !inShare r && !readable.any (fun b => decide (b.1 ≤ r.1) && decide (r.2 ≤ b.2))) then some 0x6001
  else if rangesHit dsts [s.poolRange a] then some 0x6002
  else none

/-- R123: whether incomplete instructions of the context hold the issue of one with these ranges. -/
def CoreSt.holds (k : CoreSt) (c : Fin 8) (srcs dsts : List (Nat × Nat)) : Bool :=
  k.jobs.any fun j => j.ctx == c && (rangesHit (srcs ++ dsts) j.dsts || rangesHit dsts j.srcs)

def CoreSt.incomplete (k : CoreSt) (c : Fin 8) : Nat := (k.jobs.filter fun j => j.ctx == c).length

/-! ## Ownership (R337, R338) -/

/-- Class of a context: latency-critical contexts come first (Table 12-1). -/
def State.isBE (s : State) (c : Fin 8) : Bool := ((s.ctxRec c).map CtxRec.be).getD false

/-- The owned engines an instruction needs. -/
def EngJob.owns (j : EngJob) : List (Fin 3) := j.engines.filterMap ownIdx

/-- What appended the entry that issued an instruction (R102). -/
def CoreSt.tagOf (k : CoreSt) (j : EngJob) : EntryTag :=
  let x := k.ctx[j.ctx]
  if j.entryNo == x.entryNo then x.tag else ((x.ending.find? fun e => e.1 == j.entryNo).map (·.2)).getD .plain

/-- The oldest incomplete instruction of a context for an engine, and its place in the queue. -/
def CoreSt.headIdx (k : CoreSt) (c : Fin 8) (e : Fin 3) : Option Nat := k.jobs.findIdx? fun j => j.ctx == c && j.owns.contains e
def CoreSt.head (k : CoreSt) (c : Fin 8) (e : Fin 3) : Option EngJob := (k.headIdx c e).bind fun i => k.jobs[i]?

/-- Whether a context has an instruction queued for an engine. -/
def CoreSt.queued (k : CoreSt) (c : Fin 8) (e : Fin 3) : Bool := k.jobs.any fun j => j.ctx == c && j.phase == .queued && j.owns.contains e

/-- A queued instruction at the head of its context's queues, and the engines that it needs: all are free or its context's, and one is free. -/
structure Contender where
  ctx : Fin 8
  need : List (Fin 3)
deriving DecidableEq, Repr

/-- The contenders of a core (R337): an MTWIN, of which another context owns an array, is none. -/
def CoreSt.contenders (k : CoreSt) : List Contender :=
  (List.finRange 8).flatMap fun c => k.jobs.zipIdx.filterMap fun (j, i) =>
    if j.ctx == c && j.phase == .queued && j.owns.all (fun e => k.headIdx c e == some i && (k.own[e] == none || k.own[e] == some c))
      && j.owns.any (fun e => k.own[e] == none) then some ⟨c, j.owns⟩ else none

/-- Whether the work that a context has at the head of an engine's queue is BE: that of a BE context, and a pause entry of any (R322). -/
def State.headBE (s : State) (k : CoreSt) (e : Fin 3) (c : Fin 8) : Bool :=
  s.isBE c || match k.head c e with
    | some j => (match k.tagOf j with | .pause .. => true | _ => false)
    | none => false

/-- Order of contenders: class, then distance after the last owner (R337). -/
def State.rank (s : State) (k : CoreSt) (e : Fin 3) (c : Fin 8) : Nat :=
  let last := (k.lastOwn[e].map fun x => x.val).getD 7
  (if s.headBE k e c then 8 else 0) + (c.val + 7 - last) % 8

/-- Whether a contender comes before another on an engine that both need. -/
def State.beats (s : State) (k : CoreSt) (x y : Contender) : Bool :=
  (x.need.find? y.need.contains).any fun e => decide (s.rank k e x.ctx < s.rank k e y.ctx)

def CoreSt.setOwn (k : CoreSt) (e : Fin 3) (c : Fin 8) : CoreSt := { k with own := k.own.set e (some c), lastOwn := k.lastOwn.set e (some c) }

/-- One passing of free engines: all that a contender needs, of a contender that no other comes before. DESIGN CHOICE (log entry 114): of
contenders of one class of which each has one before it, on arrays with different last owners, the lowest index is taken. -/
def State.grantOne (s : State) (k : CoreSt) : CoreSt :=
  let cs := k.contenders
  match (cs.find? fun x => !(cs.any fun y => s.beats k y x)).or cs.head? with
  | some x => x.need.foldl (fun q e => q.setOwn e x.ctx) k
  | none => k

/-- Free engines pass to the contexts whose queue heads need them (R337, R346). -/
def State.grant (s : State) (core : Nat) : State :=
  if ((s.core core).contenders).isEmpty then s else s.setCore core (s.grantOne (s.grantOne (s.grantOne (s.core core))))

/-- A pre-emption whose yielding tile belongs to an entry of a batch step adds 1 to PREEMPT for each request of the batch step (R352). -/
def State.chargePreempt (s : State) (tag : EntryTag) : State :=
  match tag with
  | .batch _ id => match s.batches.find? fun b => b.id == id with
    | some b => b.items.foldl (fun (t : State) (slot, _) => match t.req b.ctx slot with
        | some x => t.acctAdd x.r.client 16 4 1
        | none => t) s
    | none => s
  | _ => s

/-- Context c releases engines (R338), each with whether the boundary was a remote wait: all are free, and in the same cycle they pass under R337. A
passing to another context while c has an instruction queued for the engine is a pre-emption of its tile (R342, R352); on a remote wait, another
context's instruction queued for the engine counts a yield (R344). -/
def State.releaseEngines (s : State) (core : Nat) (c : Fin 8) (es : List (Fin 3 × Bool)) (tag : EntryTag) : State :=
  let k := s.core core
  let mine := es.filter fun x => k.own[x.1] == some c
  if mine.isEmpty then s else
    let s1 := (s.setCore core (mine.foldl (fun q x => q.leave x.1) k)).grant core
    mine.foldl (fun (t : State) x =>
      if x.2 then (if (List.finRange 8).any fun d => d != c && k.queued d x.1 then t.countCtx c ccYieldRemote else t)
      else match (s1.core core).own[x.1] with
        | some d => if d != c && k.queued c x.1 then (t.countCtx c ccPreempt).chargePreempt tag else t
        | none => t) s1

/-- A boundary's release of engine e bound to the completion of an instruction. -/
def EngJob.mark (j : EngJob) (e : Fin 3) (remote : Bool) : EngJob :=
  { j with release := (e, remote || j.release.any fun x => x.1 == e && x.2) :: j.release.filter fun x => x.1 != e }

/-- A tile boundary of context c (R130, R338, R344): each engine it owns is released now, or when the last instruction that it issued to
the engine completes. -/
def State.boundary (s : State) (a : Site) (remote : Bool) : State :=
  let k := s.core a.core
  let last (e : Fin 3) : Option Nat := ((k.jobs.zipIdx.filter fun x => x.1.ctx == a.ctx && x.1.owns.contains e).getLast?).map (·.2)
  let jobs := k.jobs.zipIdx.map fun (j, i) => ((List.finRange 3).filter fun e => last e == some i).foldl (fun (q : EngJob) e => q.mark e remote) j
  (s.setCore a.core { k with jobs }).releaseEngines a.core a.ctx (((List.finRange 3).filter fun e => last e == none).map fun e => (e, remote))
    (s.ctxAt a).tag

/-! ## Metering (R443, R445) -/

/-- Teacher MACs that an operation of a context counts when it starts: an MMA of a context bound to a Husk. -/
def State.meterCost (s : State) (j : EngJob) : Nat :=
  match j.op with
  | .mma _ a b _ _ _ _ =>
    if s.sec.husk.isSome && ((s.ctxRec j.ctx).map CtxRec.kind) == some .teacher then a.rows * b.rows * a.cols else 0
  | _ => 0

/-- The meter station of a core: that of its TCD (R445). -/
def tcdOf (core : Nat) : Fin 4 := ⟨core / 2304 % 4, by omega⟩
def stationOf (core : Nat) : Fin 10 := ⟨core / 2304 % 4, by omega⟩

/-- A metered operation subtracts its count from its station (R445). -/
def State.payMeter (s : State) (st : Fin 10) (cost : Nat) : State :=
  { s with sec := { s.sec with station := s.sec.station.set st (s.sec.station[st] - cost), macs := s.sec.macs + cost } }

/-! ## Starting (R103, R337) -/

/-- The accumulator sets that a matrix operation uses, as (array, set), and whether it fills or reads out (R76, R112 to R115). -/
def EngOp.setUse : EngOp → List (Fin 2 × Fin 2) × Bool
  | .mma _ _ _ _ set arr _ => ([(arr, set)], true)
  | .mtwin _ _ _ set0 set1 _ _ => ([(0, set0), (1, set1)], true)
  | .mrd _ set arr _ => ([(arr, set)], false)
  | .mrdp _ _ set arr => ([(arr, set)], false)
  | .msav _ set arr => ([(arr, set)], false)
  | _ => ([], false)

/-- While an array fills one set it can read out the other (R76, R77): two operations, one of each kind, on no common set. -/
def EngOp.beside (x y : EngOp) : Bool :=
  let u := x.setUse
  let v := y.setUse
  !u.1.isEmpty && !v.1.isEmpty && u.2 != v.2 && !(u.1.any fun e => v.1.contains e)

/-- Whether an earlier instruction of the same context keeps one from starting: they share an engine, and not as a fill and a read-out of
different sets of one tile under way together (R76, R103, R338). -/
def EngJob.blocks (x j : EngJob) : Bool :=
  x.ctx == j.ctx && x.engines.any (fun e => j.engines.contains e)
    && !(x.phase == .started && x.op.beside j.op && !(x.release.any fun r => j.owns.contains r.1))

/-- Whether the instruction at index i of the queue may start: it is queued, no earlier instruction of its context keeps it from it,
every owned engine is the context's, and its meter station covers it or is exhausted. -/
def State.startable (s : State) (core i : Nat) : Bool :=
  let k := s.core core
  match k.jobs[i]? with
  | none => false
  | some j =>
    j.phase == .queued && !s.pwr.trip &&
    !((k.jobs.take i).any fun x => x.blocks j) &&
    (j.owns.all fun e => k.own[e] == some j.ctx) &&
    (decide (s.meterCost j ≤ s.sec.station[stationOf core]) || s.sec.exhausted)

/-- Replacing the instruction at index i. -/
def State.setEngJob (s : State) (core i : Nat) (j : EngJob) : State :=
  let k := s.core core
  s.setCore core { k with jobs := k.jobs.set i j }

def State.dropJob (s : State) (core i : Nat) : State :=
  let k := s.core core
  s.setCore core { k with jobs := k.jobs.eraseIdx i }

/-- The data effect of an instruction that starts: the state, the flags it will post, and the code and detail of a fault that keeps it from
starting or (DMA) from counting. -/
def State.startEffect (s : State) (core : Nat) (j : EngJob) : State × Flags × Option Nat :=
  match j.op with
  | .mma tr a b c set arr mode =>
    match s.mmaSet core j.ctx tr a b c set arr mode with
    | some x => (s.setCore core ((s.core core).putSet arr set x), 0, none)
    | none => (s, 0, some 0x6004)
  | .mtwin g w x set0 set1 acc0 acc1 =>
    let (x0, x1) := s.mtwinSets core j.ctx g w x set0 set1 acc0 acc1
    (s.setCore core (((s.core core).putSet 0 set0 x0).putSet 1 set1 x1), 0, none)
  | .mrd c set arr step =>
    let (s', fl) := s.mrdRows core c step ((s.core core).set arr set) (j.ctx, j.step)
    (s', fl, none)
  | .mrdp a c set arr =>
    let (s', fl) := s.mrdpRows core a c ((s.core core).set arr set)
    (s', fl, none)
  | .msav c set arr => (s.msavRows core c ((s.core core).set arr set), 0, none)
  | .vop op bsrc d a b gs gsNamed imm step vl =>
    match vkind op with
    | some k =>
      let (s', fl) := s.vopRows core k d (s.vArgs core j.ctx k bsrc d a b gs gsNamed imm vl) a.rows step (j.ctx, j.step)
      (s', fl, none)
    | none => (s, 0, none)
  | _ => (s, 0, none)

/-- Rows that an instruction has to send or move as it starts (R117, R182). -/
def EngOp.rowsToGo : EngOp → Nat
  | .stsend td _ => td.rows
  | .dma td .. => td.rows
  | _ => 0

/-- The instruction at index i starts: it pays its meter and has its effect; a runtime condition keeps it from executing (R135). -/
def State.startJob (s : State) (core i : Nat) : State :=
  match (s.core core).jobs[i]? with
  | none => s
  | some j =>
    let cost := s.meterCost j
    let st := stationOf core
    if cost > s.sec.station[st] then
      (s.dropJob core i).faultCtx 0x4120 j.ctx [core]
    else
      let s1 := s.payMeter st cost
      let (s2, fl, code) := s1.startEffect core j
      match code with
      | none => s2.setEngJob core i { j with phase := .started, fl := fl, left := j.op.rowsToGo }
      | some c => (s.dropJob core i).faultCtx c j.ctx [core]

/-- Starting whatever can start on a core, in issue order. -/
def State.pumpN : Nat → State → Nat → State
  | 0, s, _ => s
  | n + 1, s, core =>
    match (List.range (s.core core).jobs.length).find? (fun i => s.startable core i) with
    | some i => State.pumpN n (s.startJob core i) core
    | none => s

/-- Free engines pass, and whatever can start on a core does. -/
def State.pumpCore (s : State) (core : Nat) : State := (s.grant core).pumpN ((s.core core).jobs.length) core

/-- Whether a context has been halted since an earlier state. -/
def State.haltedSince (t s : State) : Bool :=
  t.cores.any fun e => (List.finRange 8).any fun c => ((t.core e.1).ctx[c]).halted && !((s.core e.1).ctx[c]).halted

/-- The same on every core, again where a fault at a start has halted a context and freed its engines. -/
def State.pumpAllN : Nat → State → State
  | 0, s => s
  | n + 1, s =>
    let t := (s.cores.map (·.1)).foldl State.pumpCore s
    if t.haltedSince s then State.pumpAllN n t else t

def State.pumpAll (s : State) : State := s.pumpAllN 9

/-- Starting whatever can start on a core, and elsewhere after a fault at a start. -/
def State.pump (s : State) (core : Nat) : State :=
  let t := s.pumpCore core
  if t.haltedSince s then t.pumpAll else t

/-! ## Completion (R102, R103, R128, R338) -/

/-- Entries of a context whose END has executed and that have no incomplete instruction left complete (R102). -/
def State.endEntries (s : State) (a : Site) : State :=
  let k := s.core a.core
  let x := k.ctx[a.ctx]
  let open_ (n : Nat) : Bool := k.jobs.any fun j => j.ctx == a.ctx && j.entryNo == n
  let done := x.ending.filter fun (n, _) => !open_ n
  let s1 := s.setCtx a { x with ending := x.ending.filter fun (n, _) => open_ n }
  done.foldl (fun t (_, tag) => t.entryDone a.core tag) s1

/-- The sets that a read-out or save empties (R115). -/
def CoreSt.emptied (k : CoreSt) : EngOp → CoreSt
  | .mrd _ set arr _ => k.putSet arr set []
  | .mrdp _ _ set arr => k.putSet arr set []
  | .msav _ set arr => k.putSet arr set []
  | _ => k

/-- The instruction at index i completes: flags, then counter (R128), sets emptied, engine released at a boundary, entry completed; then
whatever can start does. -/
def State.completeAt (s : State) (core i : Nat) : State :=
  match (s.core core).jobs[i]? with
  | none => s
  | some j =>
    let a : Site := ⟨core, j.ctx⟩
    let s1 := (s.dropJob core i).postFlags j.ctx j.fl
    let s2 := s1.setCore core ((s1.core core).emptied j.op)
    let s3 := if j.cnt.en then s2.bump a j.cnt.cnt 1 else s2
    ((s3.releaseEngines core j.ctx j.release ((s.core core).tagOf j)).endEntries a).pump core

/-! ## The rows of DMAs (R117, R339) -/

/-- The next row of the DMA at index i moves, or, beyond its region, reads as zeros or is discarded. -/
def State.dmaUnit (s : State) (core i : Nat) : State :=
  match (s.core core).jobs[i]? with
  | none => s
  | some j => match j.op with
    | .dma td off region toHbm hs =>
      let r := td.rows - j.left
      let (t, ok) := s.dmaRow core td (s.region region.val) (off + r * hs * 32) toHbm r
      t.setEngJob core i { j with left := j.left - 1, bad := j.bad || !ok }
    | _ => s

/-- A row of each DMA under way on a core for contexts of one class. -/
def State.dmaRound (s : State) (core : Nat) (be : Bool) : State :=
  (List.range (s.core core).jobs.length).foldl (fun (t : State) i => match (t.core core).jobs[i]? with
    | some j => if j.phase == .started && j.left != 0 && t.isBE j.ctx == be then (match j.op with | .dma .. => t.dmaUnit core i | _ => t) else t
    | none => t) s

def State.dmaRounds (s : State) (core : Nat) (be : Bool) (n : Nat) : State := (List.range n).foldl (fun (t : State) _ => t.dmaRound core be) s

/-- The rows that have moved on a core's DMA port when one of its DMAs completes: all of its own, with those of its class taken in turn, and before
a BE one's all those of LC contexts (R339). DESIGN CHOICE (log entry 115): rows move as a DMA of the core completes, and not before. -/
def State.dmaMoves (s : State) (core : Nat) (j : EngJob) : State :=
  let lcRows := ((s.core core).jobs.map fun x => match x.op with | .dma .. => if s.isBE x.ctx then 0 else x.left | _ => 0).foldl max 0
  if s.isBE j.ctx then (s.dmaRounds core false lcRows).dmaRounds core true j.left else s.dmaRounds core false j.left

/-- The DMA at index i completes: its rows have moved; one of which a row lay beyond its region increments no counter, and the fault is raised
(R28, R117, R135). -/
def State.dmaDone (s : State) (core i : Nat) (j : EngJob) : State :=
  let t := s.dmaMoves core j
  match (t.core core).jobs[i]? with
  | none => t
  | some x =>
    if x.bad then (((t.setEngJob core i { x with cnt := { x.cnt with en := false } }).completeAt core i).faultCtx 0x6005 j.ctx [core]).pumpAll
    else t.completeAt core i

/-! ## Issue (R103, R104, R135, R136) -/

/-- Whether a context's next instruction can be issued: it is on a core of the device, its program is in progress and it is not waiting. -/
def State.issuable (s : State) (a : Site) : Bool :=
  let x := s.ctxAt a
  decide (a.core < Config.numCores) && x.running && x.wait.isNone && !x.halted

/-- R105: whether an instruction executes. -/
def CtxSt.executes (x : CtxSt) (p : Pred) : Bool := x.preg p.pred != p.pneg

/-- The program counter moves to the next instruction. -/
def CtxSt.advance (x : CtxSt) : CtxSt := { x with pc := x.pc + 1 }

/-- The operation that a word of an engine captures (R104); none for a sequencer instruction. -/
def wordOp (w : DWord) (x : CtxSt) : Option EngOp :=
  let td := x.td[(bfin w 46 6 : Fin 64)]
  let tdb := x.td[(bfin w 40 6 : Fin 64)]
  let tdc := x.td[(bfin w 34 6 : Fin 64)]
  let set : Fin 2 := bfin w 33 1
  let arr : Fin 2 := bfin w 32 1
  match wOp w with
  | 0x40 => some (.mma false td tdb tdc set arr (accModeOf (wMode w)))
  | 0x41 => some (.mma true td tdb tdc set arr (accModeOf (wMode w)))
  | 0x42 => some (.mtwin td tdb tdc set arr (bf w 31 1 == 1) (bf w 30 1 == 1))
  | 0x43 => some (.mrd tdc set arr (x.pair (bfin w 20 5)))
  | 0x44 => some (.mrdp td tdc set arr)
  | 0x45 => some (.msav tdc set arr)
  | 0x50 =>
    let o := wVOp w
    some (.vop (BitVec.ofNat 6 (wVfunc w)) o.bsrc x.td[o.tdd] x.td[o.tda] x.td[o.tdb] (x.greg o.gs) (o.gs != 0) o.imm16 x.vstep x.vl.toNat)
  | 0x60 => some (.dma td ((x.greg (bfin w 41 5)).toNat * 128) (bfin w 37 4) (bf w 36 1 == 1) (bf w 15 16))
  | 0x70 => some (.lsend td (wChan w))
  | 0x71 => some (.lrecv td (wChan w))
  | 0x72 => some (.lred td (wChan w))
  | 0x73 => some (.stsend td (wChan w))
  | _ => none

/-- Whether R123 holds the next instruction of a context, read from its program. -/
def CoreSt.holdsWord (k : CoreSt) (c : Fin 8) (x : CtxSt) (w : DWord) : Bool :=
  let word := let ad := x.lsAddr (bfin w 42 5) (wImmOf w); [(ad, ad + 4)]
  x.executes (wPredOf w) && match wordOp w x with
    | some op => k.holds c (srcRanges op) (dstRanges op) || decide (Config.maxIncomplete ≤ k.incomplete c)
    | none => (wOp w == 0x1A && k.holds c word []) || (wOp w == 0x20 && k.holds c [] word)

/-- Whether a context contends for the cycle: it has a next instruction, which can issue (R336). -/
def State.ready (s : State) (a : Site) : Bool :=
  let x := s.ctxAt a
  s.issuable a && match (s.prog a).bind fun p => p.words[x.pc.toNat]? with
    | some w => !(s.core a.core).holdsWord a.ctx x w
    | none => false

/-- Class of the work that a context has in progress on a core: 0 LC, 1 BE, as a pause entry is (R322). -/
def State.workClass (s : State) (a : Site) : Nat :=
  if s.isBE a.ctx || (match (s.ctxAt a).tag with | .pause .. => true | _ => false) then 1 else 0

/-- Order of the contexts of a core for the next cycle: LC before BE, and within a class in ascending index after the one that issued last (R336). -/
def State.issueRank (s : State) (a : Site) : Nat :=
  let k := s.workClass a
  8 * k + (a.ctx.val + 7 - ((aget s.turns (2 * a.core + k)).map Fin.val).getD 7) % 8

/-- R336: no context that comes before this one can issue. -/
def State.hasTurn (s : State) (a : Site) : Bool :=
  !((List.finRange 8).any fun d => d != a.ctx && s.ready ⟨a.core, d⟩ && decide (s.issueRank ⟨a.core, d⟩ < s.issueRank a))

/-- The context has issued last of its class (R336). -/
def State.tookTurn (s : State) (a : Site) : State := { s with turns := aput s.turns (2 * a.core + s.workClass a) a.ctx }

/-- The frame of every sequencer instruction: a context that cannot issue, or whose turn it is not, is left as it is; an instruction that does not execute only
advances the program counter; otherwise `f` acts on the state whose program counter has advanced. -/
def State.issue (s : State) (a : Site) (p : Pred) (f : State → State) : State :=
  if s.issuable a && s.hasTurn a then
    let x := s.ctxAt a
    let s1 := (s.tookTurn a).setCtx a x.advance
    if x.executes p then f s1 else s1
  else s

/-- STEP of an entry: that of its micro-batch, or the step under way of the context's job. -/
def State.stepOf (s : State) (c : Fin 8) : EntryTag → Nat
  | .forward _ step _ _ => step
  | .backward _ step _ _ => step
  | .recompute _ step _ _ => step
  | _ => (s.ctxJob c).step

/-- Micro-batch number of an entry. -/
def mbOf : EntryTag → Nat
  | .forward _ _ mb _ => mb
  | .backward _ _ mb _ => mb
  | .recompute _ _ mb _ => mb
  | _ => 0

/-- Issue of an engine instruction with captured operands: held (R123), or out of its turn (R336), it leaves everything as it is; a runtime condition faults and the
instruction does not execute; otherwise it enters its queue and starts if it can. -/
def State.issueEngine (s : State) (a : Site) (p : Pred) (cnt : CntSel) (mk : CtxSt → EngOp) : State :=
  if s.issuable a && s.hasTurn a then
    let x := s.ctxAt a
    if x.executes p then
      let op := mk x
      let srcs := srcRanges op
      let dsts := dstRanges op
      let k := s.core a.core
      if k.holds a.ctx srcs dsts || decide (k.incomplete a.ctx ≥ Config.maxIncomplete) then s
      else
        let s1 := (s.tookTurn a).setCtx a x.advance
        let overlap := match op with
          | .vop o bsrc d ta tb _ _ imm _ _ => (match vkind o with | some kd => vopOverlap kd bsrc d ta tb imm | none => false)
          | _ => false
        match s.rangeCode a srcs dsts with
        | some code => s1.faultCtx code a.ctx [a.core, x.pc.toNat]
        | none =>
          if overlap then s1.faultCtx 0x6006 a.ctx [a.core, x.pc.toNat]
          else
            let step := s.stepOf a.ctx x.tag
            let j : EngJob := { ctx := a.ctx, engines := enginesOf a.ctx op, op, phase := .queued, cnt, srcs, dsts, entryNo := x.entryNo, step
                                mb := mbOf x.tag }
            match op with
            | .lrecv td ch =>
              let (s1, part) := s1.lowPost ch td
              let k1 := s1.core a.core
              let s2 := s1.setCore a.core { k1 with jobs := k1.jobs ++ [{ j with phase := .started, part }] }
              s2.setChan ch { s2.chanSt ch with posts := (s2.chanSt ch).posts + 1 }
            | .lred td ch =>
              let s2 := s1.leafIssue ch td step
              let k1 := s2.core a.core
              (s2.setCore a.core { k1 with jobs := k1.jobs ++ [{ j with part := s1.lredPart ch td step }] }).pump a.core
            | _ =>
              let k1 := s1.core a.core
              (s1.setCore a.core { k1 with jobs := k1.jobs ++ [j] }).pump a.core
    else (s.tookTurn a).setCtx a x.advance
  else s

end Sys2Proof.Machine
end

