-- ==== Sys2Proof/Machine/ExchCmds.lean ====
section
/-!
DEFINITION. Straggler records, and what the time limit of an exchange looks at (R290, R291).
-/

namespace Sys2Proof.Machine

/-- Whether the job of a context runs on this device; a context in no job has no exchange to stop. -/
def State.jobRunning (s : State) (c : Fin 8) : Bool := match s.jobOf c with | some j => (s.jobSt j.job).st == .running | none => true

/-- Whether a record is a MANIFEST, or a STRAGGLER, of a job. -/
def JnlRec.isManifest (r : JnlRec) (job : Nat) : Bool := match r.body with | .manifest m _ => m.job == job | _ => false
def JnlRec.isStraggler (r : JnlRec) (job : Nat) : Bool := match r.body with | .straggler j _ _ _ _ _ => j == job | _ => false

/-- Journalling a straggler record: at most 16,384 after the job's kept MANIFEST, the rest only counted (R479). -/
def State.journalStraggler (s : State) (job : Nat) (b : JnlBody) : State :=
  let all := s.jnl.half[s.jnl.active].recs ++ s.jnl.queue
  let after := (all.reverse.takeWhile fun r => !r.isManifest job).filter fun r => r.isStraggler job
  if after.length < 16384 then s.journal b else s.count cntJnlDrop

end Sys2Proof.Machine
end

