-- ==== Sys2Proof/Machine/Fuu.lean ====
section
/-!
DEFINITION. The arithmetic of the Fused Update Unit (R245 to R247): FP32 operations with one rounding, the learning-rate schedule and
fuu_element.
-/

namespace Sys2Proof.Machine

/-- One rounding to FP32 in quiet mode; none is an invalid combination. -/
def q32 (x : Option Num) : Num := decode .fp32 (roundRne .fp32 (x.getD .nan)).bits

def nanOr (a b : Num) (x : Option Num) : Num := if a.isNan || b.isNan then .nan else q32 x

/-- A / B before rounding. -/
def quotX (a b : Num) : Option Num :=
  match a, b with
  | .inf _, .inf _ => none
  | .zero _, .zero _ => none
  | .inf m, _ => some (.inf (m != b.sign))
  | _, .inf n => some (.zero (a.sign != n))
  | .zero m, _ => some (.zero (m != b.sign))
  | _, .zero n => some (.inf (a.sign != n))
  | .fin x, .fin y => some (.fin (x / y))
  | _, _ => none

/-- √A rounded once to FP32. -/
def sqrt32 (a : Num) : Num :=
  match a with
  | .nan => .nan
  | .zero n => .zero n
  | .inf n => if n then .nan else .inf false
  | .fin v =>
    if v < 0 then .nan else
      let iv := sqrtIval v
      let hi := iv.hi
      q32 (some (.fin (if hi * hi = v then hi else iv.lo)))

/-- A^u for u ≥ 1, exact and rounded once. -/
def powu32 (a : Num) (u : Nat) : Num :=
  match a with
  | .nan => .nan
  | .zero n => .zero (n && decide (u % 2 = 1))
  | .inf n => .inf (n && decide (u % 2 = 1))
  | .fin v => q32 (some (.fin (v ^ u)))

/-- lr(s) (R247). -/
def lrAt (sched : List (Nat × Word)) (s : Nat) : Num :=
  let rate (w : Word) : Rat := (decode .fp32 w.toNat).val
  let rec go : List (Nat × Word) → Num
    | [] => .zero false
    | [(_, l)] => decode .fp32 l.toNat
    | (sa, la) :: (sb, lb) :: r =>
      if s < sa then decode .fp32 la.toNat
      else if s < sb then q32 (some (Num.ofRat (rate la + (rate lb - rate la) * ((s - sa : Nat) : Rat) / ((sb - sa : Nat) : Rat))))
      else go ((sb, lb) :: r)
  go sched

/-- Registers f0 to f15 of an element, and the values stored by STW, STM1 and STM2. -/
structure FuuEnv where
  f : List Num
  w : Option Num := none
  m1 : Option Num := none
  m2 : Option Num := none
deriving DecidableEq, Repr

/-- An operand: f0 to f15 or k0 to k15. -/
def FuuEnv.operand (e : FuuEnv) (k : List Word) (i : Fin 32) : Num :=
  if i.val < 16 then e.f.getD i.val (.zero false) else decode .fp32 (k.getD (i.val - 16) 0).toNat

/-- One operation (Table 9-4). -/
def FuuEnv.run (e : FuuEnv) (p : FuuProg) (u s : Nat) (w : FuuWord) : FuuEnv :=
  let a := e.operand p.consts w.a
  let b := e.operand p.consts w.b
  let c := e.operand p.consts w.c
  let put (x : Num) : FuuEnv := { e with f := e.f.set w.d.val x }
  match w.op with
  | .add => put (nanOr a b (Num.addX a b))
  | .sub => put (nanOr a b (Num.addX a b.neg))
  | .mul => put (nanOr a b (Num.mulX a b))
  | .fma => put (if a.isNan || b.isNan || c.isNan then .nan else q32 ((Num.mulX a b).bind fun x => Num.addX x c))
  | .div => put (nanOr a b (quotX a b))
  | .sqrt => put (sqrt32 a)
  | .min => put (if a.isNan || b.isNan then .nan else vMin a b)
  | .max => put (if a.isNan || b.isNan then .nan else vMax a b)
  | .abs => put a.abs
  | .powu => put (powu32 a (u + 1))
  | .lr => put (lrAt p.lr s)
  | .stw => { e with w := some a }
  | .stm1 => { e with m1 := some a }
  | .stm2 => { e with m2 := some a }

/-- What fuu_element gives for one element: weight before its rounding (none: copied unchanged) and new moments (none: copied). -/
def fuuElement (p : FuuProg) (u s : Nat) (es : Int) (b : Num) (count full : Nat) (w m1 m2 : Num) : FuuEnv :=
  let f0 : Num := if count = 0 then .zero false else match b with
    | .fin v => q32 (some (.fin (v * pow2 (-es) * full / count)))
    | z => z
  p.ops.foldl (fun e o => e.run p u s o)
    { f := [f0, w, if 1 ≤ p.nmom then m1 else .zero false, if 2 ≤ p.nmom then m2 else .zero false] ++ List.replicate 12 (.zero false) }

end Sys2Proof.Machine
end

