-- ==== Sys2Proof/Machine/Parts.lean ====
section
/-!
DEFINITION. Addresses of weights, moments and copies; the parts of a checkpoint, their taking, their commit and their export (R246, R398 to
R402, R550).
-/

namespace Sys2Proof.Machine

/-! ## Addresses (R244, R246) -/

/-- Index of the weight of bucket element k (R215, R246). -/
def weightIndex (u : UpdRec) (b : BucketRec) (k : Nat) : Nat :=
  let g := b.elem0 + k
  if b.cols = 0 then g else g % b.cols * (u.elems / b.cols) + g / b.cols

/-- Address of weight i and of its FP8 copy in a slot. -/
def wAddr (base : Nat) (u : UpdRec) (i : Nat) : Nat := base + u.wOff * 128 + 2 * i
def copyAddr (base : Nat) (u : UpdRec) (i : Nat) : Nat := base + u.copyOff * 128 + i
/-- Address of moment n (0 or 1) of weight i in a bank. -/
def State.momAddr (s : State) (u : UpdRec) (bank : Bool) (n i : Nat) : Nat :=
  s.regionBase .table + (u.momOff + (if bank then u.momStride else 0)) * 128 + n * 4 * u.elems + 4 * i

def State.fuuProg (s : State) (u : UpdRec) : FuuProg := (s.plan.bind fun p => p.fuuProgs[u.prog]?).getD ⟨0, [], [], []⟩

/-- FP8 operand copy of a BF16 weight (R246, R248). -/
def copyBits (u : UpdRec) (e : Int) (w : Nat) : Nat :=
  let f := (Fmt.ofCode u.copy).getD .e4m3
  let x : Num := match decode .bf16 w with | .fin v => .fin (v * pow2 e) | z => z
  (roundTo f true .rne x).bits


/-- The low-rank state of compressed buckets of channels on this device: Q from the plan and E of +0, in both banks (R282). -/
def State.loadLowRank (s : State) (chans : List ExchRec) : State :=
  (chans.filter fun r => r.members.contains s.addr || s.rowCollector r).foldl (fun (t : State) r =>
    (r.buckets.filter fun b => t.compressed r b).foldl (fun (t : State) b =>
      let (bank, e) := t.lowRankBank r b
      let a := t.regionBase .table + b.lrOff * 128
      let q := b.q.flatMap fun (w : Word) => natLe 4 w.toNat
      { t with mem := [a, a + bank].foldl (fun m k => memPutBytes (memZero m k e) (k + e) q) t.mem }) t) s

/-! ## Sections of a part (R399, R550) -/


/-- A section: KIND, TENSOR_ID, and its content as memory byte addresses, or as bytes. -/
structure PartSec where
  kind : Nat
  tid : Nat
  addrs : List Nat
  lit : List Byte := []
deriving DecidableEq, Repr

def PartSec.size (x : PartSec) : Nat := x.addrs.length + x.lit.length

/-- Bucket element of weight i: the inverse of weightIndex. -/
def bucketIndex (u : UpdRec) (b : BucketRec) (i : Nat) : Nat :=
  if b.cols = 0 then i else i % (u.elems / b.cols) * b.cols + i / (u.elems / b.cols)

/-- Channels of a job on this device. -/
def State.jobChans (s : State) (j : JobRec) : List ExchRec := ((s.plan.map Plan.exch).getD []).filter fun r => j.ctxMask.getLsbD r.ctx

/-- Tensors of a job of which this device owns weights, in ascending TENSOR_ID, with the weights in weight order. -/
def State.ownedWeights (s : State) (j : JobRec) : List (UpdRec × List Nat) :=
  let chans := (s.jobChans j).filter fun r => r.owner == s.addr && !r.sparse
  let us := sortKey UpdRec.tensorId (((s.plan.map Plan.updates).getD []).filter fun u => !u.sparse)
  (us.map fun u => (u, (List.range u.elems).filter fun i => chans.any fun r => r.buckets.any fun b =>
    b.tensorId == u.tensorId && decide (b.elem0 ≤ bucketIndex u b i) && decide (bucketIndex u b i < b.elem0 + b.elems))).filter fun e => !e.2.isEmpty

def span (a n : Nat) : List Nat := (List.range n).map fun i => a + i

/-- FP32 encoding of a non-negative value, rounded up (Table 9-7). -/
def fp32Up (v : Rat) : Word :=
  let e := roundTo .fp32 false .rtz (Num.ofRat v)
  if (decode .fp32 e.bits).val < v then BitVec.ofNat 32 (e.bits + 1) else BitVec.ofNat 32 e.bits

/-- The HISTORY section. -/
def State.histBytes (s : State) (j : JobRec) : List Byte :=
  let t := s.jobSt j.job
  ((s.plan.map Plan.hist).getD []).zipIdx.flatMap fun (h, i) =>
    let x := t.hist.getD i {}
    [expByte x.exp, expByte x.copyExp, 0, 0] ++ natBe 4 x.vals.length ++ List.replicate 8 0
      ++ (x.vals.reverse.flatMap fun w => natBe 4 w.toNat) ++ List.replicate (4 * (h.h - x.vals.length)) 0

/-- The sections of this device's part, in order; weights of the slot `slot` of their stage and moments of bank `bank`. -/
def State.partSecs (s : State) (j : JobRec) (slot : Nat → Fin 2) (bank : Bool) : List PartSec :=
  let ws := s.ownedWeights j
  let weights := ws.map fun (u, l) =>
    let base := ((s.stageRec u.stage).map fun r => s.slotAddr r (slot u.stage)).getD 0
    { kind := 1, tid := u.tensorId, addrs := l.flatMap fun i => span (wAddr base u i) 2 : PartSec }
  let moments := (ws.filter fun e => decide (1 ≤ (s.fuuProg e.1).nmom)).map fun (u, l) =>
    { kind := 2, tid := u.tensorId
      addrs := (List.range (s.fuuProg u).nmom).flatMap fun n => l.flatMap fun i => span (s.momAddr u bank n i) 4 : PartSec }
  let chans := s.jobChans j
  let tables := (chans.filter fun r => r.sparse && r.owner == s.addr).filterMap fun r =>
    (r.buckets.head?.bind fun b => s.updRec b.tensorId).bind fun u =>
      (s.plan.bind fun p => p.tables.find? fun t => t.tensorId == u.tensorId).map fun tb =>
        let hs := ((s.plan.map Plan.shards).getD []).filter fun h => h.table == tb.table && h.remote == none
        { kind := 3, tid := u.tensorId
          addrs := hs.flatMap fun h => (List.range h.nrows).flatMap fun k =>
            span (s.regionBase .table + h.off + k * tb.d * 2) (tb.d * 2) ++
              (List.range (s.fuuProg u).nmom).flatMap fun n => span (s.momAddr u false n ((h.row0 + k) * tb.d)) (4 * tb.d) : PartSec }
  let low := chans.flatMap fun r => (r.buckets.filter fun b => s.compressed r b).filterMap fun b =>
    if r.owner == s.addr || s.rowCollector r then
      let (n, _) := s.lowRankBank r b
      some { kind := 4, tid := b.tensorId, addrs := span (s.regionBase .table + b.lrOff * 128 + (if bank then n else 0)) n : PartSec }
    else none
  weights ++ moments ++ sortKey PartSec.tid tables ++ sortKey PartSec.tid low ++ [{ kind := 5, tid := 0, addrs := [], lit := s.histBytes j }]

/-- MAP_DIGEST: SHA-256 over the member entries (Table 14-7). -/
def mapDigest (j : JobRec) : Digest := Config.sha256 (j.members.flatMap fun (a, p) => natBe 4 a ++ natBe 4 p)

/-- The role of this device in a job. -/
def State.roleOf (s : State) (j : JobRec) : Option Nat := j.members.findIdx? fun m => m.1 == s.addr
def State.isMember (s : State) (j : JobRec) : Bool := (s.roleOf j).isSome

/-- The part of a version (Table 14-6, R550): header and section table, then the sections. -/
def State.partBytes (s : State) (j : JobRec) (version : Nat) (secs : List PartSec) : List Byte :=
  let n := 96 + 16 * secs.length + (secs.map PartSec.size).foldl (· + ·) 0
  let head (d : List Byte) := natBe 4 j.job ++ natBe 4 ((s.roleOf j).getD 0) ++ natBe 8 version ++ natBe 32 (mapDigest j).toNat ++ natBe 8 n
    ++ natBe 2 secs.length ++ List.replicate 6 0 ++ d
  let rest := (secs.flatMap fun x => [BitVec.ofNat 8 x.kind, 0, 0, 0] ++ natBe 4 x.tid ++ natBe 8 x.size)
    ++ secs.flatMap fun x => x.addrs.map (memGet s.mem) ++ x.lit
  head (natBe 32 (Config.sha256 (head (List.replicate 32 0) ++ rest)).toNat) ++ rest

/-- The part as the machine stands: the CURRENT slots and bank cur (R398). -/
def State.partNow (s : State) (j : JobRec) (version : Nat) : List Byte :=
  s.partBytes j version (s.partSecs j (fun k => ((s.stage k).slotIn .current).getD 0) (s.jobSt j.job).cur)

/-! ## Taking a checkpoint (R398 to R402) -/

/-- The bank of a pair that does not hold the newest complete part. -/
def otherBank (a b : BankSt) : Fin 2 :=
  match newestOf a b with
  | none => 0
  | some v => if a.complete && a.version == some v then 1 else 0

def BankSt.start (version role : Nat) : BankSt := { version := some version, complete := false, role }

/-- Copying begins: the target local bank holds an incomplete part, and the hosted copy goes to the partner's device. -/
def State.beginCopy (s : State) (j : JobRec) (c : CkptRun) : State :=
  let t := s.jobSt j.job
  let role := (s.roleOf j).getD 0
  let s1 := s.setJob j.job { t with ckpt := some { c with waiting := false }
                                    banks := t.banks.set (localIdx c.bank) (BankSt.start c.version role) }
  match (j.members[role]?).bind fun m => j.members[m.2]? with
  | some (a, _) => s1.send [.hosted a j.job role c.version (s.partNow j c.version)]
  | none => s1

/-- Whether an export holds a local bank, or is due from it (R402). -/
def JobSt.bankHeld (t : JobSt) (b : Fin 2) : Bool :=
  (t.exporting.any fun e => e.2 == b) || (t.banks[localIdx b].complete && t.banks[localIdx b].version.any t.exportDue.contains)

/-- CHECKPOINT_TAKE (R398): READY of the step is withheld; a bank held by an export makes the copy wait (R402); a
BEAT_MARK is journalled (Table 16-10). -/
def State.takeCkpt (s : State) (j : JobRec) : State :=
  let t := s.jobSt j.job
  let b := otherBank t.banks[0] t.banks[1]
  let carry := (s.jobChans j).any fun r => !(s.exchSt r.chan).carries.isEmpty
  let c : CkptRun := { version := t.step, bank := b, beat := s.beat, carry, waiting := true }
  let s1 := (s.setJob j.job { t with ckpt := some c, ckptHold := true }).journal .beatMark
  if t.bankHeld b then s1 else s1.beginCopy j c

/-- SAMPLE_FIRST of a version (R401, R404): of the sample table that steps consume, or of the job's only kind of table. -/
def State.sampleFirstOf (s : State) (j : JobRec) (v : Nat) : Nat :=
  let p := s.plan.getD {}
  let own := p.data.filter fun d => j.ctxMask.getLsbD d.ctx
  match ((own.filter DataRec.relCommit) ++ own).head? with
  | some d => d.sampleBase + v * p.microBatches * d.spm
  | none => 0

/-- The manifest of a version (R401). -/
def State.manifestOf (s : State) (j : JobRec) (c : CkptRun) : Manifest :=
  let t := s.jobSt j.job
  { job := j.job, form := s.form, version := c.version, u := t.u, e := t.e, growth := t.growth
    planDigest := (s.plan.map Plan.digest).getD 0, mapDigest := mapDigest j, histDigest := Config.sha256 (s.histBytes j)
    ckptBeat := c.beat, seed := (s.plan.map Plan.seed).getD 0, sampleFirst := s.sampleFirstOf j c.version, carryPending := c.carry
    recovery := decide (0 < t.recoverLeft) || t.hist.any HistSt.recovering, attempt := t.attempt }

/-- Whether a checkpoint of version v is exported (R402). -/
def exported (j : JobRec) (v : Nat) : Bool :=
  j.extEvery != 0 && j.ckptEvery != 0 && v % j.ckptEvery == 0 && v / j.ckptEvery % j.extEvery == 0

/-- The marker of step v commits the checkpoint of version v: the manifest is journalled with a copy of the history (R258, R398), and the
commit itself waits for the record to be durable (R475). -/
def State.commitCkpt (s : State) (j : JobRec) (step : Nat) : State :=
  let t := s.jobSt j.job
  match t.ckpt with
  | none => s
  | some c =>
    if c.version != step then s
    else (s.journal (.manifest (s.manifestOf j c) (s.histBytes j))).setJob j.job { t with ckpt := none }

def State.jobRec (s : State) (id : Nat) : Option JobRec := s.plan.bind fun p => p.jobs.find? fun j => j.job == id

/-- Whether a part of the job is sealed under the storage key and not under K_c (Table 15-10). -/
def State.storageSealed (s : State) (j : JobRec) : Bool :=
  let bound := s.sec.husk.isSome && (jobCtxs j).any fun c => ((s.ctxRec c).map CtxRec.kind) == some .teacher
  !bound || (s.sec.policy.getLsbD 4 && s.img.exportPolicy.getLsbD 4)

/-- K_base of a job's parts, and their label (Table 15-10). -/
def State.ckptBase (s : State) (j : JobRec) : Option Digest := if s.storageSealed j then s.sec.storageKey else s.sec.contentKey
def ckptLabel (j : JobRec) : List Byte := ascii "ckpt" ++ natBe 4 j.job

/-- An export's part goes out as CKPT frames on an OPERATOR session, the leader's manifest with them; without a session, or without the
storage key that seals it, it waits (R402, R451). -/
def State.pumpExport (s : State) (j : JobRec) : State :=
  let t := s.jobSt j.job
  match t.exporting, t.exportTx, s.operators with
  | some (v, b), none, id :: _ =>
    let storage := s.storageSealed j
    if storage && s.sec.storageKey.isNone then s
    else
      let (s0, frames) := s.sealExport ((s.ckptBase j).getD 0) (ckptLabel j) (memGetBytes s.mem (s.bankAddr j b.val) (t.banks[localIdx b]).bytes)
        (FrameOut.ckpt ((s.roleOf j).getD 0))
      let s1 := s0.sendFrames id frames
      let last := ((s1.session id).map SessionSt.txNext).getD 1 - 1
      let s2 := s1.setJob j.job { (s1.jobSt j.job) with exportTx := some (id, last) }
      let man := s.jnl.half[s.jnl.active].recs.reverse.findSome? fun r => match r.body with
        | .manifest m _ => if m.job == j.job && m.version == v then some m else none
        | _ => none
      match (s.treeParent j).isNone, man with
      | true, some m => s2.sendFrame id (.manifest m)
      | _, _ => s2
  | _, _, _ => s

/-- The next checkpoint due for export goes out from its local bank when none is under way (R402); one whose bank no longer holds it is passed over. -/
def State.nextExport (s : State) (j : JobRec) : State :=
  let t := s.jobSt j.job
  let at_ (v : Nat) : Option (Fin 2) := [(0 : Fin 2), 1].find? fun b => t.banks[localIdx b].complete && t.banks[localIdx b].version == some v
  match t.exporting, t.exportDue.dropWhile fun v => (at_ v).isNone with
  | none, v :: rest => match at_ v with
    | some b => (s.setJob j.job { t with exporting := some (v, b), exportTx := none, exportDue := rest }).pumpExport j
    | none => s
  | _, _ => s

/-- The manifest of a checkpoint is durable: the checkpoint is committed, and its export is due from the local bank (R402, R475). -/
def State.manifestDurable (s : State) (m : Manifest) : State :=
  match s.jobRec m.job with
  | none => s
  | some j =>
    let t := s.jobSt j.job
    let progress := match t.assign with | some a => decide ((a.version.getD 0) < m.version) | none => true
    let s1 := s.setJob j.job { t with committed := some m.version, coord := if progress then { t.coord with autos := 0 } else t.coord }
    if exported j m.version && t.st == .running then
      (s1.setJob j.job { (s1.jobSt j.job) with exportDue := t.exportDue ++ [m.version] }).nextExport j
    else s1

/-- An export ends: its bank is free again, the next one begins, and so does a copy that waits for a bank now free. -/
def State.endExport (s : State) (j : JobRec) : State :=
  let s1 := (s.setJob j.job { (s.jobSt j.job) with exporting := none }).nextExport j
  match (s1.jobSt j.job).ckpt with
  | some c => if c.waiting && !(s1.jobSt j.job).bankHeld c.bank then s1.beginCopy j c else s1
  | none => s1

end Sys2Proof.Machine
end

