-- ==== Sys2Proof/Machine/Ready.lean ====
section
/-!
DEFINITION. READY records, their combination up the commit tree and the decision of the leader (R255, R262 to R264).
-/

namespace Sys2Proof.Machine

/-! ## READY (R262, R264) -/

/-- The combination of READY records: flags joined, maxima of AMAX, DEVICES added. -/
def combineReady (x y : ReadyRec) : ReadyRec :=
  let mx (a b : Word) : Word := if a.toNat < b.toNat then b else a
  { x with devices := x.devices + y.devices, nfGrad := x.nfGrad || y.nfGrad, nfUpdate := x.nfUpdate || y.nfUpdate
           amax := (x.amax.zip y.amax).map fun (a, b) => mx a b }

/-- A_s of every history entry of this device for a job in a step (R255). -/
def State.amaxOf (s : State) (job step : Nat) : List Word :=
  ((s.plan.map Plan.hist).getD []).zipIdx.map fun (_, i) =>
    fp32Up (((s.capt.find? fun x => x.job == job && x.entry == i && x.step == step).map CaptSt.max).getD 0)

/-- Whether every shard of a channel that this device owns is processed and compared, and every range that it holds is received. -/
def State.chanDone (s : State) (r : ExchRec) (step : Nat) : Bool :=
  let x := s.exchSt r.chan
  let n := r.buckets.length
  let owned := if r.owner == s.addr then
      (if r.sparse then x.processed.contains 0 else (List.range n).all fun i => x.processed.contains i)
        && (r.sparse || r.buckets.zipIdx.all fun (b, i) => !s.bucketChecked r step i || decide ((if s.compressed r b then 3 else 1) ≤ (x.compared.filter (· == i)).length))
    else true
  let held := if r.members.contains s.addr && !r.sparse then
      r.buckets.zipIdx.all fun (b, i) => decide (b.elems ≤ (aget x.got i).getD 0)
    else true
  owned && held

/-- Sending the combined record up, or deciding at the leader, once this device and all its children are in (R262, R263). -/
def State.combineUp (s : State) (j : JobRec) : State :=
  let t := s.jobSt j.job
  let need := s.addr :: s.treeChildren j
  if t.readySent || !(need.all fun a => (aget t.ready a).isSome) then s
  else
    let recs := need.filterMap fun a => aget t.ready a
    match recs with
    | [] => s
    | r0 :: rest =>
      let c := rest.foldl combineReady r0
      let s1 := s.setJob j.job { t with readySent := true }
      match s.treeParent j with
      | some p => s1.send [.ready p c]
      | none =>
        let lead := ((s.plan.map Plan.policy).getD {}).commitLead
        let m : Marker := { job := j.job, step := c.step, version := c.version, commit := !(c.nfGrad || c.nfUpdate), nfGrad := c.nfGrad,
                            nfUpdate := c.nfUpdate, commitBeat := s.beat + lead, amax := c.amax }
        let s2 := s1.setJob j.job { (s1.jobSt j.job) with marker := some m }
        (s2.send ((s.treeChildren j).map fun a => .marker a m)).commitCkpt j c.step

/-- This device's own READY record of the step under way, when nothing of the step is outstanding. `ckptHold`: a checkpoint of the step is
not yet safe (R398). -/
def State.tryReady (s : State) (j : JobRec) : State :=
  let t := s.jobSt j.job
  if t.st != .running || !s.isMember j || (aget t.ready s.addr).isSome || t.ckptHold || !((s.jobChans j).all fun r => s.chanDone r t.step) then s
  else
    let own : ReadyRec := { job := j.job, step := t.step, version := t.step + 1, devices := 1, nfGrad := t.nfGrad, nfUpdate := t.nfUpdate
                            amax := s.amaxOf j.job t.step }
    let first := if t.firstReady.isSome then t.firstReady else some s.beat
    (s.setJob j.job { t with ready := aput t.ready s.addr own, firstReady := first }).combineUp j

def State.tryReadyCtx (s : State) (c : Fin 8) : State := match s.jobOf c with | some j => s.tryReady j | none => s


end Sys2Proof.Machine
end

