-- ==== Sys2Proof/Machine/Flags.lean ====
section
/-!
DEFINITION. Conditions and the numeric flag word: the comparisons of CMP (Table 4-5), the test of a WAIT (R126), and the read-and-clear of
FLAGRC (R63, R128).
-/

namespace Sys2Proof.Machine

/-- CMP conditions (Table 4-5). -/
def cmpHolds (c : CmpCond) (a b : Word) : Bool :=
  match c with
  | .eq => a == b
  | .ne => a != b
  | .ltu => decide (a.toNat < b.toNat)
  | .geu => decide (b.toNat ≤ a.toNat)
  | .lts => decide (a.toInt < b.toInt)
  | .ges => decide (b.toInt ≤ a.toInt)

/-- Whether a wait's condition holds (R126, R107). -/
def State.waitTrue (s : State) (a : Site) (w : WaitFor) : Bool :=
  match w with
  | .counter c b => Word.reached (s.ctxAt a).c[c] b
  | .beat t => decide (t ≤ s.beat)

/-- Whether a wait passes: its condition holds, and a wait for this beat sees the actions keyed to it applied (R372). -/
def State.waitMet (s : State) (a : Site) (w : WaitFor) : Bool :=
  s.waitTrue a w && !(w == .beat s.beat && s.actionDue a.ctx)

/-- FLAGRC clears the bits of the flag word that are 1 in b (R106). -/
def State.clearFlags (s : State) (c : Fin 8) (b : Word) : State := { s with flags := s.flags.set c (s.flags[c] &&& ~~~b) }

end Sys2Proof.Machine
end

