-- ==== Sys2Proof/Machine/Scalar.lean ====
section
/-!
DEFINITION. The instructions that the sequencer executes itself: scalar, control, counter, beat, flag and descriptor instructions
(R105 to R108, R111, R126 to R130, R138).
-/

namespace Sys2Proof.Machine

/-- The outcome of a command at a core: a core index that the device does not have faults (R549). -/
def coreOut (core : Nat) (s : State) : Host.Outcome State Fault Refusal :=
  if core < Config.numCores then .next s else .fault (.noSuchAddress core)

/-- A sequencer instruction that changes only its own context's registers. -/
def regOp (a : Site) (p : Pred) (f : CtxSt → CtxSt) (s : State) : Host.Outcome State Fault Refusal :=
  coreOut a.core (s.issue a p fun t => t.setCtx a (f (t.ctxAt a)))

/-- A scalar operation g[GD] := op(g[GA], b) (R106). -/
def aluOp (a : Site) (p : Pred) (gd ga gb : Fin 32) (imm : Word) (op : Word → Word → Word) (s : State) :
    Host.Outcome State Fault Refusal :=
  regOp a p (fun x => x.setG gd (op (x.greg ga) (x.b gb imm))) s

/-- NOP. -/
def execNop (a : Site) (p : Pred) (s : State) : Host.Outcome State Fault Refusal := regOp a p id s

/-- MOVI: g[GD] := IMM. -/
def execMovi (a : Site) (p : Pred) (gd : Fin 32) (imm : Word) (s : State) : Host.Outcome State Fault Refusal :=
  regOp a p (fun x => x.setG gd imm) s

def execAdd (a : Site) (p : Pred) (gd ga gb : Fin 32) (imm : Word) (s : State) : Host.Outcome State Fault Refusal :=
  aluOp a p gd ga gb imm (fun x y => x + y) s
def execSub (a : Site) (p : Pred) (gd ga gb : Fin 32) (imm : Word) (s : State) : Host.Outcome State Fault Refusal :=
  aluOp a p gd ga gb imm (fun x y => x - y) s
def execMul (a : Site) (p : Pred) (gd ga gb : Fin 32) (imm : Word) (s : State) : Host.Outcome State Fault Refusal :=
  aluOp a p gd ga gb imm (fun x y => x * y) s
def execAnd (a : Site) (p : Pred) (gd ga gb : Fin 32) (imm : Word) (s : State) : Host.Outcome State Fault Refusal :=
  aluOp a p gd ga gb imm (fun x y => x &&& y) s
def execOr (a : Site) (p : Pred) (gd ga gb : Fin 32) (imm : Word) (s : State) : Host.Outcome State Fault Refusal :=
  aluOp a p gd ga gb imm (fun x y => x ||| y) s
def execXor (a : Site) (p : Pred) (gd ga gb : Fin 32) (imm : Word) (s : State) : Host.Outcome State Fault Refusal :=
  aluOp a p gd ga gb imm (fun x y => x ^^^ y) s
/-- SHL and SHR shift by b mod 32 (R106). -/
def execShl (a : Site) (p : Pred) (gd ga gb : Fin 32) (imm : Word) (s : State) : Host.Outcome State Fault Refusal :=
  aluOp a p gd ga gb imm (fun x y => x <<< (y.toNat % 32)) s
def execShr (a : Site) (p : Pred) (gd ga gb : Fin 32) (imm : Word) (s : State) : Host.Outcome State Fault Refusal :=
  aluOp a p gd ga gb imm (fun x y => x >>> (y.toNat % 32)) s

/-- CMP: p[GD[2:0]] := condition on (g[GA], b). -/
def execCmp (a : Site) (p : Pred) (gd : Fin 32) (cond : CmpCond) (ga gb : Fin 32) (imm : Word) (s : State) :
    Host.Outcome State Fault Refusal :=
  regOp a p (fun x => x.setP (cmpPred gd) (cmpHolds cond (x.greg ga) (x.b gb imm))) s

/-- CRD: g[GD] := c[SUB[3:0]]. -/
def execCrd (a : Site) (p : Pred) (gd : Fin 32) (c : Fin 32) (s : State) : Host.Outcome State Fault Refusal :=
  regOp a p (fun x => x.setG gd (x.c[subCounter c])) s

/-- CSET: c[SUB[3:0]] := b (R127). -/
def execCset (a : Site) (p : Pred) (c : Fin 32) (gb : Fin 32) (imm : Word) (s : State) : Host.Outcome State Fault Refusal :=
  regOp a p (fun x => { x with c := x.c.set (subCounter c) (x.b gb imm) }) s

/-- BR: the program counter := IMM[11:0] (R108). -/
def execBr (a : Site) (p : Pred) (imm : Word) (s : State) : Host.Outcome State Fault Refusal :=
  regOp a p (fun x => { x with pc := imm.setWidth 12 }) s

/-- LOOP: a count of 0 goes past the matching ENDLOOP; otherwise the loop opens with its count and body start (R108). -/
def execLoop (a : Site) (p : Pred) (ga : Fin 32) (imm : Word) (endIdx : BitVec 12) (s : State) : Host.Outcome State Fault Refusal :=
  regOp a p (fun x =>
    let n := x.greg ga + imm
    if n = 0 then { x with pc := endIdx + 1 }
    else if x.loops.length < 4 then { x with loops := (n, x.pc) :: x.loops } else x) s

/-- ENDLOOP: repeats the innermost body or closes it (R108). -/
def execEndloop (a : Site) (p : Pred) (s : State) : Host.Outcome State Fault Refusal :=
  regOp a p (fun x =>
    match x.loops with
    | [] => x
    | (n, body) :: r => if n = 1 then { x with loops := r } else { x with loops := (n - 1, body) :: r, pc := body }) s

/-- VSETL: L := min(b, W), W for b = 0 (R138). -/
def execVsetl (a : Site) (p : Pred) (gb : Fin 32) (imm : Word) (s : State) : Host.Outcome State Fault Refusal :=
  regOp a p (fun x =>
    let w := lanesOf a.core
    let b := (x.b gb imm).toNat
    { x with vl := BitVec.ofNat 8 (if b = 0 then w else min b w) }) s

/-- BEATRD: the beat count of the issue cycle into two registers (R107). -/
def execBeatrd (a : Site) (p : Pred) (gd : Fin 32) (s : State) : Host.Outcome State Fault Refusal :=
  regOp a p (fun x =>
    let y := x.setG gd (BitVec.ofNat 32 s.beat)
    if h : gd.val + 1 < 32 then y.setG ⟨gd.val + 1, h⟩ (BitVec.ofNat 32 (s.beat / 2 ^ 32)) else y) s

/-- FLAGRC: g[GD] := the context's flag word; the word's bits that are 1 in b clear (R106, R128). -/
def execFlagrc (a : Site) (p : Pred) (gd gb : Fin 32) (imm : Word) (s : State) : Host.Outcome State Fault Refusal :=
  coreOut a.core (s.issue a p fun t =>
    let x := t.ctxAt a
    (t.setCtx a (x.setG gd t.flags[a.ctx])).clearFlags a.ctx (x.b gb imm))

/-- LDS: a 32-bit word of the context's share; held under R123, checked under R135. -/
def execLds (a : Site) (p : Pred) (gd ga : Fin 32) (imm : Word) (s : State) : Host.Outcome State Fault Refusal :=
  let x := s.ctxAt a
  let ad := x.lsAddr ga imm
  let r := [(ad, ad + 4)]
  if x.executes p && (s.core a.core).holds a.ctx r [] then coreOut a.core s
  else coreOut a.core (s.issue a p fun t =>
    match t.rangeCode a r [] with
    | some code => (t.faultCtx code a.ctx [a.core, x.pc.toNat]).pumpAll
    | none => t.setCtx a ((t.ctxAt a).setG gd (BitVec.ofNat 32 (leNat (t.scr a.core ad 4)))))

/-- STS: the word at the address := g[GB]. -/
def execSts (a : Site) (p : Pred) (ga gb : Fin 32) (imm : Word) (s : State) : Host.Outcome State Fault Refusal :=
  let x := s.ctxAt a
  let ad := x.lsAddr ga imm
  let r := [(ad, ad + 4)]
  if x.executes p && (s.core a.core).holds a.ctx [] r then coreOut a.core s
  else coreOut a.core (s.issue a p fun t =>
    match t.rangeCode a [] r with
    | some code => (t.faultCtx code a.ctx [a.core, x.pc.toNat]).pumpAll
    | none => t.setScr a.core ad (natLe 4 ((t.ctxAt a).greg gb).toNat))

/-- TDLD: TD := entry IMM of the context's descriptor pool (R111). -/
def execTdld (a : Site) (p : Pred) (td : Fin 64) (imm : Word) (s : State) : Host.Outcome State Fault Refusal :=
  let src := (s.poolRange a).1 + 32 * imm.toNat
  regOp a p (fun x => { x with td := x.td.set td (tdOfBytes (s.scr a.core src 32)) }) s

/-- TDADD's addition to a field, wrapping at the field's width (R111). -/
def tdAdd (t : TileDesc) (f : TdField) (v : Word) : TileDesc :=
  match f with
  | .base => { t with base := t.base + v.setWidth 20 }
  | .scaleBase => { t with scaleBase := t.scaleBase + v.setWidth 20 }
  | .indexBase => { t with indexBase := t.indexBase + v.signExtend 50 }
  | .tensorId => { t with tensorId := t.tensorId + v }

/-- TDADD. -/
def execTdadd (a : Site) (p : Pred) (td : Fin 64) (field : TdField) (ga : Fin 32) (imm : Word) (s : State) :
    Host.Outcome State Fault Refusal :=
  regOp a p (fun x => { x with td := x.td.set td (tdAdd x.td[td] field (x.greg ga + imm)) }) s

/-! ## Tile boundaries and waits -/

/-- TEND: a tile boundary (R130). -/
def execTend (a : Site) (p : Pred) (s : State) : Host.Outcome State Fault Refusal :=
  coreOut a.core (s.issue a p fun t => (t.boundary a false).pump a.core)

/-- END: a tile boundary; the program ends, and its entry completes once its engine instructions have (R102). -/
def execEnd (a : Site) (p : Pred) (s : State) : Host.Outcome State Fault Refusal :=
  coreOut a.core (s.issue a p fun t =>
    let t1 := t.boundary a false
    let x := t1.ctxAt a
    let t2 := t1.setCtx a { x with running := false, ending := x.ending ++ [(x.entryNo, x.tag)] }
    (t2.endEntries a).pump a.core)

/-- A wait that holds its context until its condition is true; the program counter stays at it meanwhile (R126, R344). A context that a fault at the
boundary has halted does not wait. -/
def State.waitOn (s : State) (a : Site) (pc : BitVec 12) (w : WaitFor) : State :=
  if s.waitMet a w || (s.ctxAt a).halted then s else s.setCtx a { s.ctxAt a with wait := some ⟨w, s.beat⟩, pc := pc }

/-- Whether a counter of a context is of class REMOTE (R125). -/
def State.isRemote (s : State) (c : Fin 8) (n : Fin 16) : Bool := ((s.ctxRec c).map CtxRec.remote).getD [] |>.contains n.val

/-- WAIT: until c[SUB[3:0]] has reached b; on a REMOTE counter it is a tile boundary (R126, R130, R344). -/
def execWait (a : Site) (p : Pred) (c : Fin 32) (gb : Fin 32) (imm : Word) (s : State) : Host.Outcome State Fault Refusal :=
  let x := s.ctxAt a
  coreOut a.core (s.issue a p fun t =>
    let t1 := if t.isRemote a.ctx (subCounter c) then (t.boundary a true).pump a.core else t
    t1.waitOn a x.pc (.counter (subCounter c) (x.b gb imm)))

/-- WAITB: until the beat count reaches its target; a tile boundary (R107, R130). -/
def execWaitb (a : Site) (p : Pred) (ga gb : Fin 32) (imm : Word) (s : State) : Host.Outcome State Fault Refusal :=
  let x := s.ctxAt a
  coreOut a.core (s.issue a p fun t => ((t.boundary a true).pump a.core).waitOn a x.pc (.beat (x.waitbTarget ga gb imm)))

end Sys2Proof.Machine
end

