-- ==== Sys2Proof/Machine/CoreEvents.lean ====
section
/-!
DEFINITION. Events of the cores: completion of engine instructions, receipt of link data, the end of waits, and the start queue
(R102, R103, R118, R119, R126, R129).
-/

namespace Sys2Proof.Machine

/-- Whether a started instruction can complete now: a send on a channel of this device needs its paired LRECV posted (R118); a Stem send
needs all its packets sent (R182). An LRED hands what it has read to the leaf of the exchange (R269). -/
def State.canComplete (s : State) (j : EngJob) : Bool :=
  match j.op with
  | .lsend _ ch => match s.chanRec ch with
    | some r => if chanLocal r then decide ((s.chanSt ch).sends < (s.chanSt ch).posts) else true
    | none => true
  | .stsend .. => j.left == 0
  | .lrecv .. => false
  | _ => true

/-- Data in units of 4 KiB (R339). -/
def chunksOf4k (b : List Byte) : List (List Byte) := (List.range ((b.length + 4095) / 4096)).map fun k => (b.drop (4096 * k)).take 4096

/-- An LSEND that completes hands its rows to the channel (R118); with both ends on this device they land with the paired LRECV, and otherwise they
leave by units. -/
def State.sendData (s : State) (core : Nat) (j : EngJob) : State :=
  match j.op with
  | .lsend td ch =>
    let x := s.chanSt ch
    match s.chanRec ch with
    | some r => if chanLocal r then s.setChan ch { x with sends := x.sends + 1, inFlight := x.inFlight ++ [s.rowsData core td] }
        else (s.setChan ch { x with sends := x.sends + 1 }).send ((chunksOf4k (s.rowsData core td)).map fun d => .linkData ch d)
    | none => s
  | _ => s

/-- ENGINE_INSTR_COMPLETE: the started instruction of an engine completes (R103). -/
def execEngineInstrComplete (core : Nat) (engine : Engine) (s : State) : Host.Outcome State Fault Refusal :=
  coreOut core (
    let jobs := (s.core core).jobs
    match jobs.findIdx? (fun j => j.phase == .started && j.engines.contains engine) with
    | none => s
    | some i => match jobs[i]? with
      | none => s
      | some j =>
        if s.canComplete j then
          match j.op with
          | .lred td ch => ((((s.completeAt core i)).leafRead core ch td j).tryReadyCtx j.ctx).pumpAll
          | .dma .. => s.dmaDone core i j
          | _ => (s.sendData core j).completeAt core i
        else s)

/-- LRECV_FILLED: the oldest posted range of the channel is full and its LRECV completes (R118, R119). On a channel with both ends on this
device, or fed by the Table Engine, the data is that of the channel; on an exchange channel it is what the exchange has brought for the
programs of a compressed bucket (R283); otherwise it came over the link. -/
def execLrecvFilled (a : Site) (chan : BitVec 16) (data : List Byte) (s : State) : Host.Outcome State Fault Refusal :=
  coreOut a.core (
    let jobs := (s.core a.core).jobs
    let ch := chan.toNat
    match jobs.findIdx? (fun j => j.ctx == a.ctx && (match j.op with | .lrecv _ c => c == ch | _ => false)) with
    | none => s
    | some i => match jobs[i]?.map EngJob.op with
      | some (.lrecv td _) =>
        let x := s.chanSt ch
        match s.chanRec ch with
        | some r =>
          if chanLocal r || !x.inFlight.isEmpty then
            match x.inFlight with
            | [] => s
            | d :: rest => ((s.setChan ch { x with inFlight := rest }).landRows a.core td d).completeAt a.core i
          else (s.landRows a.core td data).completeAt a.core i
        | none => match s.lowWords ch td ((jobs[i]?.map EngJob.part).getD 0) with
          | some d => (s.landRows a.core td d).completeAt a.core i
          | none => s
      | _ => s)

/-- WAIT_SATISFIED: the pending wait's condition is true; the program counter passes it and it is not evaluated again (R126, R344). -/
def execWaitSatisfied (a : Site) (s : State) : Host.Outcome State Fault Refusal :=
  coreOut a.core (
    let x := s.ctxAt a
    match x.wait with
    | some w => if s.waitMet a w.what then s.setCtx a { x with wait := none, pc := x.pc + 1 } else s
    | none => s)

/-- Whether an instruction word is an LRED or LRECV on a channel that increments a counter. -/
def countsOn (w : DWord) (a : Site) (chan : Nat) (c : Fin 16) : Bool :=
  match decodeWord a 0 w with
  | some (.lrecv _ _ _ ch cnt) => ch.toNat == chan && cnt.en && cnt.cnt == c
  | some (.lred _ _ _ ch cnt) => ch.toNat == chan && cnt.en && cnt.cnt == c
  | _ => false

/-- Whether a counter of a context on a core is bound to an exchange channel: its RECV_CNT, or a counter that an LRED or LRECV of the core's
program on the channel increments (R291). -/
def State.boundTo (s : State) (a : Site) (c : Fin 16) (r : ExchRec) : Bool :=
  (s.plan.map fun p => p.counters.any fun q => q.id == r.recvCnt && q.site == a && q.c == c).getD false
    || (s.prog a).any fun p => p.words.any fun w => countsOn w a r.chan c

/-- Whether a counter is bound to some exchange channel, which exempts its WAIT from the wait limit (R129, R291). -/
def State.exchBound (s : State) (a : Site) (c : Fin 16) : Bool := ((s.plan.map Plan.exch).getD []).any fun r => s.boundTo a c r

/-- The wait limit of a context has passed since the beat of issue and its condition is still false: fault 0x6003 (R129, R345). -/
def coreWaitExpired (a : Site) (s : State) : Host.Outcome State Fault Refusal :=
  coreOut a.core (
    let x := s.ctxAt a
    match x.wait with
    | some w =>
      let limit := ((s.ctxRec a.ctx).map CtxRec.waitLimit).getD 0
      let exempt := match w.what with | .counter c _ => s.exchBound a c | .beat _ => false
      if !exempt && decide (w.since + limit ≤ s.beat) && !s.waitTrue a w.what then
        (s.faultCtx 0x6003 a.ctx [a.core, x.pc.toNat]).pumpAll
      else s
    | none => s)

/-- START_QUEUE_DEQUEUE: a context with no program in progress takes its oldest entry: g1 to g4, the program counter and an empty loop
stack; everything else keeps its value (R102). -/
def execStartQueueDequeue (a : Site) (s : State) : Host.Outcome State Fault Refusal :=
  coreOut a.core (
    let x := s.ctxAt a
    if x.running || x.halted then s else
      match x.queue with
      | [] => s
      | e :: rest =>
        let arg (i : Nat) : Word := e.args.getD i 0
        let y := (((x.setG 1 (arg 0)).setG 2 (arg 1)).setG 3 (arg 2)).setG 4 (arg 3)
        let s1 := s.setCtx a { y with pc := e.entry, loops := [], queue := rest, running := true, tag := e.tag, entryNo := x.entryNo + 1 }
        if isSCore a.core then { s1 with busy := s1.busy.set a.ctx true } else s1)

/-- Appending an entry to a start queue: a full queue, or one for which entries are already held, has the entry held (R102). A halted
context takes none (Table 14-4). -/
def State.append (s : State) (a : Site) (e : StartEntry) : State :=
  let x := s.ctxAt a
  if x.halted then s
  else if x.queue.length < Config.startQueueMax && !(s.heldEntries.any fun h => h.1 == a) then
    s.setCtx a { x with queue := x.queue ++ [e] }
  else { s with heldEntries := s.heldEntries ++ [(a, e)] }

/-- START_QUEUE_APPEND_HELD: the oldest held entry of the queue is appended when a place is free (R102). -/
def execStartQueueAppendHeld (a : Site) (s : State) : Host.Outcome State Fault Refusal :=
  coreOut a.core (
    let x := s.ctxAt a
    match s.heldEntries.findIdx? (fun h => h.1 == a) with
    | some i => match s.heldEntries[i]? with
      | some (_, e) =>
        if x.queue.length < Config.startQueueMax then
          ({ s with heldEntries := s.heldEntries.eraseIdx i }).setCtx a { x with queue := x.queue ++ [e] }
        else s
      | none => s
    | none => s)

end Sys2Proof.Machine
end

