-- ==== Sys2Proof/Machine/Adders.lean ====
section
/-!
DEFINITION. Commands of the gradient exchange: arriving chunks, the straggler deadline and the exchange time limit (R273, R275, R287 to R291,
R296).
-/

namespace Sys2Proof.Machine

/-- CHUNK (R273, R275): an exchange chunk arrives on its way to a device. Another's goes on without being added. A chunk without credit
waits at its sender; one whose STEP differs from the step expected faults STATE_MISMATCH (R296, R389); otherwise it is combined, forwarded or
delivered. -/
def execChunk (m : Sent Chunk) (s : State) : Host.Outcome State Fault Refusal :=
  let c := m.chunk
  .next (if m.dst != s.addr then s.sendChunk m.dst c else
    match s.exchRec c.chan with
    | none => s
    | some r =>
      let x := s.exchSt c.chan
      let step := s.exchStep r
      if !s.jobRunning r.ctx || c.kind == .parameters || r.buckets.length ≤ c.idx then s
      else if c.kind == .lowPhQ then
        (if c.step != step + 1 then (s.faultCtx 0x5041 r.ctx [s.addr, c.node, step + 1, c.step]).pumpAll else s.lowBroadcast r c)
      else
        let final : Bool := c.check && s.lastBit r c ≤ c.bit
        if !final && !s.credit r step c.idx c.check then s
        else if c.step != step then (s.faultCtx 0x5041 r.ctx [s.addr, c.node, step, c.step]).pumpAll
        else
          let s1 := if final then (s.setExch c.chan { x with checks := x.checks ++ [c] }).compare r c
            else (s.addChunk r c).settleLeaves r c.step
          (s1.tryReadyCtx r.ctx).pumpAll)

/-- STRAGGLER_DEADLINE (R286 to R290): at D_s a contribution that has not entered is late. WAIT faults; CARRY and DROP send an excluded
contribution, count it and journal it. A carry that is late again is discarded with the new contribution. -/
def execStragglerDeadline (chan idx : Nat) (s : State) : Host.Outcome State Fault Refusal :=
  .next (match s.exchRec chan with
    | none => s
    | some r =>
      let step := s.exchStep r
      let x := s.exchSt chan
      let l := x.leaf idx step
      let entered := match l.entry with | some e => decide (e < s.deadline r) && !s.replayExcluded r idx step | none => false
      if s.beat < s.deadline r || entered || l.late || !s.jobRunning r.ctx || !r.members.contains s.addr then s
      else match r.buckets[idx]? with
        | none => s
        | some b =>
          if s.policy r idx step = 0 then (s.faultCtx 0x6030 r.ctx [s.addr, chan]).pumpAll
          else
            let twice := if r.sparse then (s.sparseCarry r step).isSome else (x.carryFor idx step).isSome
            let carry := decide (s.policy r idx step = 1) && !twice
            let y := x.setLeaf { l with late := true, drop := !carry, exp := (s.ctxJob r.ctx).e }
            let s1 := s.setExch chan { y with
              carries := if twice then y.carries.filter fun c => !(c.idx == idx) else y.carries
              own := if carry then y.own else y.own.filter fun w => !(w.step == step || twice && w.step + 1 == step) }
            let s2 := if carry then s1.countCtx r.ctx ccStragglerCarry else s1.countCtx r.ctx ccStragglerDrop (if twice then 2 else 1)
            let jobId := ((s.jobOf r.ctx).map (·.job)).getD 0
            let s3 := s2.journalStraggler jobId (.straggler jobId step chan idx s.addr (s.policy r idx step))
            let s4 := if r.sparse then s3.enterSparse r step
              else
                let l1 := (s3.exchSt chan).leaf idx step
                (if l1.data.length < b.elems then s3 else s3.lateData r b l1).settleLeaves r step
            (s4.tryReadyCtx r.ctx).pumpAll)

/-- Whether a member's receipt of the next version, or a bucket of this device's adders, is incomplete, or a WAIT on the channel is still
unsatisfied (R291). -/
def State.exchPending (s : State) (r : ExchRec) : Bool :=
  let x := s.exchSt r.chan
  let step := s.exchStep r
  let adders := x.parts.any fun c => c.step == step
  let receipt := r.members.contains s.addr && !r.sparse && r.buckets.zipIdx.any fun (b, i) =>
    (aget x.got i).getD 0 < b.elems
  let waits := s.cores.any fun (n, k) => match k.ctx[r.ctx].wait with
    | some w => match w.what with
      | .counter c _ => s.boundTo ⟨n, r.ctx⟩ c r && !s.waitMet ⟨n, r.ctx⟩ w.what
      | .beat _ => false
    | none => false
  adders || receipt || waits

/-- EXCH_TIMEOUT (R291): from beat D_s + EXCH_LIMIT, an exchange wait, an incomplete bucket or an incomplete receipt faults. -/
def execExchTimeout (chan : Nat) (s : State) : Host.Outcome State Fault Refusal :=
  .next (match s.exchRec chan with
    | none => s
    | some r =>
      if s.deadline r + s.img.exch.exchLimit ≤ s.beat && s.jobRunning r.ctx && s.exchPending r then
        (s.faultCtx 0x6031 r.ctx [s.addr, chan]).pumpAll
      else s)

end Sys2Proof.Machine
end

