-- ==== Sys2Proof/Machine/Stem.lean ====
section
/-!
DEFINITION. The Stem: the Target Former, Stem packets, landing buffers, credits and releases (R182 to R184, R186 to R195).
-/

namespace Sys2Proof.Machine

/-! ## Target Former (R183) -/

/-- A row as the Target Former emits it: the status byte, the values or pairs in VFMT, the residual, and the flags of its roundings. -/
structure Formed where
  status : Nat := 0
  vals : List Nat := []
  idx : List Nat := []
  rlse : Nat := 0
  fl : Flags := 0
deriving DecidableEq, Repr

/-- Inserting a column in the order of selection: t descending, then column ascending. -/
def insDesc (x : Nat × Num) : List (Nat × Num) → List (Nat × Num)
  | [] => [x]
  | y :: r => if Num.lt y.2 x.2 || (Num.eqv y.2 x.2 && decide (x.1 < y.1)) then x :: y :: r else y :: insDesc x r

def sortDesc (l : List (Nat × Num)) : List (Nat × Num) := l.foldr insDesc []

/-- The outcome of form_topk before rounding: status, selected pairs (column, value) and the residual. -/
def topkSelect (z : List Num) (invt : Num) (k : Nat) : Nat × List (Nat × Num) × Num :=
  let t := (z.map fun x => f24 ((Num.mulX x invt).getD .nan)).zipIdx.map fun (v, j) => (j, v)
  let live := (t.zip z).filterMap fun (p, x) => if x == .inf true then none else some p
  if z.any Num.isNan then (stNan, [], .nan)
  else if live.isEmpty then (stEmpty, [], .inf true)
  else
    let infs := live.filter fun (_, v) => v == .inf false
    if infs.length > 0 then (stPosInf, infs.take k, .inf (decide (infs.length ≤ k)))
    else
      let sel := (sortDesc live).take k
      let m := (sel.head?.map (·.2)).getD (.zero false)
      let rest := live.filter fun (j, _) => !sel.any fun (i, _) => i == j
      if rest.isEmpty then (0, sel, .inf true)
      else
        let sum := (canonicalSum (rest.map fun (_, v) => (expV true (sub24 v m), true))).getD (.zero false)
        (0, sel, add24 m (logV true sum))

/-- form_topk with its pairs written: unselected pairs carry index 0xFFFF_FFFF and −inf, or NaN in a NaN row. -/
def formTopk (z : List Num) (invt : Num) (k col0 : Nat) (vf : Fmt) : Formed :=
  let (st, sel, rl) := topkSelect z invt k
  let fill : Num := if st == stNan then .nan else .inf true
  let encs := (List.range k).map fun i => match sel[i]? with
    | some (j, v) => (col0 + j, roundRne vf v)
    | none => (0xFFFFFFFF, roundRne vf fill)
  let r := roundRne .fp32 rl
  { status := st, vals := encs.map fun (_, e) => e.bits, idx := encs.map (·.1), rlse := r.bits
    fl := encs.foldl (fun f (_, e) => f ||| e.fl) (r.fl ||| (if st == stNan then flNanIn else 0)) }

/-- A FULL or HIDDEN row. -/
def formFull (z : List Num) (vf : Fmt) : Formed :=
  let encs := z.map (roundRne vf)
  { status := (if z.any Num.isNan then stNan else 0) + (if z.any (· == .inf false) then stPosInf else 0)
      + (if z.all (· == .inf true) then stEmpty else 0)
    vals := encs.map Enc.bits, fl := encs.foldl (fun f e => f ||| e.fl) 0 }

/-- What the Target Former makes of a source row under a recipe. -/
def formRow (r : Recipe) (z : List Num) (col0 : Nat) : Formed :=
  let vf := (fmtdFmt r.vfmt).getD .fp32
  let invt := decode .fp32 r.invT.toNat
  match r.kind with
  | .full => formFull ((z.take r.width).map fun x => f24 ((Num.mulX x invt).getD .nan)) vf
  | .hidden => formFull (z.take r.width) vf
  | .topk => formTopk (z.take r.width) invt r.k col0 vf

/-! ## Packets (R191) -/

def pad32 (b : List Byte) : List Byte := b ++ List.replicate ((32 - b.length % 32) % 32) 0

def packetCode : PacketKind → Nat
  | .full => 1 | .topk => 2 | .hidden => 3

/-- A Stem packet: header of Table 7-3 and payload of Table 7-4. -/
def packetBytes (r : Recipe) (f : Formed) (seq pos col0 : Nat) : List Byte :=
  let e := ((fmtdFmt r.vfmt).getD .fp32).width / 8
  let hdr := natLe 2 r.buffer ++ natLe 1 (packetCode r.kind) ++ natLe 1 f.status ++ natLe 4 seq ++ natLe 8 (pos % 2 ^ 50) ++ natLe 4 col0
    ++ natLe 2 r.width ++ natLe 2 (if r.kind == .topk then r.k else 0) ++ natLe 4 (if r.kind == .topk then f.rlse else 0) ++ natLe 4 0
  let vals := pad32 (f.vals.flatMap (natLe e))
  hdr ++ (if r.kind == .topk then pad32 (f.idx.flatMap (natLe 4)) else []) ++ vals

/-- SLOT_SIZE of a recipe (R191). -/
def slotSizeOf (r : Recipe) : Nat :=
  let e := ((fmtdFmt r.vfmt).getD .fp32).width / 8
  match r.kind with
  | .topk => 32 + (4 * r.k + 31) / 32 * 32 + (r.k * e + 31) / 32 * 32
  | _ => 32 + (r.width * e + 31) / 32 * 32

/-! ## Landing buffers (R189, R192, R193) -/

def State.buf (s : State) (b : Nat) : BufSt := (aget s.bufs b).getD {}
def State.setBuf (s : State) (b : Nat) (x : BufSt) : State := { s with bufs := aput s.bufs b x }
def State.landRec (s : State) (b : Nat) : Option LandRec := s.plan.bind fun p => p.landings.find? fun l => l.buffer == b
def State.recipe (s : State) (b : Nat) : Option Recipe := s.plan.bind fun p => p.recipes.find? fun r => r.buffer == b

/-- Credits of a buffer at its Target Former. -/
def State.credits (s : State) (l : LandRec) : Nat := l.slots + (s.buf l.buffer).returned - (s.buf l.buffer).sent

/-- Slots that hold a packet not yet released. -/
def BufSt.occupied (b : BufSt) : Nat := b.arrived - b.freed


/-- Freeing a buffer's oldest slots (R194). -/
def State.freeSlots (s : State) (b n : Nat) : State := let x := s.buf b; s.setBuf b { x with freed := x.freed + n }

end Sys2Proof.Machine

namespace Sys2Proof
open Machine
/-- The core that holds a landing buffer. -/
def LandRec.core (l : LandRec) : Nat := Config.numTCores + l.score
/-- The scratchpad address of the slot of packet n. -/
def LandRec.slotAddr (l : LandRec) (n : Nat) : Nat := l.base + n % l.slots * l.slotSize
end Sys2Proof

namespace Sys2Proof.Machine

/-- A started STSEND with rows left: core, index in its core's queue, and the instruction. -/
def State.stemWaiting (s : State) (port : Fin 4) : List (Nat × Nat × EngJob) :=
  s.cores.flatMap fun (n, k) =>
    if tcdOf n == port && !isSCore n then
      k.jobs.zipIdx.filterMap fun (j, i) => match j.op with
        | .stsend .. => if j.phase == .started && decide (0 < j.left) then some (n, i, j) else none
        | _ => none
    else []

/-- Whether the buffer of an STSEND has a credit. -/
def State.stemCredit (s : State) (j : EngJob) : Bool :=
  match j.op with
  | .stsend _ b => match s.landRec b with | some l => decide (0 < s.credits l) | none => false
  | _ => false

/-- The round-robin choice among STSENDs that hold credit: the first after the last one served, in order of T-core and context (R193). -/
def State.stemPick (s : State) (port : Fin 4) : Option (Nat × Nat × EngJob) :=
  let c := (s.stemWaiting port).filter fun (_, _, j) => s.stemCredit j
  let key (x : Nat × Nat × EngJob) : Nat := x.1 * 8 + x.2.2.ctx.val
  let least (l : List (Nat × Nat × EngJob)) : Option (Nat × Nat × EngJob) := l.foldl (fun b x => match b with
    | none => some x
    | some y => if key x < key y then some x else some y) none
  match s.former[port] with
  | none => least c
  | some last => (least (c.filter fun x => decide (last < key x))).or (least c)

/-- The Target Formers that hold a row waiting for credit at this moment are noted (R195). -/
def State.markStalls (s : State) : State :=
  { s with stemStall := Vector.ofFn fun p => s.stemStall[p] || (s.stemWaiting p).any fun (_, _, j) => !s.stemCredit j }

/-- STEM_PACKET_START: the Target Former of a TCD takes the next row that holds a credit, spends it and emits the packet (R182, R183, R191,
R193). With no such row nothing happens. -/
def execStemPacketStart (port : Fin 4) (s : State) : Host.Outcome State Fault Refusal :=
  .next (match s.stemPick port with
    | none => s
    | some (n, i, j) => match j.op with
      | .stsend td b => match s.recipe b with
        | none => s
        | some r =>
          let row := td.rows - j.left
          let z := (List.range r.width).map fun c => s.elem n td row c
          let lrow := td.lrow.toNat
          let col0 := td.indexBase.toNat % lrow
          let f := formRow r z col0
          let x := s.buf b
          let pkt := packetBytes r f (x.sent % 2 ^ 32) (td.indexBase.toNat / lrow + row) col0
          let s1 := s.setBuf b { x with sent := x.sent + 1, flight := x.flight ++ [pkt] }
          let s2 := s1.setEngJob n i { j with left := j.left - 1, fl := j.fl ||| f.fl }
          ({ s2 with former := s2.former.set port (some (n * 8 + j.ctx.val)) } : State).markStalls
      | _ => s)

/-- STEM_ARRIVAL: the oldest packet under way of a buffer is wholly in its slot; the arrival counter increments (R192). -/
def execStemArrival (buffer : Nat) (s : State) : Host.Outcome State Fault Refusal :=
  .next (match s.landRec buffer, (s.buf buffer).flight with
    | some l, pkt :: rest =>
      let x := s.buf buffer
      let s1 := s.setScr l.core (l.slotAddr x.arrived) pkt
      let s2 := s1.setBuf buffer { x with arrived := x.arrived + 1, flight := rest }
      s2.bump ⟨l.core, l.cctx⟩ l.arrive 1
    | _, _ => s)

/-- CREDIT_RETURN: the credit of a freed slot becomes usable at the Target Former (R194). -/
def execCreditReturn (buffer : Nat) (s : State) : Host.Outcome State Fault Refusal :=
  let x := s.buf buffer
  .next (if x.returned < x.freed then s.markStalls.setBuf buffer { x with returned := x.returned + 1 } else s)

/-! ## Releases by CINC (R194) -/

/-- The buffers that a counter of a context on a core releases. -/
def State.releasedBy (s : State) (a : Site) (c : Fin 16) : List LandRec :=
  match s.plan with
  | none => []
  | some p => p.landings.filter fun l => l.ckind == .program && l.core == a.core && l.cctx == a.ctx && l.release == c

/-- Whether a release of b slots exceeds the occupied slots of one of them. -/
def State.overRelease (s : State) (a : Site) (c : Fin 16) (b : Nat) : Bool :=
  (s.releasedBy a c).any fun l => decide ((s.buf l.buffer).occupied < b)

def State.release (s : State) (a : Site) (c : Fin 16) (b : Nat) : State :=
  (s.releasedBy a c).foldl (fun (t : State) l => t.freeSlots l.buffer b) s

/-- A beat's end: each Target Former that has held a row waiting for credit in the beat counts a stall (R195). -/
def State.countStemStalls (s : State) : State :=
  let s1 := s.markStalls
  { ((List.finRange 4).foldl (fun (t : State) p => if s1.stemStall[p] then t.count (cntStemStall p) else t) s1) with
    stemStall := Vector.replicate 4 false }

end Sys2Proof.Machine
end

