-- ==== Sys2Proof/Machine/Samples.lean ====
section
/-!
DEFINITION. CINC, which releases Stem slots and sample slots (R127, R194, R405).
-/

namespace Sys2Proof.Machine

/-- The data binding that a counter of a context on a core releases. -/
def State.relBinding (s : State) (a : Site) (c : Fin 16) : Option DataRec :=
  match s.dataRec a.ctx with
  | none => none
  | some d =>
    if d.relCommit then none
    else if (s.plan.map fun p => p.counters.any fun r => r.id == d.relCnt && r.site == a && r.c == c).getD false then some d else none

/-- CINC: c[SUB[3:0]] := c + b. On a RELEASE counter it frees b landing slots, and a release beyond the occupied slots faults STEM_RELEASE
and is not executed; on the release counter of a sample table it frees the oldest complete slots. -/
def execCinc (a : Site) (p : Pred) (c : Fin 32) (gb : Fin 32) (imm : Word) (s : State) : Host.Outcome State Fault Refusal :=
  coreOut a.core (s.issue a p fun t =>
    let n := subCounter c
    let b := (t.ctxAt a).b gb imm
    if t.overRelease a n b.toNat then (t.faultCtx 0x6010 a.ctx [a.core, (s.ctxAt a).pc.toNat]).pumpAll
    else
      let t1 := (t.bump a n b).release a n b.toNat
      match t1.relBinding a n with
      | some d => t1.releaseSamples d b.toNat
      | none => t1)

end Sys2Proof.Machine
end

