-- ==== Sys2Proof/Machine/Sched.lean ====
section
/-!
DEFINITION. The plan's schedule: triggers, placement on affinity sets, and events that raise entries (R347, R348).
-/

namespace Sys2Proof.Machine

/-- Whether the schedule of a context runs: its job is RUNNING, or it is in no job and the device is JOINED, RUN or DRAIN. -/
def State.ctxRuns (s : State) (c : Fin 8) : Bool :=
  match s.jobOf c with
  | some j => (s.jobSt j.job).st == .running
  | none => s.dev == .joined || s.dev == .run || s.dev == .drain

/-- Entries of a context on a core: those in its start queue and those held for it (R348). -/
def State.entryCount (s : State) (a : Site) : Nat := (s.ctxAt a).queue.length + (s.heldEntries.filter fun h => h.1 == a).length

/-- The core of a record: named, or chosen from its affinity set (R348). -/
def State.place (s : State) (c : Fin 8) (r : SchedRec) : Option Nat :=
  if !r.affinity then some r.place
  else match s.plan.bind fun p => p.affinity[r.place]? with
    | none => none
    | some set =>
      let cores := sortKey id set
      let keyed := if r.key = 0 then [] else cores.filter fun n => (aget s.keys (8 * n + c.val)) == some r.key
      (if keyed.isEmpty then sortKey (fun n => s.entryCount ⟨n, c⟩) cores else keyed).head?

/-- A triggered record appends its entry. -/
def State.trigger (s : State) (c : Fin 8) (r : SchedRec) (args : List Word) (tag : EntryTag) : State :=
  match s.place c r with
  | none => s
  | some n =>
    let s1 := if (s.ctxAt ⟨n, c⟩).halted then s else { s with keys := aput s.keys (8 * n + c.val) r.key }
    s1.append ⟨n, c⟩ ⟨BitVec.ofNat 12 r.entry, args, tag⟩

/-- Whether the condition of a BEAT or COUNTER record holds. -/
def State.condHolds (s : State) (c : Fin 8) (r : SchedRec) : Bool :=
  match r.trig with
  | .beat b => decide (b ≤ s.beat)
  | .counter n core v => Word.reached ((s.ctxAt ⟨core, c⟩).c[n]) v
  | .event _ => false

def ctxIdx (n : Nat) : Fin 8 := ⟨n % 8, Nat.mod_lt _ (by decide)⟩

/-- Evaluation, in its order, of the schedule of some contexts (R347). -/
def State.runRecords (s : State) (of : Fin 8 → Bool) : State :=
  let l := (s.plan.map Plan.schedule).getD []
  l.zipIdx.foldl (fun (t : State) (r, i) =>
    let c := ctxIdx r.ctx
    if of c && t.ctxRuns c && !t.fired.contains i && t.condHolds c r then
      ({ t with fired := t.fired ++ [i] }).trigger c r r.args .plain
    else t) s

/-- Evaluation of the schedule in a beat (R347). The records of a job that has an action keyed to the beat follow it (R372). -/
def State.runSchedule (s : State) : State := s.runRecords fun c => !s.actionDue c

/-- An event of a unit for a context: each EVENT record of it appends its entry with the unit's arguments; an entry whose completion the unit awaits
stays open on the cores that took it. -/
def State.raiseEvent (s : State) (c : Fin 8) (u : EventUnit) (args : List Word) (tag : EntryTag) : State :=
  let l := (s.plan.map Plan.schedule).getD []
  let mine := l.filter fun r => r.ctx == c.val && r.trig == .event u
  let cores := mine.foldl (fun (acc : State × List Nat) r =>
    (acc.1.trigger c r args tag, acc.2 ++ ((acc.1.place c r).filter fun n => !(acc.1.ctxAt ⟨n, c⟩).halted).toList)) (s, []) |>.2
  let s1 := mine.foldl (fun (t : State) r => t.trigger c r args tag) s
  if tag == .plain || cores.isEmpty then s1 else { s1 with openEntries := s1.openEntries ++ [(tag, cores)] }

/-- The records of a context are armed again (R347). -/
def State.armCtx (s : State) (c : Fin 8) : State :=
  let l := (s.plan.map Plan.schedule).getD []
  { s with fired := s.fired.filter fun i => (l[i]?.map SchedRec.ctx) != some c.val }

end Sys2Proof.Machine
end

