-- ==== Sys2Proof/Machine/TableEngine.lean ====
section
/-!
DEFINITION. The Table Engine: lookup jobs, pooling, partial results of other devices and their merging (R175 to R179).
-/

namespace Sys2Proof.Machine

/-! ## Rows of a table (R175) -/

def State.tableRec (s : State) (t : Nat) : Option TableRec := s.plan.bind fun p => p.tables.find? fun r => r.table == t
/-- The shard that holds a row. -/
def State.shardOf (s : State) (t row : Nat) : Option ShardRec :=
  s.plan.bind fun p => p.shards.find? fun r => r.table == t && decide (r.row0 ≤ row) && decide (row < r.row0 + r.nrows)

/-- The elements of a row of a shard of this device. -/
def State.tableRow (s : State) (t : TableRec) (h : ShardRec) (row : Nat) : List Num :=
  let f := (fmtdFmt t.fmt).getD .fp32
  let a := s.regionBase .table + h.off + (row - h.row0) * (t.d * f.width / 8)
  (List.range t.d).map fun j => decode f (elemBits s.mem a f j)

/-! ## Pooling (R177) -/

/-- A row enters the partial of a bag: `w` is the weight of a weighted sum. -/
def BagSt.addRow (b : BagSt) (d : Nat) (row : List Num) (w : Num) : BagSt :=
  match b.pool with
  | .max => { b with valid := b.valid + 1, mx := if b.valid = 0 then row else (b.mx.zip row).map fun (x, y) => if x.isNan || y.isNan then .nan else vMax x y }
  | p =>
    let raw := if b.raw.isEmpty then List.replicate d emptyEl else b.raw
    { b with valid := b.valid + 1
             raw := (raw.zip row).map fun (st, x) => if p == .wsum then addTerm st (product w x) else addValue st x }

/-- The value of a sum, and of a mean, before its one rounding. -/
def meanValue (n : Nat) (x : Num) : Num :=
  match x with
  | .fin v => .fin (v / n)
  | z => z

/-- The result row of a bag: encodings in OFMT, status bits and flags. DESIGN CHOICE (log entry 109): a NaN that pooling itself makes, of infinities of
both signs, sets INVALID in the status byte; NAN is set for a NaN read. -/
def BagSt.result (b : BagSt) (d : Nat) : List Nat × Nat × Flags :=
  let f := (fmtdFmt b.ofmt).getD .fp32
  let mode : RMode := if fmtdRnd b.ofmt == 1 then .rtz else .rne
  let oob := if b.oob then 2 else 0
  if b.bad then (List.replicate d 0, 8, 0)
  else if b.valid = 0 then (List.replicate d 0, 1 + oob, 0)
  else
    let vs : List (Num × Flags) := match b.pool with
      | .max => b.mx.map fun x => (x, if x.isNan then flNanIn else 0)
      | .mean => b.raw.map fun r => let (x, fl) := readOut r; (meanValue b.valid x, fl)
      | _ => b.raw.map readOut
    let encs := vs.map fun (x, fl) => let e := roundTo f (fmtdSat b.ofmt) mode x; (e.bits, fl ||| e.fl, fl)
    let src := vs.foldl (fun g (_, fl) => g ||| fl) (0 : Flags)
    (encs.map (·.1), oob + (if src &&& flNanIn != 0 then 4 else 0) + (if src &&& flInvalid != 0 then 8 else 0),
     encs.foldl (fun g (_, fl, _) => g ||| fl) 0)

/-! ## Bag lists (R176, Table 6-4) -/

def poolOf : Nat → Option Pool
  | 0 => some .sum | 1 => some .mean | 2 => some .max | 3 => some .wsum
  | _ => none

/-- OFMT of a bag: FP32 or BF16, RND 00 or 01, BLK 0. -/
def ofmtOk (d : Nat) : Bool := (d % 16 == 0 || d % 16 == 1) && d / 16 % 2 == 0 && decide (d / 64 < 2)

/-- The bytes of a bag record. -/
def bagBytes (n : Nat) (pool : Nat) : Nat := 16 + 8 * n + (if pool == 3 then 4 * n else 0)

/-- A bag record at an address: its state before pooling, its (row, weight) list, and its length. -/
def State.bagAt (s : State) (a : Nat) : BagSt × List (Nat × Word) × Nat :=
  let m := s.mem
  let pool := memGetLe m (a + 4) 1
  let ofmt := memGetLe m (a + 5) 1
  let n := memGetLe m (a + 8) 4
  let table := memGetLe m a 4
  let idx (i : Nat) : Nat := memGetLe m (a + 16 + 8 * i) 8
  let ws (i : Nat) : Word := if pool == 3 then BitVec.ofNat 32 (memGetLe m (a + 16 + 8 * n + 4 * i) 4) else 0
  let rows := if n ≤ 4096 then (List.range n).map fun i => (idx i, ws i) else []
  let bad := decide (4096 < n) || memGetLe m (a + 6) 2 != 0 || memGetLe m (a + 12) 4 != 0 || !ofmtOk ofmt
    || rows.any (fun (i, _) => decide (2 ^ 40 ≤ i)) || (s.tableRec table).isNone
  match poolOf pool with
  | some p => ({ bad, table, pool := p, ofmt := BitVec.ofNat 8 ofmt }, rows, bagBytes n pool)
  | none => ({ bad := true, table }, [], bagBytes n pool)

/-- Pooling what this device holds of a bag; the rest is asked of other devices (R178, R179). Answers the state after counting
out-of-range indices, the bag, and the requests by device. DESIGN CHOICE (log entry 90): an index inside the table's row count that no shard of the plan
holds counts as out of range; the verifier (R175) leaves none. -/
def State.poolLocal (s : State) (b : BagSt) (rows : List (Nat × Word)) : State × BagSt × List (Nat × List (Nat × Word)) :=
  if b.bad then (s, b, []) else
  match s.tableRec b.table with
  | none => (s, { b with bad := true }, [])
  | some t => rows.foldl (fun (st : State × BagSt × List (Nat × List (Nat × Word))) (row, w) =>
      let (s, b, req) := st
      if t.rows ≤ row then (s.count cntTableOob, { b with oob := true }, req)
      else match s.shardOf b.table row with
        | none => (s.count cntTableOob, { b with oob := true }, req)
        | some h => match h.remote with
          | none => (s, b.addRow t.d (s.tableRow t h row) (decode .fp32 w.toNat), req)
          | some dev =>
            let have_ := (aget req dev).getD []
            (s, { b with owing := if b.owing.contains dev then b.owing else b.owing ++ [dev] }, aput req dev (have_ ++ [(row, w)])))
      (s, b, [])

/-- Reading a bag list: bags in order with their rows. -/
def State.bagList (s : State) : Nat → Nat → List (BagSt × List (Nat × Word))
  | 0, _ => []
  | n + 1, a =>
    let (b, rows, len) := s.bagAt a
    (b, rows) :: State.bagList s n (a + len)

def State.lookupWidth (s : State) (b : BagSt) : Nat := ((s.tableRec b.table).map (·.d)).getD 0

/-- Bytes of a row of the range that the receiver of a channel has posted. DESIGN CHOICE (log entry 110): of several posted ranges the first counts, and
with none posted a row is as long as the longest result. -/
def State.postedRow (s : State) (chan : Nat) : Option Nat :=
  ((s.chanRec chan).bind ChanRec.receiver).bind fun a =>
    (s.core a.core).jobs.findSome? fun j => match j.op with
      | .lrecv td c => if c == chan && j.ctx == a.ctx then some td.rowBytes else none
      | _ => none

/-- A lookup job with no partial outstanding delivers (R176): results to the channel, the row of bag b as row b of the posted range, zeros for a
bag that was not processed; status bytes, flags, completion counter. DESIGN CHOICE (log entry 90): the status array lies in the scratch region at the
offset that the command names, and the completion counter increments when the results enter the channel. -/
def State.finishLookup (s : State) (j : LookupSt) : State :=
  if j.bags.any (fun b => !b.owing.isEmpty) then s else
    let res : List (List Nat × Nat × Flags) := j.bags.map fun b => b.result (s.lookupWidth b)
    let width (b : BagSt) : Nat := ((fmtdFmt b.ofmt).getD .fp32).width / 8
    let rows : List (List Byte) := (j.bags.zip res).map fun (b, enc, _, _) => enc.flatMap (natLe (width b))
    let len := (s.postedRow j.chan).getD ((rows.map List.length).foldl max 0)
    let data := rows.flatMap fun b => b.take len ++ List.replicate (len - b.length) 0
    let s1 := ({ s with lookups := s.lookups.filter fun x => x.serial != j.serial } : State).scratchPut j.ctx (s.scratchAt j.statusOff)
      (res.map fun r => BitVec.ofNat 8 r.2.1)
    let s2 := s1.postFlags j.ctx (res.foldl (fun (g : Flags) r => g ||| r.2.2) 0)
    let x := s2.chanSt j.chan
    ((s2.setChan j.chan { x with inFlight := x.inFlight ++ [data] }).bumpEntry j.doneCnt 1)

/-- Teacher MACs that reading rows counts (R443): one for each element of each row of a teacher table that this device reads for a bound context. -/
def State.rowsCost (s : State) (table : Nat) (rows : List (Nat × Word)) (bound : Bool := true) : Nat :=
  match s.tableRec table with
  | some t =>
    if t.teacher && s.sec.husk.isSome && bound then
      ((rows.filter fun (r, _) => decide (r < t.rows) && ((s.shardOf table r).any fun h => h.remote.isNone)).length) * t.d
    else 0
  | none => 0

/-- The context that receives a lookup's results: that of the channel's posted range. -/
def State.lookupCtx (s : State) (chan : Nat) : Fin 8 := (((s.chanRec chan).bind ChanRec.receiver).map Site.ctx).getD 0

/-- The bag lists of a lookup job: addresses and counts. Those of a RANK request's candidates lie in its slot (Table 11-1, R328). -/
def State.bagStarts (s : State) (list : BagSrc) (bags : Nat) : List (Nat × Nat) :=
  match list with
  | .scratch off => [(s.scratchAt off, bags)]
  | .cands c slot => match s.req c slot, s.serveRec c with
    | some x, some p => x.r.cands.map fun (off, n) => (s.scratchAt p.reqOff + slot * p.slotBytes + off, n)
    | _, _ => []

/-- Bytes of a bag list. -/
def bagsBytes (l : List (BagSt × List (Nat × Word))) : Nat :=
  (l.map fun (b, rows) => bagBytes rows.length (if b.pool == .wsum then 3 else 0)).foldl (· + ·) 0

/-- LOOKUP_JOB (R176, R177, R328): the Table Engine of MSD `msd` reads a bag list of the scratch region, pools what it holds and asks other
devices for the rest. It waits while a row shadow of a named table is being copied (R251) or its meter station is short, and faults when
the meter is exhausted (R446); a list that leaves the scratch region faults REGION_RANGE (R28). -/
def execLookupJob (msd : Fin 6) (list : BagSrc) (bags chan statusOff doneCnt : Nat) (s : State) : Host.Outcome State Fault Refusal :=
  .next (
    let c := s.lookupCtx chan
    let lists := (s.bagStarts list bags).map fun (a, n) => (a, s.bagList n a)
    let l := lists.flatMap (·.2)
    let st : Fin 10 := ⟨4 + msd.val, by omega⟩
    let cost := (l.map fun (b, rows) => if b.bad then 0 else s.rowsCost b.table rows (((s.ctxRec c).map CtxRec.kind) == some .teacher)).foldl (· + ·) 0
    if l.any (fun (b, _) => s.shadowCopy.contains b.table) then s
    else if lists.any fun e => !s.inScratch e.1 (bagsBytes e.2) then (s.faultCtx 0x6005 c [msd.val]).pumpAll
    else if s.sec.station[st] < cost then
      (if s.sec.exhausted then (s.faultCtx 0x4120 c [msd.val]).pumpAll else s)
    else
      let s0 := s.payMeter st cost
      let serial := s0.nextLookup
      let (s1, done) := l.zipIdx.foldl (fun (acc : State × List BagSt) (e, i) =>
        let (t, b, req) := acc.1.poolLocal e.1 e.2
        (t.send (req.map fun (dev, rows) => Out.lookup dev serial i b.table b.pool rows), acc.2 ++ [b])) (s0, [])
      let j : LookupSt := { serial, chan, ctx := c, statusOff, doneCnt, bags := done }
      ({ s1 with lookups := s1.lookups ++ [j], nextLookup := serial + 1 }).finishLookup j)

/-- REMOTE_LOOKUP (R179): rows forwarded by another device are pooled into a partial, with its valid count, and returned. -/
def execRemoteLookup (msd : Fin 6) (origin serial bag table : Nat) (pool : Pool) (rows : List (Nat × Word)) (s : State) :
    Host.Outcome State Fault Refusal :=
  .next (
    let st : Fin 10 := ⟨4 + msd.val, by omega⟩
    let cost := s.rowsCost table rows
    if s.shadowCopy.contains table || s.sec.station[st] < cost then s
    else
      let (s1, b, _) := (s.payMeter st cost).poolLocal { table, pool } rows
      let p : BagPartial := match pool with
        | .max => .max b.valid (b.mx.map fun x => BitVec.ofNat 32 (roundRne .fp32 x).bits) (b.mx.any Num.isNan)
        | _ => .raw b.valid b.raw
      s1.send [.bagPartial origin serial bag p])

/-- A partial of another device merges into a bag (R92, R179). -/
def BagSt.merge (b : BagSt) (dev : Nat) (p : BagPartial) : BagSt :=
  let b := { b with owing := b.owing.filter (· != dev) }
  match p with
  | .raw v els =>
    if v = 0 then b else
      { b with valid := b.valid + v, raw := if b.raw.isEmpty then els else (b.raw.zip els).map fun (x, y) => mergeRecord x y }
  | .max v els _ =>
    let row := els.map fun w => decode .fp32 w.toNat
    if v = 0 then b else
      { b with valid := b.valid + v
               mx := if b.mx.isEmpty then row else (b.mx.zip row).map fun (x, y) => if x.isNan || y.isNan then .nan else vMax x y }

/-- REMOTE_PARTIAL (R179): a partial arrives from a device that owes it; the job delivers once none is outstanding. -/
def execRemotePartial (serial bag dev : Nat) (p : BagPartial) (s : State) : Host.Outcome State Fault Refusal :=
  .next (match s.lookups.find? (fun j => j.serial == serial) with
    | none => s
    | some j => match j.bags[bag]? with
      | none => s
      | some b =>
        if b.owing.contains dev then
          let j' := { j with bags := j.bags.set bag (b.merge dev p) }
          ({ s with lookups := s.lookups.map fun (x : LookupSt) => if x.serial == serial then j' else x }).finishLookup j'
        else s)

end Sys2Proof.Machine
end

