-- ==== Sys2Proof/Machine/Commit.lean ====
section
/-!
DEFINITION. READY and markers on the commit tree, the commit beat, checkpoint copies, and the start of a job (R253 to R257, R262 to R265,
R373, R398, R400).
-/

namespace Sys2Proof.Machine

/-- A fault of a job as a whole is raised for its first context. -/
def State.faultJob (s : State) (code : Nat) (j : JobRec) (detail : List Nat) : State :=
  match jobCtxs j with
  | c :: _ => (s.faultCtx code c detail).pumpAll
  | [] => s

def State.policyRec (s : State) : PolicyRec := (s.plan.map Plan.policy).getD {}
def State.planHist (s : State) : List HistRec := (s.plan.map Plan.hist).getD []

/-- Stages of a job on this device. -/
def State.jobStages (s : State) (j : JobRec) : List StageRec :=
  ((s.plan.map Plan.stages).getD []).filter fun r => j.ctxMask.getLsbD r.ctx

/-! ## Commit tree (R262 to R264, R389) -/

/-- STATE_MISMATCH (R389): the fault names both addresses and both values. -/
def State.mismatch (s : State) (j : JobRec) (from_ mine theirs : Nat) : State := s.faultJob 0x5041 j [s.addr, from_, mine, theirs]

/-- The version that a commit marker of this device's step must carry: that of the step, and of every SHADOW slot of the job's stages; the first that
differs from `v`. -/
def State.otherVersion (s : State) (j : JobRec) (v : Nat) : Option Nat :=
  (((s.jobSt j.job).step + 1) :: (s.jobStages j).filterMap fun r =>
    let x := s.stage r.stage
    (x.slotIn .shadow).map fun i => x.slots[i].version).find? (· != v)

/-- READY (R262): a child's record is held and combined; a step or version other than this device's faults STATE_MISMATCH (R389). -/
def execReady (origin : Nat) (r : ReadyRec) (s : State) : Host.Outcome State Fault Refusal :=
  .next (match s.jobRec r.job with
    | none => s
    | some j =>
      let t := s.jobSt j.job
      if t.st != .running || !(s.treeChildren j).contains origin || t.readySent then s
      else if r.step != t.step then s.mismatch j origin t.step r.step
      else if r.version != t.step + 1 then s.mismatch j origin (t.step + 1) r.version
      else
        let first := if t.firstReady.isSome then t.firstReady else some s.beat
        (s.setJob j.job { t with ready := aput t.ready origin r, firstReady := first }).combineUp j)

/-- COMMIT_MARKER (R263, R264, R398): the marker is held for its commit beat and passed on; it commits the checkpoint of the step. -/
def execCommitMarker (m : Marker) (s : State) : Host.Outcome State Fault Refusal :=
  .next (match s.jobRec m.job with
    | none => s
    | some j =>
      let t := s.jobSt j.job
      if t.st != .running || t.marker.isSome then s
      else if m.commitBeat ≤ s.beat then s.faultJob 0x6021 j [s.addr]
      else if m.step != t.step then s.mismatch j ((s.treeParent j).getD s.addr) t.step m.step
      else match s.otherVersion j m.version with
        | some v => s.mismatch j ((s.treeParent j).getD s.addr) v m.version
        | none =>
          let s1 := s.setJob j.job { t with marker := some m }
          (s1.send ((s.treeChildren j).map fun a => .marker a m)).commitCkpt j m.step)

/-- COMMIT_TIMEOUT (R264): COMMIT_LIMIT beats after its first READY record of the step, the leader has not decided. -/
def execCommitTimeout (job : Nat) (s : State) : Host.Outcome State Fault Refusal :=
  .next (match s.jobRec job with
    | none => s
    | some j =>
      let t := s.jobSt job
      match t.firstReady with
      | some b =>
        if t.st == .running && t.marker.isNone && (s.treeParent j).isNone && s.isMember j && decide (b + s.policyRec.commitLimit ≤ s.beat) then
          s.faultJob 0x6020 j [s.addr]
        else s
      | none => s)

/-! ## Scale history (R253, R256, R257, R259) -/

/-- new_exp of R257; `cur` is returned when the history is empty or zero. Values that are not negative stand in the order of their FP32 words;
an A_s that rounds up to infinity takes the least exponent. -/
def newExp (h : HistRec) (vals : List Word) (cur : Int) : Int :=
  match decode .fp32 (vals.foldl (fun m w => max m w.toNat) 0) with
  | .fin a => min (max (ilog2 (maxFinite (if h.e4m3 then Fmt.e4m3 else Fmt.e5m2) / a) - h.margin) (-126)) 126
  | .zero _ => cur
  | _ => -126

/-- A history entry at a commit: `left` is the number of committed steps that a recovery still needs, this one included. -/
def histCommit (h : HistRec) (left : Nat) (a : Word) (x : HistSt) : HistSt :=
  let vals := (a :: x.vals).take h.h
  if x.recovering && decide (1 < left) then { x with vals }
  else if x.recovering && left == 1 then
    if h.weight then { x with vals, copyExp := newExp h vals x.copyExp }
    else { x with vals, exp := newExp h vals x.exp, recovering := false }
  else if h.weight then { vals, exp := x.copyExp, copyExp := newExp h vals x.copyExp, recovering := false }
  else { vals, exp := newExp h vals x.exp, copyExp := x.copyExp, recovering := false }

/-- FP32 encoding of 2^e, |e| at most 126. -/
def scaleWord (e : Int) : Nat := (e + 127).toNat * 2 ^ 23

/-- S-cores of a context. -/
def State.sCoresOf (s : State) (c : Fin 8) : List Nat :=
  (((s.plan.map Plan.programs).getD []).filter fun r => r.ctx == c.val).flatMap fun r => r.cores.filter isSCore

/-- SCALE and INV of every history entry on every S-core of the job's contexts (R256). -/
def State.writeScales (s : State) (j : JobRec) : State :=
  let t := s.jobSt j.job
  let a := s.policyRec.swordAddr
  let bytes := s.planHist.zipIdx.flatMap fun (_, i) =>
    let e := (t.hist.getD i {}).exp
    natLe 4 (scaleWord e) ++ natLe 4 (scaleWord (-e))
  ((jobCtxs j).flatMap s.sCoresOf).foldl (fun (u : State) n => u.setScr n a bytes) s

/-! ## The commit beat (R240, R265) -/

/-- Slot transitions of a stage (Table 8-7). -/
def StageSt.commit (x : StageSt) (commit : Bool) (version : Nat) : StageSt :=
  if commit then
    match x.slotIn .shadow with
    | some sh =>
      let y := match x.slotIn .current with
        | some c => x.setSlot c (if x.boundCount c = 0 then {} else { x.slots[c] with ph := .retiring })
        | none => x
      y.setSlot sh ⟨.current, version⟩
    | none => match x.slotIn .current with
      | some c => x.setSlot c ⟨.current, version⟩
      | none => x
  else { x with slots := x.slots.map fun sl => if sl.ph == .shadow then {} else sl }

/-- The exchange of a channel after the commit or skip of step n (R268, R288). -/
def ExchSt.endStep (x : ExchSt) (n : Nat) (commit : Bool) : ExchSt :=
  let late := if commit then x.leafs.filter fun l => l.late && l.step == n else []
  { leafs := late
    carries := if commit then x.carries.filter fun c => c.step == n
      else (x.carries.filter fun c => c.step != n).map fun c => if c.usedIn == some n then { c with usedIn := none } else c
    own := if commit && !late.isEmpty then x.own.filter fun y => y.step == n else [] }

/-- Rows of the row shadows of a job's contexts. -/
def State.jobShadow (s : State) (j : JobRec) : List ShadowRow := s.shadow.filter fun r => (jobCtxs j).any fun c => r.ctx == c.val
/-- The row shadows of a job are gone. -/
def State.dropShadow (s : State) (j : JobRec) : State :=
  { s with shadow := s.shadow.filter fun r => !(jobCtxs j).any fun c => r.ctx == c.val }

/-- Where a row of a row shadow goes, with its moments: addresses and bytes (R251). -/
def State.rowWrites (s : State) (r : ShadowRow) : List (Nat × List Byte) :=
  match s.tableRec r.table, s.shardOf r.table r.row with
  | some tb, some h =>
    let moments := match s.updRec tb.tensorId with
      | some u => ([(0, r.m1), (1, r.m2)].filter fun e => decide (e.1 < (s.fuuProg u).nmom)).map fun (n, l) =>
          (s.momAddr u false n (r.row * tb.d), l.flatMap fun w => natLe 4 w)
      | none => []
    (s.regionBase .table + h.off + (r.row - h.row0) * tb.d * 2, r.w.flatMap fun w => natLe 2 w) :: moments
  | _, _ => []

/-- Rows of a job's row shadows go into place (R251), and lookups of the tables wait until their copy completes. -/
def State.placeShadow (s : State) (j : JobRec) : State :=
  let rows := s.jobShadow j
  let tables := (rows.map ShadowRow.table).eraseDups
  let s1 := ({ s with mem := (rows.flatMap s.rowWrites).foldl (fun m e => memPutBytes m e.1 e.2) s.mem } : State).dropShadow j
  { s1 with shadowCopy := s1.shadowCopy ++ tables.filter fun t => !s1.shadowCopy.contains t }

/-! ## What a halt in the same beat takes back (R396) -/

/-- The state that a commit, skip or start of this beat is about to change. -/
def State.undoOf (s : State) (j : JobRec) (skip : Bool) : JobUndo :=
  { beat := s.beat, job := s.jobSt j.job, stages := (s.jobStages j).map fun r => (r.stage, s.stage r.stage)
    cells := if skip then [] else ((s.jobShadow j).flatMap s.rowWrites).flatMap fun e => (List.range e.2.length).map fun i => (e.1 + i, memGet s.mem (e.1 + i))
    copies := s.shadowCopy, seq := s.jnl.seq, seqEnd := s.jnl.seq, skip, joined := s.dev == .joined }

/-- It is kept, with the number of the last record that the action has requested. -/
def State.keepUndo (s : State) (job : Nat) (u : JobUndo) : State := { s with undos := aput s.undos job { u with seqEnd := s.jnl.seq } }

/-- The step account record (Table 8-8). -/
def State.writeAcct (s : State) (c : Fin 8) (step : Nat) (skipped : Bool) : State :=
  let a := match s.acct c with
    | some a => if a.step = step then a else { step, first := 0 }
    | none => { step, first := 0 }
  let b := natLe 8 step ++ natLe 8 a.first ++ natLe 8 a.lastBwd ++ natLe 8 s.beat ++ natLe 4 a.mbs.length ++ natLe 4 a.demote
    ++ natLe 4 a.recompute ++ natLe 4 a.slotWait ++ natLe 4 a.idleAt ++ [if skipped then 1 else 0] ++ List.replicate 11 0
  let at_ := s.scratchAt ((s.plan.map Plan.stepAcctOff).getD 0) + 64 * c.val
  { s with mem := memPutBytes s.mem at_ b, accts := if (s.acct c).map AcctSt.step == some step then adel s.accts c.val else s.accts }

/-- Student training contexts of a job. -/
def State.trainCtxs (s : State) (j : JobRec) : List (Fin 8) :=
  (jobCtxs j).filter fun c => ((s.ctxRec c).map CtxRec.kind) == some .training

/-- Student training and online-distillation contexts of a job, in which skips and recoveries count (Table 18-8). -/
def State.studentCtxs (s : State) (j : JobRec) : List (Fin 8) :=
  (jobCtxs j).filter fun c => let k := (s.ctxRec c).map CtxRec.kind; k == some .training || k == some .online

/-- Loss-scale exponent and growth counter after a commit or skip (R253). -/
def nextScale (p : PolicyRec) (commit : Bool) (e : Int) (growth : Nat) : Int × Nat :=
  if commit then (if growth + 1 = p.growth then (min (e + 1) p.maxE, 0) else (e, growth + 1))
  else (max (e - p.backoff) p.minE, 0)

/-- The job state after its marker (R253, R257, R265). -/
def State.jobAfter (s : State) (t : JobSt) (m : Marker) : JobSt :=
  let (e, growth) := nextScale s.policyRec m.commit t.e t.growth
  let base : JobSt := { t with e, growth, base := s.beat, ready := [], readySent := false, firstReady := none, nfGrad := false,
                               nfUpdate := false, marker := none }
  if m.commit then
    let hist := s.planHist.zipIdx.map fun (h, i) =>
      histCommit h t.recoverLeft (m.amax.getD i 0) (t.hist.getD i {})
    let done := t.replayEnd.any fun v => decide (v ≤ m.version)
    { base with step := m.version, u := t.u + 1, cur := !t.cur, hist, recoverLeft := t.recoverLeft - 1
                replayEnd := if done then none else t.replayEnd, exclusions := if done then [] else t.exclusions }
  else base

/-- Applying a marker of a job (R240, R265): slots and shadow rows, exchange channels, step accounts, the job's own values, counters or a
journalled skip, and the commit events. -/
def State.applyMarker (s : State) (j : JobRec) (m : Marker) : State :=
  let s1 := (s.jobStages j).foldl (fun (v : State) r => v.setStage r.stage (((v.stage r.stage).commit m.commit m.version).retire)) s
  let s2 := if m.commit then s1.placeShadow j else s1.dropShadow j
  let s3 := (s.jobChans j).foldl (fun (v : State) r => v.setExch r.chan ((v.exchSt r.chan).endStep m.step m.commit)) s2
  let s4 := (s3.trainCtxs j).foldl (fun (v : State) c => v.writeAcct c m.step (!m.commit)) s3
  let s5 := ({ s4 with capt := s4.capt.filter fun x => !(x.job == j.job && x.step == m.step) }).setJob j.job (s4.jobAfter (s.jobSt j.job) m)
  let s6 := s5.writeScales j
  let s7 := if m.commit then (jobCtxs j).foldl (fun (v : State) c => v.commitSamples c m.step) s6
    else ((s6.studentCtxs j).foldl (fun (v : State) c => v.countCtx c ccStepSkip) s6).journal
      (.stepSkip j.job m.step ((if m.nfGrad then 1 else 0) + (if m.nfUpdate then 2 else 0)))
  (jobCtxs j).foldl (fun (v : State) c => v.raiseEvent c .commit [BitVec.ofNat 32 m.version] .plain) s7

/-- The schedule of a job's contexts is evaluated, after the action that their beat has brought (R347, R372). -/
def State.runJob (s : State) (j : JobRec) : State := s.runRecords fun c => j.ctxMask.getLsbD c

/-- COMMIT_BEAT (R240, R265, R353, R372, R398): the marker is applied in its commit beat; in DRAIN the job's contexts then stop. -/
def execCommitBeat (job : Nat) (s : State) : Host.Outcome State Fault Refusal :=
  .next (match s.jobRec job with
    | none => s
    | some j =>
      let t := s.jobSt job
      match t.marker with
      | none => s
      | some m =>
        if t.st != .running || m.commitBeat != s.beat then s
        else
          let s8 := s.applyMarker j m
          let s9 := (if m.commit && j.ckptEvery != 0 && m.version % j.ckptEvery == 0 then s8.takeCkpt j else s8).keepUndo job (s.undoOf j (!m.commit))
          if s9.dev == .drain then ((s9.studentCtxs j).foldl State.haltCtx s9).setJob job { (s9.jobSt job) with st := .none, ckpt := none, ckptHold := false }
          else ((s9.tryReady j).runJob j).pumpAll)

/-! ## Checkpoint copies (R398, R400) -/

/-- When both copies of the checkpoint under way are safe, READY of the step is no longer withheld. -/
def State.ckptSafe (s : State) (j : JobRec) : State :=
  let t := s.jobSt j.job
  match t.ckpt with
  | some c => if c.localDone && c.hostedDone then (s.setJob j.job { t with ckptHold := false }).tryReady j else s
  | none => s

/-- LOCAL_COPY_COMPLETE (R398): the local copy of the checkpoint under way has been written to its bank. -/
def execLocalCopyComplete (job : Nat) (s : State) : Host.Outcome State Fault Refusal :=
  .next (match s.jobRec job with
    | none => s
    | some j =>
      let t := s.jobSt job
      match t.ckpt with
      | none => s
      | some c =>
        if c.waiting || c.localDone then s
        else
          let part := s.partNow j c.version
          let b := localIdx c.bank
          let s1 : State := { s with mem := memPutBytes s.mem (s.bankAddr j b.val) part }
          (s1.setJob job { t with ckpt := some { c with localDone := true }
                                  banks := t.banks.set b { t.banks[b] with complete := true, bytes := part.length } }).ckptSafe j)

/-- A hosted copy stands in its bank (R399, R400): the digest that the partner computes says whether the part is complete and is acknowledged. -/
def State.hostPart (s : State) (j : JobRec) (b : Fin 4) (a role version : Nat) (part : List Byte) : State :=
  let t := s.jobSt j.job
  let ok := partIntact part version none
  let s1 : State := { s with mem := memPutBytes s.mem (s.bankAddr j b.val) part }
  (s1.setJob j.job { t with banks := t.banks.set b { version := some version, complete := ok, role, bytes := part.length } }).send
    (if ok then [.hostedAck a j.job version] else [])

/-- HOSTED_COPY (R399, R400): the partner writes a hosted copy to the bank that does not hold the newest complete part, computes its digest and
acknowledges it; a copy whose digest differs is not acknowledged (log entry 122). -/
def execHostedCopy (job role version : Nat) (part : List Byte) (s : State) : Host.Outcome State Fault Refusal :=
  .next (match s.jobRec job with
    | none => s
    | some j =>
      let t := s.jobSt job
      match j.members[role]? with
      | none => s
      | some (a, p) =>
        if t.st != .running || (j.members[p]?.map (·.1)) != some s.addr then s
        else s.hostPart j (hostedIdx (otherBank t.banks[2] t.banks[3])) a role version part)

/-- HOSTED_COPY_ACK (R398, R400): the partner's acknowledgement of the hosted copy. -/
def execHostedCopyAck (job version : Nat) (s : State) : Host.Outcome State Fault Refusal :=
  .next (match s.jobRec job with
    | none => s
    | some j =>
      let t := s.jobSt job
      match t.ckpt with
      | some c => if c.version == version && !c.waiting then (s.setJob job { t with ckpt := some { c with hostedDone := true } }).ckptSafe j else s
      | none => s)

/-! ## The start of a job (R373) -/

/-- Start-ready records of this device and all its children go up, or fix the start beat at the leader. -/
def State.combineStart (s : State) (j : JobRec) : State :=
  let t := s.jobSt j.job
  let need := s.addr :: s.treeChildren j
  if t.startSent || !(need.all fun a => t.startReady.contains a) then s
  else
    let s1 := s.setJob j.job { t with startSent := true }
    match s.treeParent j with
    | some p => s1.send [.startReady p j.job]
    | none =>
      let b := s.beat + s.img.beat.startLead
      (s1.setJob j.job { (s1.jobSt j.job) with startBeat := some b }).send ((s.treeChildren j).map fun a => .startRecord a j.job s.form b)

/-- This device's own start-ready record: the job is STARTING. -/
def State.offerStart (s : State) (j : JobRec) : State :=
  let t := s.jobSt j.job
  if !s.isMember j || t.startReady.contains s.addr then s
  else (s.setJob j.job { t with st := .starting, startReady := t.startReady ++ [s.addr] }).combineStart j

/-- START_READY (R373): a child's start-ready record. -/
def execStartReady (job origin : Nat) (s : State) : Host.Outcome State Fault Refusal :=
  .next (match s.jobRec job with
    | none => s
    | some j =>
      let t := s.jobSt job
      if !(s.treeChildren j).contains origin || t.startReady.contains origin || t.st == .running then s
      else (s.setJob job { t with startReady := t.startReady ++ [origin] }).combineStart j)

/-- START_RECORD (R373, R389): the start beat comes down the tree. A record of another formation faults STATE_MISMATCH, one whose beat has
begun faults START_LATE. -/
def execStartRecord (job form beat : Nat) (s : State) : Host.Outcome State Fault Refusal :=
  .next (match s.jobRec job with
    | none => s
    | some j =>
      let t := s.jobSt job
      if t.st != .starting || t.startBeat.isSome then s
      else if form != s.form then s.mismatch j ((s.treeParent j).getD s.addr) s.form form
      else if beat ≤ s.beat then s.faultJob 0x5042 j [s.addr]
      else (s.setJob job { t with startBeat := some beat }).send ((s.treeChildren j).map fun a => .startRecord a job form beat))

/-- The initial values of a job (R243, R252, R257): before its first commit every entry uses INIT_EXP. -/
def State.initJob (s : State) (t : JobSt) : JobSt :=
  { t with step := 0, u := 0, e := s.policyRec.initE, growth := 0, cur := false
           hist := s.planHist.map fun h => { exp := h.initExp, copyExp := h.initExp } }

/-- A context of a starting job: its records are armed and its cores take entries again. -/
def State.startCtx (s : State) (c : Fin 8) : State :=
  let s1 := s.armCtx c
  { s1 with cores := s1.cores.map fun (n, k) => (n, { k with ctx := k.ctx.set c { k.ctx[c] with halted := false } }) }

/-- START_BEAT (R373, R398, R408): the job begins, with ATTEMPT incremented; its first start, and one after a substitution, take a
checkpoint. -/
def execStartBeat (job : Nat) (s : State) : Host.Outcome State Fault Refusal :=
  .next (match s.jobRec job with
    | none => s
    | some j =>
      let t := s.jobSt job
      if t.st != .starting || t.startBeat != some s.beat || s.dev == .drain then s
      else
        let first := !t.started
        let t1 := if first then s.initJob t else t
        let s1 := s.setJob job { t1 with st := .running, attempt := t.attempt + 1, notified := false, base := s.beat, startBeat := none
                                         startReady := [], startSent := false, started := true, substituted := false }
        let s2 := (jobCtxs j).foldl State.startCtx ({ s1 with dev := if s1.dev == .joined then .run else s1.dev })
        let s3 := s2.writeScales j
        let s4 := (if first || t.substituted then s3.takeCkpt j else s3).keepUndo job (s.undoOf j false)
        ((s4.tryReady j).runJob j).pumpAll)

end Sys2Proof.Machine
end

