-- ==== Sys2Proof/Machine/Loss.lean ====
section
/-!
DEFINITION. The Loss Stage: loss jobs, per-row losses and gradients, the loss exchange and the result record (R199 to R207, R210).
-/

namespace Sys2Proof.Machine

/-! ## Scalars on the loss exchange (R204) -/

/-- A value in the class, sign, exponent and 24-bit significand form of R204. -/
def Num.toLit : Num → NumLit
  | .nan => .nan
  | .inf n => .inf n
  | .zero n => .zero n
  | .fin v =>
    let a := rabs v
    let e := ilog2 a - 23
    .fin (decide (v < 0)) (a / pow2 e).floor.toNat e

/-- The 8-byte form of an F24 scalar: [23:0] significand with its leading bit explicit, [35:24] the two's complement exponent and [38:37] the class
of Table 2-7, [36] the sign. -/
def litWord : NumLit → Nat
  | .nan => 3 * 2 ^ 37
  | .inf n => 2 * 2 ^ 37 + n.toNat * 2 ^ 36
  | .zero n => n.toNat * 2 ^ 36
  | .fin n sig e => 2 ^ 37 + n.toNat * 2 ^ 36 + ((e + 23) % 4096).toNat * 2 ^ 24 + sig % 2 ^ 24

/-- The scalar that an 8-byte form holds. -/
def wordLit (w : Nat) : NumLit :=
  let n := w.testBit 36
  match w / 2 ^ 37 % 4 with
  | 0 => .zero n
  | 1 =>
    let e : Nat := w / 2 ^ 24 % 4096
    .fin n (w % 2 ^ 24) ((if e < 2048 then (e : Int) else e - 4096) - 23)
  | 2 => .inf n
  | _ => .nan

/-- The 32 bytes of a loss-exchange record (Table 7-9). -/
def exchBytes (x : LossExch) : List Byte :=
  let l := match x with
    | .maxima u z t st => natLe 8 (litWord u) ++ natLe 8 (litWord z) ++ natLe 8 (litWord t) ++ [st]
    | .sums q s p => natLe 8 (litWord q) ++ natLe 8 (litWord s) ++ natLe 8 (litWord p)
    | .partials k c st => natLe 8 (litWord k) ++ natLe 8 (litWord c) ++ [st]
  l ++ List.replicate (32 - l.length) 0

/-! ## Helpers of loss_row (R202) -/

/-- ex(x, M). -/
def exV (canon : Bool) (x m : Num) : Num :=
  if x == .inf true then .zero false
  else if m == .inf false then (if x == .inf false then .one else .zero false)
  else expV canon (sub24 x m)

/-- lx(x, M). -/
def lxV (x m : Num) : Num :=
  if x == .inf true then .inf true
  else if m == .inf false then (if x == .inf false then .zero false else .inf true)
  else sub24 x m

/-- term(p, lp, lq). -/
def klTerm (p lp lq : Num) : Num :=
  if p.isZero then .zero false
  else if lq == .inf true then .inf false
  else mul24 p (sub24 lp lq)

/-- The teacher value of column j of a segment, where the packet selects it. -/
def LossSeg.teach (g : LossSeg) (j : Nat) : Option Num :=
  match g.t with
  | .full t => t[j]?
  | .topk ps _ => (ps.find? fun (i, _) => i == g.col0 + j).map (·.2)

/-- The residual of a TOPK segment. -/
def LossSeg.rlse (g : LossSeg) : Option Num :=
  match g.t with
  | .full _ => none
  | .topk _ r => some r

/-- Every teacher value of a packet, the residual among them. -/
def LossSeg.teachAll (g : LossSeg) : List Num :=
  match g.t with
  | .full t => t
  | .topk ps r => ps.map (·.2) ++ [r]

/-- Scaled student logits of a segment. -/
def LossSeg.us (g : LossSeg) (invt : Num) : List Num := g.z.map fun z => mul24 z invt

def maxNum (l : List Num) : Num := l.foldl (fun m x => if m.isNan || x.isNan then .nan else vMax m x) (.inf true)

/-- Parameters of a loss record as numbers. -/
structure LossPar where
  canon : Bool
  lam : Num
  invN : Num
  invT : Num
  aKl : Num
  aCe : Num
deriving DecidableEq, Repr

def LossPar.ceOn (p : LossPar) : Bool := !p.aCe.isZero

/-- Sum of per-segment folds in ascending COL0 (R152, R202). -/
def foldSegs (l : List (Option Num)) : Option Num := l.foldl combineSlots none

/-- Exchange 1 of this device (Table 7-9). -/
def ownMaxima (p : LossPar) (row : LossRowSt) : LossExch :=
  let zs := row.segs.flatMap LossSeg.z
  let st := row.segs.foldl (fun s g => s ||| g.status) 0
  let nan := zs.any Num.isNan
  let inv := row.segs.any fun g => g.rlse == some (.inf false)
  let st1 := st ||| (if nan then stNan else 0) ||| (if inv then stInvalid else 0)
  .maxima (maxNum (row.segs.flatMap fun g => g.us p.invT)).toLit (maxNum zs).toLit (maxNum (row.segs.flatMap LossSeg.teachAll)).toLit
    (BitVec.ofNat 8 st1)

/-- A row's outcome once exchange 1 is complete (R203), with the maxima of the group; the others say whether a maximum of teacher or student is
+inf (Table 7-8). -/
inductive RowClass where
  | nan (posInf : Bool)
  | invalid (posInf : Bool)
  | empty (posInf : Bool)
  | ordinary (mu mz mt : Num)
deriving DecidableEq, Repr

/-- POSINF (Table 7-8, R203). -/
def posInfOf (mu mt : Num) : Bool := mt == .inf false || mu == .inf false

def classify (x1 : List (Nat × LossExch)) : RowClass :=
  let ms := x1.filterMap fun e => match e.2 with | .maxima u z t st => some (Num.ofLit u, Num.ofLit z, Num.ofLit t, st.toNat) | _ => none
  let st := ms.foldl (fun s (_, _, _, x) => s ||| x) 0
  let mu := maxNum (ms.map fun (u, _, _, _) => u)
  let mt := maxNum (ms.map fun (_, _, t, _) => t)
  if st &&& stNan != 0 then .nan (posInfOf mu mt)
  else if st &&& stInvalid != 0 then .invalid (posInfOf mu mt)
  else if mt == .inf true || mu == .inf true then .empty (posInfOf mu mt)
  else .ordinary mu (maxNum (ms.map fun (_, z, _, _) => z)) mt

/-- Exchange 2 of this device. -/
def ownSums (p : LossPar) (row : LossRowSt) (mu mz mt : Num) : LossExch :=
  let q := foldSegs (row.segs.map fun g => rowSum p.canon ((g.us p.invT).map fun u => (exV p.canon u mu, true)))
  let s1 := if p.ceOn then foldSegs (row.segs.map fun g => rowSum p.canon (g.z.map fun z => (exV p.canon z mz, true))) else none
  let pp := foldSegs (row.segs.map fun g =>
    let sel := rowSum p.canon ((List.range g.z.length).map fun j => match g.teach j with
      | some t => (exV p.canon t mt, true)
      | none => (Num.zero false, false))
    combineSlots sel (g.rlse.map fun r => exV p.canon r mt))
  .sums (q.getD (.zero false)).toLit (s1.getD (.zero false)).toLit (pp.getD (.zero false)).toLit

/-- The folds Q, S1 and P over the group, devices in ascending address. -/
def groupSums (x2 : List (Nat × LossExch)) : Num × Num × Num :=
  x2.foldl (fun (acc : Option Num × Option Num × Option Num) e => match e.2 with
    | .sums q s p => (combineSlots acc.1 (some (Num.ofLit q)), combineSlots acc.2.1 (some (Num.ofLit s)), combineSlots acc.2.2 (some (Num.ofLit p)))
    | _ => acc) (none, none, none)
  |> fun (q, s, p) => (q.getD (.zero false), s.getD (.zero false), p.getD (.zero false))

/-- Gradients of one segment and its KL partial. -/
def segGrad (p : LossPar) (g : LossSeg) (label : Option Nat) (mu mz mt q s1 pp : Num) : List Num × Option Num :=
  let us := g.us p.invT
  let lq := logV p.canon q
  let lp := logV p.canon pp
  let rest := (List.range g.z.length).map fun j => (g.teach j).isNone
  let qr := (rowSum p.canon ((us.zip rest).map fun (u, r) => (if r then exV p.canon u mu else .zero false, r))).getD (.zero false)
  let pr := match g.rlse with | some r => divV p.canon (exV p.canon r mt) pp | none => .zero false
  let sc := mul24 p.lam p.invN
  let cols := (List.range g.z.length).map fun j =>
    let u := us.getD j .nan
    let e := exV p.canon u mu
    let qq := divV p.canon e q
    let pt := match g.teach j with
      | some t => divV p.canon (exV p.canon t mt) pp
      | none => if qr.isZero then .zero false else divV p.canon (mul24 e pr) qr
    let s := if p.ceOn then divV p.canon (exV p.canon (g.z.getD j .nan) mz) s1 else .zero false
    let h : Num := if label == some (g.col0 + j) then .one else .zero false
    let gk := mul24 p.aKl (mul24 p.invT (sub24 qq pt))
    let gc := mul24 p.aCe (sub24 s h)
    let kl := match g.teach j with
      | some t => (klTerm pt (sub24 (lxV t mt) lp) (sub24 (lxV u mu) lq), true)
      | none => (Num.zero false, false)
    (mul24 sc (add24 gk gc), kl)
  let sel := rowSum p.canon (cols.map (·.2))
  let res := g.rlse.map fun r => klTerm pr (sub24 (lxV r mt) lp) (sub24 (logV p.canon qr) lq)
  (cols.map (·.1), combineSlots sel res)

/-- Gradients of every segment, and exchange 3 of this device. -/
def rowGrad (p : LossPar) (row : LossRowSt) (mu mz mt q s1 pp : Num) : List (List Num) × LossExch :=
  let gs := row.segs.map fun g => segGrad p g row.label mu mz mt q s1 pp
  let kl := (foldSegs (gs.map (·.2))).getD (.zero false)
  let ce : Num := match row.label with
    | none => .zero false
    | some y => match row.segs.find? fun g => decide (g.col0 ≤ y) && decide (y < g.col0 + g.z.length) with
      | none => .zero false
      | some g => if p.ceOn then (sub24 (lxV (g.z.getD (y - g.col0) .nan) mz) (logV p.canon s1)).neg else .zero false
  (gs.map (·.1), .partials kl.toLit ce.toLit (if row.oob then 16 else 0))

/-- The row loss on the group's first device. -/
def rowLoss (p : LossPar) (x3 : List (Nat × LossExch)) : Num :=
  let (kl, ce) := x3.foldl (fun (acc : Option Num × Option Num) e => match e.2 with
    | .partials k c _ => (combineSlots acc.1 (some (Num.ofLit k)), combineSlots acc.2 (some (Num.ofLit c)))
    | _ => acc) (none, none)
  let w (a : Num) (x : Option Num) : Num := if a.isZero then .zero false else (Num.mulX a (x.getD (.zero false))).getD .nan
  match Num.addX (w p.aKl kl) (w p.aCe ce) with
  | some z => f24 z
  | none => .nan

/-! ## Hidden rows (R205) -/

/-- hidden_row: gradients by segment and the loss, or the outcome that decides the row. -/
def hiddenRow (p : LossPar) (cos : Bool) (d : Nat) (row : LossRowSt) : Except RowClass (List (List Num) × Num) :=
  let prs := row.segs.map fun g => (g.z.zip g.teachAll)
  let fold (f : Num × Num → Num) : Num := (foldSegs (prs.map fun l => rowSum p.canon (l.map fun x => (f x, true)))).getD (.zero false)
  let sc := mul24 p.lam p.invN
  let all := prs.flatMap id
  let dn := Num.ofRat (d : Nat)
  let pinf := posInfOf (maxNum (all.map (·.1))) (maxNum (all.map (·.2)))
  if all.any (fun (a, b) => a.isNan || b.isNan) then .error (.nan pinf)
  else if all.any (fun (a, b) => a.isInf || b.isInf) then .error (.invalid pinf)
  else if cos then
    let a := fold fun (x, _) => mul24 x x
    let b := fold fun (_, h) => mul24 h h
    if a.isZero || b.isZero then .error (.empty false)
    else
      let c0 := fold fun (x, h) => mul24 x h
      let rs := rsqrtV p.canon (mul24 a b)
      let c := mul24 c0 rs
      .ok (prs.map fun l => l.map fun (x, h) => mul24 sc (mul24 p.aKl (sub24 (divV p.canon (mul24 c x) a) (mul24 h rs))),
           mul24 p.aKl (sub24 .one c))
  else
    let e2 := fold fun (x, h) => let e := sub24 x h; mul24 e e
    .ok (prs.map fun l => l.map fun (x, h) => mul24 sc (divV p.canon (mul24 (mul24 (.fin 2) p.aKl) (sub24 x h)) dn),
         divV p.canon (mul24 p.aKl e2) dn)

/-! ## Jobs -/

def State.lossRec (s : State) (id : Nat) : Option LossRec := s.plan.bind fun p => p.losses.find? fun r => r.id == id

def State.lossPar (s : State) (r : LossRec) (j : LossJob) : LossPar :=
  { canon := s.canonical r.ctx, lam := j.lam, invN := decode .fp32 r.invN.toNat, invT := decode .fp32 r.invT.toNat,
    aKl := decode .fp32 r.aKl.toNat, aCe := decode .fp32 r.aCe.toNat }

/-- Devices of a record's loss-exchange group, in ascending address: this one alone when GROUP is 0. -/
def State.lossGroup (s : State) (r : LossRec) : List Nat := if r.group.isEmpty then [s.addr] else r.group

/-- A descriptor-pool entry of a context on a core as the plan loads it. -/
def State.poolEntry (s : State) (a : Site) (i : Nat) : TileDesc := ((s.prog a).map fun p => p.pool.getD i {}).getD {}

/-- The descriptor of a segment's student rows and of its gradient rows. -/
def State.segZ (s : State) (r : LossRec) (g : SegRec) : TileDesc := s.poolEntry ⟨Config.numTCores + g.score, r.ctx⟩ g.zdesc
def State.segG (s : State) (r : LossRec) (g : SegRec) : TileDesc := s.poolEntry ⟨Config.numTCores + g.score, r.ctx⟩ g.gdesc

/-- The packet in a slot as its row status, POS, COL0 and teacher values. -/
def State.packet (s : State) (l : LandRec) (rc : Recipe) (n : Nat) : Nat × Nat × Nat × Teacher :=
  let a := scrAddr l.core (l.slotAddr n)
  let m := s.mem
  let vf := (fmtdFmt rc.vfmt).getD .fp32
  let e := vf.width / 8
  let t : Teacher := match rc.kind with
    | .topk =>
      let io := a + 32
      let vo := io + (4 * rc.k + 31) / 32 * 32
      let ps := (List.range rc.k).map fun i => (memGetLe m (io + 4 * i) 4, decode vf (memGetLe m (vo + e * i) e))
      .topk (ps.filter fun (i, _) => i != 0xFFFFFFFF) (decode .fp32 (memGetLe m (a + 24) 4))
    | _ => .full ((List.range rc.width).map fun j => decode vf (memGetLe m (a + 32 + e * j) e))
  (memGetLe m (a + 3) 1, memGetLe m (a + 8) 8 % 2 ^ 50, memGetLe m (a + 16) 4, t)

/-- Row r of a job: its segments, each with the student row of its SCORE, or none when a packet's POS or COL0 differs from what the row and
segment expect (R200). -/
def State.lossRow (s : State) (r : LossRec) (row : Nat) : Option (List LossSeg) :=
  r.segs.foldr (fun g acc => match acc, s.landRec g.buffer, s.recipe g.buffer with
    | some l, some ld, some rc =>
      let zd := s.segZ r g
      let lrow := zd.lrow.toNat
      let (status, pos, col0, t) := s.packet ld rc ((s.buf g.buffer).taken + row)
      if pos == (zd.indexBase.toNat / lrow + row) % 2 ^ 50 && col0 == zd.indexBase.toNat % lrow then
        some ({ col0, z := (List.range zd.cols).map (fun c => s.elem (Config.numTCores + g.score) zd row c), t, status } :: l)
      else none
    | _, _, _ => none) (some [])

/-- The label of a row: none for no label, and whether it is out of range (Table 7-8). DESIGN CHOICE (log entry 112): a row whose position lies past
the positions of an instance takes the label at the position modulo their number. -/
def State.labelOf (s : State) (r : LossRec) (row mb fslot : Nat) : Option Nat × Bool :=
  if (decode .fp32 r.aCe.toNat).isZero || r.kind != .output then (none, false)
  else match s.plan.bind (fun p => p.labels.find? fun x => x.id == r.labels), r.segs.head? with
    | some lab, some g =>
      let zd := s.segZ r g
      let pos := zd.indexBase.toNat / zd.lrow.toNat + row
      let v := memGetLe s.mem (s.scratchAt lab.off + (fslot * lab.positions + pos % lab.positions) * 4) 4
      let _ := mb
      if v = 0xFFFFFFFF then (none, false) else if r.vocab ≤ v then (none, true) else (some v, false)
    | _, _ => (none, false)

/-- Sending a record of this device to the others of the group, or exchange 3 to its first. -/
def State.sendLoss (s : State) (r : LossRec) (mb row : Nat) (x : LossExch) : State :=
  let g := s.lossGroup r
  let tos := match x with
    | .partials .. => (g.head?.toList).filter (· != s.addr)
    | _ => g.filter (· != s.addr)
  s.send (tos.map fun d => .lossExch d r.id mb row x)

/-- Inserting a record by ascending device. -/
def putExch (l : List (Nat × LossExch)) (d : Nat) (x : LossExch) : List (Nat × LossExch) := aput l d x

/-- A row advances: when exchange 1 is complete the sums go out; when exchange 2 is complete the partials do (R202, R204). -/
def State.advanceRow (s : State) (r : LossRec) (j : LossJob) (i : Nat) (row : LossRowSt) : State × LossRowSt :=
  let g := s.lossGroup r
  let p := s.lossPar r j
  let full (l : List (Nat × LossExch)) : Bool := g.all fun d => (aget l d).isSome
  if r.kind != .output then (s, row) else
  match full row.x1, classify row.x1 with
  | true, .ordinary mu mz mt =>
    let (s, row) := if (aget row.x2 s.addr).isNone then
        let x := ownSums p row mu mz mt
        (s.sendLoss r j.mb i x, { row with x2 := putExch row.x2 s.addr x })
      else (s, row)
    if full row.x2 && (aget row.x3 s.addr).isNone then
      let (q, s1, pp) := groupSums row.x2
      let (_, x) := rowGrad p row mu mz mt q s1 pp
      (s.sendLoss r j.mb i x, { row with x3 := putExch row.x3 s.addr x })
    else (s, row)
  | _, _ => (s, row)

/-- Whether a row has every exchange it needs on this device. -/
def State.rowReady (s : State) (r : LossRec) (row : LossRowSt) : Bool :=
  let g := s.lossGroup r
  let full (l : List (Nat × LossExch)) : Bool := g.all fun d => (aget l d).isSome
  if r.kind != .output then true else
  full row.x1 && (match classify row.x1 with
    | .ordinary _ _ _ => full row.x2 && (g.head? != some s.addr || full row.x3)
    | _ => true)

/-- A record of another device reaches an open job's row (R204). -/
def State.takeExch (s : State) (r : LossRec) (k row origin : Nat) (x : LossExch) : State :=
  match s.loss[k]? with
  | some j => match j.rows[row]? with
    | some rw =>
      let rw1 := match x with
        | .maxima .. => { rw with x1 := putExch rw.x1 origin x }
        | .sums .. => { rw with x2 := putExch rw.x2 origin x }
        | .partials .. => { rw with x3 := putExch rw.x3 origin x }
      let (s1, rw2) := s.advanceRow r j row rw1
      { s1 with loss := s1.loss.set k { j with rows := j.rows.set row rw2 } }
    | none => s
  | none => s

/-- Records that came before their job opened reach it, so that their order of arrival does not matter (R204). -/
def State.takeEarly (s : State) (r : LossRec) (mb k : Nat) : State :=
  let mine (e : EarlyExch) : Bool := e.id == r.id && e.mb == mb
  (s.lossEarly.filter mine).foldl (fun (t : State) e => t.takeExch r k e.row e.origin e.body)
    { s with lossEarly := s.lossEarly.filter fun e => !mine e }

/-- Opening a job (R199, R200): rows read with their packets and labels, exchange 1 sent. -/
def State.openLoss (s : State) (r : LossRec) (step mb : Nat) (rows : List (List LossSeg)) : State :=
  let m := (s.plan.map Plan.microBatches).getD 1
  let fslot := (step * m + mb) % 64
  let j0 : LossJob := { id := r.id, step, mb, lam := .fin (pow2 (s.ctxJob r.ctx).e), since := s.beat, rows := [] }
  let p := s.lossPar r j0
  let (s1, rs) := rows.zipIdx.foldl (fun (acc : State × List LossRowSt) (segs, i) =>
    let (label, oob) := s.labelOf r i mb fslot
    let row : LossRowSt := { segs, label, oob }
    if r.kind == .output then
      let x := ownMaxima p row
      let t := acc.1.sendLoss r mb i x
      let (t, row) := t.advanceRow r j0 i { row with x1 := putExch [] s.addr x }
      (t, acc.2 ++ [row])
    else (acc.1, acc.2 ++ [row])) (s, [])
  let s2 := r.segs.foldl (fun (t : State) g => let b := t.buf g.buffer; t.setBuf g.buffer { b with taken := b.taken + r.rows }) s1
  ({ s2 with loss := s2.loss ++ [{ j0 with rows := rs }] } : State).takeEarly r mb s2.loss.length

/-- Whether every packet that a job of a loss record reads is in its slot (R199). -/
def State.lossArrived (s : State) (r : LossRec) : Bool := r.segs.all fun g => decide ((s.buf g.buffer).taken + r.rows ≤ (s.buf g.buffer).arrived)

/-- Whether a job of an LC context could open: a BE job then opens after it (R340). -/
def State.lcLossWaits (s : State) : Bool := ((s.plan.map Plan.losses).getD []).any fun r => !s.isBE r.ctx && s.lossArrived r

/-- LOSS_JOB_START (R199): a loss or acceptance job opens once fewer than 8 are open, of which BE jobs take at most 6 and wait for LC
jobs (R340), and all its packets are in their slots; a packet of another position or column faults STEM_SEQUENCE for the consuming context (R210). -/
def execLossJobStart (id step mb : Nat) (s : State) : Host.Outcome State Fault Refusal :=
  .next (match s.lossRec id with
    | none => s
    | some r =>
      let be := s.loss.filter fun j => ((s.lossRec j.id).map fun q => s.isBE q.ctx).getD false
      if s.loss.length ≥ 8 || (s.isBE r.ctx && (decide (6 ≤ be.length) || s.lcLossWaits)) || !s.lossArrived r then s
      else
        let rows := (List.range r.rows).map fun i => s.lossRow r i
        if rows.any Option.isNone then (s.faultCtx 0x6011 r.ctx [id]).pumpAll
        else s.openLoss r step mb (rows.filterMap fun x => x))

/-- LOSS_EXCHANGE (R204): a per-row record of another device of the group arrives; before its job is open here, it is held. -/
def execLossExchange (id mb row origin : Nat) (x : LossExch) (s : State) : Host.Outcome State Fault Refusal :=
  .next (match s.lossRec id with
    | none => s
    | some r =>
      if !(s.lossGroup r).contains origin then s
      else match s.loss.findIdx? (fun j => j.id == id && j.mb == mb) with
        | some k => s.takeExch r k row origin x
        | none => { s with lossEarly := s.lossEarly ++ [⟨id, mb, row, origin, x⟩] })

/-! ## Completion (R199, R203, R207) -/

/-- What a row gives: gradients by segment, its loss where it is decided here, status byte, whether it counts, and its flag. -/
structure RowDone where
  grads : List (List Num)
  loss : Num
  status : Nat
  counted : Bool
  fl : Flags
deriving DecidableEq, Repr

/-- A row decided without gradients of its own (R203). -/
def flatRow (row : LossRowSt) (v : Num) (status : Nat) (counted : Bool) (fl : Flags) : RowDone :=
  { grads := row.segs.map fun g => g.z.map fun _ => v, loss := v, status, counted, fl }

def rowOfClass (row : LossRowSt) (base : Nat) : RowClass → RowDone
  | .nan p => flatRow row .nan (base + 4 + 2 * p.toNat) true flNanIn
  | .invalid p => flatRow row .nan (base + 8 + 2 * p.toNat) true flInvalid
  | .empty p => flatRow row (.zero false) (base + 1 + 2 * p.toNat) false 0
  | .ordinary mu _ mt => flatRow row (.zero false) (base + 2 * (posInfOf mu mt).toNat) false 0

/-- The outcome of a row that is ready. -/
def State.rowDone (s : State) (r : LossRec) (j : LossJob) (row : LossRowSt) : RowDone :=
  let p := s.lossPar r j
  let base := if row.oob then 16 else 0
  match r.kind with
  | .output => match classify row.x1 with
    | .ordinary mu mz mt =>
      let (q, s1, pp) := groupSums row.x2
      let (gs, _) := rowGrad p row mu mz mt q s1 pp
      let l := rowLoss p row.x3
      { grads := gs, loss := l, counted := true, fl := 0,
        status := base + 2 * (posInfOf mu mt).toNat + (if l == .inf false then 32 else 0) }
    | c => rowOfClass row base c
  | .accept => flatRow row (.zero false) 0 false 0
  | k => match hiddenRow p (k == .hiddenCos) r.vocab row with
    | .error c => rowOfClass row 0 c
    | .ok (gs, l) => { grads := gs, loss := l, status := if l == .inf false then 32 else 0, counted := true, fl := 0 }

/-- Writing a row's gradients: answers the state and the flags of the roundings. -/
def State.writeGrads (s : State) (r : LossRec) (step i : Nat) (d : RowDone) : State × Flags :=
  (r.segs.zip d.grads).foldl (fun (st : State × Flags) (g, vs) =>
    let gd := s.segG r g
    let (t, fl) := st.1.storeRow (Config.numTCores + g.score) gd (st.1.srCtx gd 0x0003 step (r.ctx, step)) i (vs.zipIdx.map fun (v, c) => (c, v))
    (t, if d.counted && d.fl == 0 then st.2 ||| fl else st.2)) (s, d.fl)

/-- LOSS_SUM (Table 7-10): the F24 sum of the counted row losses, in row order (log entry 88), rounded to FP32. -/
def lossSum (ds : List RowDone) : Enc :=
  roundRne .fp32 ((foldSegs ((ds.filter RowDone.counted).map fun d => some d.loss)).getD (.zero false))

/-- The result record (Table 7-10). -/
def resultBytes (id mb : Nat) (ds : List RowDone) : List Byte :=
  let counted := ds.filter RowDone.counted
  natLe 2 id ++ natLe 2 ds.length ++ natLe 4 mb ++ natLe 4 (lossSum ds).bits ++ natLe 4 counted.length
    ++ natLe 2 (ds.filter fun d => d.status &&& 12 != 0).length ++ natLe 2 (ds.filter fun d => d.status &&& 32 != 0).length
    ++ List.replicate 12 0 ++ ds.map fun d => BitVec.ofNat 8 d.status

/-- Distinct S-cores of a record's segments. -/
def LossRec.cores (r : LossRec) : List Nat :=
  r.segs.foldl (fun l g => let n := Config.numTCores + g.score; if l.contains n then l else l ++ [n]) []

/-- The steps of completion of R199, in order. -/
def State.completeLoss (s : State) (r : LossRec) (j : LossJob) : State :=
  let ds := j.rows.map fun row => s.rowDone r j row
  let (s1, fl) := ds.zipIdx.foldl (fun (st : State × Flags) (d, i) =>
    let (t, f) := st.1.writeGrads r j.step i d
    (t, st.2 ||| f)) (s, 0)
  let first : Bool := (s.lossGroup r).head? == some s.addr
  let s2 := if first then s1.scratchPut r.ctx (s1.scratchAt r.resultOff) (resultBytes r.id j.mb ds) else s1
  let s3 := s2.postFlags r.ctx (if first then fl ||| (lossSum ds).fl else fl)
  let s4 := r.segs.foldl (fun (t : State) g => t.freeSlots g.buffer r.rows) s3
  (LossRec.cores r).foldl (fun (t : State) n => t.bump ⟨n, r.ctx⟩ r.doneCnt 1) s4

/-- The open jobs that are the oldest of their class, LC first (R340), with their index and record. -/
def State.lossHeads (s : State) : List (Nat × LossJob × LossRec) :=
  let l := s.loss.zipIdx.filterMap fun (j, i) => (s.lossRec j.id).map fun r => (i, j, r)
  ((l.find? fun x => !s.isBE x.2.2.ctx).toList) ++ (l.find? fun x => s.isBE x.2.2.ctx).toList

/-- LOSS_JOB_COMPLETE (R199, R340): the oldest open loss job of a class completes once its rows have every exchange they need. Acceptance
jobs complete by ACCEPTANCE_JOB. -/
def execLossJobComplete (s : State) : Host.Outcome State Fault Refusal :=
  .next (match s.lossHeads.find? fun (_, j, r) => r.kind != .accept && j.rows.all fun row => s.rowReady r row with
    | none => s
    | some (i, j, r) => (({ s with loss := s.loss.eraseIdx i }).completeLoss r j).raiseEvent r.ctx (.loss r.id)
        [BitVec.ofNat 32 (j.step % 2 ^ 20 * 2 ^ 12 + j.mb % 2 ^ 12)] .plain)

/-- The open jobs whose wait on the exchange is beyond the wait limit of their context (R129, R204), in queue order. DESIGN CHOICE (log entry 111):
the wait of all three exchanges counts from the job's opening. -/
def State.lossLate (s : State) : List (LossJob × LossRec) :=
  s.loss.filterMap fun j => (s.lossRec j.id).bind fun r =>
    let limit := ((s.ctxRec r.ctx).map CtxRec.waitLimit).getD 0
    if !(j.rows.all fun row => s.rowReady r row) && decide (j.since + limit ≤ s.beat) then some (j, r) else none

/-- Each such wait faults its context WAIT_EXPIRED, at the first job of it that is late (R204, R210). -/
def State.lossExpired (s : State) : State :=
  let late := s.lossLate
  let ctxs := (late.map fun x => x.2.ctx).eraseDups
  if late.isEmpty then s
  else (ctxs.foldl (fun (t : State) c => t.faultCtx 0x6003 c ((late.find? fun x => x.2.ctx == c).toList.map fun x => x.1.id)) s).pumpAll

/-- WAIT_EXPIRED: a context's WAIT or WAITB (R129, R345), or with no site the Loss Stage's wait for exchange records (R204, R210). -/
def execWaitExpired (at_ : Option Site) (s : State) : Host.Outcome State Fault Refusal :=
  match at_ with
  | some a => coreWaitExpired a s
  | none => .next s.lossExpired

end Sys2Proof.Machine
end

