-- ==== Sys2Proof/Machine/Sampling.lean ====
section
/-!
DEFINITION. Masks, sampling and the acceptance of drafts, over values (R307 to R313).
-/

namespace Sys2Proof.Machine

/-! ## Masks (R307, R308) -/

/-- The next-state value ACCEPT. -/
def maskAccept : Nat := 0xFFFFFFFE

end Sys2Proof.Machine

namespace Sys2Proof
open Machine

/-- Tokens that a mask allows in state σ. -/
def MaskObj.allowed (m : MaskObj) (sigma : Nat) : List Nat :=
  if m.automaton then ((m.states[sigma]?).bind fun x => m.bitmaps[x.mask]?).getD [] else (m.bitmaps.head?).getD []

/-- The state after a token. -/
def MaskObj.next (m : MaskObj) (sigma tok : Nat) : Nat :=
  if m.automaton then
    match m.states[sigma]? with
    | some x => ((x.exc.find? fun e => e.1 == tok).map (·.2)).getD x.dflt
    | none => sigma
  else sigma

/-- The exception entries of a state (Table 11-5): n pairs (TOKEN, NEXT) from the byte offset `at_`. -/
def maskExc (b : List Byte) (at_ n : Nat) : List (Nat × Nat) :=
  (List.range n).map fun i => (leField b (at_ + 8 * i) 4, leField b (at_ + 8 * i + 4) 4)

/-- The state record at the byte offset `at_` (Table 11-5); none when its entries leave the object or their tokens do not ascend strictly. -/
def maskState (b : List Byte) (excOff at_ : Nat) : Option MaskState :=
  let n := leField b (at_ + 8) 4
  let o := excOff + 8 * leField b (at_ + 12) 4
  if b.length < o + 8 * n then none
  else
    let exc := maskExc b o n
    if (exc.zip (exc.drop 1)).any fun (x, y) => decide (y.1 ≤ x.1) then none
    else some { mask := leField b at_ 4, dflt := leField b (at_ + 4) 4, exc }

/-- The tokens that a bitmap allows (R307). -/
def maskBits (b : List Byte) (at_ vocab : Nat) : List Nat := (List.range vocab).filter fun j => (b.getD (at_ + j / 8) 0).getLsbD (j % 8)

/-- The mask object that bytes spell (Tables 11-4, 11-5); none where they break the layout: a reserved value, or a part outside the object. -/
def parseMask (b : List Byte) : Option MaskObj :=
  let g (o : Nat) : Nat := leField b o 4
  let kind := leField b 0 1
  let vocab := g 4
  let ns := g 8
  let nm := g 12
  let row := ((vocab + 7) / 8 + 31) / 32 * 32
  if b.length < 32 || (kind != 1 && kind != 2) || leField b 1 3 != 0 || g 28 % 32 != 0 || decide (65536 < ns) || decide (4096 < nm)
      || decide (b.length < g 20 + 16 * ns) || decide (b.length < g 28 + row * nm) then none
  else (((List.range ns).mapM fun i => maskState b (g 24) (g 20 + 16 * i)).map fun states =>
    { automaton := kind == 2, vocab, start := g 16, states, bitmaps := (List.range nm).map fun i => maskBits b (g 28 + row * i) vocab })

/-- Whether an object obeys R307 and R308 for a vocabulary. -/
def MaskObj.ok (m : MaskObj) (vocab : Nat) : Bool :=
  let n := m.states.length
  let good (x : Nat) : Bool := x == maskAccept || decide (x < n)
  m.vocab == vocab &&
    (if m.automaton then
      decide (1 ≤ n) && decide (n ≤ 65536) && decide (1 ≤ m.bitmaps.length) && decide (m.bitmaps.length ≤ 4096) && decide (m.start < n)
        && m.states.all fun x => decide (x.mask < m.bitmaps.length) && good x.dflt && x.exc.all fun e => good e.2
    else n == 0 && m.bitmaps.length == 1)

end Sys2Proof

namespace Sys2Proof.Machine

/-- A row with its kept elements marked: every element without a mask. -/
def maskRow (m : Option MaskObj) (sigma : Nat) (row : List Num) : List (Num × Bool) :=
  match m with
  | none => row.map fun x => (x, true)
  | some o => let a := o.allowed sigma; row.zipIdx.map fun (x, j) => (x, a.contains j)

def maskNext (m : Option MaskObj) (sigma tok : Nat) : Nat :=
  match m with
  | none => sigma
  | some o => o.next sigma tok

/-! ## Draws (R309) -/

/-- The acceptance uniform of position t. -/
def acceptU (t seed : Nat) : Rat := mkRat (srWord 4 1 t 0 seed / 2 ^ 8) (2 ^ 24)
/-- The per-token value U_j. -/
def tokenU (role t j seed : Nat) : Rat := mkRat (2 * (srWord 4 role t j seed / 2 ^ 8) + 1) (2 ^ 25)
/-- gum of R310, with the correctly rounded functions. -/
def gum (t role j seed : Nat) : Num := (logV true (logV true (.fin (tokenU role t j seed))).neg).neg

/-! ## Sampling (R310) -/

inductive Sampled where
  | tok (j : Nat)
  | empty
  | nonfinite
deriving DecidableEq, Repr

/-- The index with the largest key, ties to the lower index. -/
def argMax : List (Nat × Num) → Option Nat
  | [] => none
  | (j, x) :: r => some (r.foldl (fun (b : Nat × Num) (k, y) => if Num.lt b.2 y then (k, y) else b) (j, x)).1

/-- sample(x, σ, v, t, role). Among kept +inf elements the draw alone decides (log entry 9). -/
def sampleRow (greedy : Bool) (v : Num) (seed t role : Nat) (row : List (Num × Bool)) : Sampled :=
  let kept := row.zipIdx.filterMap fun ((x, k), j) => if k then some (j, x) else none
  let live := kept.filter fun e => e.2 != .inf true
  if kept.any fun e => e.2.isNan then .nonfinite
  else
    let tops := live.filter fun e => e.2 == .inf false
    let keyed := if greedy then live
      else if tops.isEmpty then live.map fun (j, x) => (j, add24 (mul24 x v) (gum t role j seed))
      else tops.map fun (j, _) => (j, gum t role j seed)
    match argMax keyed with
    | some j => .tok j
    | none => .empty

/-- probs(x, σ, v). -/
def probs (v : Num) (row : List (Num × Bool)) : List Num := (softmaxRow true false v row).ys

/-! ## Acceptance (R311, R312) -/

/-- Ring flags of an emitted token (Table 11-7). -/
def fDrafted : Nat := 1
def fCorrection : Nat := 2
def fBonus : Nat := 4

def emitSample (x : Sampled) (fl : Nat) : List (Nat × Nat) × Option Nat :=
  match x with
  | .tok j => ([(j, fl)], none)
  | _ => ([], some 0x2141)

/-- Whether a row has no kept element other than −inf. -/
def rowEmpty (row : List (Num × Bool)) : Bool := row.all fun (x, k) => !k || x == .inf true

/-- accept_dist and its greedy form from position t on: drafts with their student rows, and the teacher rows; the tokens emitted and the code
of an EMPTY row. -/
def acceptFrom (greedy : Bool) (v : Num) (seed : Nat) : Nat → List Nat → List (List (Num × Bool)) → List (List (Num × Bool)) → List (Nat × Nat) × Option Nat
  | t, d :: ds, z :: zs, y :: ys =>
    if rowEmpty y then ([], some 0x2141)
    else
      let go : List (Nat × Nat) × Option Nat :=
        let (l, c) := acceptFrom greedy v seed (t + 1) ds zs ys
        ((d, fDrafted) :: l, c)
      if greedy then
        match sampleRow true v seed t 2 y with
        | .tok j => if j = d then go else ([(j, fCorrection)], none)
        | _ => ([], some 0x2141)
      else
        let q := probs v z
        let p := probs v y
        let at_ (l : List Num) (j : Nat) : Rat := (l.getD j (.zero false)).val
        if acceptU t seed * at_ q d < at_ p d then go
        else
          let w := (p.zip q).zipIdx.filterMap fun ((pj, qj), j) =>
            if (y.getD j (.zero false, false)).2 && Num.lt qj pj then some (j, sub24 pj qj) else none
          if w.isEmpty then emitSample (sampleRow false v seed t 2 y) fCorrection
          else match argMax (w.map fun (j, x) => (j, add24 (logV true x) (gum t 2 j seed))) with
            | some j => ([(j, fCorrection)], none)
            | none => ([], some 0x2141)
  | t, _, _, y :: _ => emitSample (sampleRow greedy v seed t 2 y) fBonus
  | _, _, _, [] => ([], none)

/-- Whether a row's kept set holds a NaN. -/
def rowNan (row : List (Num × Bool)) : Bool := row.any fun (x, k) => k && x.isNan

/-- A round: nothing is emitted when a row that it reads is NONFINITE. -/
def decideRound (greedy : Bool) (v : Num) (seed p : Nat) (ds : List Nat) (zs ys : List (List (Num × Bool))) : Round :=
  if (zs.take ds.length).any rowNan || (ys.take (ds.length + 1)).any rowNan then { toks := [], code := some 0x2142, nan := true }
  else
    let (l, c) := acceptFrom greedy v seed p ds zs (ys.take (ds.length + 1))
    { toks := l, code := c }

end Sys2Proof.Machine
end

