-- ==== Sys2Proof/Machine/Cellar.lean ====
section
/-!
DEFINITION. The Cellar: KV rows and pages, the summary pool, summaries as bytes, and the pause of a request (R169, R170, R305, R322 to R326,
Tables 6-3 and 11-10).
-/

namespace Sys2Proof.Machine

def fmtdOf (k : KvRec) : Fmt := (fmtdFmt k.fmt).getD .bf16

/-- P: committed positions of the sequence (R304). -/
def ReqSt.committed (x : ReqSt) : Nat := x.base + x.toks.length

/-! ## KV pages (Table 6-3, R170) -/

/-- Offsets, within a page of head dimension d and element format f, of row r of K or V and of its scales. -/
def kvAt (d : Nat) (f : Fmt) (v : Bool) (r : Nat) : Nat × Nat :=
  let rb := d * f.width / 8
  ((if v then 64 * rb else 0) + r * rb, 128 * rb + (if v then 2 * d else 0) + r * (d / 32))

/-- Byte ranges (offset, bytes) of row r within a KV page, from the page's start. -/
def kvRow (k : KvRec) (r : Nat) : List (Nat × Nat) :=
  let f := fmtdOf k
  [false, true].flatMap fun v =>
    let (e, sc) := kvAt k.headDim f v r
    (e, k.headDim * f.width / 8) :: if fmtdBlk k.fmt then [(sc, k.headDim / 32)] else []

/-- Bytes of a page: the smallest multiple of 1,024 that holds it (R169). -/
def kvPageBytes (d : Nat) (f : Fmt) (blk : Bool) : Nat := ((128 * d * f.width / 8 + if blk then 4 * d else 0) + 1023) / 1024 * 1024

/-- The rows of an accepted draft token at position t, the i-th of its round, go from the draft page set into the sequence's (R305). -/
def State.copyRow (s : State) (r : ServeRec) (slot : Nat) (x : ReqSt) (t i : Nat) : State :=
  match aget x.sets (t / 64) with
  | none => s
  | some set =>
    let cellar := s.regionBase .cellar
    let src := cellar + r.draftSetBase + slot * r.psetBytes
    let dst := cellar + r.psetBase + set * r.psetBytes
    ((s.plan.map Plan.kv).getD []).foldl (fun (u : State) k =>
      ((kvRow k i).zip (kvRow k (t % 64))).foldl (fun (v : State) (a, b) =>
        { v with mem := memPutBytes v.mem (dst + k.off + b.1) (memGetBytes v.mem (src + k.off + a.1) a.2) }) u) s

/-! ## Encodings of a summary (R322) -/

/-- The encoding of page `page` of `n` in a summary: the first and last page sets are kept in FP8, the others are FP4 with BLK. -/
def sumFmt (p : ServeRec) (n page : Nat) (k : KvRec) : Fmt × Bool :=
  if page < p.sinkPages || decide (n ≤ page + p.recentPages) then (if fmtdOf k == .bf16 then (.e4m3, true) else (fmtdOf k, fmtdBlk k.fmt))
  else (.e2m1, true)

/-- Bytes of a summary's record and page list, before its pages (R323). -/
def sumHead (n : Nat) : Nat := (128 + 4 * n + 1023) / 1024 * 1024

/-- The KV pages of a plan in the order in which a summary holds them: for each page set, one page for every layer and KV head. -/
def State.kvRecs (s : State) : List KvRec := (s.plan.map Plan.kv).getD []

/-- Where the pages of a summary of n page sets begin, one entry for each page set and KV record. -/
def State.sumPlaces (s : State) (p : ServeRec) (n : Nat) : List (Nat × KvRec × Nat) × Nat :=
  (List.range n).foldl (fun (acc : List (Nat × KvRec × Nat) × Nat) page =>
    s.kvRecs.foldl (fun (a : List (Nat × KvRec × Nat) × Nat) k =>
      let (f, b) := sumFmt p n page k
      (a.1 ++ [(page, k, a.2)], a.2 + kvPageBytes k.headDim f b)) acc) ([], sumHead n)

/-- Page sets of a sequence of `len` positions. -/
def pageSets (len : Nat) : Nat := (len + 63) / 64

/-- Bytes of the summary of a sequence of `len` positions (R322, R323): record and page list, then the pages. -/
def State.sumBytes (s : State) (p : ServeRec) (len : Nat) : Nat := (s.sumPlaces p (pageSets len)).2

/-- Values of row r of the K or V part of the page at address a. -/
def kvValues (m : List Host.Cell) (a d : Nat) (f : Fmt) (blk v : Bool) (r : Nat) : List Num :=
  let (e, sc) := kvAt d f v r
  (List.range d).map fun c =>
    let b := elemBits m (a + e) f c
    if blk then scaled f b (memGet m (a + sc + c / 32)).toNat else decode f b

/-- Storing a row with quantize_block under round to nearest even, its blocks along d. -/
def kvQuantize (m : List Host.Cell) (a d : Nat) (f : Fmt) (v : Bool) (r : Nat) (xs : List Num) : List Host.Cell :=
  let (e, sc) := kvAt d f v r
  (List.range (d / 32)).foldl (fun m b =>
    let (scale, q, _) := quantizeBlock f (fun _ => .rne) ((xs.drop (32 * b)).take 32)
    q.zipIdx.foldl (fun m (bits, i) => putElemBits m (a + e) f (32 * b + i) bits) (memPut m (a + sc + b) (BitVec.ofNat 8 scale))) m

/-- Re-encoding row r of the page at `src` into the page at `dst` (R322): copied where the encodings agree. -/
def kvRecode (src dst : List Host.Cell) (a b d : Nat) (from_ into : Fmt × Bool) (r : Nat) : List Host.Cell :=
  [false, true].foldl (fun m v =>
    let (e, sc) := kvAt d from_.1 v r
    if from_ == into then
      let m1 := memPutBytes m (b + e) (memGetBytes src (a + e) (d * from_.1.width / 8))
      if from_.2 then memPutBytes m1 (b + sc) (memGetBytes src (a + sc) (d / 32)) else m1
    else kvQuantize m b d into.1 v r (kvValues src a d from_.1 from_.2 v r)) dst

/-! ## The summary pool (R324, R325) -/

/-- Parts (offset in the Cellar, bytes) of a context's summary pool in use: its listed summaries, those that requests own, and those being written. A
request that pauses has given up the summary it owns (R324). -/
def State.poolHeld (s : State) (c : Fin 8) : List (Nat × Nat) :=
  let of_ (y : Summary) : List (Nat × Nat) := if y.ctx == c then [(y.at_, y.bytes)] else []
  (s.summaries.flatMap fun (_, y) => of_ y) ++ s.reqs.flatMap fun (_, x) =>
    (if x.ph == .pausing then [] else (x.owned.map of_).getD []) ++ (x.saved.map of_).getD []

/-- The lowest place in a context's summary pool that holds n bytes (log entry 96): none when the pool cannot hold them. -/
def poolPlace (p : ServeRec) (held : List (Nat × Nat)) (n : Nat) : Option Nat :=
  let fits (a : Nat) : Bool := decide (p.summaryBase ≤ a) && decide (a + n ≤ p.summaryBase + p.summaryBytes)
    && held.all fun (b, k) => decide (a + n ≤ b) || decide (b + k ≤ a)
  ((p.summaryBase :: held.map fun (b, k) => b + k).filter fits).foldl (fun (x : Option Nat) a => some (match x with | none => a | some b => min a b)) none

/-! ## Summaries as bytes (R323, Table 11-10) -/

/-- The record of a summary. -/
def sumRecord (y : Summary) : List Byte :=
  natLe 8 y.conv.toNat ++ natLe 8 y.length ++ natLe 4 y.lastToken ++ natLe 1 y.sink ++ natLe 1 y.recent ++ natLe 2 y.adapter ++ natLe 4 y.adapterVer
    ++ List.replicate 4 0 ++ natLe 8 y.keptBeat ++ digestBytes y.planDigest ++ digestBytes y.digest ++ List.replicate 24 0

/-- DIGEST of a summary's bytes: SHA-256 over its page list and its pages. -/
def sumDigest (data : List Byte) (n : Nat) : Digest := Config.sha256 ((data.drop 128).take (4 * n) ++ data.drop (sumHead n))

/-- The summary that bytes spell; its tokens are those that the record does not give (log entry 97). -/
def readSummary (data : List Byte) : Summary :=
  let conv : DWord := BitVec.ofNat 64 (leField data 0 8)
  let length := leField data 8 8
  let last := leField data 16 4
  { conv, length, lastToken := last, sink := leField data 20 1, recent := leField data 21 1, adapter := leField data 22 2, adapterVer := leField data 24 4
    keptBeat := leField data 32 8, planDigest := BitVec.ofNat 256 (beNat ((data.drop 40).take 32)), digest := BitVec.ofNat 256 (beNat ((data.drop 72).take 32))
    bytes := data.length
    toks := ((List.range (min length 1048576)).map fun i => ((Config.pastToken conv i).toNat, (Config.pastMark conv i).toNat)) ++ [(last, 2)] }

/-! ## Pausing (R322, R323) -/

/-- Where the row of position t lies for KV record k: in the summary that the request owns below its base, else in its page sets; with its encoding. -/
def State.kvSource (s : State) (p : ServeRec) (x : ReqSt) (k : KvRec) (t : Nat) : Option (Nat × Fmt × Bool) :=
  let cellar := s.regionBase .cellar
  if t < x.base then x.owned.bind fun y =>
    let n := pageSets y.length
    let q : ServeRec := { p with sinkPages := y.sink, recentPages := y.recent }
    ((s.sumPlaces q n).1.find? fun e => e.1 == t / 64 && e.2.1 == k).map fun e =>
      let (f, b) := sumFmt q n (t / 64) k
      (cellar + y.at_ + e.2.2, f, b)
  else (aget x.sets (t / 64)).map fun i => (cellar + p.psetBase + i * p.psetBytes + k.off, fmtdOf k, fmtdBlk k.fmt)

/-- Writing page list and pages of the summary of `len` positions at the offset `at_` of the Cellar. -/
def State.writePages (s : State) (p : ServeRec) (x : ReqSt) (len at_ : Nat) : State :=
  let n := pageSets len
  let base := s.regionBase .cellar + at_
  let (places, _) := s.sumPlaces p n
  let list := (List.range n).flatMap fun g => natLe 4 (((places.find? fun e => e.1 == g).map fun e => at_ + e.2.2).getD 0)
  let mem := places.foldl (fun m (g, k, off) =>
    (List.range (min 64 (len - 64 * g))).foldl (fun m r =>
      match s.kvSource p x k (64 * g + r) with
      | some (a, f) => kvRecode s.mem m a (base + off) k.headDim f (sumFmt p n g k) r
      | none => m) m) s.mem
  { s with mem := memPutBytes mem (base + 128) list }

/-- The bytes of a summary in the Cellar. -/
def State.sumData (s : State) (y : Summary) : List Byte := memGetBytes s.mem (s.regionBase .cellar + y.at_) y.bytes

/-- A request begins to pause with its summary at `at_`: its pages are re-encoded, and its pause entries are raised. -/
def State.beginPause (s : State) (c : Fin 8) (p : ServeRec) (slot : Nat) (x : ReqSt) (at_ : Nat) : State :=
  let len := x.committed - 1
  let s1 := s.writePages p x len at_
  let y : Summary :=
    { client := some x.client, ctx := c, at_, toks := x.sequence, conv := BitVec.ofNat 64 x.r.conv, length := len, lastToken := (x.toks.getLast?).getD 0
      sink := p.sinkPages, recent := p.recentPages, adapter := x.r.adapter, adapterVer := x.adVer, keptBeat := 0
      planDigest := (s.plan.map Plan.digest).getD 0, digest := 0, bytes := s.sumBytes p len }
  let z := { y with digest := sumDigest (s1.sumData y) (pageSets len) }
  (s1.setReq c slot { x with ph := .pausing, inStep := none, drafts := [], round := none, owned := none, saved := some z }).raiseEvent c .pause
    [BitVec.ofNat 32 slot] (.pause c.val slot)

/-- A request reaches its end with `code`: with KEEP a GENERATE request pauses, unless its conversation is listed or the pool cannot hold
the summary. -/
def State.finishReq (s : State) (c : Fin 8) (p : ServeRec) (slot code : Nat) (rank : List Nat := []) : State :=
  match s.req c slot with
  | none => s
  | some x =>
    let keep := x.r.kind == 1 && x.r.flags.testBit 0 && (code == 1 || code == 2 || code == 4)
    let y := { x with ph := .pausing }
    if !keep then s.endRequest c slot code rank
    else if (aget s.summaries x.r.conv).isSome then s.endRequest c slot 0x2147
    else match poolPlace p ((s.setReq c slot y).poolHeld c) (s.sumBytes p (x.committed - 1)) with
      | none => s.endRequest c slot 0x2147
      | some at_ => s.beginPause c p slot x at_

/-- Whether a pause entry of a request has not completed. -/
def State.pauseOpen (s : State) (c : Fin 8) (slot : Nat) : Bool := s.openEntries.any fun e => e.1 == .pause c.val slot

/-- PAUSE_COMPLETE (R319, R323, R325): a pause entry of a request has completed on a core, and it was the last. A CANCEL that has landed ends it; else the summary is listed and
the request ends with END_PAUSED, or with REQ_NOT_KEPT where its conversation has been listed meanwhile. -/
def execPauseComplete (ctx : Fin 8) (slot _core _entry : Nat) (s : State) : Host.Outcome State Fault Refusal :=
  .next (match s.req ctx slot with
    | none => s
    | some x =>
      if x.ph != .pausing || s.pauseOpen ctx slot then s
      else if x.cancel then s.endRequest ctx slot 0x2148
      else match x.saved with
        | none => s
        | some y =>
          if (aget s.summaries x.r.conv).isSome then s.endRequest ctx slot 0x2147
          else
            let z := { y with keptBeat := s.beat }
            ({ s with summaries := aput s.summaries x.r.conv z
                      mem := memPutBytes s.mem (s.regionBase .cellar + z.at_) (sumRecord z) }).endRequest ctx slot 3)

/-- The entries of a queue without the later ones of a tag. -/
def dropLater (t : EntryTag) : List StartEntry → List StartEntry
  | [] => []
  | e :: r => if e.tag == t then e :: r.filter (fun x => x.tag != t) else e :: dropLater t r

/-- A CANCEL in PAUSING (R319): of the request's pause entries only the one that runs completes, or the next one when none runs. -/
def State.cancelPause (s : State) (c : Fin 8) (slot : Nat) : State :=
  let t : EntryTag := .pause c.val slot
  match s.openEntries.find? fun e => e.1 == t with
  | none => s
  | some (_, cores) =>
    let runs (n : Nat) : Nat :=
      let x := s.ctxAt ⟨n, c⟩
      (if x.running && x.tag == t then 1 else 0) + (x.ending.filter fun e => e.2 == t).length
    let run := cores.eraseDups.flatMap fun n => List.replicate (runs n) n
    let next : Option Nat := if run.isEmpty then cores.head? else none
    let queued (n : Nat) : Bool := (s.ctxAt ⟨n, c⟩).queue.any fun e => e.tag == t
    let s1 := cores.eraseDups.foldl (fun (u : State) n =>
      let x := u.ctxAt ⟨n, c⟩
      u.setCtx ⟨n, c⟩ { x with queue := if next == some n then dropLater t x.queue else x.queue.filter fun e => e.tag != t }) s
    let heldOf (h : Site × StartEntry) : Bool := h.1.ctx == c && h.2.tag == t
    let first := if next.any queued then none else s1.heldEntries.findIdx? fun h => heldOf h && next == some h.1.core
    { s1 with heldEntries := (s1.heldEntries.zipIdx.filter fun (h, i) => !heldOf h || first == some i).map (·.1)
              openEntries := s1.openEntries.map fun e => if e.1 == t then (t, if run.isEmpty then cores.take 1 else run) else e }

/-- SUMMARY_TTL (R325): a listed summary is removed SUMMARY_TTL beats of its context after its listing. -/
def execSummaryTtl (conv : Nat) (s : State) : Host.Outcome State Fault Refusal :=
  .next (match aget s.summaries conv with
    | none => s
    | some x =>
      let ttl := ((s.serveRec x.ctx).map ServeRec.summaryTtl).getD 0
      if ttl != 0 && decide (x.keptBeat + ttl ≤ s.beat) then { s with summaries := adel s.summaries conv } else s)

end Sys2Proof.Machine
end

