-- ==== Sys2Proof/Machine/Serve.lean ====
section
/-!
DEFINITION. Batch steps, drafts, acceptance, ranking and the end of requests (R302 to R306, R308, R312, R316, R317, R328, R329).
-/

namespace Sys2Proof.Machine

def State.maskOf (s : State) (x : ReqSt) : Option MaskObj := if x.r.mask = 0 then none else aget s.masks x.r.maskId
/-- Prompt positions that prefill covers: every one except the last. -/
def ReqSt.prompt (x : ReqSt) : Nat := x.base + x.toks.length - 1 - x.base - x.gen
def ReqSt.prefilling (x : ReqSt) : Bool := decide (x.filled < x.prompt)
def ReqSt.ringFree (x : ReqSt) : Nat := 2 ^ x.r.ringLog2 - 1 - (x.prod - x.cons)

/-! ## Page sets (R301, R302, R305) -/

/-- Page sets of the context's pool that no request holds. -/
def State.freeSets (s : State) (c : Fin 8) (r : ServeRec) : List Nat :=
  let used := s.reqs.flatMap fun (k, x) => if ctxOfKey k (2 ^ 20) == c then x.sets.map (·.2) else []
  (List.range r.npset).filter fun i => !used.contains i

/-- Pages of positions [a, a + n) that the request holds no page set for. -/
def ReqSt.missing (x : ReqSt) (a n : Nat) : List Nat :=
  if n = 0 then []
  else (span a n |>.map fun t => t / 64).eraseDups.filter fun p => (aget x.sets p).isNone
where
  span (a n : Nat) : List Nat := (List.range n).map fun i => a + i

/-- The entries of the request's page list that name the page sets it has taken: 4 bytes for each, in position order (R301). -/
def State.writePageList (s : State) (p : ServeRec) (slot : Nat) (l : List (Nat × Nat)) : State :=
  let base := s.regionBase .cellar + p.listBase + slot * (p.maxContext / 64) * 4
  { s with mem := l.foldl (fun m (page, set) => memPutLe m (base + 4 * page) 4 set) s.mem }

/-! ## Composition (R302) -/

/-- Order of composition: LC first, then admission beat, then slot index. -/
def reqBefore (a b : Nat × ReqSt) : Bool :=
  if a.2.r.cls != b.2.r.cls then decide (a.2.r.cls < b.2.r.cls)
  else if a.2.admBeat != b.2.admBeat then decide (a.2.admBeat < b.2.admBeat) else decide (a.1 < b.1)

def insReq (x : Nat × ReqSt) : List (Nat × ReqSt) → List (Nat × ReqSt)
  | [] => [x]
  | y :: r => if reqBefore x y then x :: y :: r else y :: insReq x r

/-- What compose() does with one request: the state, the budget left and the items. -/
def State.composeOne (s : State) (c : Fin 8) (p : ServeRec) (id slot : Nat) (budget : Nat) (items : List (Nat × Work)) : State × Nat × List (Nat × Work) :=
  match s.req c slot with
  | none => (s, budget, items)
  | some x =>
    let d := x.r.draft
    let pair := x.r.model == 0 && x.r.kind == 1
    let pre := x.r.kind == 1 && x.prefilling
    let n := min p.chunk (x.prompt - x.filled)
    let cost := if x.r.kind = 2 then x.r.nTok else if pre then n else if pair then d + 1 else 1
    if x.inStep.isSome || !x.ph.active then (s, budget, items)
    else if budget < cost then (s.setReq c slot { x with ringOut := false }, budget, items)
    else if x.r.kind = 1 && !pre && decide (x.ringFree < (if pair then d + 1 else 1)) then
      ((s.setReq c slot { x with ringOut := true }).countCtx c ccRingStall, budget, items)
    else
      let need := if x.r.kind = 2 then [] else if pre then x.missing (x.base + x.filled) n
        else x.missing (x.committed - 1) (min (if pair then d + 1 else 1) (p.maxContext - (x.committed - 1)))
      let free := s.freeSets c p
      if free.length < need.length then ((s.setReq c slot { x with ringOut := false }).countCtx c ccPageWait, budget, items)
      else
        let w : Work := if x.r.kind = 2 then .rank else if pre then .prefill n else .round
        let taken := need.zip free
        let y := { x with sets := taken.foldl (fun l (pg, i) => aput l pg i) x.sets, inStep := some id, ringOut := false
                          ph := if pre then .prefill else .decode, drafts := [], draftStop := false, draftNan := false, round := none }
        ((s.setReq c slot y).writePageList p slot taken, budget - cost, items ++ [(slot, w)])

/-- Composing a batch step for a serving context, and the entries that its schedule and its partner's bind to it. -/
def State.compose (s : State) (c : Fin 8) (p : ServeRec) : State :=
  let cand := (s.reqs.filterMap fun (k, x) => if ctxOfKey k (2 ^ 20) == c && x.ph.active then some (k % 2 ^ 20, x) else none).foldr insReq []
  let id := s.nextBatch
  let (s1, _, items) := cand.foldl (fun (acc : State × Nat × List (Nat × Work)) (slot, _) =>
    acc.1.composeOne c p id slot acc.2.1 acc.2.2) (s, p.stepTokens, [])
  if items.isEmpty then s1
  else
    let s2 : State := { s1 with batches := s1.batches ++ [{ id, ctx := c, items }], nextBatch := id + 1 }
    let partner := (s2.ctxRec c).map CtxRec.partner
    let ctxs := c :: ((List.finRange 8).filter fun d => partner == some d.val)
    ctxs.foldl (fun (t : State) d => t.raiseEvent d .batch [BitVec.ofNat 32 id] (.batch d.val id)) s2

/-- Step 7 of R303: the requests of a context that are in no batch step and whose deadline has come expire. -/
def State.expireWaiting (s : State) (c : Fin 8) : State :=
  (s.reqs.filter fun (k, x) => ctxOfKey k (2 ^ 20) == c && x.ph.active && x.inStep.isNone && x.r.deadline != 0 && decide (x.r.deadline ≤ s.beat)).foldl
    (fun (t : State) (k, _) => t.endRequest c (k % 2 ^ 20) 0x2140) s

/-- COMPOSE (R302): with fewer than INFLIGHT batch steps in flight, a batch step is composed from the waiting requests, after the steps of R303 that
come before it in the beat. -/
def execCompose (ctx : Fin 8) (s : State) : Host.Outcome State Fault Refusal :=
  .next (match s.serveRec ctx with
    | none => s
    | some p =>
      let s := s.settleLive.expireWaiting ctx
      if !s.ctxRuns ctx || s.dev == .drain || decide (p.inflight ≤ (s.batches.filter fun b => b.ctx == ctx).length) then s
      else (s.compose ctx p).pumpAll)

/-! ## Drafts and single-model samples (R304, R310) -/

/-- Place of a request in its batch step: the batch index of R304. -/
def State.batchIndex (s : State) (x : ReqSt) (slot : Nat) : Nat :=
  ((x.inStep.bind fun id => s.batches.find? fun b => b.id == id).map fun b => (b.items.findIdx? fun i => i.1 == slot).getD 0).getD 0

/-- A student logit row kept for an acceptance record: row `row` of each segment's tile, side by side (R306). -/
def State.studentRow (s : State) (r : LossRec) (row : Nat) : List Num :=
  r.segs.flatMap fun g =>
    let zd := s.segZ r g
    (List.range zd.cols).map fun k => s.elem (Config.numTCores + g.score) zd row k

/-- The draft transfer record (R304): 16 token identifiers, unused ones 0xFFFF_FFFF. -/
def State.writeDraft (s : State) (p : ServeRec) (b : Nat) (ds : List Nat) : State :=
  let l := (List.range 16).flatMap fun i => natLe 4 (ds.getD i 0xFFFFFFFF)
  s.scratchPut p.ctx (s.scratchAt p.draftBase + 64 * b) l

def reqV (x : ReqSt) : Num := decode .fp32 x.r.invT.toNat

/-- DRAFT_SAMPLE (R304, R310, R312): the Mask Unit samples the next draft token of a pair request, or the token of a single-model request.
The student's row is row `row` of acceptance record `id`; the teacher's row of a teacher-alone request is the next packet. -/
def execDraftSample (ctx : Fin 8) (slot id row : Nat) (s : State) : Host.Outcome State Fault Refusal :=
  .next (match s.req ctx slot, s.serveRec ctx, s.lossRec id with
    | some x, some p, some r =>
      let inRound := match x.inStep.bind fun b => s.batches.find? fun q => q.id == b with
        | some b => b.items.contains (slot, .round)
        | none => false
      if !inRound || x.round.isSome || r.ctx != ctx || r.kind != .accept then s
      else
        let m := s.maskOf x
        let greedy := x.r.accept == 2
        let v := reqV x
        let sd := x.r.seed
        if x.r.model = 0 then
          if x.draftStop || decide (x.r.draft ≤ x.drafts.length) then s
          else
            let sigma := x.drafts.foldl (maskNext m) x.sigma
            let res := if sigma = maskAccept then Sampled.empty
              else sampleRow greedy v sd (x.committed + x.drafts.length) 0 (maskRow m sigma (s.studentRow r row))
            match res with
            | .tok j =>
              let ds := x.drafts ++ [j]
              (s.setReq ctx slot { x with drafts := ds }).writeDraft p (s.batchIndex x slot) ds
            | r => (s.setReq ctx slot { x with draftStop := true, draftNan := r == .nonfinite }).writeDraft p (s.batchIndex x slot) x.drafts
        else
          let done (t : State) (res : Sampled) : State :=
            match res with
            | .tok j => t.setReq ctx slot { x with round := some { toks := [(j, 0)] } }
            | .empty => t.setReq ctx slot { x with round := some { toks := [], code := some 0x2141 } }
            | .nonfinite => (t.setReq ctx slot { x with round := some { toks := [], code := some 0x2142, nan := true } }).postFlags ctx flNanIn
          if x.r.model = 1 then done s (sampleRow greedy v sd x.committed 0 (maskRow m x.sigma (s.studentRow r row)))
          else if r.segs.any fun g => decide ((s.buf g.buffer).arrived < (s.buf g.buffer).taken + 1) then s
          else match s.lossRow r 0 with
            | none => (s.faultCtx 0x6011 ctx [id]).pumpAll
            | some segs =>
              let t := r.segs.foldl (fun (u : State) g => let b := u.buf g.buffer; u.setBuf g.buffer { b with taken := b.taken + 1, freed := b.freed + 1 }) s
              done t (sampleRow greedy v sd x.committed 2 (maskRow m x.sigma (segs.flatMap LossSeg.teachAll)))
    | _, _, _ => s)

/-! ## Acceptance (R306, R311, R312) -/

/-- ACCEPTANCE_JOB (R306, R311, R312): the oldest open acceptance job of a class decides the round of a request, frees the slots it read and
counts its completion. -/
def execAcceptanceJob (ctx : Fin 8) (slot : Nat) (s : State) : Host.Outcome State Fault Refusal :=
  .next (match s.req ctx slot, s.lossHeads.find? fun (_, _, r) => r.kind == .accept && r.ctx == ctx with
    | some x, some (i, j, r) =>
      if x.inStep.isNone || x.round.isSome || x.r.model != 0 || x.r.kind != 1 then s
      else
        let m := s.maskOf x
        let n := x.drafts.length
        let sig (k : Nat) : Nat := (x.drafts.take k).foldl (maskNext m) x.sigma
        let rowOf (k : Nat) (f : LossSeg → List Num) : List Num := ((j.rows[k]?).map fun w => w.segs.flatMap f).getD []
        let zs := (List.range n).map fun k => maskRow m (sig k) (rowOf k LossSeg.z)
        let ys := (List.range (n + 1)).map fun k => maskRow m (sig k) (rowOf k LossSeg.teachAll)
        let round : Round := if x.draftNan then { toks := [], code := some 0x2142, nan := true }
          else decideRound (x.r.accept == 2) (reqV x) x.r.seed x.committed x.drafts zs ys
        let s1 := ({ s with loss := s.loss.eraseIdx i }).setReq ctx slot { x with round := some round }
        let s2 := if round.nan then s1.postFlags ctx flNanIn else s1
        let s3 := r.segs.foldl (fun (t : State) g => t.freeSlots g.buffer r.rows) s2
        ((LossRec.cores r).foldl (fun (t : State) n => t.bump ⟨n, ctx⟩ r.doneCnt 1) s3).raiseEvent ctx (.loss r.id) [] .plain
    | _, _ => s)

/-! ## Ranking (R328, R329) -/

/-- Candidates before others: descending scores, ties to the lower index. -/
def rankBefore (key : Nat → List Num) (a b : Nat) : Bool :=
  match (key a).zip (key b) |>.find? fun (x, y) => !Num.eqv x y with
  | some (x, y) => Num.lt y x
  | none => decide (a < b)

def insRank (key : Nat → List Num) (x : Nat) : List Nat → List Nat
  | [] => [x]
  | y :: r => if rankBefore key x y then x :: y :: r else y :: insRank key x r

/-- The final order of a ranking request, and which candidates the teacher scored: none when a score is NaN. -/
def rankOrder (model n m : Nat) (st te : List Num) : Option (List Nat × List Nat) :=
  let sk (i : Nat) : Num := st.getD i (.zero false)
  let tk (i : Nat) : Num := te.getD i (.zero false)
  let all := List.range n
  let scored := if model = 2 then all
    else if model = 0 then ((all.foldr (insRank fun i => [sk i]) []).take m) else []
  if (model != 2 && all.any fun i => (sk i).isNan) || scored.any fun i => (tk i).isNan then none
  else
    let top := scored.foldr (insRank fun i => if model = 2 then [tk i] else [tk i, sk i]) []
    let rest := (all.filter fun i => !scored.contains i).foldr (insRank fun i => [sk i]) []
    some (top ++ rest, top)

/-- The FULL packets, from packet `first` of a landing buffer on, that hold n columns: how many they are, and their values (R328). -/
def State.fullScores (s : State) (buffer first n : Nat) : Nat × List Num :=
  match s.landRec buffer, s.recipe buffer with
  | some l, some rc =>
    let k := if rc.width = 0 then 0 else (n + rc.width - 1) / rc.width
    (k, ((List.range k).flatMap fun i => match (s.packet l rc (first + i)).2.2.2 with
      | .full t => t
      | .topk .. => []).take n)
  | _, _ => (0, [])

/-- Whether the results of a ranking request have arrived: its student scores are given, and the packets of its teacher scores wait in their buffer
beyond `skip` others. -/
def State.ranksReady (s : State) (x : ReqSt) (k : RankScores) (skip : Nat) : Bool :=
  x.r.model = 1 || (decide (0 < (s.fullScores k.buffer 0 x.r.nTok).1) &&
    decide (skip + (s.fullScores k.buffer 0 x.r.nTok).1 ≤ (s.buf k.buffer).occupied))

/-! ## The end beat (R303, R312, R317, R318) -/

/-- Emission (R312): the tokens of a round that are written, and the code that ends the request. -/
def emitToks (m : Option MaskObj) (maxContext : Nat) : ReqSt → List (Nat × Nat) → Option Nat → ReqSt × List (Nat × Nat) × Option Nat
  | x, [], code => (x, [], code)
  | x, (tok, fl) :: r, code =>
    let pos := x.committed
    let sigma := maskNext m x.sigma tok
    let y := { x with toks := x.toks ++ [tok], marks := x.marks ++ [if fl == fDrafted then 1 else 2], gen := x.gen + 1, sigma }
    let stop : Option Nat :=
      if x.r.stop != 0xFFFFFFFF && tok == x.r.stop then some 1
      else if m.isSome && sigma == maskAccept then some 1
      else if y.gen == x.r.maxTok then some 2
      else if pos + 1 == maxContext then some 4 else none
    match stop with
    | some e => (y, [(tok, fl)], some e)
    | none =>
      let (z, l, e) := emitToks m maxContext y r code
      (z, (tok, fl) :: l, e)

/-- Whether the scores of every ranking request of a batch step have arrived, those of one buffer in the order of the batch step (R328). -/
def State.ranksDone (s : State) (b : BatchSt) (ranks : List RankScores) : Bool :=
  (b.items.foldl (fun (acc : Bool × List (Nat × Nat)) (slot, w) =>
    if w != .rank then acc
    else match s.req b.ctx slot, ranks.find? fun k => k.slot == slot with
      | some x, some k =>
        let skip := (aget acc.2 k.buffer).getD 0
        (acc.1 && s.ranksReady x k skip, if x.r.model = 1 then acc.2 else aput acc.2 k.buffer (skip + (s.fullScores k.buffer 0 x.r.nTok).1))
      | none, _ => acc
      | _, none => (false, acc.2)) (true, [])).1

/-- Whether everything in a batch step is done: its entries, and the rounds of its decode requests. -/
def State.batchDone (s : State) (b : BatchSt) : Bool :=
  !(s.openEntries.any fun (t, _) => match t with | .batch _ id => id == b.id | _ => false) &&
    b.items.all fun (slot, w) => w != .round || (match s.req b.ctx slot with | some x => x.round.isSome | none => true)

/-- The results of one request of a batch step whose records are written (step 2 of R303), and the code with which it then ends. -/
def State.writeItem (s : State) (c : Fin 8) (p : ServeRec) (slot : Nat) (w : Work) (ranks : List RankScores) : State × Option (Nat × List Nat) :=
  match s.req c slot with
  | none => (s, none)
  | some x =>
    match w with
    | .prefill n =>
      let y := { x with filled := x.filled + n, inStep := none }
      (s.setReq c slot { y with ph := if y.prefilling then .prefill else .decode }, none)
    | .round =>
      match x.round with
      | none => (s, none)
      | some rd =>
        let (y, l, code) := emitToks (s.maskOf x) p.maxContext x rd.toks rd.code
        let recs := l.zipIdx.map fun ((tok, fl), i) => ({ type := 1, flags := fl, code := 0, pos := x.committed + i, value := tok, aux := s.beat % 2 ^ 32 } : RingRec)
        let s1 := (s.setReq c slot { y with inStep := none, drafts := [], round := none }).putRing c slot recs
        let s2 := s1.acctAdd x.r.client 24 8 recs.length
        let s3 := l.zipIdx.foldl (fun (t : State) ((_, fl), i) => if fl == fDrafted then t.copyRow p slot x (x.committed + i) i else t) s2
        (s3, code.map fun e => (e, []))
    | .rank =>
      match ranks.find? fun k => k.slot == slot with
      | none => (s, none)
      | some k =>
        let st := k.student.map fun v => decode .fp32 v.toNat
        let (n, te) := if x.r.model = 1 then (0, []) else s.fullScores k.buffer (s.buf k.buffer).freed x.r.nTok
        let s0 := (s.setReq c slot { x with inStep := none }).freeSlots k.buffer n
        match rankOrder x.r.model x.r.nTok x.r.maxTok st te with
        | none => (s0, some (0x2142, []))
        | some (order, top) =>
          let export_ := s.sec.husk.isSome && s.sec.policy.getLsbD 0 && s.img.exportPolicy.getLsbD 0
          let recs := order.zipIdx.map fun (cand, i) =>
            let t := export_ && top.contains cand
            let aux : Nat := if t then (roundRne .fp32 (te.getD cand (.zero false))).bits
              else if x.r.model = 2 then (Config.openWord cand).toNat else (k.student.getD cand 0).toNat
            ({ type := 2, flags := if t then 8 else 0, code := 0, pos := i, value := cand, aux } : RingRec)
          ((s0.putRing c slot recs).acctAdd x.r.client 24 8 recs.length, some (1, top))

/-- The code with which expiry or a CANCEL ends a request of a batch step that ends now (step 1 of R303). -/
def State.dropCode (s : State) (x : ReqSt) : Option Nat :=
  if x.r.deadline != 0 && decide (x.r.deadline ≤ s.beat) then some 0x2140 else if x.cancel then some 0x2148 else none

/-- A request that expiry or a CANCEL ends in the end beat of its step: the packets of its teacher scores are freed unread (R328). -/
def State.skipItem (s : State) (c : Fin 8) (slot : Nat) (w : Work) (ranks : List RankScores) : State :=
  match w, s.req c slot, ranks.find? fun k => k.slot == slot with
  | .rank, some x, some k => if x.r.model = 1 then s else s.freeSlots k.buffer (s.fullScores k.buffer (s.buf k.buffer).freed x.r.nTok).1
  | _, _, _ => s

/-- BATCH_STEP_END (R303, R312, R317, R318): the end beat of a batch step. Expiry and cancellation are decided first, then records, then
terminal records and releases. -/
def execBatchStepEnd (ctx : Fin 8) (id : Nat) (ranks : List RankScores) (s : State) : Host.Outcome State Fault Refusal :=
  .next (match s.batches.find? fun b => b.id == id && b.ctx == ctx, s.serveRec ctx with
    | some b, some p =>
      if !s.batchDone b || !s.ranksDone b ranks then s
      else
        let s0 : State := { s with batches := s.batches.filter fun q => q.id != id }
        let drops := b.items.filterMap fun (slot, _) => (s.req ctx slot).bind fun x => (s.dropCode x).map fun code => (slot, code)
        let (s1, ends) := b.items.foldl (fun (acc : State × List (Nat × Nat × List Nat)) (slot, w) =>
          if drops.any fun d => d.1 == slot then (acc.1.skipItem ctx slot w ranks, acc.2)
          else
            let (t, e) := acc.1.writeItem ctx p slot w ranks
            (t, match e with | some (code, rk) => acc.2 ++ [(slot, code, rk)] | none => acc.2)) (s0, [])
        let s2 := drops.foldl (fun (t : State) (slot, code) => t.endRequest ctx slot code) s1
        ends.foldl (fun (t : State) (slot, code, rk) => t.finishReq ctx p slot code rk) s2
    | _, _ => s)

/-- DEADLINE (R317): a request in no batch step expires in its deadline beat. -/
def execDeadline (ctx : Fin 8) (slot : Nat) (s : State) : Host.Outcome State Fault Refusal :=
  .next (match s.req ctx slot with
    | none => s
    | some x =>
      if x.ph.active && x.inStep.isNone && x.r.deadline != 0 && decide (x.r.deadline ≤ s.beat) then s.endRequest ctx slot 0x2140 else s)

/-- RING_HOLD (R316): an ENDING slot becomes FREE RING_HOLD beats after its terminal record. -/
def execRingHold (ctx : Fin 8) (slot : Nat) (s : State) : Host.Outcome State Fault Refusal :=
  .next (match s.req ctx slot, s.serveRec ctx with
    | some x, some p => match x.termBeat with
      | some b => if x.ph == .ending && decide (b + p.ringHold ≤ s.beat) then s.freeReq ctx slot else s
      | none => s
    | _, _ => s)

end Sys2Proof.Machine
end

