-- ==== Sys2Proof/Machine/Landing.lean ====
section
/-!
DEFINITION. What frames do to tables and serving objects: SAMPLE and REQ slots, validation of requests, ACK, CANCEL, STREAM_RESUME, adapters,
masks and summaries (R299, R307, R316, R318 to R321, R324 to R326, R404, R405, R495 to R499). Each handler answers the state and the code
of a rejection, 0 for none.
-/

namespace Sys2Proof.Machine

/-! ## Samples (R495 to R497, Table 17-4) -/

/-- The bytes of a SAMPLE frame land in their slot; with the last of them the slot is complete (R495, Table 17-8). -/
def State.landSample (s : State) (d : DataRec) (f : Frame) (slot key : Nat) (data : List Byte) (x : SampleSlot) : State :=
  let s := s.scratchPut d.ctx (s.scratchAt d.tableOff + slot * d.slotBytes + f.offset) data
  let y := { x with written := f.offset + data.length }
  if f.last then
    let t1 : State := { s with samples := aput s.samples key { y with done := some s.sampleSerial }, sampleSerial := s.sampleSerial + 1 }
    (t1.sampleWord d slot 1).bumpEntry d.arriveCnt 1
  else ({ s with samples := aput s.samples key y } : State).sampleWord d slot 2

/-- A SAMPLE frame of session `id`. -/
def State.onSample (s : State) (id : Nat) (f : Frame) (c : Fin 8) (slot sid : Nat) (data : List Byte) : State × Nat :=
  match s.dataRec c with
  | none => (s, 0x2024)
  | some d =>
    if d.slots ≤ slot then (s, 0x2024)
    else
      let key := sampleKey c slot
      match aget s.samples key with
      | none =>
        let first := ((s.jobOf c).map fun j => (s.jobSt j.job).sampleFirst).getD 0
        if f.offset != 0 then (s, 0x2021)
        else if sid < first then (s.count cntSampleStale, 0x2022)
        else if d.slotBytes < data.length then (s, 0x2023)
        else if (sid - d.sampleBase) % d.slots != slot || decide (sid < d.sampleBase) then (s, 0x2025)
        else (s.landSample d f slot key data { session := id, id := sid, written := 0 }, 0)
      | some x =>
        if x.done.isSome || x.session != id then (s, 0x2020)
        else if f.offset != x.written then (s.freeSample d slot, 0x2021)
        else if d.slotBytes < f.offset + data.length then (s.freeSample d slot, 0x2023)
        else (s.landSample d f slot key data x, 0)

/-! ## Requests: reading a slot and validating it (R298, R299) -/

/-- The request that a slot's bytes spell (Table 11-1). -/
def State.readRequest (s : State) (a : Nat) : Request :=
  let g (off n : Nat) : Nat := memGetLe s.mem (a + off) n
  let kind := g 6 1
  let n := g 60 4
  { reqId := g 0 4, client := g 4 2, kind, cls := g 7 1, model := g 8 1, accept := g 9 1, draft := g 10 1, flags := g 11 1, mask := g 12 1
    maskId := g 16 4, invT := BitVec.ofNat 32 (g 20 4), seed := g 24 8, deadline := g 32 8, conv := g 40 8, adapter := g 48 2, tAdapter := g 50 2
    maxTok := g 52 4, stop := g 56 4, nTok := n, ringLog2 := g 64 1, reserved := g 13 3 == 0 && g 65 31 == 0
    tokens := if kind = 1 && decide (n ≤ 1048576) then (List.range n).map fun i => g (96 + 4 * i) 4 else []
    cands := if kind = 2 && decide (n ≤ 4096) then (List.range n).map fun i => (g (96 + 8 * i) 4, g (100 + 8 * i) 4) else [] }

/-- The LIVE slot of an adapter. -/
def State.liveAdapter (s : State) (ident : Nat) (teacher : Bool) : Option Nat :=
  (s.adapters.find? fun (_, a) => a.ph == .live && a.names ident teacher).map (·.1)

/-- Whether the bound Husk and the image permit teacher adapters (R442). -/
def State.exportBit (s : State) (n : Nat) : Bool := s.sec.husk.isSome && s.sec.policy.getLsbD n && s.img.exportPolicy.getLsbD n

/-- Whether a field breaks the ranges of Table 11-1 or the checks of R299: REQ_LIMIT. `len` is the resumed length. -/
def limitBroken (p : ServeRec) (r : Request) (len : Nat) : Bool :=
  let gen := r.kind == 1
  let pair := gen && r.model == 0
  let finite := decide (1 ≤ r.invT.toNat / 2 ^ 23) && decide (r.invT.toNat / 2 ^ 23 < 255)
  (r.kind != 1 && r.kind != 2) || decide (1 < r.cls) || decide (2 < r.model) || (r.accept != 1 && r.accept != 2)
    || (if pair then r.draft == 0 || decide (16 < r.draft) else r.draft != 0) || decide (7 < r.flags) || decide (2 < r.mask)
    || !r.reserved || decide (4095 < r.client) || (r.mask == 0 && r.maskId != 0) || (if r.accept == 1 then !finite else r.invT != 0)
    || (!(r.flags.testBit 0 || r.flags.testBit 1) && r.conv != 0) || r.nTok == 0 || (gen && r.maxTok == 0)
    || decide (r.ringLog2 < 6) || decide (p.maxRingLog2 < r.ringLog2)
    || decide (p.slotBytes < 96 + (if gen then 4 else 8) * r.nTok) || (gen && r.tokens.any fun t => decide (p.vocab ≤ t))
    || (gen && decide (p.maxContext ≤ r.nTok + len))
    || (!gen && (decide (4096 < r.nTok) || decide (r.nTok < r.maxTok) || decide (2 ^ r.ringLog2 < r.nTok + 1) || decide (p.stepTokens < r.nTok)))

/-- The codes that apply to a request, of which the lowest is given. -/
def State.requestCodes (s : State) (p : ServeRec) (r : Request) : List Nat :=
  let resume := r.flags.testBit 1
  let listed := aget s.summaries r.conv
  let len := if resume then (listed.map fun x => x.length + 1).getD 0 else 0
  (if r.deadline != 0 && decide (r.deadline ≤ s.beat) then [0x2140] else [])
    ++ (if (r.adapter != 0xFFFF && (s.liveAdapter r.adapter false).isNone) || (r.tAdapter != 0xFFFF && s.exportBit 2 && (s.liveAdapter r.tAdapter true).isNone)
      then [0x2143] else [])
    ++ (if resume && listed.isNone then [0x2144] else [])
    ++ (if limitBroken p r len then [0x2145] else [])
    ++ (if r.mask != 0 && !((aget s.masks r.maskId).any fun m => m.automaton == (r.mask == 2) && m.vocab == p.vocab) || s.maskFree.contains r.maskId && r.mask != 0 then [0x2146] else [])
    ++ (if r.tAdapter != 0xFFFF && !s.exportBit 2 then [0x4140] else [])

/-- REQUEST_VALIDATION (R299, R300, R321, R324): a completed slot is admitted, or ends with the lowest code that applies. The first admission
of a serving context moves a JOINED device to RUN (Table 16-2). -/
def State.validate (s : State) (c : Fin 8) (p : ServeRec) (slot : Nat) (x : ReqSt) : State :=
  let s := s.settleLive
  let r := s.readRequest (s.scratchAt p.reqOff + slot * p.slotBytes)
  let y := { x with r, client := r.client, admBeat := s.beat }
  match (s.requestCodes p r).foldl (fun (b : Option Nat) n => match b with | none => some n | some m => some (min m n)) none with
  | some code => ((s.setReq c slot y).endRequest c slot code).reject code 2
  | none =>
    let sm := if r.flags.testBit 1 then aget s.summaries r.conv else none
    let ad := if r.adapter = 0xFFFF then none else s.liveAdapter r.adapter false
    let toks := match sm with | some m => m.lastToken :: r.tokens | none => r.tokens
    let sigma := (((aget s.masks r.maskId).map MaskObj.start).getD 0)
    let z := { y with ph := .admitted, base := (sm.map Summary.length).getD 0, toks, past := (sm.map fun m => m.toks.take m.length).getD []
                      marks := ((sm.bind fun m => m.toks[m.length]?).map (·.2)).toList ++ r.tokens.map fun _ => 0, sAdapter := ad
                      adVer := ((ad.bind fun i => aget s.adapters i).map AdapterSt.version).getD 0
                      tAdapter := if r.tAdapter = 0xFFFF then none else s.liveAdapter r.tAdapter true
                      sigma, owned := sm }
    let s1 : State := { s with summaries := if sm.isSome then adel s.summaries r.conv else s.summaries
                               dev := if s.dev == .joined then .run else s.dev }
    s1.setReq c slot z

/-- CLIENT of the slot once its bytes 4 and 5 are written, else none: the field that R433 compares. -/
def State.slotClient (s : State) (p : ServeRec) (slot written : Nat) : Option Nat :=
  if 6 ≤ written then some (memGetLe s.mem (s.scratchAt p.reqOff + slot * p.slotBytes + 4) 2) else none

/-- Whether a frame that brings a slot to `written` bytes shows a CLIENT other than the session's (R433): with bytes 4 and 5, or at the end of a
slot that never held them. -/
def State.foreignClient (s : State) (p : ServeRec) (f : Frame) (slot client : Nat) (data : List Byte) : Bool :=
  let t : State := { s with mem := memPutBytes s.mem (s.scratchAt p.reqOff + slot * p.slotBytes + f.offset) data }
  match t.slotClient p slot (f.offset + data.length) with
  | some c => c != client
  | none => f.last

/-- Whether the last frame of a slot completes a request that resumes the summary of another CLIENT than the session's, on which the session may not
act (R433). -/
def State.foreignSummary (s : State) (p : ServeRec) (f : Frame) (slot client : Nat) (data : List Byte) : Bool :=
  let a := s.scratchAt p.reqOff + slot * p.slotBytes
  let r := ({ s with mem := memPutBytes s.mem (a + f.offset) data } : State).readRequest a
  f.last && r.flags.testBit 1 && (aget s.summaries r.conv).any fun y => y.client.any (· != client)

/-- The bytes of a REQ frame land in their slot; with the last of them the request is validated (R495, R498). -/
def State.landReq (s : State) (c : Fin 8) (p : ServeRec) (f : Frame) (slot : Nat) (data : List Byte) (x : ReqSt) : State :=
  let t1 := s.scratchPut c (s.scratchAt p.reqOff + slot * p.slotBytes + f.offset) data
  let y := { x with written := f.offset + data.length }
  if f.last then (((t1.setReq c slot y).reqWord c slot 1).bumpEntry p.slotCnt 1).validate c p slot y
  else (t1.setReq c slot y).reqWord c slot 2

/-- A REQ frame of session `id` (R495 to R498). -/
def State.onReq (s : State) (id : Nat) (f : Frame) (c : Fin 8) (slot : Nat) (data : List Byte) : State × Nat :=
  match s.serveRec c, s.session id with
  | some p, some q =>
    if p.slots ≤ slot then (s, 0x2024)
    else
      match s.req c slot with
      | none =>
        if f.offset != 0 then (s, 0x2021)
        else if p.slotBytes < data.length then (s, 0x2023)
        else if s.foreignClient p f slot q.client data || s.foreignSummary p f slot q.client data then (s, 0x4003)
        else (s.landReq c p f slot data { session := some id, client := q.client }, 0)
      | some x =>
        if x.ph != .claimed || x.session != some id then (s, 0x2020)
        else if f.offset != x.written then (s.freeReq c slot, 0x2021)
        else if p.slotBytes < f.offset + data.length then (s.freeReq c slot, 0x2023)
        else if s.foreignClient p f slot q.client data || s.foreignSummary p f slot q.client data then (s, 0x4003)
        else (s.landReq c p f slot data x, 0)
  | _, _ => (s, 0x2024)

/-! ## ACK, CANCEL, STREAM_RESUME (R318, R319, R498, R499) -/

/-- A request slot that a CLIENT session may act on. -/
def State.clientReq (s : State) (id : Nat) (c : Fin 8) (slot : Nat) : Except Nat ReqSt :=
  match s.req c slot, s.session id with
  | some x, some q => if x.ph == .claimed then .error 0x2024 else if x.client != q.client then .error 0x4003 else .ok x
  | _, _ => .error 0x2024

/-- Distance from one ring position to another, modulo 2^32 (R316). -/
def ringDist (from_ pos : Nat) : Nat := (pos + 2 ^ 32 - from_ % 2 ^ 32) % 2 ^ 32

/-- An ACK frame: CONS advances; passing the terminal record frees the slot (R316). -/
def State.onAck (s : State) (id : Nat) (c : Fin 8) (slot cons : Nat) : State × Nat :=
  match s.clientReq id c slot with
  | .error e => (s, e)
  | .ok x =>
    let fwd := ringDist x.cons cons
    let left := ringDist cons x.prod
    if 2 ^ x.r.ringLog2 < fwd || 2 ^ x.r.ringLog2 < left || decide (2 ^ 32 ≤ cons) then (s, 0x2031)
    else
      let y := { x with cons := x.cons + fwd, ring := x.ring.drop fwd, sent := max x.sent (x.cons + fwd) }
      if x.ph == .ending && left == 0 then (s.freeReq c slot, 0) else (s.setReq c slot y, 0)

/-- A CANCEL: at once for a request in no batch step, else at the end beat; in PAUSING when a pause entry completes. -/
def State.onCancel (s : State) (id : Nat) (c : Fin 8) (slot : Nat) : State × Nat :=
  match s.clientReq id c slot with
  | .error e => (s, e)
  | .ok x =>
    if x.ph == .pausing then
      let s1 := s.setReq c slot { x with cancel := true }
      (if x.cancel then s1 else s1.cancelPause c slot, 0)
    else if x.ph.active && x.inStep.isSome then (s.setReq c slot { x with cancel := true }, 0)
    else if x.ph.active then
      let code := if x.r.deadline != 0 && decide (x.r.deadline ≤ s.beat) then 0x2140 else 0x2148
      (s.endRequest c slot code, 0)
    else (s, 0)

/-- STREAM_RESUME: the session becomes the request's stream session, and sending resumes from CONS. -/
def State.onResume (s : State) (id : Nat) (c : Fin 8) (slot : Nat) : State × Nat :=
  match s.clientReq id c slot with
  | .error e => (s, e)
  | .ok x => ((s.setReq c slot { x with session := some id, sent := x.cons }).pumpStream c slot, 0)

/-! ## Adapters (R320, R321) -/

/-- Slots of the adapter areas of a rank for the teacher or the student: their numbers with the memory address and the size of each. -/
def State.adapterSlots (s : State) (teacher : Bool) (rank : Nat) : List (Nat × Nat × Nat) :=
  let areas := (s.plan.map Plan.adapterAreas).getD []
  (areas.foldl (fun (acc : Nat × List (Nat × Nat × Nat)) a =>
    let base := s.regionBase (if a.teacher then .teacher else .student) + a.base
    (acc.1 + a.slots, if a.teacher == teacher && a.rank == rank then acc.2 ++ (List.range a.slots).map fun i => (acc.1 + i, base + i * a.slotBytes, a.slotBytes) else acc.2)) (0, [])).2

def adapterKey (ident : Nat) (teacher : Bool) : Nat := 2 * ident + (if teacher then 1 else 0)

/-- The first frame of an adapter load puts a FREE slot of an area of its rank into LOADING: the state and the slot. A rank that R232 does not give has
no slot. -/
def State.beginAdapter (s : State) (a : AdapterObj) : State × Option Nat :=
  let l := if a.rank == 16 || a.rank == 32 || a.rank == 64 then s.adapterSlots a.teacher a.rank else []
  match l.find? fun e => (aget s.adapters e.1).isNone with
  | some (i, _) => ({ s with adapters := aput s.adapters i ⟨.loading, a.ident, a.version, a.teacher, a.rank, false⟩ }, some i)
  | none => (s, none)

/-- The last frame of an adapter load into slot `slot`: checked; its weights are in, and it becomes LIVE in step 6 of R303. -/
def State.onAdapterLoad (s : State) (slot : Option Nat) (a : AdapterObj) : State × Nat :=
  let s1 : State := match slot with | some i => { s with adapters := adel s.adapters i } | none => s
  let high := aget s.adapterHigh (adapterKey a.ident a.teacher)
  match slot with
    | none => (s1, 0x214A)
    | some i =>
      if high.any fun h => decide (a.version ≤ h) then (s1, 0x214B)
      else if a.teacher && !s.exportBit 2 then (s1, 0x4140)
      else
        let at_ := ((s.adapterSlots a.teacher a.rank).find? fun e => e.1 == i).map (·.2)
        ({ s1 with adapters := aput s1.adapters i ⟨.loading, a.ident, a.version, a.teacher, a.rank, true⟩
                   adapterHigh := aput s1.adapterHigh (adapterKey a.ident a.teacher) a.version
                   mem := match at_ with | some (b, n) => memPutBytes s1.mem b (a.weights.take n) | none => s1.mem }, 0)

/-- ADAPTER_REMOVE: the LIVE version goes to DRAINING, or FREE. -/
def State.onAdapterRemove (s : State) (ident : Nat) (teacher : Bool) : State × Nat :=
  let t := s.settleLive
  match t.liveAdapter ident teacher with
  | none => (s, 0x2143)
  | some _ => (t.retireAdapter ident teacher, 0)

/-! ## Masks (R307) -/

/-- A mask that R307 and R308 admit for some serving context's vocabulary (log entry 95). -/
def State.maskFits (s : State) (m : MaskObj) : Bool := ((s.plan.map Plan.serve).getD []).any fun p => m.ok p.vocab

/-- MASK_LOAD: the object's bytes are read, checked and kept. -/
def State.onMaskLoad (s : State) (id : Nat) (data : List Byte) : State × Nat :=
  match parseMask data with
  | none => (s, 0x2149)
  | some m => if (aget s.masks id).isSome || !s.maskFits m then (s, 0x2149) else ({ s with masks := aput s.masks id m }, 0)

def State.onMaskRemove (s : State) (id : Nat) : State × Nat :=
  if (aget s.masks id).isNone then (s, 0x2146)
  else (({ s with maskFree := if s.maskFree.contains id then s.maskFree else s.maskFree ++ [id] }).settleRefs, 0)

/-! ## Summaries (R325, R326) -/

/-- The label of a sealed summary (Table 15-10). -/
def State.summaryLabel (s : State) : List Byte := ascii "summary" ++ digestBytes ((s.plan.map Plan.digest).getD 0)

/-- SUMMARY_EXPORT to session `id`, sealed under a fresh EXPORT_ID (R451). -/
def State.onSummaryExport (s : State) (id conv : Nat) : State × Nat :=
  match aget s.summaries conv with
  | none => (s, 0x2144)
  | some x =>
    if !s.exportBit 1 then (s, 0x4141)
    else
      let (s1, frames) := s.sealExport (s.sec.contentKey.getD 0) s.summaryLabel (s.sumData x) FrameOut.summary
      (s1.sendFrames id frames, 0)

/-- The first serving context whose pool holds n bytes, with the place (log entry 96). -/
def State.importPlace (s : State) (n : Nat) : Option (Fin 8 × Nat) :=
  ((s.plan.map Plan.serve).getD []).findSome? fun p => (poolPlace p (s.poolHeld p.ctx) n).map fun a => (p.ctx, a)

/-- A summary that has opened is listed: DIGEST is formed again, and a pool must hold it. -/
def State.listSummary (s : State) (data : List Byte) : State × Nat :=
  let y := readSummary data
  if (aget s.summaries y.conv.toNat).isSome then (s, 0x2144)
  else match s.importPlace data.length with
    | none => (s, 0x2147)
    | some (c, at_) =>
      if (s.plan.map Plan.digest) != some y.planDigest || y.digest != sumDigest data (pageSets y.length) then (s, 0x4142)
      else
        let z := { y with ctx := c, at_, keptBeat := s.beat }
        ({ s with summaries := aput s.summaries y.conv.toNat z, mem := memPutBytes s.mem (s.regionBase .cellar + at_) (sumRecord z ++ data.drop 128) }, 0)

/-- SUMMARY_IMPORT: the object opens where the Husk is bound under the same plan (R451). -/
def State.onSummaryImport (s : State) (exportId : Digest) (data : List Byte) (tags : List (BitVec 128)) : State × Nat :=
  match s.sec.contentKey.bind fun k => openExport k exportId s.summaryLabel data tags with
  | none => (s, 0x4142)
  | some l => s.listSummary l

def State.onSummaryDrop (s : State) (conv : Nat) : State × Nat :=
  if (aget s.summaries conv).isNone then (s, 0x2144) else ({ s with summaries := adel s.summaries conv }, 0)

end Sys2Proof.Machine
end

