-- ==== Sys2Proof/Machine/Trust.lean ====
section
/-!
DEFINITION. The Trust Block: identity leaves and reports, owners, tickets and keys, Husks, meters and grants (R418 to R451). Cryptographic
outcomes are operands of the commands (log entry 6).
-/

namespace Sys2Proof.Machine

def State.inSec (s : State) (f : SecSt → SecSt) : State := { s with sec := f s.sec }

/-! ## Epochs and leaves (R420 to R424) -/

def epochMax : Nat := 32768
/-- Leaves of an epoch (R419). -/
def epochLeaves : Nat := 2 ^ 30

/-- The current owner's key digest, 0 when unowned (R428). -/
def SecSt.owner (x : SecSt) : Digest := x.owners.getLast?.getD 0

/-- No further identity signature can be made (R424). -/
def SecSt.leafExhausted (x : SecSt) : Bool :=
  x.epochs == epochMax && (match x.epoch with | some e => x.nextLeaf == (e + 1) * epochLeaves | none => !x.epochAsked)

/-- SEC_LEAF_LOW (R424). -/
def SecSt.leafLow (x : SecSt) : Bool := decide (epochMax - x.epochs < 1024)

/-- METER_SPENT of a Husk (R445). -/
def SecSt.spent (x : SecSt) (h : Digest) : Nat :=
  match aget x.meters h.toNat with
  | none => 0
  | some m => (m.macs + (if x.husk == some h then x.macs else 0) + 2 ^ 20 - 1) / 2 ^ 20 + m.carried

def flagBits (l : List Bool) : Nat := l.foldr (fun b n => (if b then 1 else 0) + 2 * n) 0

/-- The report of Table 15-3 signed with leaf q. -/
def State.attestRep (s : State) (nonce husk : Digest) (q : Nat) : AttestRep :=
  let fw := s.fwRun.bind fun b => s.nvm.fw[b]
  let im := if s.imgApplied then s.imgRun.bind fun b => s.nvm.img[b] else none
  let m := (aget s.sec.meters husk.toNat).getD {}
  { flags := flagBits [!s.sec.owners.isEmpty, s.sec.husk.isSome, s.sec.leafLow, s.sec.meters.any fun e => e.2.exhausted]
    nonce, fwDigest := (fw.map Firmware.digest).getD 0, fwVersion := ((fw.map Firmware.version).getD 0).toNat, fwSvn := (fw.map Firmware.svn).getD 0
    fwSvnMin := s.sec.fwSvnMin, imageSvn := ((im.map Image.svn).getD 0).toNat, imageDigest := (im.map Image.digest).getD 0
    owner := s.sec.owner, joinDigest := s.joinDigest, husk, spent := s.sec.spent husk, reserved := m.reserved, limit := m.limit
    grantSeq := m.grantSeq, address := if s.addrValid then s.addr else 0xFFFFFFFF, state := s.dev.code
    beat := if s.acquired then s.beat else 0, leaf := q, challenge := if s.sec.owners.isEmpty then s.sec.challenge else 0 }

/-- Bytes 0 to 383 of a report, which its signature covers (Table 15-3). -/
def reportBytes (r : AttestRep) (device kem : Digest) : List Byte :=
  natBe 2 1 ++ natBe 2 1 ++ natBe 4 r.flags ++ digestBytes device ++ digestBytes kem ++ digestBytes r.nonce ++ digestBytes r.fwDigest
    ++ natBe 4 r.fwVersion ++ natBe 2 r.fwSvn ++ natBe 2 r.fwSvnMin ++ natBe 4 r.imageSvn ++ natBe 4 0 ++ digestBytes r.imageDigest
    ++ digestBytes r.owner ++ digestBytes r.joinDigest ++ digestBytes r.husk ++ natBe 8 r.spent ++ natBe 8 r.reserved ++ natBe 8 r.limit
    ++ natBe 8 r.grantSeq ++ natBe 4 r.address ++ natBe 4 r.state ++ natBe 8 r.beat ++ natBe 8 r.leaf ++ digestBytes r.challenge ++ natBe 16 0

/-- An upper-level public key is formed when it is first needed (R422). -/
def State.formUpper (s : State) (n : Fin 2) (tree : Nat) : State :=
  if s.sec.upper[n].any fun k => k.tree == tree then s
  else s.inSec fun x => { x with upper := x.upper.set n (some (upperKey (Config.identitySeed x.uds) n tree)) }

/-- The identity signature of bottom leaf q over a message, with the upper-level keys as State holds them (R419, R422). -/
def State.identitySign (s : State) (q : Nat) (msg : List Byte) : HssSig :=
  let seed := Config.identitySeed s.sec.uds
  let c := Config.randomiser seed 2 q
  { leaf := q, c, value := lmsValue seed c 2 q msg, level1 := s.sec.upper[0], level2 := s.sec.upper[1] }

/-- A report goes out with the encapsulation key and the device certificate (R425, R502). -/
def State.sendReport (s : State) (r : AttestRep) : State := s.send [.attest r s.sec.encapKey s.nvm.cert]

/-- The transcript digest T of a handshake (R489). -/
def transcript (payload : List Byte) (session : Nat) (nonce : Digest) : Digest :=
  Config.sha256 (payload ++ natBe 4 session ++ digestBytes nonce)

/-- The keys of a session, towards the device and from it (R489): of the secret that KEM_CT of the INIT payload gives, both nonces and the transcript. -/
def sessionKeys (decapKey payload : List Byte) (nonce tr : Digest) : Digest × Digest :=
  let k := Config.hkdf64 (digestBytes (Config.kemDecaps decapKey (payload.drop 68))) (payload.take 32 ++ digestBytes nonce) (ascii "umyan" ++ digestBytes tr)
  (k.extractLsb' 256 256, k.extractLsb' 0 256)

/-- A request is signed with leaf q (R421, R425, R489). The last 16 reports are kept (R502). An ACCEPT opens its session: it draws N_d. -/
def State.signOne (s : State) (r : SignReq) (q : Nat) : State :=
  let t := (s.formUpper 0 (q / epochLeaves)).formUpper 1 (q / 32768)
  match r with
  | .accept authority client key payload =>
    let id := t.nextSession
    let nonce := Config.trng t.sec.draws
    let tr := transcript payload id nonce
    let keys := sessionKeys t.sec.decapKey payload nonce tr
    let x : SessionSt := { authority, client, key, transcript := tr, keyIn := keys.1, keyOut := keys.2 }
    (({ t with nextSession := id + 1, sessions := aput t.sessions id x } : State).inSec fun x => { x with draws := x.draws + 1 }).send
      [.accept id nonce (t.identitySign q (digestBytes tr))]
  | .report nonce husk =>
    let x := t.attestRep nonce husk q
    let y := { x with signature := some (t.identitySign q (reportBytes x t.deviceId (Config.sha256 t.sec.encapKey))) }
    (t.inSec fun z => { z with reports := (z.reports ++ [y]).drop (z.reports.length + 1 - 16) }).sendReport y

/-- A request that no leaf can sign is rejected (R424), and nothing else changes (R19). -/
def State.signRefuse (s : State) (code : Nat) (r : SignReq) : State :=
  (s.reject code (match r with | .accept .. => 5 | .report .. => 9)).send [.plainStatus code]

/-- Waiting requests are signed while reserved leaves last; then a block, or at the end of the epoch a new epoch, is asked for. -/
def State.pumpSign : Nat → State → State
  | 0, s => s
  | n + 1, s =>
    match s.sec.waiting with
    | [] => s
    | r :: rest =>
      if !s.sec.keys || s.sec.epochAsked || s.sec.leafAsked then s
      else if s.sec.leafExhausted then
        State.pumpSign n ((s.inSec fun x => { x with waiting := rest }).signRefuse 0x4010 r)
      else
        match s.sec.epoch with
        | none => (s.inSec fun x => { x with epochAsked := true }).journal (.epochOpen s.sec.epochs)
        | some e =>
          if s.sec.nextLeaf = (e + 1) * epochLeaves then
            (s.inSec fun x => { x with epochAsked := true }).journal (.epochOpen s.sec.epochs)
          else if s.sec.nextLeaf < s.sec.leafEnd then
            let q := s.sec.nextLeaf
            State.pumpSign n ((s.inSec fun x => { x with waiting := rest, nextLeaf := q + 1 }).signOne r q)
          else (s.inSec fun x => { x with leafAsked := true }).journal (.leafReserve s.sec.nextLeaf)

def State.signAll (s : State) : State := State.pumpSign (s.sec.waiting.length + 1) s

/-- A request for an identity signature (R423, R424). `busy`: 1,024 signatures have been made in the current window of local time. -/
def State.requestSign (s : State) (busy : Bool) (r : SignReq) : State :=
  if s.sec.leafExhausted then s.signRefuse 0x4010 r
  else if busy || decide (1024 ≤ s.sec.waiting.length) then s.signRefuse 0x4011 r
  else (s.inSec fun x => { x with waiting := x.waiting ++ [r] }).signAll

/-- An epoch-open record is durable (R420): the bit is burned; one that fails verification counts as burned and the next is tried. -/
def State.epochDurable (s : State) (e : Nat) (burnOk : Bool) : State :=
  let s1 := s.inSec fun x => { x with epochs := max x.epochs (e + 1), epochAsked := false }
  if burnOk then
    (s1.inSec fun x => { x with epoch := some e, nextLeaf := e * epochLeaves, leafEnd := e * epochLeaves }).signAll
  else s1.signAll

/-- A leaf reservation is durable (R421). -/
def State.leavesDurable (s : State) (q : Nat) : State := (s.inSec fun x => { x with leafAsked := false, leafEnd := q + 64 }).signAll

/-! ## ATTEST (R426, R502) -/

/-- ATTEST (R8, R426, R502): a kept report is sent again; otherwise one is signed. -/
def execAttest (q : AttestReq) (reservedOk busy : Bool) (s : State) : Host.Outcome State Fault Refusal :=
  .next (
    if s.dev == .off || s.dev == .reset then s
    else if !reservedOk then (s.reject 0x2001 9).send [.plainStatus 0x2001]
    else match s.sec.reports.find? fun r => r.nonce == q.nonce && r.husk == q.husk with
      | some r => s.sendReport r
      | none => s.requestSign busy (.report q.nonce q.husk))

/-! ## Owners (R427, R428) -/

/-- OWNER_CLAIM (R427): a plain frame outside a session, answered by a plain STATUS. -/
def execOwnerClaim (r : OwnerClaim) (sig : SigInfo) (reservedOk : Bool) (s : State) : Host.Outcome State Fault Refusal :=
  .next (
    let no (code : Nat) : State := (s.reject code 5).send [.plainStatus code]
    if s.dev == .off || s.dev == .reset then s
    else if !reservedOk then no 0x2001
    else if s.dev == .boot || s.dev == .hold || s.dev == .halt then no 0x2002
    else if !sig.valid then no 0x4001
    else if !s.sec.owners.isEmpty then no 0x4020
    else if r.challenge != s.sec.challenge then no 0x4022
    else (s.inSec fun x => { x with owners := [r.key] }).send [.plainStatus 0])

/-- OWNER_TRANSFER (R428, R429): signed by the current owner key, it burns the next owner's digest into the next free slot. -/
def State.onOwnerTransfer (s : State) (next signer : Digest) (sig : SigInfo) : State × Nat :=
  if !sig.valid then (s, 0x4001)
  else if s.sec.owners.isEmpty || signer != s.sec.owner then (s, 0x4002)
  else if 16 ≤ s.sec.owners.length then (s, 0x4021)
  else (s.inSec fun x => { x with owners := x.owners ++ [next] }, 0)

/-! ## Tickets and the storage key (R432) -/

def State.onTicket (s : State) (client : Nat) (key : Digest) : State × Nat :=
  if (aget s.sec.tickets client).isSome || decide (s.sec.tickets.length < 4096) then
    (s.inSec fun x => { x with tickets := aput x.tickets client key }, 0)
  else (s, 0)

/-- Exports that wait for the storage key go out (R451). -/
def State.pumpExports (s : State) : State := ((s.plan.map Plan.jobs).getD []).foldl State.pumpExport s

def State.onStorageKey (s : State) (key : Digest) : State × Nat := ((s.inSec fun x => { x with storageKey := some key }).pumpExports, 0)

/-! ## Husks (R434 to R442, R449) -/

/-- A region's key rotates (R449): what it held cannot be read again, so its bytes are as never written (log entry 1). -/
def State.rotate (s : State) (k : RegionKind) : State :=
  match s.plan.bind fun p => p.regionOf k with
  | none => s
  | some r =>
    let n := (aget s.sec.rotation r.index).getD 0
    ({ s with mem := memZero s.mem r.base r.size }).inSec fun x => { x with rotation := aput x.rotation r.index (n + 1) }

end Sys2Proof.Machine

namespace Sys2Proof
open Machine

def TableRec.bytesPerRow (t : TableRec) : Nat := t.d * ((fmtdFmt t.fmt).getD .fp32).width / 8

end Sys2Proof

namespace Sys2Proof.Machine

/-- Shards of teacher tables on this device. -/
def State.teacherShards (s : State) : List (TableRec × ShardRec) :=
  let p := s.plan.getD {}
  (p.tables.filter TableRec.teacher).flatMap fun t => (p.shards.filter fun h => h.table == t.table && h.remote.isNone).map fun h => (t, h)

/-- Unbinding (R438, R441): K_c is erased, the teacher-region key rotates, the shards of teacher tables are zero-filled; the entry stays. -/
def State.unbind (s : State) : State :=
  match s.sec.husk with
  | none => s
  | some h =>
    let s1 := s.returnStations
    let m := (aget s1.sec.meters h.toNat).getD {}
    let s2 := s1.inSec fun x => { x with husk := none, huskObj := none, contentKey := none, policy := 0, licensor := 0, macs := 0
                                         meters := aput x.meters h.toNat { m with macs := m.macs + x.macs } }
    let mem := s2.teacherShards.foldl (fun mm (t, g) => memZero mm (s2.regionBase .table + g.off) (g.nrows * t.bytesPerRow)) s2.mem
    ({ s2 with mem }).rotate .teacher

/-- Strictly ascending numbers. -/
def rising : List Nat → Bool
  | a :: b :: r => decide (a < b) && rising (b :: r)
  | _ => true

/-- Tensor entries in ascending OFFSET that do not overlap, none past `total` (R435). -/
def tensorsOk (total : Nat) : List HuskTensor → Bool
  | a :: b :: r => decide (a.off + a.bytes ≤ b.off) && tensorsOk total (b :: r)
  | [a] => decide (a.off + a.bytes ≤ total)
  | [] => true

/-- Granules of a Husk (R437), and the first granule of its table tensors (R438). -/
def huskGranules (h : Husk) : Nat := (h.teacherBytes + 4095) / 4096
def firstTableGranule (h : Husk) : Nat := match h.tensors.find? HuskTensor.table with | some t => t.off / 4096 | none => huskGranules h

/-- Offsets at multiples of their unit, every table tensor after every teacher-region tensor, and formats under R163. -/
def huskLayoutOk (h : Husk) (region : Nat) : Bool :=
  (h.tensors.all fun t => t.off % (if t.table then 4096 else 128) == 0 && fmtdStored t.fmtd && (t.table || decide (t.off + t.bytes ≤ region)))
    && (h.tensors.dropWhile fun t => !t.table).all HuskTensor.table

/-- Where byte o of granule n is stored on this device: none where the device does not hold it (R438). -/
def State.granuleAddr (s : State) (h : Husk) (n o : Nat) : Option Nat :=
  if n < firstTableGranule h then some (s.regionBase .teacher + 4096 * n + o)
  else
    let b := 4096 * n + o
    (h.tensors.find? fun t => t.table && decide (t.off ≤ b) && decide (b < t.off + t.bytes)).bind fun t =>
      (s.teacherShards.find? fun (tb, g) => tb.tensorId == t.tensorId && decide (g.row0 * tb.bytesPerRow ≤ b - t.off)
        && decide (b - t.off < (g.row0 + g.nrows) * tb.bytesPerRow)).map fun (tb, g) =>
          s.regionBase .table + g.off + (b - t.off - g.row0 * tb.bytesPerRow)

/-- Size of the plan's teacher region. -/
def State.teacherSize (s : State) : Nat := ((s.plan.bind fun p => p.regionOf .teacher).map RegionRec.size).getD 0

/-- Writing a granule of a Husk: bytes at and past TEACHER_BYTES are 0 (R437); nothing past the teacher region is written (R28), and of a table granule
only the bytes of the shards on this device (R438). -/
def State.putGranule (s : State) (h : Husk) (n : Nat) (plain : List Byte) : State :=
  let l := plain.take (min 4096 (h.teacherBytes - 4096 * n))
  let l := l ++ List.replicate (4096 - l.length) 0
  if n < firstTableGranule h then
    { s with mem := memPutBytes s.mem (s.regionBase .teacher + 4096 * n) (l.take (s.teacherSize - 4096 * n)) }
  else
    { s with mem := l.zipIdx.foldl (fun m (b, o) => match s.granuleAddr h n o with | some a => memPut m a b | none => m) s.mem }

/-- Whether the plan places bytes of granule n on this device. -/
def State.holdsGranule (s : State) (h : Husk) (n : Nat) : Bool := (List.range 4096).any fun o => (s.granuleAddr h n o).isSome

/-- Whether this device holds all of granule n, so that it can form its chunk. -/
def State.holdsWhole (s : State) (h : Husk) (n : Nat) : Bool :=
  (List.range 4096).all fun o => decide (h.teacherBytes ≤ 4096 * n + o) || (s.granuleAddr h n o).isSome

/-- The plain bytes of granule n as this device holds them. -/
def State.granulePlain (s : State) (h : Husk) (n : Nat) : List Byte :=
  (List.range 4096).map fun o => if h.teacherBytes ≤ 4096 * n + o then 0 else ((s.granuleAddr h n o).map (memGet s.mem)).getD 0

/-- K_c as this device unwraps it from its recipient entry (R436). -/
def State.unwrapKey (s : State) (h : Husk) : Option Digest :=
  (h.recipients.find? fun e => e.device == s.deviceId).bind fun e => Config.keyUnwrap (h.kek (Config.kemDecaps s.sec.decapKey e.kemCt)) e.wrapped

/-- Steps 1 to 3 of R439: the form of the Husk, its licensor and signature, and the plan's declaration. -/
def State.huskHeadCode (s : State) (h : Husk) : Nat :=
  if !h.formOk || !(rising (h.recipients.map fun e => e.device.toNat)) || !(tensorsOk h.teacherBytes h.tensors) then 0x4100
  else if !s.img.licensorKeys.contains h.licensor then 0x4102
  else if !h.sig.valid then 0x4001
  else if (s.plan.map Plan.huskDigest) != some h.huskDigest then 0x4104
  else 0

/-- The formats that the plan fixes for teacher tensors are those of the Husk (R163). -/
def State.huskFormatsOk (s : State) (h : Husk) : Bool :=
  ((s.plan.map Plan.teacherTensors).getD []).all fun x => h.tensors.all fun t => t.tensorId != x.1 || t.fmtd.toNat % 32 == x.2.toNat % 32

/-- The check of R439 that fails first, if any. `peer`: the chunks come from bound peers, as one list for each source. -/
def State.huskCode (s : State) (h : Husk) (peer : Bool) (srcs : List (List HuskChunk)) : Nat :=
  let total := huskGranules h
  let all := srcs.flatten
  let nums := all.map HuskChunk.n
  if s.huskHeadCode h ≠ 0 then s.huskHeadCode h
  else match s.unwrapKey h with
    | none => 0x4101
    | some key =>
      if !h.digestsOk || !huskLayoutOk h s.teacherSize || !s.huskFormatsOk h then 0x4105
      else if (aget s.sec.meters h.huskId.toNat).isNone && decide (1024 ≤ s.sec.meters.length) then 0x4121
      else if !(srcs.all fun l => rising (l.map HuskChunk.n)) || decide (nums.eraseDups.length < nums.length)
          || !(all.all fun c => decide (c.n < total) && (h.openChunk key c).isSome) then 0x4103
      else if peer && !((List.range total).all fun n => nums.contains n || !s.holdsGranule h n) then 0x4103
      else if !peer && (nums.length != total || !h.rootOk all) then 0x4103
      else 0

/-- The Husk is bound (step 9 of R439): its granules are written, its meter entry is resumed or made, and a bind record is journalled. -/
def State.bindHusk (s : State) (h : Husk) (key : Digest) (srcs : List (List HuskChunk)) : State :=
  let s1 := srcs.flatten.foldl (fun (t : State) c => t.putGranule h c.n ((h.openChunk key c).getD [])) s
  let m := (aget s1.sec.meters h.huskId.toNat).getD {}
  let m1 := { m with licensor := h.licensor, limit := if m.granted then m.limit else h.meterLimit }
  (s1.inSec fun x =>
    { x with husk := some h.huskId, huskObj := some { h with chunks := [] }, contentKey := some key, policy := h.policy, licensor := h.licensor
             macs := 0, meters := aput x.meters h.huskId.toNat m1 }).journal (.huskBind h.huskId h.huskDigest h.licensor h.meterLimit)

/-- A Husk load (R439): it binds the Husk, or fails with a code, K_c is erased and the teacher-region key rotates, and nothing else changes. DESIGN
CHOICE (log entry 123): a load is possible while the plan's teacher region holds no Husk. Where one is bound, a delivery passes steps 1 to 3 and has no
effect on it. -/
def State.loadHusk (s : State) (h : Husk) (peer : Bool) (srcs : List (List HuskChunk)) : State × Nat :=
  if s.sec.husk.isSome then (s, s.huskHeadCode h)
  else
    let code := s.huskCode h peer srcs
    if code ≠ 0 then ((s.inSec fun x => { x with contentKey := none }).rotate .teacher, code)
    else (s.bindHusk h ((s.unwrapKey h).getD 0) srcs, 0)

/-- Delivery of a Husk by the operator; before key derivation it waits, which the code 0xFFFF marks (R458). -/
def State.onHusk (s : State) (id psn : Nat) (h : Husk) : State × Nat :=
  if s.sec.keys then s.loadHusk h false [h.chunks]
  else (s.inSec fun x => { x with held := x.held ++ [⟨id, psn, h⟩] }, 0xFFFF)

/-- HUSK_REMOVE: the operator, or the licensor of the Husk, unbinds it. -/
def State.onHuskRemove (s : State) (id : Nat) (husk : Digest) : State × Nat :=
  if s.sec.husk != some husk then (s, 0)
  else match s.session id with
    | some x => if x.authority == .licensor && x.key != s.sec.licensor then (s, 0x4003) else (s.unbind, 0)
    | none => (s, 0)

/-- The bound Husk as this device serves it: header, signature and tables, and the chunks of the granules that it holds, sealed again (R440). -/
def State.servedHusk (s : State) (h : Husk) : Husk :=
  let key := s.sec.contentKey.getD 0
  { h with chunks := ((List.range (huskGranules h)).filter (s.holdsWhole h)).map fun n => h.sealGranule key n (s.granulePlain h n) }

/-- PEER_LOAD (R440): this device serves the chunks it holds to `dst`, or takes a Husk from bound peers, one list of chunks for each
source. -/
def execPeerLoad (dst : Option Nat) (h : Husk) (srcs : List (List HuskChunk)) (s : State) : Host.Outcome State Fault Refusal :=
  .next (match dst with
    | some a =>
      match s.sec.huskObj with
      | none => s
      | some b =>
        if s.sec.husk != some h.huskId then s
        else if !s.exportBit 3 then s.reject 0x4106
        else s.send [.huskPeer a (s.servedHusk b)]
    | none =>
      if !(h.policy.getLsbD 3 && s.img.exportPolicy.getLsbD 3) then s.reject 0x4106
      else
        let (s1, code) := s.loadHusk h true srcs
        if code = 0 then s1 else s1.reject code)

/-! ## Meters (R443 to R448) -/

/-- Units that a request gives a station at most, in teacher MACs (R445). -/
def grantUnit : Nat := 2 ^ 16 * 2 ^ 20

/-- A station takes what the Trust Block has, up to 2^16 units. -/
def State.fillStation (s : State) (h : Digest) (st : Fin 10) : State :=
  let m := (aget s.sec.meters h.toNat).getD {}
  let n := min grantUnit m.pool
  s.inSec fun x => { x with station := x.station.set st (x.station[st] + n), meters := aput x.meters h.toNat { m with pool := m.pool - n }
                            short := if n = 0 then x.short else x.short.filter (· != st) }

/-- METER_REQUEST (R445, R446): a short station takes units; with none at hand a block is reserved, and with none left to reserve the meter
entry is exhausted. -/
def execMeterRequest (st : Fin 10) (s : State) : Host.Outcome State Fault Refusal :=
  .next (match s.sec.husk with
    | none => s
    | some h =>
      let m := (aget s.sec.meters h.toNat).getD {}
      if s.sec.exhausted then s
      else if 0 < m.pool then (s.fillStation h st).pumpAll
      else
        let wait (x : SecSt) : List (Fin 10) := if x.short.contains st then x.short else x.short ++ [st]
        if m.asked.isSome then s.inSec fun x => { x with short := wait x }
        else
          let n := min (2 ^ 28) (m.limit - m.reserved)
          if n = 0 then (s.inSec fun x => { x with meters := aput x.meters h.toNat { m with exhausted := true } }).pumpAll
          else (s.inSec fun x => { x with short := wait x, meters := aput x.meters h.toNat { m with asked := some n } }).journal
            (.meterReserve h (m.reserved + n)))

/-- A reservation is durable: its units may be issued, to waiting stations in the order TCD 0 to 3, MSD 0 to 5. -/
def State.reserveDurable (s : State) (h : Digest) (total : Nat) : State :=
  let m := (aget s.sec.meters h.toNat).getD {}
  let n := total - m.reserved
  let s1 := s.inSec fun x => { x with meters := aput x.meters h.toNat { m with reserved := total, pool := m.pool + n * 2 ^ 20, asked := none } }
  if s1.sec.husk == some h then
    (((List.finRange 10).filter fun st => s1.sec.short.contains st).foldl (fun (t : State) st => t.fillStation h st) s1).pumpAll
  else s1

/-- A METER_GRANT (R429, R447): signed by the licensor key of the Husk whose entry it names; a licensor's session brings grants for its own Husks only
(Table 15-5). -/
def State.onMeterGrant (s : State) (id : Nat) (g : Grant) : State × Nat :=
  let foreign : Bool := match s.session id with
    | some x => x.authority == .licensor && (aget s.sec.meters g.huskId.toNat).any fun m => m.licensor != x.key
    | none => false
  if !g.sig.valid then (s, 0x4001)
  else if foreign then (s, 0x4003)
  else match aget s.sec.meters g.huskId.toNat with
    | none => (s, 0x4122)
    | some m =>
      if g.signer != m.licensor then (s, 0x4002)
      else if !g.reservedOk || g.deviceId != s.deviceId || decide (g.seq ≤ m.grantSeq) || decide (g.limit < m.limit) then (s, 0x4122)
      else (s.journal (.meterGrant g.huskId g.seq g.limit), 0)

/-- A grant is durable and takes effect: it ends the exhausted state (R447, R475). -/
def State.grantDurable (s : State) (h : Digest) (seq limit : Nat) : State :=
  match aget s.sec.meters h.toNat with
  | none => s
  | some m =>
    if seq ≤ m.grantSeq then s
    else
      s.inSec fun x => { x with meters := aput x.meters h.toNat { m with grantSeq := seq, limit, granted := true, exhausted := false } }

end Sys2Proof.Machine
end

