-- ==== Sys2Proof/Machine/Journal.lean ====
section
/-!
DEFINITION. The journal: durable records and the actions that wait for them, the order of replay and compaction (R420, R421, R444, R445,
R473 to R478).
-/

namespace Sys2Proof.Machine

/-! ## Record lengths (R474, Table 16-10) -/

/-- TYPE of a record. -/
def JnlBody.type : JnlBody → Nat
  | .epochOpen _ => 0x01
  | .leafReserve _ => 0x02
  | .meterReserve .. => 0x03
  | .meterGrant .. => 0x04
  | .huskBind .. => 0x05
  | .svnMin _ => 0x06
  | .manifest .. => 0x07
  | .stored .. => 0x08
  | .fault _ => 0x09
  | .stepSkip .. => 0x0A
  | .straggler .. => 0x0B
  | .scaleRecovery .. => 0x0C
  | .boot .. => 0x0D
  | .beatMark => 0x0E

/-- The fields of a body in bytes. Widths and order that Table 16-10 does not give are those of log entry 11. -/
def JnlBody.bytes : JnlBody → List Byte
  | .epochOpen e => natBe 4 e
  | .leafReserve q => natBe 8 q
  | .meterReserve h n => digestBytes h ++ natBe 8 n
  | .meterGrant h q l => digestBytes h ++ natBe 8 q ++ natBe 8 l
  | .huskBind h d l n => digestBytes h ++ digestBytes d ++ digestBytes l ++ natBe 8 n
  | .svnMin v => natBe 4 v
  | .manifest m h => manifestBytes m ++ h
  | .stored j v r => natBe 4 j ++ natBe 8 v ++ natBe 4 r
  | .fault f => faultBytes f
  | .stepSkip j p r => natBe 4 j ++ natBe 8 p ++ natBe 1 r
  | .straggler j p c i a q => natBe 4 j ++ natBe 8 p ++ natBe 2 c ++ natBe 2 i ++ natBe 4 a ++ natBe 4 q
  | .scaleRecovery j v n r => natBe 4 j ++ natBe 8 v ++ natBe 2 n ++ natBe 2 r
  | .boot n f i v z => natBe 4 n ++ natBe 1 f ++ natBe 1 i ++ natBe 4 v ++ natBe 2 z.toNat
  | .beatMark => []

/-- LENGTH of a record: a multiple of 32. -/
def JnlRec.size (r : JnlRec) : Nat := (40 + r.body.bytes.length + 31) / 32 * 32

/-- K_jnl (R474). -/
def jnlKey (uds : Digest) : Digest := Config.hkdf (digestBytes uds) [] (ascii "journal")

/-- A record of the journal as the NVM holds it (Table 16-9): head, body with zeros up to LENGTH, and TAG. -/
def jnlBytes (key : Digest) (type length seq time : Nat) (body : List Byte) : List Byte :=
  let l := natBe 1 type ++ [0] ++ natBe 2 length ++ natBe 4 0 ++ natBe 8 seq ++ natBe 8 time ++ body ++ List.replicate (length - 40 - body.length) 0
  l ++ (digestBytes (Config.hmac (digestBytes key) l)).take 16

def JnlRec.bytes (key : Digest) (r : JnlRec) : List Byte := jnlBytes key r.body.type r.size r.seq r.time r.body.bytes

/-- What a half holds from its start (R473): HALF_OPEN, COMPLETE where it stands, and the records; nothing where it is erased. -/
def Half.bytes (key : Digest) (h : Half) : List Byte :=
  if h.erased then []
  else jnlBytes key 0x80 64 0 0 (natBe 8 h.gen ++ natBe 8 h.snap)
    ++ (if h.complete then jnlBytes key 0x81 64 0 0 (natBe 8 h.gen ++ natBe 8 h.copied) else List.replicate 64 0xFF)
    ++ h.recs.flatMap (JnlRec.bytes key)

/-- The records of a half up to the first whose SEQ is not that of a valid record (R474): `prev` is the SEQ of the last valid one. -/
def validRecs (snap : Nat) : Option Nat → List JnlRec → List JnlRec
  | _, [] => []
  | prev, r :: rest =>
    let ok : Bool := if r.seq ≤ snap then prev.all (· < r.seq)
      else r.seq == (match prev with | some p => max p snap + 1 | none => snap + 1)
    if ok then r :: validRecs snap (some r.seq) rest else []

def halfBytes : Nat := 8 * 2 ^ 20
/-- The fill at which compaction starts: 75 % of a half (R477). -/
def compactAt : Nat := 6291456

/-- Bytes of a half in use. -/
def Half.fill (h : Half) : Nat := 128 + (h.recs.map JnlRec.size).foldl (· + ·) 0

/-- The active half (R473). -/
def JnlSt.act (x : JnlSt) : Half := x.half[x.active]
def JnlSt.other (x : JnlSt) : Fin 2 := 1 - x.active

/-- A request finds the active half full, and waits (R475). -/
def JnlSt.waits (x : JnlSt) : Bool :=
  match x.queue with
  | r :: _ => decide (halfBytes < x.act.fill + r.size)
  | [] => false

/-! ## Durable records (R475) -/

/-- What waits for a record begins. `burnOk`: the fuse bit that an EPOCH_OPEN record precedes verifies. -/
def State.recordDurable (s : State) (r : JnlRec) (burnOk : Bool) : State :=
  match r.body with
  | .epochOpen e => s.epochDurable e burnOk
  | .leafReserve q => s.leavesDurable q
  | .meterReserve h n => s.reserveDurable h n
  | .meterGrant h n l => s.grantDurable h n l
  | .manifest m _ => s.manifestDurable m
  | .svnMin v => s.inSec fun x => { x with imageSvnMin := max x.imageSvnMin v }
  | _ => s

/-- JOURNAL_DURABLE (R363, R475): the NVM reports the last page of the oldest waiting record programmed. -/
def execJournalDurable (burnOk : Bool) (s : State) : Host.Outcome State Fault Refusal :=
  .next (match s.jnl.queue with
    | [] => s
    | r :: rest =>
      if s.jnl.waits || s.jnl.torn || !s.jnl.act.complete then s
      else
        let h := s.jnl.act
        let x := { s.jnl with queue := rest, hwm := max s.jnl.hwm r.time, half := s.jnl.half.set s.jnl.active { h with recs := h.recs ++ [r] } }
        ({ s with jnl := x } : State).recordDurable r burnOk)

/-! ## Compaction (R477, R478) -/

/-- SEQ of the kept MANIFEST of a job among records: the latest. -/
def manifestSeq (l : List JnlRec) (job : Nat) : Option Nat :=
  l.reverse.findSome? fun r => match r.body with
    | .manifest m _ => if m.job = job then some r.seq else none
    | _ => none

/-- Version of the kept MANIFEST of a job. -/
def manifestVersion (l : List JnlRec) (job : Nat) : Option Nat :=
  l.reverse.findSome? fun r => match r.body with
    | .manifest m _ => if m.job = job then some m.version else none
    | _ => none

/-- Whether the snapshot keeps a record, `later` being the records after it (Table 16-10). -/
def keptRec (all later : List JnlRec) (r : JnlRec) : Bool :=
  let afterManifest (job : Nat) : Bool := match manifestSeq all job with | some q => decide (q < r.seq) | none => true
  match r.body with
  | .epochOpen _ => !later.any fun x => match x.body with | .epochOpen _ => true | _ => false
  | .leafReserve _ => !later.any fun x => match x.body with | .leafReserve _ => true | _ => false
  | .meterReserve h _ => !later.any fun x => match x.body with | .meterReserve g _ => g == h | _ => false
  | .meterGrant h _ _ => !later.any fun x => match x.body with | .meterGrant g _ _ => g == h | _ => false
  | .huskBind h .. => !later.any fun x => match x.body with | .huskBind g .. => g == h | _ => false
  | .svnMin _ => !later.any fun x => match x.body with | .svnMin _ => true | _ => false
  | .manifest m _ => manifestSeq all m.job == some r.seq
  | .stored job v _ => manifestVersion all job == some v
  | .fault _ => decide ((later.filter fun x => match x.body with | .fault _ => true | _ => false).length < 256)
  | .stepSkip job _ _ => afterManifest job
  | .straggler job .. => afterManifest job
  | .scaleRecovery job .. => afterManifest job
  | .boot .. => !later.any fun x => match x.body with | .boot .. => true | _ => false
  | .beatMark => !later.any fun x => match x.body with | .beatMark => true | _ => false

/-- The snapshot of a half's records. -/
def snapshot (all : List JnlRec) : List JnlRec → List JnlRec
  | [] => []
  | r :: rest => if keptRec all rest r then r :: snapshot all rest else snapshot all rest

/-- COMPACTION (R476, R477): at 75 % fill or after a torn record, the ready half gets HALF_OPEN and the snapshot. -/
def execCompaction (s : State) : Host.Outcome State Fault Refusal :=
  .next (
    let x := s.jnl
    let o := x.half[x.other]
    if x.compact.isSome || !x.act.complete || !o.erased || !(decide (compactAt ≤ x.act.fill) || x.torn) then s
    else
      let k := (x.act.recs.getLast?.map JnlRec.seq).getD x.act.snap
      let new : Half := { erased := false, gen := x.act.gen + 1, snap := k, complete := false, recs := snapshot x.act.recs x.act.recs }
      { s with jnl := { x with half := x.half.set x.other new, compact := some k } })

/-- COMPACTION_COMPLETE (R477): records after the snapshot point are copied, COMPLETE is written, and the new half is active. -/
def execCompactionComplete (s : State) : Host.Outcome State Fault Refusal :=
  .next (match s.jnl.compact with
    | none => s
    | some k =>
      let x := s.jnl
      let n := x.half[x.other]
      let tail := x.act.recs.filter fun r => decide (k < r.seq)
      ({ s with jnl := { x with half := x.half.set x.other { n with complete := true, recs := n.recs ++ tail, copied := ((n.recs ++ tail).getLast?.map JnlRec.seq).getD k }
                                active := x.other, compact := none, torn := false } } : State).count cntJnlCompact)

/-- HALF_ERASE_COMPLETE (R477): the erase of the half that is not active ends. -/
def execHalfEraseComplete (s : State) : Host.Outcome State Fault Refusal :=
  .next (if s.jnl.compact.isSome then s else { s with jnl := { s.jnl with half := s.jnl.half.set s.jnl.other {} } })

/-! ## Replay (R476) -/

/-- One record updates the device's state at replay. -/
def State.replayRec (s : State) (r : JnlRec) : State :=
  let meter (h : Digest) (f : MeterSt → MeterSt) : State :=
    s.inSec fun x => { x with meters := aput x.meters h.toNat (f ((aget x.meters h.toNat).getD {})) }
  match r.body with
  | .meterReserve h n => meter h fun m => { m with reserved := n, carried := n }
  | .meterGrant h q l => meter h fun m => { m with grantSeq := q, limit := l, granted := true }
  | .huskBind h _ l n => meter h fun m => { m with licensor := l, limit := if m.granted then m.limit else n }
  | .svnMin v => s.inSec fun x => { x with imageSvnMin := v }
  | .manifest m _ => s.setJob m.job { (s.jobSt m.job) with committed := some m.version }
  | _ => s

/-- Replay at step 5 of a boot (R476): the active half is read, BEAT_HWM set; without a valid COMPLETE record half 0 is opened fresh. Answers
whether the journal was opened fresh, which the BOOT record says. `torn`: a unit that is not erased fails before the erased end; so does a record whose
SEQ is out of its order. -/
def State.replay (s : State) (torn : Bool) : State × Bool :=
  let x := s.jnl
  let h0 := x.half[(0 : Fin 2)]
  let h1 := x.half[(1 : Fin 2)]
  let active : Option (Fin 2) :=
    if h0.complete && (!h1.complete || decide (h1.gen ≤ h0.gen)) then some 0 else if h1.complete then some 1 else none
  match active with
  | some a =>
    let recs := validRecs x.half[a].snap none x.half[a].recs
    let torn := torn || decide (recs.length < x.half[a].recs.length)
    let hwm := recs.foldl (fun m r => max m r.time) 0
    let s1 := recs.foldl State.replayRec s
    let last := (recs.getLast?.map JnlRec.seq).getD x.half[a].snap
    let s2 : State := { s1 with jnl := { half := x.half.set a { x.half[a] with recs }, active := a, seq := last, hwm, torn } }
    (if torn then s2.count cntJnlTorn else s2, false)
  | none =>
    let fresh : JnlSt := { half := #v[{ erased := false, gen := 1, complete := true }, {}] }
    let s1 : State := { s with jnl := fresh }
    (if h0.erased && h1.erased then s1 else s1.report 0x1050 .none, true)

end Sys2Proof.Machine
end

