-- ==== Sys2Proof/Machine/Update.lean ====
section
/-!
DEFINITION. The Fused Update Unit on buckets and sparse rows, parameter distribution, and the READY records that follow (R246 to R251,
R260 to R262, R276, R279 to R281).
-/

namespace Sys2Proof.Machine

/-! ## The FUU on a dense bucket (R246, R261, R276) -/

/-- Rounding of a new weight under WDESC (R246). -/
def State.weightBits (s : State) (u : UpdRec) (step i : Nat) (v : Num) : Nat :=
  let sr : SrCtx := { rnd := fmtdRnd u.wdesc, enabled := decide (s.img.numeric.srEnable = 1), bits := s.img.numeric.srBits, purpose := 1
                      tensorId := u.tensorId, step, seed := ((s.plan.map Plan.seed).getD 0).toNat }
  (roundTo .bf16 false (sr.mode i) v).bits

/-- Writing weight i in a slot with its FP8 copy, whose value is captured (R248, R255). -/
def State.putWeight (s : State) (c : Fin 8) (base : Nat) (u : UpdRec) (step i w : Nat) : State :=
  let s1 : State := { s with mem := memPutLe s.mem (wAddr base u i) 2 w }
  if u.copy = 0 then s1
  else
    let e := ((s.ctxJob c).hist.getD u.hist {}).copyExp
    let x : Num := match decode .bf16 w with | .fin v => .fin (v * pow2 e) | z => z
    ({ s1 with mem := memPut s1.mem (copyAddr base u i) (BitVec.ofNat 8 (copyBits u e w)) }).capture
      ((s.jobOf c).map fun (j : JobRec) => ⟨j.job, u.hist, step, e⟩) [x]

/-- Weight i and its FP8 copy go from one slot to another unchanged (R261). -/
def State.moveWeight (s : State) (from_ into : Nat) (u : UpdRec) (i : Nat) : State :=
  let m := memPutBytes s.mem (wAddr into u i) (memGetBytes s.mem (wAddr from_ u i) 2)
  { s with mem := if u.copy = 0 then m else memPutBytes m (copyAddr into u i) (memGetBytes m (copyAddr from_ u i) 1) }

/-- Moment n of weight i is stored in a bank when the program has it (R246). -/
def State.putMoment (s : State) (u : UpdRec) (nmom : Nat) (bank : Bool) (i n : Nat) (v : Num) : State :=
  if n < nmom then { s with mem := memPutLe s.mem (s.momAddr u bank n i) 4 (roundRne .fp32 v).bits } else s

/-- One element of a shard: the state after it and whether a stored value is not finite. -/
def State.fuuOne (s : State) (r : ExchRec) (st : StageRec) (u : UpdRec) (b : BucketRec) (sum : SumSt) (cur shadow : Fin 2) (k : Nat) : State × Bool :=
  let t := s.ctxJob st.ctx
  let i := weightIndex u b k
  let w := memGetLe s.mem (wAddr (s.slotAddr st cur) u i) 2
  let out := s.slotAddr st shadow
  if sum.nonfinite then (s.moveWeight (s.slotAddr st cur) out u i, false)
  else
    let p := s.fuuProg u
    let mom (n : Nat) : Num := decode .fp32 (memGetLe s.mem (s.momAddr u t.cur n i) 4)
    let g := decode .fp32 (memGetLe s.mem (s.sumAddr r (seqOf r sum.step sum.idx) + 4 * k) 4)
    let e := fuuElement p t.u sum.step t.e g sum.count r.members.length (decode .bf16 w) (mom 0) (mom 1)
    let w' := match e.w with | some v => s.weightBits u sum.step i v | none => w
    let m1 := (e.m1.getD (mom 0))
    let m2 := (e.m2.getD (mom 1))
    let s1 := s.putWeight st.ctx out u sum.step i w'
    let bad := !(decode .bf16 w').isFinite || (e.m1.isSome && !m1.isFinite) || (e.m2.isSome && !m2.isFinite)
    ((s1.putMoment u p.nmom (!t.cur) i 0 m1).putMoment u p.nmom (!t.cur) i 1 m2, bad)

/-- The owner's new values of a bucket, in chunks of 2,048 (R279). -/
def State.paramChunks (s : State) (r : ExchRec) (u : UpdRec) (b : BucketRec) (base idx version : Nat) : List ParamChunk :=
  let n := (b.elems + 2047) / 2048
  (List.range n).map fun k =>
    let len := min 2048 (b.elems - k * 2048)
    { chan := r.chan, idx, version, off := k * 2048, elems := b.elems
      vals := (List.range len).map fun i => BitVec.ofNat 16 (memGetLe s.mem (wAddr base u (weightIndex u b (k * 2048 + i))) 2) }

/-- Marking findings of a job: a non-finite gradient or update (R260). -/
def State.markNf (s : State) (c : Fin 8) (update : Bool) : State :=
  if !update then s.markNfGrad c
  else match s.jobOf c with
    | some j => s.setJob j.job { s.jobSt j.job with nfUpdate := true }
    | none => s

/-- A bucket of an update (R246, R261): written to the SHADOW slot, sent to the members, its sum area free again, so that a contribution of this
device that waits for it goes on (R276). With no slot for the new
version the write waits (R238). -/
def State.fuuBucket (s : State) (r : ExchRec) (sum : SumSt) (rest : List SumSt) : State :=
  match r.buckets[sum.idx]? with
  | none => s
  | some b => match s.updRec b.tensorId with
    | none => s
    | some u => match s.stageRec u.stage with
      | none => s
      | some st =>
        let v := sum.step + 1
        let x := s.stage u.stage
        match x.shadowFor v, x.slotIn .current with
        | some (x1, sh), some cur =>
          let s0 := s.setStage u.stage x1
          let (s1, bad) := (List.range b.elems).foldl (fun (acc : State × Bool) k =>
            let (t, f) := acc.1.fuuOne r st u b sum cur sh k
            (t, acc.2 || f)) (s0, false)
          let y := s1.exchSt r.chan
          let s2 := s1.setExch r.chan { y with sums := rest, processed := y.processed ++ [sum.idx], got := aput y.got sum.idx b.elems }
          let s3 := if bad then s2.markNf r.ctx true else s2
          let chunks := s3.paramChunks r u b (s3.slotAddr st sh) sum.idx v
          let s4 := chunks.foldl (fun (t : State) c => (s3.routeChildren r).foldl (fun (t : State) d => t.sendParam d c) t) s3
          let s5 := if r.buckets.zipIdx.all fun (b, i) => decide (b.elems ≤ (aget (s4.exchSt r.chan).got i).getD 0)
            then s4.bumpEntry r.recvCnt 1 else s4
          (s5.settleLeaves r sum.step).tryReadyCtx r.ctx
        | _, _ => s.setStage u.stage (x.waitFor v)

/-! ## Row-sparse tables (R249 to R251) -/

/-- Lists of a step merged in ascending source address, one FP32 rounding per addition. -/
def mergeLists (l : List SparseList) : List (Nat × List Word) :=
  l.foldl (fun acc x => x.rows.foldl (fun a (row, v) => sparsePut a row v) acc) []

/-- The FUU on the touched rows of a table, once the list of every member is in: new rows and moments go to the row shadow. No shard of a
teacher table is touched (R28). DESIGN CHOICE (log entry 113): the manual gives the row shadow no layout, so its rows stand in `State.shadow` and not
in bytes of the range that the plan sets aside. -/
def State.fuuSparse (s : State) (r : ExchRec) : State :=
  let x := s.exchSt r.chan
  let step := s.exchStep r
  let lists := sortKey SparseList.source (x.lists.filter fun l => l.step == step)
  match r.buckets.head?.bind fun b => s.updRec b.tensorId with
  | none => s
  | some u =>
    if lists.length < r.members.length || x.processed.contains 0 then s
    else
      let t := s.ctxJob r.ctx
      let nf := lists.any SparseList.nonfinite
      let p := s.fuuProg u
      let s0 := s.setExch r.chan { x with processed := x.processed ++ [0] }
      if nf then (s0.markNf r.ctx false).tryReadyCtx r.ctx
      else match (s.plan.bind fun q => q.tables.find? fun tb => tb.tensorId == u.tensorId && !tb.teacher) with
        | none => s0.tryReadyCtx r.ctx
        | some tb =>
          let one (row : Nat) (j : Nat) (g : Word) : Nat × Num × Num × Bool :=
            let i := row * tb.d + j
            let w : Num := match s.plan.bind (fun q => q.shards.find? fun h =>
                h.table == tb.table && h.remote.isNone && decide (h.row0 ≤ row) && decide (row < h.row0 + h.nrows)) with
              | some h => decode .bf16 (memGetLe s.mem (s.regionBase .table + h.off + ((row - h.row0) * tb.d + j) * 2) 2)
              | none => .zero false
            let mom (n : Nat) : Num := decode .fp32 (memGetLe s.mem (s.momAddr u false n i) 4)
            let e := fuuElement p t.u step t.e (decode .fp32 g.toNat) (lists.foldl (fun n l => n + l.count) 0)
              r.members.length w (mom 0) (mom 1)
            let wv := e.w.getD w
            let bits := s.weightBits u step i wv
            let m1 := e.m1.getD (mom 0)
            let m2 := e.m2.getD (mom 1)
            (bits, m1, m2, !(decode .bf16 bits).isFinite || (e.m1.isSome && !m1.isFinite) || (e.m2.isSome && !m2.isFinite))
          let rows := (mergeLists lists).map fun (row, v) => (row, v.zipIdx.map fun (g, j) => one row j g)
          let sh : List ShadowRow := rows.map fun (row, l) =>
            { ctx := r.ctx.val, table := tb.table, row, w := l.map (·.1), m1 := l.map fun x => (roundRne .fp32 x.2.1).bits, m2 := l.map fun x => (roundRne .fp32 x.2.2.1).bits }
          let bad := rows.any fun (_, l) => l.any fun x => x.2.2.2
          let s1 := { s0 with shadow := s0.shadow ++ sh }
          ((if bad then s1.markNf r.ctx true else s1)).tryReadyCtx r.ctx

/-- FUU_UPDATE (R246, R251, R276): the FUU processes the oldest summed bucket of a channel, or the merged rows of a row-sparse table. -/
def execFuuUpdate (chan : Nat) (s : State) : Host.Outcome State Fault Refusal :=
  .next (match s.exchRec chan with
    | none => s
    | some r =>
      if r.owner != s.addr || !s.jobRunning r.ctx then s
      else if r.sparse then s.fuuSparse r
      else match (s.exchSt chan).sums with
        | [] => s
        | sum :: rest => s.fuuBucket r sum rest)

/-- A range of the version restored goes into slot 0 with its FP8 copies, formed with the exponents in force, and is sent on (R413). -/
def State.restoreChunk (s : State) (r : ExchRec) (st : StageRec) (u : UpdRec) (b : BucketRec) (c : ParamChunk) : State :=
  let base := s.slotAddr st 0
  let e := ((s.ctxJob st.ctx).hist.getD u.hist {}).exp
  let put (m : List Host.Cell) (p : Sys2Proof.Half × Nat) : List Host.Cell :=
    let i := weightIndex u b (c.off + p.2)
    let m1 := memPutLe m (wAddr base u i) 2 p.1.toNat
    if u.copy = 0 then m1 else memPut m1 (copyAddr base u i) (BitVec.ofNat 8 (copyBits u e p.1.toNat))
  (s.routeChildren r).foldl (fun (t : State) d => t.sendParam d c) { s with mem := c.vals.zipIdx.foldl put s.mem }

/-- PARAMETER_CHUNK (R238, R248, R279 to R281): a range of the new version arrives on its way to a device; another's goes on. It is stored
into the SHADOW slot with its FP8 copies, and sent on. It waits while no slot is free; a version other than the slot's faults STATE_MISMATCH (R389). During a
restore it brings the version restored (R413). -/
def execParameterChunk (m : Sent ParamChunk) (s : State) : Host.Outcome State Fault Refusal :=
  let c := m.chunk
  .next (if m.dst != s.addr then s.sendParam m.dst c else
    match s.exchRec c.chan with
    | none => s
    | some r => match r.buckets[c.idx]? with
      | none => s
      | some b => match s.updRec b.tensorId with
        | none => s
        | some u => match s.stageRec u.stage with
          | none => s
          | some st =>
            let v := s.exchStep r + 1
            let x := s.stage u.stage
            let restoring : Bool := (s.ctxJob r.ctx).st == .restoring || (s.ctxJob r.ctx).st == .starting
            if restoring then s.restoreChunk r st u b c
            else if !s.jobRunning r.ctx then s
            else if c.version != v then (s.faultCtx 0x5041 r.ctx [s.addr, r.owner, v, c.version]).pumpAll
            else match x.shadowFor v with
              | none => s.setStage u.stage (x.waitFor v)
              | some (x1, sh) =>
                let base := s.slotAddr st sh
                let s1 := c.vals.zipIdx.foldl (fun (t : State) (w, i) =>
                  t.putWeight st.ctx base u (v - 1) (weightIndex u b (c.off + i)) w.toNat) (s.setStage u.stage x1)
                let y := s1.exchSt r.chan
                let before := (aget y.got c.idx).getD 0
                let s2 := s1.setExch r.chan { y with got := aput y.got c.idx (before + c.vals.length) }
                let s3 := (s2.routeChildren r).foldl (fun (t : State) d => t.sendParam d c) s2
                let whole := r.buckets.zipIdx.all fun (b, i) => decide (b.elems ≤ (aget (s3.exchSt r.chan).got i).getD 0)
                (if whole then (s3.bumpEntry r.recvCnt 1) else s3).tryReadyCtx r.ctx)

/-- SPARSE_LIST (R249, R250): a row-sparse gradient list arrives at the owner, which merges lists in ascending source address; with no room in
the staging area it waits at its sender. The owner's own list follows when it can. -/
def execSparseList (chan : Nat) (l : SparseList) (s : State) : Host.Outcome State Fault Refusal :=
  .next (match s.exchRec chan with
    | none => s
    | some r =>
      let x := s.exchSt chan
      if r.owner != s.addr || !r.sparse || !s.jobRunning r.ctx || (x.lists.any fun y => y.source == l.source && y.step == l.step) then s
      else if l.step != s.exchStep r then (s.faultCtx 0x5041 r.ctx [s.addr, l.source, s.exchStep r, l.step]).pumpAll
      else if !s.sparseRoom r l then s
      else (s.setExch chan { x with lists := x.lists ++ [l] }).enterSparse r l.step)

/-- ROW_SHADOW_COPY_COMPLETE (R251): the row shadow of a table is in place and its lookups go on. -/
def execRowShadowCopyComplete (table : Nat) (s : State) : Host.Outcome State Fault Refusal :=
  .next (if s.shadowCopy.contains table then { s with shadowCopy := s.shadowCopy.filter (· != table) } else s)

end Sys2Proof.Machine
end

