-- ==== Sys2Proof/Machine/Program.lean ====
section
/-!
DEFINITION. The plan verifier on programs: the fields of an instruction word, control flow, the descriptors that can reach an instruction,
tile lengths and operand checks (R105, R106, R108, R111, R131 to R134, Tables 4-2 to 4-14, R159).
-/

namespace Sys2Proof.Machine

/-! ## Instruction words (their fields are in Decode.lean) -/

/-- The counter of an engine instruction that has CNTEN set. -/
def wCounter (w : DWord) : Option Nat :=
  let op := wOp w
  if 0x40 ≤ op && op ≤ 0x45 || 0x70 ≤ op && op ≤ 0x73 then (if bf w 25 1 = 1 then some (bf w 26 4) else none)
  else if op == 0x50 then (if bf w 16 1 = 1 then some (bf w 17 4) else none)
  else if op == 0x60 then (if bf w 31 1 = 1 then some (bf w 32 4) else none)
  else none

/-! ## What the verifier reports (R133) -/

/-- A failure: its code, whether it is found in an instruction, its place in the order of R133, and the location reported. -/
structure Fail where
  code : Nat
  instr : Bool
  key : Nat
  loc : Nat
deriving DecidableEq, Repr

/-- Lowest code, records before instructions, then the order of locations. -/
def Fail.before (x y : Fail) : Bool :=
  decide (x.code < y.code) || (x.code == y.code && ((!x.instr && y.instr) || (x.instr == y.instr && decide (x.key < y.key))))

def firstFail (l : List Fail) : Option Fail :=
  l.foldl (fun b x => match b with | none => some x | some y => some (if x.before y then x else y)) none

def failAt (ctx core i code : Nat) : Fail := ⟨code, true, ctx * 2 ^ 26 + core * 2 ^ 12 + i, locInstr ctx core i⟩

/-! ## Control flow (R108) -/

/-- Pairs of LOOP and ENDLOOP, with the stack of open loops, and the instructions that break R108: a LOOP that opens a fifth loop, an ENDLOOP
with no loop open, and a LOOP never closed. -/
def scanLoops : List DWord → Nat → List Nat → List (Nat × Nat) × List Nat
  | [], _, st => ([], st.reverse)
  | w :: r, i, st =>
    if wOp w = 0x04 then
      let (l, bad) := scanLoops r (i + 1) (i :: st)
      (l, if 4 ≤ st.length then i :: bad else bad)
    else if wOp w = 0x05 then
      match st with
      | s :: st' =>
        let (l, bad) := scanLoops r (i + 1) st'
        ((s, i) :: l, bad)
      | [] =>
        let (l, bad) := scanLoops r (i + 1) []
        (l, i :: bad)
    else scanLoops r (i + 1) st

/-- The pairs of LOOP and ENDLOOP of a program. -/
def loopsOf (words : List DWord) : List (Nat × Nat) := (scanLoops words 0 []).1


/-- What a TD holds at a point of a program, as far as the plan tells: the descriptor, and the fields (Table 4-6) that a TDADD has moved there by
an amount that is not known. Of such a BASE only the value modulo 32 is kept, where the addend is an immediate. -/
structure Held where
  d : TileDesc := {}
  moved : BitVec 4 := 0
deriving DecidableEq, Repr

/-- A point of a path: the next instruction, what the TDs hold (R100, R111), and the iterations left of the loops that are followed by count. -/
structure Node where
  pc : Nat
  tds : List (Nat × Held) := []
  left : List (Nat × Nat) := []
deriving DecidableEq, Repr

def Node.held (n : Node) (t : Nat) : Held := (aget n.tds t).getD {}
def Node.td (n : Node) (t : Nat) : TileDesc := (n.held t).d
/-- Whether a field of a TD has its value from the plan at this point. -/
def Node.still (n : Node) (t f : Nat) : Bool := !(n.held t).moved.getLsbD f

/-- A program under verification: its context, a core, its words, loops and pool, the entries that start it on that core, and the points that its
paths reach. -/
structure Prog where
  ctx : Nat
  core : Nat
  words : List DWord
  loops : List (Nat × Nat)
  pool : List TileDesc
  entries : List Nat
  canon : Bool
  nodes : List Node := []
deriving DecidableEq, Repr

def Prog.at_ (p : Prog) (i : Nat) : DWord := p.words.getD i 0
/-- Loops whose body holds an instruction. -/
def Prog.inside (p : Prog) (i : Nat) : List (Nat × Nat) := p.loops.filter fun l => decide (l.1 < i) && decide (i ≤ l.2)

/-- Instructions that can follow an instruction within one program. -/
def Prog.succ (p : Prog) (i : Nat) : List Nat :=
  let w := p.at_ i
  match wOp w with
  | 0x01 => []
  | 0x03 => if wAlways w then [wImm w] else if wNever w then [i + 1] else [wImm w, i + 1]
  | 0x04 => match p.loops.find? fun l => l.1 == i with
    | some l => if wGa w ≠ 0 then [i + 1, l.2 + 1] else if wImm w = 0 then [l.2 + 1] else [i + 1]
    | none => [i + 1]
  | 0x05 => match p.loops.find? fun l => l.2 == i with
    | some l => if wGa (p.at_ l.1) = 0 && wImm (p.at_ l.1) = 1 then [i + 1] else [l.1 + 1, i + 1]
    | none => [i + 1]
  | _ => [i + 1]

/-- As `succ`, with the entries of the context after END: state of Table 4-1 but for the program counter and the loops is kept (R102). -/
def Prog.succAll (p : Prog) (i : Nat) : List Nat := if wOp (p.at_ i) = 0x01 then p.entries else p.succ i

/-- Instructions reached from `work`, not going past those where `stop` holds. -/
def Prog.reach (p : Prog) (next : Nat → List Nat) (stop : Nat → Bool) : Nat → List Nat → List Nat → List Nat
  | 0, _, seen => seen
  | _, [], seen => seen
  | n + 1, i :: work, seen =>
    if seen.contains i || decide (p.words.length ≤ i) then p.reach next stop n work seen
    else p.reach next stop n (if stop i then work else next i ++ work) (i :: seen)

/-- Fuel: every instruction has at most as many successors as there are entries, and two. -/
def Prog.fuel (p : Prog) : Nat := (p.words.length + 1) * (p.entries.length + 3)

/-- Faults of structure: 0x3013 at each unmatched or too deep LOOP or ENDLOOP, and 0x3012 at a branch out of the range or across a loop's
edge, at an instruction on a path beyond the last one, and, for an entry that is itself beyond it, at that index. DESIGN CHOICE (log entry 103):
the manual does not say which instruction is the location of a failure of a path; for 0x3012 it is the one that runs past the end. -/
def structureFails (ctx core : Nat) (words : List DWord) (entries : List Nat) : List Fail :=
  let (loops, bad) := scanLoops words 0 []
  let p : Prog := { ctx, core, words, loops, pool := [], entries, canon := false }
  let n := words.length
  let br := (List.range n).filter fun i =>
    wOp (p.at_ i) == 0x03 && (decide (n ≤ wImm (p.at_ i)) || decide (2 ^ 12 ≤ wImm (p.at_ i)) || p.inside i != p.inside (wImm (p.at_ i)))
  let live := p.reach p.succ (fun _ => false) p.fuel entries []
  let past := (List.range n).filter fun i => live.contains i && (p.succ i).any fun k => decide (n ≤ k)
  bad.map (failAt ctx core · 0x3013) ++ (br ++ past ++ entries.filter fun e => decide (n ≤ e)).map fun i => failAt ctx core i 0x3012

/-- The command that instruction `pc` of a context's program on a core spells, with the ENDLOOP matched to a LOOP (R101, R108). -/
def planInstr (p : Plan) (a : Site) (pc : Nat) : Option Instr :=
  (p.programs.find? fun r => r.ctx == a.ctx.val && r.cores.contains a.core).bind fun r => (r.words[pc]?).bind fun w =>
    decodeWord a (BitVec.ofNat 12 (((loopsOf r.words).find? fun l => l.1 == pc).map (·.2) |>.getD 0)) w

/-! ## Checks of one instruction word -/

def isBoundary (remote : List Nat) (w : DWord) : Bool :=
  wOp w == 0x01 || wOp w == 0x02 || wOp w == 0x25 || (wOp w == 0x23 && remote.contains (wSub w % 16))

def vRowOps : List Nat := [0x30, 0x31, 0x34, 0x35, 0x36, 0x37]
def vRowDerivs : List Nat := [0x3C, 0x3D, 0x3E]
def vElemDerivs : List Nat := [0x38, 0x39, 0x3A, 0x3B]
/-- Operations that take a B operand in every form but none. -/
def vBinary : List Nat := [0x01, 0x02, 0x03, 0x04, 0x05, 0x06, 0x09, 0x0A, 0x0B, 0x1C]

/-- BSRC values that Tables 5-3, 5-5, 5-8 and 5-9 allow an operation. -/
def vBsrcOk (op bsrc : Nat) : Bool :=
  if op = 0x28 || vRowDerivs.contains op || vElemDerivs.contains op then bsrc == 1
  else if vRowOps.contains op then bsrc == 0 || bsrc == 1
  else if vBinary.contains op then bsrc != 0
  else bsrc == 0

/-- Operations that read GS as their scalar (R153, R158). DEDUCED (log entry 81): VDSOFTMAX has no ε, so GS is not used by it. -/
def vUsesGs (op bsrc : Nat) : Bool := bsrc == 2 || [0x34, 0x35, 0x36, 0x37, 0x3D, 0x3E].contains op

/-- Fields that the operation does not use are 0 (0x3071). -/
def vFieldsBad (w : DWord) : Bool :=
  let op := wVfunc w
  let b := wBsrc w
  let row := vRowOps.contains op || vRowDerivs.contains op
  (b != 1 && wVb w != 0) || (!(vUsesGs op b) && wGs w != 0) ||
    (if row || op = 0x28 || b = 3 then false else if b = 1 then decide (2 ≤ wImm16 w) else wImm16 w != 0)

/-- Codes that an instruction word alone gives. -/
def wordCodes (remote : List Nat) (canon : Bool) (scoreCore : Bool) (pool : List TileDesc) (w : DWord) : List Nat :=
  let op := wOp w
  let m := decide (0x40 ≤ op) && decide (op ≤ 0x45)
  (if !opcodes.contains op || wReserved w || (op == 0x19 && decide (6 ≤ wSub w)) then [0x3010] else [])
    ++ (if (!scoreCore && (op == 0x41 || op == 0x42 || (m && bf w 32 1 == 1))) || (scoreCore && op == 0x73) then [0x3011] else [])
    ++ (if (op == 0x19 && (wGd w % 8 == 0 || decide (8 ≤ wGd w))) || ([0x21, 0x22, 0x23, 0x24].contains op && decide (16 ≤ wSub w))
        || (op == 0x26 && wGd w == 31) || (m && op != 0x42 && bf w 20 5 == 31) then [0x3015] else [])
    ++ (if [0x01, 0x02, 0x04, 0x05, 0x23, 0x25].contains op && !wAlways w then [0x3016] else [])
    ++ (match wCounter w with | some c => if (op == 0x71) != remote.contains c then [0x3017] else [] | none => [])
    ++ (if canon && (op == 0x24 || op == 0x26) then [0x3018] else [])
    ++ (if op == 0x30 && decide (pool.length ≤ wImm w) then [0x3037] else [])
    ++ (if op == 0x50 then
        (if (vkind (BitVec.ofNat 6 (wVfunc w))).isNone || !vBsrcOk (wVfunc w) (wBsrc w) then [0x3070] else [])
          ++ (if vFieldsBad w then [0x3071] else [])
          ++ (if !scoreCore && (vElemDerivs.contains (wVfunc w) || vRowDerivs.contains (wVfunc w)) then [0x3072] else [])
          ++ (if canon && decide (0x10 ≤ wVfunc w) && decide (wVfunc w ≤ 0x13) then [0x3075] else [])
      else [])

/-! ## Paths and the descriptors on them (R111, R131) -/

/-- Work left of a search over the points of a program: the bound keeps the verifier's work finite (log entry 60). -/
def graphSteps : Nat := 2 ^ 32

/-- Whether a TDADD can reach itself without its TD being loaded between: its sum is then not followed. -/
def Prog.cyclic (p : Prog) (i : Nat) : Bool :=
  let t := wTd (p.at_ i)
  (p.reach p.succAll (fun k => k != i && wOp (p.at_ k) == 0x30 && wTd (p.at_ k) == t && wAlways (p.at_ k)) p.fuel (p.succAll i) []).contains i

/-- A TD after a TDADD of the word `w` (R111): moved, or, where the sum is not known, marked. -/
def Held.move (h : Held) (w : DWord) (known : Bool) : Held :=
  let f := bf w 39 2
  let sum := tdAdd h.d (tdFieldOf f) (wImmOf w)
  let low (t : TileDesc) : TileDesc := { t with base := BitVec.ofNat 20 (t.base.toNat % 32) }
  let mark : BitVec 4 := h.moved ||| BitVec.ofNat 4 (2 ^ f)
  if bf w 41 5 = 0 then (if known then { h with d := sum } else ⟨if f = 0 then low sum else h.d, mark⟩)
  else ⟨if f = 0 then low h.d else h.d, mark⟩

/-- What the TDs can hold after an instruction: a predicated load or addition may or may not have been made. -/
def Prog.tdsAfter (p : Prog) (n : Node) : List (List (Nat × Held)) :=
  let w := p.at_ n.pc
  let done : Option (List (Nat × Held)) := match wOp w with
    | 0x30 => (p.pool[wImm w]?).map fun d => aput n.tds (wTd w) ⟨d, 0⟩
    | 0x31 => some (aput n.tds (wTd w) ((n.held (wTd w)).move w !(p.cyclic n.pc)))
    | _ => none
  match done with
  | none => [n.tds]
  | some l => if wAlways w then [l] else if wNever w then [n.tds] else [n.tds, l]

/-- Loops whose body holds no tile boundary. -/
def Prog.closed (p : Prog) (remote : List Nat) : List (Nat × Nat) :=
  p.loops.filter fun l => !((List.range p.words.length).any fun i => decide (l.1 < i) && decide (i < l.2) && isBoundary remote (p.at_ i))

/-- Loops with a tile boundary in their body and a path round it: their iterations are counted, up to a count that no tile length allows. -/
def Prog.counted (p : Prog) (remote : List Nat) : List (Nat × Nat) :=
  p.loops.filter fun l => !(p.closed remote).contains l && wGa (p.at_ l.1) == 0 && decide (2 ≤ wImm (p.at_ l.1))
    && (p.reach p.succ (fun i => isBoundary remote (p.at_ i)) p.fuel [l.1 + 1] []).contains l.2

/-- The points that follow a point on some path. -/
def Prog.next (p : Prog) (counted : List (Nat × Nat)) (n : Node) : List Node :=
  let cap := Config.tileLimit + 1
  let go : List (Nat × List (Nat × Nat)) :=
    match counted.find? fun l => l.1 == n.pc || l.2 == n.pc with
    | some l =>
      if l.1 = n.pc then [(n.pc + 1, aput n.left n.pc (min cap (wImm (p.at_ n.pc))))]
      else
        let k := (aget n.left l.1).getD 1
        if k = cap then [(l.1 + 1, n.left), (n.pc + 1, adel n.left l.1)]
        else if k ≤ 1 then [(n.pc + 1, adel n.left l.1)]
        else [(l.1 + 1, aput n.left l.1 (k - 1))]
    | none => (p.succAll n.pc).map fun i => (i, if wOp (p.at_ n.pc) = 0x01 then [] else n.left)
  (p.tdsAfter n).flatMap fun tds => (go.filter fun x => decide (x.1 < p.words.length)).map fun (pc, left) => ⟨pc, tds, left⟩

/-- The points reached from `work` by `next`. -/
def closure (next : Node → List Node) : Nat → List Node → List Node → List Node
  | 0, _, seen => seen
  | _, [], seen => seen
  | n + 1, x :: work, seen => if seen.contains x then closure next n work seen else closure next n (next x ++ work) (x :: seen)

/-- A program with the points of its paths: its entries, in any order (R102). -/
def Prog.mk' (ctx core : Nat) (remote : List Nat) (canon : Bool) (words : List DWord) (pool : List TileDesc) (entries : List Nat) : Prog :=
  let p : Prog := { ctx, core, words, loops := loopsOf words, pool, entries, canon }
  { p with nodes := closure (p.next (p.counted remote)) graphSteps ((entries.filter fun e => decide (e < words.length)).map fun e => { pc := e }) [] }

/-- The points of the paths at an instruction. -/
def Prog.pts (p : Prog) (i : Nat) : List Node := p.nodes.filter fun n => n.pc == i
/-- Descriptors that TD `t` can hold at instruction i. -/
def Prog.tdAt (p : Prog) (t i : Nat) : List TileDesc := ((p.pts i).map fun n => n.td t).eraseDups
/-- Instructions that some path reaches and that can execute. -/
def Prog.live (p : Prog) : List Nat := (List.range p.words.length).filter fun i => !wNever (p.at_ i) && p.nodes.any fun n => n.pc == i

/-! ## Operands -/

/-- TDs that an instruction reads as element tiles, and those that it writes. -/
def tdReads (w : DWord) : List Nat :=
  match wOp w with
  | 0x40 => [wTd w, wTdb w] ++ (if wMode w = 2 then [wTdc w] else [])
  | 0x41 => [wTd w, wTdb w] ++ (if wMode w = 2 then [wTdc w] else [])
  | 0x42 => [wTd w, wTdb w, wTdc w]
  | 0x50 => [wVa w] ++ (if wBsrc w = 1 then [wVb w] else []) ++ (if wVfunc w = 4 || wVfunc w = 0x0B then [wTdd w] else [])
  | 0x60 => if bf w 36 1 = 1 then [wTd w] else []
  | 0x70 => [wTd w]
  | 0x72 => [wTd w]
  | 0x73 => [wTd w]
  | _ => []

def tdWrites (w : DWord) : List Nat :=
  match wOp w with
  | 0x43 => [wTdc w]
  | 0x44 => [wTdc w, wTd w]
  | 0x50 => [wTdd w]
  | 0x60 => if bf w 36 1 = 0 then [wTd w] else []
  | 0x71 => [wTd w]
  | _ => []

/-- TDs that address raw accumulator records, whose FMTD is ignored (R112, R115). -/
def tdRaw (w : DWord) : List Nat :=
  if wOp w = 0x45 then [wTdc w] else if (wOp w = 0x40 || wOp w = 0x41) && wMode w = 3 then [wTdc w] else []

/-- Codes of a format descriptor's format, block scaling and rounding (R51, Table 2-5). -/
def fmtCodes (d : BitVec 8) : List Nat :=
  match fmtdFmt d with
  | none => [0x3030]
  | some f =>
    (if fmtdRnd d = 3 || d.toNat % 16 = 9 then [0x3030] else [])
      ++ (if (fmtdBlk d && (f == .fp32 || f == .bf16 || f == .fp16)) || (!fmtdBlk d && decide (f.width < 8)) then [0x3031] else [])

/-- Codes of a descriptor used for elements: format, block scaling and alignment (R51, R54, R110). -/
def tdCodes (t : TileDesc) : List Nat :=
  if (fmtdFmt t.fmtd).isNone then [0x3030]
  else fmtCodes t.fmtd
      ++ (if fmtdBlk t.fmtd && t.cols % 32 != 0 then [0x3033] else [])
      ++ (if t.base.toNat % 32 != 0 || t.stride.toNat % 32 != 0 || t.rowBytes % 32 != 0 then [0x3037] else [])

def tdRawCodes (t : TileDesc) : List Nat := if t.base.toNat % 32 != 0 || t.stride.toNat % 32 != 0 then [0x3037] else []

/-- Formats of a transposed operand (R113). -/
def transposable (t : TileDesc) : Bool :=
  !fmtdBlk t.fmtd && [Fmt.e4m3, .e5m2, .int8, .bf16, .fp16].contains t.fmt

def intMix (a b : TileDesc) : Bool := (a.fmt == .int8) != (b.fmt == .int8)

/-- Codes of MMA and MMAT (R112, R113). DESIGN CHOICE (log entry 104): R112 bounds rows(TDB) by 32 and R113 takes TDB's rows as K; here the bound of
an MMAT holds for the columns of TDB, and its rows, K, reach the 64 of a descriptor. -/
def mmaCodes (w : DWord) (a b : TileDesc) (cs : List TileDesc) : List Nat :=
  let tr := wOp w == 0x41
  let jn := if tr then b.cols else b.rows
  let k := if tr then b.rows else b.cols
  let shapeC := decide (2 ≤ wMode w) && cs.any fun c => c.rows != a.rows || c.cols != jn || (wMode w == 3 && decide (c.stride.toNat < 96 * c.cols))
  (if decide (32 < a.rows) || decide (32 < jn) || a.cols != k || shapeC || (tr && !transposable b) then [0x3025] else [])
    ++ (if intMix a b then [0x3032] else [])
    ++ (if tr && fmtdBlk b.fmtd then [0x3034] else [])

/-- An operand below 8 bits, which no product of the student backward pass takes (R23). -/
def small (t : TileDesc) : Bool := decide (t.fmt.width < 8)

/-- Codes of MTWIN (R114). DESIGN CHOICE (log entry 83): R23 names no code; an operand below 8 bits is reported as 0x3025. -/
def mtwinCodes (g b x : TileDesc) : List Nat :=
  (if small g || small x || g.rows != 32 || g.cols != 32 || b.rows != 32 || decide (32 < b.cols) || x.cols != 32 || decide (32 < x.rows) || !transposable b then [0x3025] else [])
    ++ (if intMix g b || intMix x g then [0x3032] else [])
    ++ (if fmtdBlk g.fmtd || fmtdBlk b.fmtd then [0x3034] else [])

/-- Codes of a compensated-pair read-out (R70, R115). -/
def pairCodes (a c : TileDesc) : List Nat :=
  (if a.rows != c.rows || a.cols != c.cols || decide (32 < c.rows) || decide (32 < c.cols) then [0x3025] else [])
    ++ (if a.fmtd != c.fmtd || c.fmtd.toNat / 16 != 0 || !(c.fmt == .fp32 || c.fmt == .bf16) then [0x3035] else [])

/-- Codes of a VOP (R141, R142, R154, R158). DEDUCED (log entry 81): TDB of a row derivative has the shape of TDA, since b(i, j) is read beside
every a(i, j) and the rule names no broadcast for it. -/
def vopCodes (w : DWord) (d a : TileDesc) (b : Option TileDesc) : List Nat :=
  let op := wVfunc w
  let reduce := op == 0x30 || op == 0x31
  let byRow := vRowOps.contains op || vRowDerivs.contains op
  let dst := if reduce then d.rows != 1 || decide (d.cols < a.rows) else d.rows != a.rows || d.cols != a.cols
  let i8 (t : TileDesc) : Bool := t.fmt == .int8 && !fmtdBlk t.fmtd
  let bBad := match b with
    | none => false
    | some b =>
      let same := b.rows == a.rows && b.cols == a.cols
      if op = 0x28 || vRowOps.contains op then !same || !i8 b
      else if vRowDerivs.contains op then !same
      else if wImm16 w % 2 = 1 then !same && (b.rows != 1 || decide (b.cols < a.rows))
      else !same && (b.rows != 1 || decide (b.cols < a.cols))
  (if dst || bBad then [0x3073] else [])
    ++ (if fmtdBlk d.fmtd && (byRow || vElemDerivs.contains op || op == 0x28) then [0x3074] else [])

/-! ## Costs (Table 3-2, R131, R159) -/

/-- Cycles of K steps of a pair. -/
def stepCost (canon : Bool) (a b : TileDesc) (k : Nat) : Nat :=
  let small (f : Fmt) : Bool := decide (f.width < 8)
  match chainClass a.fmt b.fmt with
  | .narrow =>
    if small a.fmt && small b.fmt then (if canon then 4 * k else (k + 1) / 2)
    else if canon then 8 * k else k
  | .wide => (if canon then 32 else 4) * k
  | .split => (if canon then 96 else 12) * k

/-- Compute cycles per group and per row of a vector operation. -/
def vCycles : Nat → Nat × Nat
  | 0x28 => (2, 0) | 0x18 => (4, 0) | 0x19 => (3, 0) | 0x1A => (6, 0) | 0x1B => (5, 0) | 0x1C => (4, 0) | 0x1D => (4, 0) | 0x1E => (3, 0)
  | 0x1F => (3, 0) | 0x20 => (6, 0) | 0x21 => (7, 0) | 0x22 => (7, 0) | 0x23 => (9, 0)
  | 0x30 => (1, 8) | 0x31 => (1, 8) | 0x34 => (11, 24) | 0x35 => (7, 30) | 0x36 => (2, 24) | 0x37 => (5, 32)
  | 0x38 => (7, 0) | 0x39 => (8, 0) | 0x3A => (9, 0) | 0x3B => (12, 0) | 0x3C => (3, 8) | 0x3D => (3, 24) | 0x3E => (5, 32)
  | _ => (1, 0)

/-- Cost of a VOP (R159). -/
def vopCost (canon : Bool) (lanes : Nat) (w : DWord) (d a : TileDesc) (b : Option TileDesc) : Nat :=
  let op := wVfunc w
  let (k, h) := vCycles op
  let g := (a.cols + lanes - 1) / lanes
  let byRow := vRowOps.contains op || vRowDerivs.contains op
  let bBits := match b with
    | some b => if b.rows == a.rows && b.cols == a.cols then b.fmt.width else 0
    | none => 0
  let p := if byRow then 0 else (a.fmt.width + bBits + (if op = 4 then d.fmt.width else 0) + 31) / 32
  let rest := a.rows * g * max k p + a.rows * h
  4 + (if canon then 8 else 1) * rest

def maxOf (l : List Nat) : Nat := l.foldl max 0

/-- Cost of an instruction on array 0, array 1 and the vector engine, with the descriptors held at a point. -/
def Prog.cost (p : Prog) (n : Node) : List Nat :=
  let w := p.at_ n.pc
  let onArr (c : Nat) : List Nat := if bf w 32 1 = 0 then [c, 0, 0] else [0, c, 0]
  match wOp w with
  | 0x42 => [stepCost p.canon (n.td (wTd w)) (n.td (wTdb w)) 32, stepCost p.canon (n.td (wTdc w)) (n.td (wTd w)) 32, 0]
  | 0x43 => onArr 32
  | 0x44 => onArr 64
  | 0x45 => onArr 384
  | 0x50 => [0, 0, vopCost p.canon (lanesOf p.core) w (n.td (wTdd w)) (n.td (wVa w)) (if wBsrc w = 1 then some (n.td (wVb w)) else none)]
  | op =>
    if op = 0x40 || op = 0x41 then
      let a := n.td (wTd w)
      onArr (stepCost p.canon a (n.td (wTdb w)) a.cols + (if wMode w = 2 then 32 else if wMode w = 3 then 384 else 0))
    else [0, 0, 0]

/-- Cost with the counts of the enclosing loops that hold no boundary. -/
def Prog.weight (p : Prog) (closed : List (Nat × Nat)) (e : Nat) (n : Node) : Nat :=
  ((p.inside n.pc).filter closed.contains).foldl (fun c l => c * wImm (p.at_ l.1)) ((p.cost n).getD e 0)

/-- The points that continue a path at a point, before the next tile boundary. The body of a loop without one stands once, with its length
multiplied. DEDUCED: where its iterations differ in length, as descriptors are loaded in it, that length is the longest. -/
def Prog.onward (p : Prog) (remote : List Nat) (closed counted : List (Nat × Nat)) (n : Node) : List Node :=
  if isBoundary remote (p.at_ n.pc) then []
  else
    let all := p.next counted n
    match closed.find? fun l => l.1 == n.pc || l.2 == n.pc with
    | none => all
    | some l =>
      if l.2 = n.pc then all.filter fun m => m.pc != l.1 + 1
      else (closure (fun m => (p.next counted m).filter fun k => decide (l.1 < k.pc) && decide (k.pc ≤ l.2)) graphSteps all []).filter fun m =>
        m.pc == l.1 + 1 || m.pc == l.2 + 1

def iter {α : Type} (f : α → α) : Nat → α → α
  | 0, x => x
  | n + 1, x => iter f n (f x)

/-- One round: the longest path from each point up to a tile boundary, of points with their weights and the points that continue them. -/
def relax (l : List (Nat × List Nat)) (best : List Nat) : List Nat := l.map fun x => x.1 + maxOf (x.2.map fun k => best.getD k 0)

/-- First instruction from which some engine's tile length exceeds the limit, a path round a branch included (R131). DESIGN CHOICE (log entry
103): the location of such a path is the first instruction that it can start from. -/
def Prog.tileTooLong (p : Prog) (remote : List Nat) : Option Nat :=
  let closed := p.closed remote
  let counted := p.counted remote
  let succ := p.nodes.map fun n => (p.onward remote closed counted n).map fun m => p.nodes.idxOf m
  let bad (e : Nat) : List Nat :=
    let l := (p.nodes.map fun n => if isBoundary remote (p.at_ n.pc) then 0 else p.weight closed e n).zip succ
    let a := iter (relax l) (p.nodes.length + 1) (p.nodes.map fun _ => 0)
    let b := iter (relax l) p.nodes.length a
    ((p.nodes.zip (a.zip b)).filter fun x => decide (Config.tileLimit < x.2.1) || decide (x.2.1 < x.2.2)).map fun x => x.1.pc
  let all := [0, 1, 2].flatMap bad
  (List.range p.words.length).find? all.contains

/-! ## Accumulator sets and chains (R83, R90) -/

/-- Sets (array, set) that an instruction fills, with whether it continues the set, and those that it empties. -/
def fills (w : DWord) : List (Nat × Nat × Bool) :=
  if wOp w = 0x40 || wOp w = 0x41 then [(bf w 32 1, bf w 33 1, wMode w == 1)]
  else if wOp w = 0x42 then [(0, bf w 33 1, bf w 31 1 == 1), (1, bf w 32 1, bf w 30 1 == 1)]
  else []

def empties (w : DWord) : List (Nat × Nat) :=
  if 0x43 ≤ wOp w && wOp w ≤ 0x45 then [(bf w 32 1, bf w 33 1)] else []

/-- Boundaries that a filled set can reach unread (0x3021). DESIGN CHOICE (log entry 103): the location of such a path is the boundary. -/
def Prog.openSets (p : Prog) (remote : List Nat) : List Nat :=
  (p.live.flatMap fun i => (fills (p.at_ i)).flatMap fun (a, s, _) =>
    let stop (k : Nat) : Bool := isBoundary remote (p.at_ k) || ((empties (p.at_ k)).contains (a, s) && wAlways (p.at_ k))
    (p.reach p.succ stop p.fuel (p.succ i) []).filter fun k => isBoundary remote (p.at_ k)).eraseDups

/-- Whether an instruction leaves a wide or split chain of the fast path at a K that is no multiple of 32, with these descriptors. -/
def Prog.oddStep (p : Prog) (i : Nat) (td : Nat → TileDesc) : Bool :=
  let w := p.at_ i
  (wOp w == 0x40 || wOp w == 0x41) && !p.canon && (td (wTd w)).cols % 32 != 0 && chainClass (td (wTd w)).fmt (td (wTdb w)).fmt != .narrow

def Prog.oddK (p : Prog) (i : Nat) : Bool := (p.pts i).any fun n => p.oddStep i n.td

/-- Instructions that continue a wide or split chain at a K that is no multiple of 32 (0x3023). -/
def Prog.badCuts (p : Prog) : List Nat :=
  (p.live.flatMap fun i =>
    let w := p.at_ i
    if p.oddK i then
      (fills w).flatMap fun (a, s, _) =>
        let on (k : Nat) : Bool := (fills (p.at_ k)).any fun f => f.1 == a && f.2.1 == s
        let stop (k : Nat) : Bool := (on k || (empties (p.at_ k)).contains (a, s)) && wAlways (p.at_ k)
        (p.reach p.succ stop p.fuel (p.succ i) []).filter fun k => !wNever (p.at_ k) && (fills (p.at_ k)).any fun f => f.1 == a && f.2.1 == s && f.2.2
    else []).eraseDups

/-- The raw records that MSAV writes, or ACCMODE 11 loads, at a point, where the plan tells. -/
def Prog.rawAt (p : Prog) (n : Node) : List (Nat × Nat) :=
  let t := wTdc (p.at_ n.pc)
  if n.still t 0 then (n.td t).rawRanges else []

/-- Whether ranges lie within others, each in one of them. -/
def rangesIn (x y : List (Nat × Nat)) : Bool := x.all fun a => y.any fun b => decide (b.1 ≤ a.1) && decide (a.2 ≤ b.2)

/-- Instructions that continue, from saved raw records, a wide or split chain that an earlier tile left at a K that is no multiple of 32
(R83): a path leads from the instruction that left it there to the save, and on to the load of its range, with no other save over it between. -/
def Prog.badResumes (p : Prog) (remote : List Nat) : List Nat :=
  let next := p.next (p.counted remote)
  let isSave (n : Node) : Bool := wOp (p.at_ n.pc) == 0x45 && wAlways (p.at_ n.pc)
  let walk (stop : Node → Bool) (l : List Node) : List Node := closure (fun n => if stop n then [] else next n) graphSteps l []
  ((p.nodes.filter fun n => !wNever (p.at_ n.pc) && p.oddStep n.pc n.td).flatMap fun n => (fills (p.at_ n.pc)).flatMap fun (a, s, _) =>
    let ends (m : Node) : Bool := (empties (p.at_ m.pc)).contains (a, s)
    let stop (m : Node) : Bool := (ends m || (fills (p.at_ m.pc)).any fun f => f.1 == a && f.2.1 == s) && wAlways (p.at_ m.pc)
    let saves := (walk stop (next n)).filter fun m => wOp (p.at_ m.pc) == 0x45 && !wNever (p.at_ m.pc) && ends m
    saves.flatMap fun m =>
      ((walk (fun k => isSave k && !(p.rawAt m).isEmpty && rangesIn (p.rawAt m) (p.rawAt k)) (next m)).filter fun k =>
        (wOp (p.at_ k.pc) == 0x40 || wOp (p.at_ k.pc) == 0x41) && wMode (p.at_ k.pc) == 3 && !wNever (p.at_ k.pc) && rangesHit (p.rawAt m) (p.rawAt k)).map
          Node.pc).eraseDups

/-! ## Runs that do not depend on run-time values -/

/-- A run of an entry as the verifier follows it: the next instruction, the open loops as (LOOP, iterations left), the descriptors as loaded and
moved, and the instructions that it looks for with the descriptors held there, latest first. -/
structure Run where
  pc : Nat
  stack : List (Nat × Nat) := []
  tds : List (Nat × TileDesc) := []
  seen : List (Nat × List (Nat × TileDesc)) := []
deriving DecidableEq, Repr

/-- One instruction of a run; none where its course or a descriptor depends on a run-time value, or on what an earlier entry left in a TD. -/
def Prog.follow1 (p : Prog) (want : DWord → Bool) (r : Run) : Option Run :=
  let w := p.at_ r.pc
  let r1 : Run := { r with pc := r.pc + 1 }
  if wNever w then some r1
  else if want w then
    (if wAlways w && (tdReads w ++ tdWrites w ++ tdRaw w).all fun t => (aget r.tds t).isSome then some { r1 with seen := (r.pc, r.tds) :: r.seen }
    else none)
  else match wOp w with
    | 0x03 => if wAlways w then some { r with pc := wImm w } else none
    | 0x04 =>
      if wGa w ≠ 0 then none
      else if wImm w = 0 then (p.loops.find? fun l => l.1 == r.pc).map fun l => { r with pc := l.2 + 1 }
      else some { r1 with stack := (r.pc, wImm w) :: r.stack }
    | 0x05 => match r.stack with
      | (l, n) :: st => some (if n ≤ 1 then { r1 with stack := st } else { r with pc := l + 1, stack := (l, n - 1) :: st })
      | [] => none
    | 0x30 => if wAlways w then (p.pool[wImm w]?).map fun d => { r1 with tds := aput r.tds (wTd w) d } else none
    | 0x31 => match aget r.tds (wTd w) with
      | none => some r1
      | some d => if wAlways w && bf w 41 5 == 0 then some { r1 with tds := aput r.tds (wTd w) (tdAdd d (tdFieldOf (bf w 39 2)) (wImmOf w)) }
        else none
    | _ => some r1

/-- The instructions of a kind that a run of an entry executes, in order, with the descriptors held at each; none where they depend on run-time
values. The bound on the instructions followed keeps the verifier's work finite (log entry 60). -/
def Prog.follow (p : Prog) (want : DWord → Bool) : Nat → Run → Option (List (Nat × List (Nat × TileDesc)))
  | 0, _ => none
  | n + 1, r =>
    if wOp (p.at_ r.pc) = 0x01 || decide (p.words.length ≤ r.pc) then some r.seen.reverse
    else (p.follow1 want r).bind (p.follow want n)

def followSteps : Nat := 2 ^ 20

def Prog.runOf (p : Prog) (want : DWord → Bool) (entry : Nat) : Option (List (Nat × List (Nat × TileDesc))) :=
  p.follow want followSteps { pc := entry }

/-- What a run shows of R83 as it goes: the sets whose chain was left at a K that is no multiple of 32, the records saved from such sets, and the
instructions that continued from one. -/
structure CutRun where
  odd : List (Nat × Nat) := []
  saved : List (Nat × Nat) := []
  bad : List Nat := []
deriving DecidableEq, Repr

def Prog.cutStep (p : Prog) (c : CutRun) (x : Nat × List (Nat × TileDesc)) : CutRun :=
  let w := p.at_ x.1
  let td (t : Nat) : TileDesc := (aget x.2 t).getD {}
  let raw := (td (wTdc w)).rawRanges
  match fills w, empties w with
  | [(a, s, _)], _ =>
    let bad := if wMode w = 3 && rangesHit c.saved raw then x.1 :: c.bad else c.bad
    let rest := c.odd.filter fun o => o != (a, s)
    { c with bad, odd := if p.oddStep x.1 td then (a, s) :: rest else rest }
  | _, [(a, s)] =>
    let kept := if wOp w = 0x45 then c.saved.filter fun r => !rangesIn [r] raw else c.saved
    { c with odd := c.odd.filter fun o => o != (a, s), saved := if wOp w = 0x45 && c.odd.contains (a, s) then raw ++ kept else kept }
  | _, _ => c

/-- As `badResumes`, on the runs that do not depend on run-time values, where BASE moves round a loop. -/
def Prog.badRuns (p : Prog) : List Nat :=
  p.entries.flatMap fun e =>
    ((p.runOf (fun w => !(fills w).isEmpty || !(empties w).isEmpty) e).getD []).foldl p.cutStep {} |>.bad

/-! ## One program (Table 4-14) -/

/-- The ranges that an instruction writes with descriptors, of which those whose BASE is known count: STS at an immediate address, result tiles, raw records, and the
status bytes of an operation by rows (R111, R153, R190). -/
def writesOf (w : DWord) (td : Nat → TileDesc) (known : Nat → Bool) : List (Nat × Nat) :=
  let byRow := vRowOps.contains (wVfunc w) || vRowDerivs.contains (wVfunc w)
  (if wOp w = 0x20 && wGa w == 0 then [(wImm w / 4 * 4, wImm w / 4 * 4 + 4)] else [])
    ++ (((tdWrites w).filter known).flatMap fun t => (td t).ranges)
    ++ (if wOp w = 0x45 && known (wTdc w) then (td (wTdc w)).rawRanges else [])
    ++ (if wOp w = 0x50 && byRow && wImm16 w != 0 then [(wImm16 w * 32, wImm16 w * 32 + (td (wVa w)).rows)] else [])

/-- The ranges that an instruction writes, where the plan tells them: on some path with every TDADD followed, or in a run of an entry. -/
def Prog.staticWrites (p : Prog) (i : Nat) : List (Nat × Nat) :=
  let w := p.at_ i
  let onPaths := (p.pts i).flatMap fun n => writesOf w n.td fun t => n.still t 0
  let moved := (tdWrites w ++ [wTdc w]).any fun t => (p.pts i).any fun n => !n.still t 0
  let inRuns := if moved then p.entries.flatMap fun e =>
      (((p.runOf (fun v => v == w) e).getD []).filter fun x => x.1 == i).flatMap fun x => writesOf w (fun t => (aget x.2 t).getD {}) fun _ => true
    else []
  if wNever w then [] else onPaths ++ inRuns

/-- Static stores into the descriptor pool (R111). -/
def Prog.hitsPool (p : Prog) (base i : Nat) : Bool := rangesHit [(base, base + 32 * p.pool.length)] (p.staticWrites i)

/-- Codes of an instruction with the descriptors held at a point. -/
def Prog.useCodes (p : Prog) (n : Node) : List Nat :=
  let w := p.at_ n.pc
  let td := n.td
  let each := ((tdReads w ++ tdWrites w).flatMap fun t => tdCodes (td t)) ++ ((tdRaw w).flatMap fun t => tdRawCodes (td t))
  let shape : List Nat := match wOp w with
    | 0x42 => mtwinCodes (td (wTd w)) (td (wTdb w)) (td (wTdc w))
    | 0x43 => let c := td (wTdc w); if 32 < c.rows || 32 < c.cols then [0x3025] else []
    | 0x44 => pairCodes (td (wTd w)) (td (wTdc w))
    | 0x45 => let c := td (wTdc w); if 32 < c.rows || 32 < c.cols || c.stride.toNat < 96 * c.cols then [0x3025] else []
    | 0x50 => vopCodes w (td (wTdd w)) (td (wVa w)) (if wBsrc w = 1 then some (td (wVb w)) else none)
    | op => if op = 0x40 || op = 0x41 then mmaCodes w (td (wTd w)) (td (wTdb w)) (if 2 ≤ wMode w then [td (wTdc w)] else []) else []
  each ++ shape

/-- Failures of one program on one core. -/
def progFails (ctx core : Nat) (remote : List Nat) (canon : Bool) (words : List DWord) (pool : List TileDesc) (poolBase : Nat) (entries : List Nat) :
    List Fail :=
  let n := words.length
  let base := (List.range n).flatMap fun i => (wordCodes remote canon (isSCore core) pool (words.getD i 0)).map (failAt ctx core i)
  let str := structureFails ctx core words entries
  if !str.isEmpty || base.any fun f => decide (f.code ≤ 0x3013) then base ++ str
  else
    let p := Prog.mk' ctx core remote canon words pool entries
    let bound := ((p.closed remote).filter fun l => wGa (p.at_ l.1) != 0).map fun l => failAt ctx core l.1 0x3014
    let tile := if bound.isEmpty then ((p.tileTooLong remote).toList.map fun i => failAt ctx core i 0x3020) else []
    base ++ bound ++ tile ++ ((p.openSets remote).map fun i => failAt ctx core i 0x3021) ++ (p.badCuts.map fun i => failAt ctx core i 0x3023)
      ++ ((p.badResumes remote ++ p.badRuns).map fun i => failAt ctx core i 0x3023)
      ++ (p.nodes.flatMap fun x => if wNever (p.at_ x.pc) then [] else (p.useCodes x).map (failAt ctx core x.pc))
      ++ (p.live.filter (p.hitsPool poolBase)).map fun i => failAt ctx core i 0x3037

end Sys2Proof.Machine
end

