-- ==== Sys2Proof/Machine/Verify.lean ====
section
/-!
DEFINITION. The plan verifier on records, and its verdict: the lowest code with its first location (R133, R134 and the verifier tables of
chapters 4 to 16).
-/

namespace Sys2Proof.Machine

/-! ## Helpers -/

def mib2 : Nat := 2 * 2 ^ 20
def f32Finite (w : Word) : Bool := decide (w.toNat / 2 ^ 23 % 256 < 255)
def f32NormalPos (w : Word) : Bool := decide (1 ≤ w.toNat / 2 ^ 23) && decide (w.toNat / 2 ^ 23 < 255)
def f32Pos (w : Word) : Bool := f32Finite w && decide (w.toNat < 2 ^ 31) && w != 0
def f32One : Word := 0x3F800000
def within (lo hi n : Nat) : Bool := decide (lo ≤ n) && decide (n ≤ hi)

/-- Index of the first range that overlaps an earlier one. -/
def overlapFrom : List (Nat × Nat) → List (Nat × Nat) → Nat → Option Nat
  | _, [], _ => none
  | seen, x :: r, i => if rangesHit seen [x] then some i else overlapFrom (x :: seen) r (i + 1)
def overlapAt (l : List (Nat × Nat)) : Option Nat := overlapFrom [] l 0

/-- Whether ranges cover [lo, lo + n) exactly once and lie within it. -/
def coversOnce (lo n : Nat) (l : List (Nat × Nat)) : Bool :=
  (l.map fun x => x.2 - x.1).foldl (· + ·) 0 == n && (overlapAt l).isNone && l.all fun x => decide (lo ≤ x.1) && decide (x.2 ≤ lo + n)

/-- Index of the first repeated number. -/
def repeatFrom : List Nat → List Nat → Nat → Option Nat
  | _, [], _ => none
  | seen, x :: r, i => if seen.contains x then some i else repeatFrom (x :: seen) r (i + 1)
def repeatAt (l : List Nat) : Option Nat := repeatFrom [] l 0

/-- The record lists of a plan in the order of its record indices (log entry 12). -/
inductive RecList where
  | contexts | regions | programs | schedule | affinity | channels | counters | recipes | landings | losses | labels | stages | layers
  | updates | fuuProgs | policy | hist | exch | jobs | serve | data | tables | shards | moe | kv | areas | adapters | acct | chains | heads | taps
  | splits | places | pipeline | bounds | orders | frozen | tensors
deriving DecidableEq, Repr

def listSizes (p : Plan) : List (RecList × Nat) :=
  [(.contexts, p.contexts.length), (.regions, p.regions.length), (.programs, p.programs.length), (.schedule, p.schedule.length),
   (.affinity, p.affinity.length), (.channels, p.channels.length), (.counters, p.counters.length), (.recipes, p.recipes.length),
   (.landings, p.landings.length), (.losses, p.losses.length), (.labels, p.labels.length), (.stages, p.stages.length),
   (.layers, p.layers.length), (.updates, p.updates.length), (.fuuProgs, p.fuuProgs.length), (.policy, 1), (.hist, p.hist.length)] ++
  [(.exch, p.exch.length), (.jobs, p.jobs.length), (.serve, p.serve.length), (.data, p.data.length), (.tables, p.tables.length),
   (.shards, p.shards.length), (.moe, p.moe.length), (.kv, p.kv.length), (.areas, p.adapterAreas.length), (.adapters, p.adapters.length),
   (.acct, 1), (.chains, p.chains.length), (.heads, p.heads.length), (.taps, p.taps.length), (.splits, p.splits.length),
   (.places, p.places.length), (.pipeline, 1), (.bounds, p.bounds.length), (.orders, p.orders.length), (.frozen, p.frozen.length),
   (.tensors, p.teacherTensors.length)]

/-- Index in the plan of record i of a list. -/
def recIndex (p : Plan) (k : RecList) (i : Nat) : Nat :=
  ((listSizes p).takeWhile fun e => e.1 != k).foldl (fun n e => n + e.2) i

def recFail (p : Plan) (k : RecList) (i code : Nat) : Fail := ⟨code, false, recIndex p k i, locRecord (recIndex p k i)⟩

/-- One check over every record of a list. -/
def each {α : Type} (p : Plan) (k : RecList) (l : List α) (code : Nat) (bad : α → Bool) : List Fail :=
  l.zipIdx.filterMap fun (x, i) => if bad x then some (recFail p k i code) else none

def optFail (p : Plan) (k : RecList) (code : Nat) (o : Option Nat) : List Fail := o.toList.map fun i => recFail p k i code
def flagFail (p : Plan) (k : RecList) (code : Nat) (bad : Bool) : List Fail := if bad then [recFail p k 0 code] else []

/-- What the verdict depends on beside the plan and the image: the device's address, what the Husk bound here permits (R442; nothing where none is
bound), and whether the plan is being loaded, when role 0 must stand on the lowest address (R410). -/
structure VerifyEnv where
  self : Nat
  policy : BitVec 32 := 0
  load : Bool := true
deriving DecidableEq, Repr

def planCtx (p : Plan) (c : Nat) : Option CtxRec := p.contexts.find? fun r => r.ctx == c
def kindOf (p : Plan) (c : Nat) : Option CtxKind := (planCtx p c).map CtxRec.kind
def regionSize (p : Plan) (k : RegionKind) : Nat := ((p.regionOf k).map RegionRec.size).getD 0
/-- A range of `n` bytes at an offset in 128-byte units within a region. -/
def inRegion (p : Plan) (k : RegionKind) (off n : Nat) : Bool := decide (off * 128 + n ≤ regionSize p k)
def isStudentKind (k : Option CtxKind) : Bool := k == some .training || k == some .serving || k == some .online

/-- A context of this kind runs on cores of this type (R162, R211). -/
def coreTypeOk (k : Option CtxKind) (scoreCore : Bool) : Bool := if scoreCore then k != some .teacher else !isStudentKind k

/-! ## Contexts, shares and regions (chapters 1, 4 and 12) -/

def sCap (p : Plan) : Nat := Config.sScratchBytes - p.landingArea

def shareFails (p : Plan) : List Fail :=
  let sum (f : CtxRec → Nat) : Nat := (p.contexts.map f).foldl (· + ·) 0
  flagFail p .contexts 0x3002 (decide (8 < p.contexts.length))
  ++ flagFail p .contexts 0x3003 (decide (Config.tScratchBytes < sum CtxRec.tSpSize) || decide (sCap p < sum CtxRec.sSpSize)
      || decide (Config.tImemInstrs < sum CtxRec.tImSize) || decide (Config.sImemInstrs < sum CtxRec.sImSize))
  ++ each p .contexts p.contexts 0x3003 (fun c => decide (Config.tScratchBytes < c.tSpBase + c.tSpSize) || decide (sCap p < c.sSpBase + c.sSpSize)
      || decide (Config.tImemInstrs < c.tImBase + c.tImSize) || decide (Config.sImemInstrs < c.sImBase + c.sImSize))
  ++ each p .regions p.regions 0x3003 (fun r => decide (Config.hbmBytes < r.base + r.size))
  ++ each p .programs p.programs 0x3003 (fun r => match planCtx p r.ctx with
      | some c => r.cores.any fun n => coreTypeOk (some c.kind) (isSCore n) && decide ((if isSCore n then c.sImSize else c.tImSize) < r.words.length)
      | none => true)
  ++ each p .contexts p.contexts 0x3004 (fun c => !within 1 16777216 c.waitLimit)

def ctxFails (p : Plan) : List Fail :=
  let k4 (n : Nat) : Bool := n % 4096 == 0
  let hit (f g : CtxRec → Nat) : Option Nat := overlapAt (p.contexts.map fun c => (f c, f c + g c))
  each p .contexts p.contexts 0x30E0 (fun c =>
    decide (8 ≤ c.ctx) || !c.reservedZero || !(k4 c.tSpBase && k4 c.tSpSize && k4 c.sSpBase && k4 c.sSpSize)
    || (c.kind == .teacher && decide (0 < c.sSpSize + c.sImSize)) || (isStudentKind (some c.kind) && decide (0 < c.tSpSize + c.tImSize))
    || (c.partner != 0xFF && !(match planCtx p c.partner with | some d => d.partner == c.ctx && d.be == c.be | none => false)))
  ++ optFail p .contexts 0x30E0 (repeatAt (p.contexts.map CtxRec.ctx))
  ++ optFail p .contexts 0x30E0 (hit CtxRec.tSpBase CtxRec.tSpSize) ++ optFail p .contexts 0x30E0 (hit CtxRec.sSpBase CtxRec.sSpSize)
  ++ optFail p .contexts 0x30E0 (hit CtxRec.tImBase CtxRec.tImSize) ++ optFail p .contexts 0x30E0 (hit CtxRec.sImBase CtxRec.sImSize)

/-- Bytes of a table's row. -/
def rowBytesOf (t : TableRec) : Nat := t.d * ((fmtdFmt t.fmt).getD .fp32).width / 8

def nmomOf (p : Plan) (u : UpdRec) : Nat := ((p.fuuProgs[u.prog]?).map FuuProg.nmom).getD 0

/-- The moments of a student shard's rows, in both banks (R244). -/
def shardMoments (p : Plan) (t : TableRec) (h : ShardRec) : List (Nat × Nat) :=
  (p.updates.filter fun u => u.sparse && u.tensorId == t.tensorId && !t.teacher).flatMap fun u =>
    (List.range (nmomOf p u)).flatMap fun n => [u.momOff, u.momOff + u.momStride].map fun b =>
      let a := b * 128 + 4 * (n * u.elems + h.row0 * t.d)
      (a, a + 4 * h.nrows * t.d)

def shardRows (t : TableRec) (h : ShardRec) : Nat × Nat := (h.off, h.off + h.nrows * rowBytesOf t)
def areaRange (x : Nat × Nat) : Nat × Nat := (x.1, x.1 + x.2)

/-- What one MSD's Table Engine reads of a shard: its rows, their moments, and their row shadow (R27). -/
def shardRanges (p : Plan) (t : TableRec) (h : ShardRec) : List (Nat × Nat) :=
  shardRows t h :: (shardMoments p t h ++ if t.teacher then [] else h.shadow.toList.map areaRange)

/-- This device's shards with their tables. -/
def localShards (p : Plan) : List (TableRec × ShardRec) :=
  (p.shards.filter fun h => h.remote.isNone).filterMap fun h => (p.tables.find? fun t => t.table == h.table).map fun t => (t, h)

/-- The teacher-table shards of the table region, which only the IOD writes (R28). -/
def teacherRows (p : Plan) : List (Nat × Nat) := ((localShards p).filter fun x => x.1.teacher).map fun x => shardRows x.1 x.2

def regionFails (p : Plan) : List Fail :=
  let pinned (msd : Nat) (r : RegionRec) (x : Nat × Nat) : Bool :=
    r.ranges.any fun t => t.pin == some msd && decide (t.base ≤ x.1) && decide (x.2 ≤ t.base + t.size)
  each p .regions p.regions 0x3040 (fun r => r.base % mib2 != 0 || r.size % mib2 != 0)
  ++ optFail p .regions 0x3041 (overlapAt (p.regions.map fun r => (r.base, r.base + r.size)))
  ++ each p .regions p.regions 0x3042 (fun r => (r.kind != .table && (r.pinned || !r.ranges.isEmpty))
      || (overlapAt (r.ranges.map fun t => (t.base, t.base + t.size))).isSome
      || r.ranges.any fun t => t.base % mib2 != 0 || t.size % mib2 != 0 || decide (r.size < t.base + t.size))
  ++ each p .shards p.shards 0x3042 (fun h => h.remote.isNone && !(match p.regionOf .table, p.tables.find? (fun t => t.table == h.table) with
      | some r, some t => (shardRanges p t h).all (pinned h.msd r)
      | _, _ => false))

/-- The core of an end of a channel, on this device or on its peer (R118). -/
def endCore (c : ChanRec) (e : Option Site) : Nat := (e.map Site.core).getD c.peerCore

/-- Whether a counter of a context has class REMOTE. -/
def remoteCnt (p : Plan) (ctx : Nat) (c : Fin 16) : Bool := ((planCtx p ctx).map fun r => r.remote.contains c.val).getD false

def channelFails (p : Plan) : List Fail :=
  each p .channels p.channels 0x3060 (fun c => isSCore (endCore c c.sender) != isSCore (endCore c c.receiver))
  ++ each p .channels p.channels 0x3017 (fun c => c.receiver.any fun a => !remoteCnt p a.ctx.val c.cnt)
  ++ each p .losses p.losses 0x3017 (fun r => !remoteCnt p r.ctx.val r.doneCnt)
  ++ each p .counters p.counters 0x3017 (fun r => match planCtx p r.site.ctx.val with
    | some c => !c.remote.contains r.c.val
    | none => true)

def sameProg (p : Plan) (ctx a b : Nat) : Bool :=
  let prog (n : Nat) : Option (List DWord × List TileDesc) := (p.programs.find? fun r => r.ctx == ctx && r.cores.contains n).map fun r => (r.words, r.pool)
  prog a == prog b

/-- An affinity set contrary to R348: its cores, their type, or the programs that they hold for a context whose records name it. -/
def affinityBad (p : Plan) (i : Nat) (l : List Nat) : Bool :=
  !within 2 16 l.eraseDups.length || l.any (fun n => decide (Config.numCores ≤ n) || isSCore n != isSCore (l.headD 0))
    || p.schedule.any fun r => r.affinity && r.place == i && l.any fun n => !sameProg p r.ctx n (l.headD 0)

def scheduleFails (p : Plan) : List Fail :=
  let fixedOnly (c : Nat) : Bool := kindOf p c == some .training || kindOf p c == some .online
  let entryOk (r : SchedRec) (n : Nat) : Bool :=
    p.programs.any fun q => q.ctx == r.ctx && q.cores.contains n && decide (r.entry < q.words.length)
  each p .schedule p.schedule 0x30E2 (fun r => r.affinity && fixedOnly r.ctx)
  ++ each p .schedule p.schedule 0x30E3 (fun r => (planCtx p r.ctx).isNone || decide (4 < r.args.length)
      || (match r.trig with | .counter _ core _ => decide (Config.numCores ≤ core) | _ => false)
      || (if r.affinity then match p.affinity[r.place]? with
          | some s => s.any fun n => !entryOk r n
          | none => true
        else !entryOk r r.place))
  ++ (p.affinity.zipIdx.filterMap fun (l, i) => if affinityBad p i l then some (recFail p .affinity i 0x30E3) else none)
  ++ flagFail p .acct 0x30E3 (!within 1024 (2 ^ 32 - 1) p.acct.beats || !within 1 16777216 p.acct.drainLimit)

/-! ## Placement declarations (chapters 1, 6, 7 and 8; log entry 60) -/

/-- Head shards of the two models that are not one device's same vocabulary range (R29), or a head split over K across devices (R168). -/
def headBad (p : Plan) (h : HeadRec) : Bool :=
  let twins := p.heads.filter fun g => g.teacher != h.teacher && g.device == h.device
  let both := (p.heads.any HeadRec.teacher) && p.heads.any fun g => !g.teacher
  (both && !(twins.any fun g => g.lo == h.lo && g.hi == h.hi)) || h.k0 != 0 || h.k1 != h.k || decide (h.hi ≤ h.lo)
    || 1 < (p.heads.filter fun g => g.teacher == h.teacher && g.device == h.device).length

/-- The devices of a stage of the pipeline; a stage that the plan does not place elsewhere is this device's. -/
def stageDevices (p : Plan) (self number : Nat) : List Nat := ((p.places.find? fun x => x.number == number).map StagePlace.devices).getD [self]

def placeFails (p : Plan) (self : Nat) : List Fail :=
  each p .heads p.heads 0x3050 (headBad p)
  ++ each p .places p.places 0x3051 (fun x => x.devices.length != 1
      || x.devices.any fun d => decide (8 < (p.places.filter fun y => y.devices.contains d).length))
  ++ each p .stages p.stages 0x3051 (fun r => stageDevices p self r.number != [self]) ++ flagFail p .stages 0x3051 (decide (8 < p.stages.length))
  ++ each p .heads p.heads 0x3053 (fun h => !h.teacher && (p.tables.any fun t => !t.teacher && t.tensorId == h.tensorId))
  ++ each p .heads p.heads 0x3080 (fun h => h.teacher && h.consumers.any (· != h.device))
  ++ each p .taps p.taps 0x3080 (fun t => t.consumers.any (· != t.device))
  ++ each p .splits p.splits 0x3082 (fun l => decide (1 < (l.map (· / 8)).eraseDups.length))
  ++ each p .tensors p.teacherTensors 0x3081 (fun t => !fmtdStored t.2)
  ++ flagFail p .pipeline 0x30A6 (!within 1 4096 p.microBatches)
  ++ each p .places p.places 0x30A6 (fun x => !p.pipeline.isEmpty && x.devices != [p.pipeline.getD (x.number % p.pipeline.length) 0])
  ++ each p .stages p.stages 0x30A6 (fun r => !p.pipeline.isEmpty && p.pipeline.getD (r.number % p.pipeline.length) 0 != self)

/-! ## Teacher path (chapter 6) -/

def recipeBad (r : Recipe) : Bool :=
  let f := fmtdFmt r.vfmt
  !(f == some .fp32 || f == some .bf16) || decide (16 ≤ r.vfmt.toNat) || !within 1 8192 r.width
    || (match r.kind with
      | .topk => !f32NormalPos r.invT || !within 1 256 r.k || decide (r.width < r.k) || r.tap != 0
      | .full => !f32NormalPos r.invT || r.k != 0 || r.tap != 0
      | .hidden => r.invT != f32One || r.k != 0)

def tableOk (t : TableRec) : Bool :=
  t.d % 32 == 0 && within 32 1024 t.d && [0, 1, 3, 4].contains (t.fmt.toNat % 32) && decide (t.rows ≤ 2 ^ 40)

/-- Bytes of a KV page (Table 6-3), and of the slot that it occupies: the smallest multiple of 1,024 that holds it (R169). -/
def kvBytes (k : KvRec) : Nat := 2 * (64 * k.headDim * ((fmtdFmt k.fmt).getD .fp32).width / 8) + if fmtdBlk k.fmt then 4 * k.headDim else 0
def kvSlot (k : KvRec) : Nat := (kvBytes k + 1023) / 1024 * 1024

/-- A KV page contrary to R169 or Table 6-3. DESIGN CHOICE (log entry 106): BF16 with BLK, which R169 does not shut out and Table 2-5 does, is
reported with the code of the page. -/
def kvBad (p : Plan) (k : KvRec) : Bool :=
  k.headDim % 32 != 0 || !within 32 256 k.headDim || !([1, 3, 4].contains (k.fmt.toNat % 16)) || (fmtdBlk k.fmt && k.fmt.toNat % 16 == 1)
    || k.off % 1024 != 0 || (p.serve.any fun r => decide (r.psetBytes < k.off + kvSlot k))

def teacherFails (p : Plan) : List Fail :=
  each p .programs p.programs 0x3080 (fun r => kindOf p r.ctx == some .teacher && r.cores.any isSCore)
  ++ each p .recipes p.recipes 0x3083 recipeBad
  ++ each p .kv p.kv 0x3085 (kvBad p)
  ++ optFail p .kv 0x3085 (overlapAt (p.kv.map fun k => (k.off, k.off + kvSlot k)))
  ++ each p .moe p.moe 0x3086 (fun m => !within 1 1024 m.experts || !within 1 (min 8 m.experts) m.select || m.capacity % 32 != 0 || !within 32 8192 m.capacity)
  ++ each p .tables p.tables 0x3087 (fun t => !tableOk t
      || !coversOnce 0 t.rows ((p.shards.filter fun h => h.table == t.table).map fun h => (h.row0, h.row0 + h.nrows)))
  ++ each p .shards p.shards 0x3087 (fun h => match p.tables.find? fun t => t.table == h.table with
      | none => true
      | some t => decide (t.rows < h.row0 + h.nrows) || (t.teacher && h.row0 * rowBytesOf t % 4096 != 0))

/-! ## Stem and losses (chapter 7) -/

def landingFails (p : Plan) : List Fail :=
  let areaLo := Config.sScratchBytes - p.landingArea
  let range (l : LandRec) : Nat × Nat := (l.score * 2 ^ 20 + l.base, l.score * 2 ^ 20 + l.base + l.slots * l.slotSize)
  let rcp (b : Nat) : Option Recipe := p.recipes.find? fun r => r.buffer == b
  let remote (c : Fin 8) (n : Nat) : Bool := ((planCtx p c.val).map CtxRec.remote).getD [] |>.contains n
  /- The loss and acceptance records with a segment on a buffer: its consumers, by context and kind. -/
  let readers (l : LandRec) : List (Fin 8 × Bool) :=
    (p.losses.filter fun r => r.segs.any fun g => g.buffer == l.buffer).map fun r => (r.ctx, r.kind == .accept)
  flagFail p .landings 0x3090 (p.landingArea % 32768 != 0 || decide (262144 < p.landingArea) || decide (256 < p.landings.length))
  ++ optFail p .landings 0x3090 (overlapAt (p.landings.map range)) ++ optFail p .landings 0x3090 (repeatAt (p.landings.map LandRec.buffer))
  ++ each p .landings p.landings 0x3090 (fun l => decide (1152 ≤ l.score) || l.base % 32 != 0 || decide (l.base < areaLo)
      || decide (Config.sScratchBytes < l.base + l.slots * l.slotSize) || !within 1 1024 l.slots
      || (match rcp l.buffer with | some r => l.slotSize != slotSizeOf r | none => true))
  ++ each p .landings p.landings 0x3091 (fun l => decide (9216 ≤ l.producer)
      || decide (1 < (p.landings.filter fun m => m.producer == l.producer && m.pctx == l.pctx).length))
  ++ each p .landings p.landings 0x3092 (fun l => readers l != (if l.ckind == .program then [] else [(l.cctx, l.ckind == .accept)])
      || !remote l.cctx l.arrive.val || (l.ckind == .program && remote l.cctx l.release.val)
      || (l.ckind != .program && l.release != 0)
      || (l.ckind == .program && p.programs.all fun q => q.ctx != l.cctx.val || !q.cores.contains (Config.numTCores + l.score)))
  ++ each p .landings p.landings 0x30D1 (fun l => l.ckind == .accept &&
      (match rcp l.buffer with | some r => r.kind != .full || r.invT != f32One | none => true))

/-- A descriptor-pool entry of a context on an S-core. -/
def poolEntry (p : Plan) (ctx score i : Nat) : Option TileDesc :=
  (p.programs.find? fun q => q.ctx == ctx && q.cores.contains (Config.numTCores + score)).bind fun q => q.pool[i]?

/-- The columns of a row that a segment of a record takes in, from its COL0 (R200). -/
def segCols (p : Plan) (r : LossRec) (g : SegRec) : Nat × Nat :=
  match poolEntry p r.ctx.val g.score g.zdesc with
  | some z => let c := if z.lrow = 0 then 0 else z.indexBase.toNat % z.lrow.toNat; (c, c + z.cols)
  | none => (0, 0)

/-- A segment contrary to R200 or Table 7-7. -/
def segBad (p : Plan) (r : LossRec) (g : SegRec) : Bool :=
  match p.recipes.find? (fun q => q.buffer == g.buffer), poolEntry p r.ctx.val g.score g.zdesc with
  | some q, some z =>
    let kindOk := match r.kind with
      | .output => q.kind != .hidden
      | .accept => q.kind == .full
      | _ => q.kind == .hidden
    let gradOk := match r.kind with
      | .accept => g.gdesc == 0
      | _ => match poolEntry p r.ctx.val g.score g.gdesc with
        | some d => d.fmtd == r.gfmt && d.rows == z.rows && d.cols == z.cols && (tdCodes d).isEmpty
        | none => false
    let landOk := p.landings.any fun l => l.buffer == g.buffer && l.cctx == r.ctx && l.ckind == if r.kind == .accept then .accept else .loss
    !kindOk || !landOk || z.rows != r.rows || q.invT != r.invT || z.cols != q.width || z.fmtd.toNat % 32 != 0 || z.lrow == 0 || !(tdCodes z).isEmpty || !gradOk
      || decide (Config.numSCores ≤ g.score)
  | _, _ => true

def lossBad (p : Plan) (r : LossRec) : Bool :=
  let out := r.kind == .output
  let acc := r.kind == .accept
  let one := r.invT == f32One
  let gf := fmtdFmt r.gfmt
  let cols := r.segs.map (segCols p r)
  (if acc then r.gfmt != 0 || r.aKl != 0 || r.aCe != 0 || r.invN != 0 || !one || kindOf p r.ctx.val != some .serving
    else !(gf == some .fp32 || gf == some .bf16 || gf == some .e5m2) || decide (1 < fmtdRnd r.gfmt) || (fmtdBlk r.gfmt && gf != some .e5m2)
      || !f32Finite r.aKl || !f32Finite r.aCe || !f32Pos r.invN || (!out && (r.aCe != 0 || !one)) || (out && !f32NormalPos r.invT))
    || !within 1 64 r.segs.length || !within 1 64 r.rows || (out && (r.aCe == 0) != (r.labels == 0)) || (!out && r.labels != 0)
    || (r.labels != 0 && p.labels.all fun l => l.id != r.labels)
    || ((out || acc) && !within 1 262144 r.vocab) || r.segs.any (segBad p r)
    || (cols.zip (cols.drop 1)).any fun (a, b) => decide (b.1 ≤ a.1)

/-- The loss jobs that this device shares with another, in order: here, and as the plan declares them there (R204). -/
def sharedLosses (p : Plan) (d : Nat) : List Nat := (p.losses.filter fun r => r.group.contains d).map LossRec.id
def remoteLosses (p : Plan) (d : Nat) : List Nat :=
  (((p.lossOrders.find? fun o => o.1 == d).map (·.2)).getD []).filter (sharedLosses p d).contains

def lossFails (p : Plan) (self : Nat) : List Fail :=
  let hidden (r : LossRec) : Bool := r.kind == .hiddenMse || r.kind == .hiddenCos
  each p .losses p.losses 0x3095 (lossBad p)
  ++ each p .losses p.losses 0x3096 (fun r => hidden r && (!r.group.isEmpty || !coversOnce 0 r.vocab (r.segs.map (segCols p r))))
  ++ each p .losses p.losses 0x3096 (fun r => r.group.any fun d => d != self && sharedLosses p d != remoteLosses p d)
  ++ each p .losses p.losses 0x3096 (fun r => r.kind == .output && match p.heads.find? fun h => !h.teacher && h.device == self with
      | some h => !coversOnce h.lo (h.hi - h.lo) (r.segs.map (segCols p r))
      | none => true)
  ++ each p .losses p.losses 0x30D1 (fun r => r.kind == .accept && (!r.group.isEmpty || !coversOnce 0 r.vocab (r.segs.map (segCols p r))))

/-! ## Student (chapter 8) -/

def stageUnitB (r : StageRec) : Nat := 4096 * 2 ^ r.unitCode

/-- Micro-batches in flight at the most: from a micro-batch's first entry on a stage to its last (R30, R234). -/
def peakFrom (per : Nat) : List OrderRec → List (Nat × Nat) → Nat → Nat
  | [], _, best => best
  | e :: r, live, best =>
    let done := ((live.find? fun x => x.1 == e.mb).map (·.2)).getD 0 + 1
    let here := (e.mb, done) :: live.filter fun x => x.1 != e.mb
    peakFrom per r (if done == per then here.drop 1 else here) (max best here.length)

/-- Whether each backward entry has the forward entry of its layer and micro-batch before it. -/
def orderedFrom : List OrderRec → List OrderRec → Bool
  | _, [] => true
  | seen, e :: r => (e.fwd || seen.contains { e with fwd := true }) && orderedFrom (e :: seen) r

def stageEntries (p : Plan) (r : StageRec) : List OrderRec := p.order.filter fun e => e.stage == r.stage
def stageLayersOf (p : Plan) (r : StageRec) : List LayerRec := p.layers.filter fun l => l.stage == r.stage
def stagePeak (p : Plan) (r : StageRec) : Nat := peakFrom (2 * (stageLayersOf p r).length) (stageEntries p r) [] 0

/-- The micro-batches of a stage's forward or backward entries, each as its first entry comes and, where the entries go back to an earlier
micro-batch, again. -/
def mbOrder (es : List OrderRec) (fwd : Bool) : List Nat :=
  (es.filter fun e => e.fwd == fwd).foldl (fun l e => if l.getLast? == some e.mb then l else l ++ [e.mb]) []

/-- A stage's schedule contrary to R235: it lists the forward and backward entry of every layer and micro-batch once, micro-batches in
ascending order, each backward entry after its forward entry. -/
def orderBad (p : Plan) (r : StageRec) : Bool :=
  let es := stageEntries p r
  let ls := (stageLayersOf p r).map LayerRec.layer
  es.length != 2 * ls.length * p.microBatches || decide (es.eraseDups.length < es.length)
    || !(es.all fun e => ls.contains e.layer && decide (e.mb < p.microBatches)) || !orderedFrom [] es
    || (!ls.isEmpty && ([true, false].any fun d => mbOrder es d != List.range p.microBatches))

/-- Ranges of a weight slot: the BF16 values of the dense tensors of a stage, and their FP8 copies (R237). -/
def weightRange (u : UpdRec) : Nat × Nat := (u.stage * 2 ^ 48 + u.wOff * 128, u.stage * 2 ^ 48 + u.wOff * 128 + 2 * u.elems)
def copyRange (u : UpdRec) : Nat × Nat := (u.stage * 2 ^ 48 + u.copyOff * 128, u.stage * 2 ^ 48 + u.copyOff * 128 + u.elems)

/-- The places of a dense tensor in the student region: in both weight slots of its stage (R237). -/
def regionRanges (p : Plan) (u : UpdRec) : List (Nat × Nat) :=
  (p.stages.find? fun r => r.stage == u.stage).toList.flatMap fun r => [0, r.slotBytes].map fun b =>
    let a := r.slotOff * 128 + b + u.wOff * 128
    (a, a + 2 * u.elems)

/-- 0x3053: two bindings of one trainable tensor, or two trainable tensors that overlap in the student region (R233). -/
def tiedFails (p : Plan) : List Fail :=
  let layerIds := p.layers.flatMap fun l => (l.tensors.filter fun t => p.updates.any fun u => u.tensorId == t).eraseDups
  optFail p .updates 0x3053 (repeatAt (p.updates.map UpdRec.tensorId))
  ++ each p .updates p.updates 0x3053 (fun u => decide (1 < (layerIds.filter fun t => t == u.tensorId).length)
      || (!u.sparse && ((p.updates.takeWhile fun v => v != u).any fun v => !v.sparse && rangesHit (regionRanges p v) (regionRanges p u))))

/-- The layers of a stage in the order of its forward entries (R235). -/
def forwardOrder (p : Plan) (r : StageRec) : List Nat := ((stageEntries p r).filter fun e => e.fwd && e.mb == 0).map OrderRec.layer

/-- Layers of this device at or behind the first trainable parameter of the forward order (R231). A trainable student embedding stands before
every layer (R223). -/
def gradLayers (p : Plan) : List Nat :=
  let trains (n : Nat) : Bool := p.layers.any fun l => l.layer == n && l.tensors.any fun t => p.updates.any fun u => u.tensorId == t
  let embedded := p.updates.any UpdRec.sparse
  p.stages.flatMap fun r =>
    let ls := forwardOrder p r
    let upstream := embedded || (p.places.any fun x => x.trainable && decide (x.number < r.number))
      || (p.stages.any fun q => decide (q.number < r.number) && (forwardOrder p q).any trains)
    if upstream then ls else ls.dropWhile fun n => !trains n

/-- A frozen matrix that is a bucket source or update target, or through which a gradient passes in a format that R231 does not allow. -/
def frozenBad (p : Plan) (f : FrozenRec) : Bool :=
  let plain := !fmtdBlk f.fmtd && [some Fmt.e4m3, some Fmt.e5m2, some Fmt.bf16, some Fmt.fp16].contains (fmtdFmt f.fmtd)
  (p.updates.any fun u => u.tensorId == f.tensorId) || (p.exch.any fun r => r.buckets.any fun b => b.tensorId == f.tensorId)
    || (!plain && f.layers.any (gradLayers p).contains)

/-- The micro-batches of a stage of this device in the order of its schedule (R236). -/
def stageMbs (p : Plan) (number : Nat) (fwd : Bool) : Option (List Nat) :=
  (p.stages.find? fun r => r.number == number).map fun r => mbOrder (stageEntries p r) fwd

/-- A boundary channel whose two schedules list the micro-batches in different orders. -/
def boundBad (p : Plan) (b : BoundRec) : Bool :=
  let side (n : Nat) : List Nat := ((stageMbs p n b.fwd).or b.remote).getD []
  side b.sender != side b.receiver

/-- The place of an addition in the order in which a core of its stage runs the step's entries; none for an entry of the plan's schedule. -/
def addEntry (p : Plan) (ctx : Nat) (a : AddRec) : Option Nat :=
  a.layer.bind fun l => p.order.findIdx? fun e => !e.fwd && e.layer == l && e.mb == a.mb
    && (p.stages.any fun r => r.stage == e.stage && r.ctx.val == ctx && r.cores.contains a.core)

/-- Whether the program puts one addition of an entry before another: in different rounds of a loop that holds both by the round, and otherwise
by the instruction. -/
def addBefore (loops : List (Nat × Nat)) (a b : AddRec) : Bool :=
  if loops.any fun l => [a, b].all fun x => decide (l.1 < x.instr) && decide (x.instr ≤ l.2) then
    decide (a.nth < b.nth) || (a.nth == b.nth && decide (a.instr < b.instr))
  else decide (a.instr < b.instr)

/-- Whether one addition of a declared order is forced before the next (R218, R221): on one core by the order of its entries in the schedule
(R235), and within one entry by the program; between cores by a channel of the context on which the first core sends after it, and whose counter
the second waits on before it. DEDUCED (log entry 60): the manual says that program order or counters force the order, not how that is found. -/
def addForced (p : Plan) (ctx : Nat) (a b : AddRec) : Bool :=
  let words (core : Nat) : List DWord := ((p.programs.find? fun r => r.ctx == ctx && r.cores.contains core).map ProgRec.words).getD []
  if a.core == b.core then
    match addEntry p ctx a, addEntry p ctx b with
    | some x, some y => decide (x < y) || (x == y && addBefore (loopsOf (words a.core)) a b)
    | _, _ => a.layer == b.layer && (decide (a.mb < b.mb) || (a.mb == b.mb && addBefore (loopsOf (words a.core)) a b))
  else
    p.channels.any fun c => c.sender.any (fun e => e.core == a.core && e.ctx.val == ctx) && c.receiver.any (fun e => e.core == b.core && e.ctx.val == ctx)
      && ((words a.core).drop (a.instr + 1)).any (fun w => wOp w == 0x70 && wChan w == c.chan)
      && ((words b.core).take b.instr).any (fun w => wOp w == 0x23 && wSub w == c.cnt.val)

/-- The additions of a declared order for one micro-batch. -/
def addsOf (o : OrderDecl) (mb : Nat) : List AddRec := o.adds.filter fun a => a.mb == mb

/-- A declared accumulation order contrary to R218, or one that is not forced (R218, R221). Contributions that meet at a tensor (R221) meet in one
instance for each micro-batch, in one order. -/
def orderUnforced (p : Plan) (o : OrderDecl) : Bool :=
  let up (a b : AddRec) : Bool := decide (a.mb < b.mb) || (a.mb == b.mb && (decide (a.block < b.block) || (a.block == b.block && decide (a.core < b.core))))
  let pairs (l : List AddRec) : List (AddRec × AddRec) := l.zip (l.drop 1)
  if o.fanIn then
    let mbs := (o.adds.map AddRec.mb).eraseDups
    let shape (mb : Nat) : List AddRec := (addsOf o mb).map fun a => { a with mb := 0 }
    mbs.any fun m => shape m != shape (mbs.headD 0) || (pairs (addsOf o m)).any fun (a, b) => !addForced p o.ctx a b
  else (pairs o.adds).any fun (a, b) => !up a b || !addForced p o.ctx a b

def studentFails (p : Plan) : List Fail :=
  let slot (r : StageRec) : Nat × Nat := (r.slotOff * 128, r.slotOff * 128 + 2 * r.slotBytes)
  each p .programs p.programs 0x30A0 (fun r => isStudentKind (kindOf p r.ctx) && r.cores.any fun n => !isSCore n)
  ++ each p .stages p.stages 0x30A1 (fun r =>
      let int := (r.intBase, r.intBase + r.intUnits * stageUnitB r)
      let rc := (r.rcBase, r.rcBase + r.rcSize)
      let share := (planCtx p r.ctx.val).map fun c => (c.sSpBase, c.sSpBase + c.sSpSize)
      let out (x : Nat × Nat) : Bool := match share with | some s => decide (x.1 < x.2) && (decide (x.1 < s.1) || decide (s.2 < x.2)) | none => true
      decide (7 < r.stage) || decide (4 < r.unitCode) || decide (192 < r.intUnits) || r.rcSize % stageUnitB r != 0 || out int || out rc
        || rangesHit [int] [rc] || (stageLayersOf p r).any fun l => decide (r.rcSize < l.units * stageUnitB r))
  ++ optFail p .layers 0x30A1 (overlapAt (p.layers.map fun l => (l.boundOff * 128, l.boundOff * 128 + 64 * l.boundSize)))
  ++ each p .layers p.layers 0x30A1 (fun l => l.units == 0 || l.boundSize % 128 != 0 || !inRegion p .scratch l.boundOff (64 * l.boundSize) || (p.stages.all fun r => r.stage != l.stage))
  ++ each p .stages p.stages 0x3052 (fun r => decide (64 < stagePeak p r)) ++ each p .stages p.stages 0x30A6 (fun r => decide (64 < stagePeak p r) || orderBad p r)
  ++ tiedFails p ++ optFail p .stages 0x30A2 (overlapAt (p.stages.map slot))
  ++ each p .stages p.stages 0x30A2 (fun r => r.slotBytes % mib2 != 0 || decide (regionSize p .student < (slot r).2))
  ++ each p .updates p.updates 0x30A2 (fun u => !u.sparse && (match p.stages.find? fun r => r.stage == u.stage with
      | some r => decide (r.slotBytes < u.wOff * 128 + 2 * u.elems) || (u.copy != 0 && decide (r.slotBytes < u.copyOff * 128 + u.elems))
      | none => true))
  ++ each p .frozen p.frozen 0x30A3 (frozenBad p) ++ each p .bounds p.bounds 0x30A6 (boundBad p)
  ++ each p .orders p.orders 0x30A7 (orderUnforced p)
  ++ each p .adapters p.adapters 0x30A4 (fun a => !(a.rank == 16 || a.rank == 32 || a.rank == 64) || !f32Finite a.scale || a.scale.toNat % 2 ^ 31 == 0)
  ++ flagFail p .adapters 0x30A4 (p.contexts.any fun c => decide (1024 < (p.adapters.filter fun a => a.ctx == c.ctx).length))

/-! ## Update and commit (chapter 9) -/

/-- The root of a commit tree: role 0's device. -/
def jobRoot (j : JobRec) : Nat := (j.members.head?.map (·.1)).getD 0

/-- Following parents reaches the root. -/
def climbs (tree : List (Nat × Nat)) (root : Nat) : Nat → Nat → Bool
  | 0, a => a == root
  | n + 1, a => a == root || (match tree.find? fun e => e.1 == a with | some e => climbs tree root n e.2 | none => false)

/-- Conditions of 0x30B5 that hold at every placement; `load` adds the lowest-address condition (R410). -/
def treeBad (load : Bool) (j : JobRec) : Bool :=
  let addrs := j.members.map (·.1)
  let root := jobRoot j
  let named := root :: j.tree.map (·.1)
  (repeatAt named).isSome || named.length != addrs.length || !(named.all addrs.contains)
    || !(j.tree.all fun e => addrs.contains e.2 && climbs j.tree root j.tree.length e.1) || (load && addrs.any fun a => decide (a < root))

def fuuBad (f : FuuProg) : Bool :=
  let times (o : FuuOp) : Nat := (f.ops.filter fun w => w.op == o).length
  let steps := f.lr.map (·.1)
  !within 1 32 f.ops.length || decide (2 < f.nmom) || decide (1 < times .stw) || decide (1 < times .stm1) || decide (1 < times .stm2)
    || (decide (0 < times .stm1) && f.nmom == 0) || (decide (0 < times .stm2) && decide (f.nmom < 2)) || !within 1 32 f.lr.length
    || ((steps.zip (steps.drop 1)).any fun (a, b) => decide (b ≤ a)) || f.lr.any fun (_, w) => !f32Finite w

/-- The two moment banks of a tensor (R244). -/
def momBanks (p : Plan) (u : UpdRec) : List (Nat × Nat) :=
  let n := 4 * u.elems * nmomOf p u
  [(u.momOff * 128, u.momOff * 128 + n), ((u.momOff + u.momStride) * 128, (u.momOff + u.momStride) * 128 + n)]

/-- The table that a row-sparse record updates. -/
def sparseTable (p : Plan) (u : UpdRec) : Option TableRec := p.tables.find? fun t => t.tensorId == u.tensorId

/-- An update record that binds no trainable tensor of its kind: a row-sparse one needs a student table, a dense one a tensor that is no table;
the teacher's tables are written only by the IOD (R28, R249). DEDUCED (log entry 85): rows are stored under WDESC, so the table's format is BF16. -/
def tableBad (p : Plan) (u : UpdRec) : Bool :=
  match sparseTable p u with
  | some t => !u.sparse || t.teacher || t.fmt.toNat % 32 != 1
  | none => u.sparse

/-- A row-sparse table without a staging area where this device owns rows, or without a row shadow, or with either outside the table region or
on a teacher table's rows (Table 9-8, R28). -/
def sparseBad (p : Plan) (self : Nat) (u : UpdRec) : Bool :=
  let ok (x : Option (Nat × Nat)) : Bool := match x with
    | some a => decide (0 < a.2) && decide (a.1 + a.2 ≤ regionSize p .table) && !rangesHit (teacherRows p) [areaRange a]
    | none => false
  let own := p.exch.any fun r => r.sparse && r.owner == self && r.buckets.any fun b => b.tensorId == u.tensorId
  u.sparse && ((own && !ok u.staging) || (localShards p).any fun (t, h) => t.tensorId == u.tensorId && !ok h.shadow)

/-- Whether a history entry covers a tensor_id (R254). -/
def histCovers (h : HistRec) (t : Nat) : Bool := decide (h.baseId ≤ t) && decide (t < h.baseId + h.count)

def updateFails (p : Plan) (env : VerifyEnv) : List Fail :=
  let w := p.policy
  let banks := momBanks p
  let teacher := teacherRows p
  let histBad (h : HistRec) : Bool := h.count == 0 || decide (8 < h.margin) || decide (h.initExp < -126) || decide (126 < h.initExp) || !within 1 1024 h.h
  each p .fuuProgs p.fuuProgs 0x30B0 fuuBad ++ flagFail p .fuuProgs 0x30B0 (decide (16 < p.fuuProgs.length))
  ++ each p .updates p.updates 0x30B1 (fun u => (p.fuuProgs[u.prog]?).isNone || !(u.wdesc.toNat == 0x01 || u.wdesc.toNat == 0x81)
      || !(u.copy == 0 || u.copy == 3 || u.copy == 4) || (u.copy == 0 && (u.hist != 0xFF || u.copyOff != 0))
      || (u.copy != 0 && !((p.hist[u.hist]?).any fun h => h.weight && histCovers h u.tensorId)) || tableBad p u
      || (banks u).any fun b => decide (regionSize p .table < b.2) || rangesHit teacher [b])
  ++ optFail p .updates 0x30B1 (repeatAt (p.updates.map UpdRec.tensorId))
  ++ each p .updates p.updates 0x30B1 (fun u => !u.sparse && u.copy != 0 && p.updates.any fun v => !v.sparse
      && (rangesHit [weightRange v] [copyRange u] || (v != u && v.copy != 0 && rangesHit [copyRange v] [copyRange u])))
  ++ optFail p .updates 0x30B1 ((overlapAt (p.updates.flatMap banks)).map (· / 2))
  ++ each p .exch p.exch 0x30B1 (fun r => r.buckets.any fun b => p.updates.all fun u => u.tensorId != b.tensorId)
  ++ each p .updates p.updates 0x30B4 (sparseBad p env.self)
  ++ each p .hist p.hist 0x30B2 (fun h => h.weight && p.updates.any fun u => histCovers h u.tensorId && u.copy == 0)
  ++ each p .layers p.layers 0x30B2 (fun l => (l.recFwd.isNone || l.recBwd.isNone) && l.tensors.any fun t => p.hist.any fun h => histCovers h t)
  ++ each p .hist p.hist 0x30B2 histBad
  ++ optFail p .hist 0x30B2 (overlapAt (p.hist.map fun h => (h.baseId, h.baseId + h.count)))
  ++ each p .losses p.losses 0x30B2 (fun r => r.gfmt.toNat % 32 != 4 && r.gfmt.toNat % 32 != 3 && r.segs.any fun g =>
      (poolEntry p r.ctx.val g.score g.gdesc).any fun d => r.kind != .accept && p.hist.any fun h => !h.weight && histCovers h d.tensorId.toNat)
  ++ flagFail p .policy 0x30B3 (decide (256 < p.hist.length) || (decide (w.minE < -16) || decide (32 < w.minE) || decide (w.maxE < w.minE) || decide (32 < w.maxE)
      || decide (w.initE < w.minE) || decide (w.maxE < w.initE) || !within 1 8 w.backoff || decide (16777216 < w.growth) || !within 1 1024 w.recover
      || !within 16 65536 w.commitLead || !within 1 16777216 w.commitLimit))
  ++ each p .jobs p.jobs 0x30B5 (treeBad env.load)

/-! ## Exchange (chapter 10) -/

/-- Bytes of a compressed bucket's state on a device: two banks of E (at a row collector) and Q. -/
def lowBytes (b : BucketRec) (rank : Nat) (coll : Bool) : Nat :=
  let nr := b.elems / (max 1 b.cols)
  let r := min (min rank nr) b.cols
  2 * 4 * ((if coll then nr * b.cols else 0) + b.cols * r)

/-- Whether a bucket is compressed under an image (R282). -/
def compressedIn (im : ImageRecs) (r : ExchRec) (b : BucketRec) : Bool :=
  im.exch.lowrank == 1 && !r.sparse && !im.numeric.canonMask.getLsbD r.ctx && b.cols != 0 && decide (1 < (r.members.map fun a => a / 128).eraseDups.length)

/-- Whether a device is a row collector of a channel's buckets (R275, R282). -/
def isCollector (im : ImageRecs) (r : ExchRec) (a : Nat) : Bool :=
  (r.members.any fun m => m / 128 == a / 128) && collOf im r.owner 7 (a / 128 * 128) == a

/-- The low-rank state of a compressed bucket on a device (R282). -/
def lowRange (im : ImageRecs) (a : Nat) (r : ExchRec) (b : BucketRec) : Nat × Nat :=
  (b.lrOff * 128, b.lrOff * 128 + lowBytes b (if b.rank = 0 then im.exch.defaultRank else b.rank) (isCollector im r a))

/-- 0x30C4: a compressed bucket without state, with state outside the table region, or with state that overlaps other state. -/
def lowBad (p : Plan) (im : ImageRecs) (self : Nat) (r : ExchRec) : Bool :=
  let all := p.exch.flatMap fun q => (q.buckets.filter (compressedIn im q)).map (lowRange im self q)
  let taken := p.updates.flatMap (momBanks p) ++ (localShards p).flatMap (fun x => shardRanges p x.1 x.2)
    ++ p.updates.flatMap fun u => u.staging.toList.map areaRange
  r.buckets.any fun b => compressedIn im r b &&
    (let x := lowRange im self r b
     b.lrOff == 0 || decide (regionSize p .table < x.2) || rangesHit taken [x] || decide (1 < (all.filter fun y => rangesHit [x] [y]).length))

/-- The trainable tensors of the layers on this device. -/
def computedTensors (p : Plan) : List Nat := p.layers.flatMap LayerRec.tensors

def exchFails (p : Plan) (im : ImageRecs) (self : Nat) : List Fail :=
  let inJob (c : Fin 8) (l : List Nat) : Bool := match p.jobs.find? fun j => j.ctxMask.getLsbD c with
    | some j => l.all (j.members.map (·.1)).contains
    | none => false
  let bucketBad (b : BucketRec) : Bool :=
    b.elems % 32 != 0 || !within 32 16777216 b.elems || (b.cols != 0 && b.elems % b.cols != 0) || decide (64 < b.rank)
  each p .exch p.exch 0x30C0 (fun r => !within 1 255 r.buckets.length || !within 1 131072 r.members.length || !r.members.contains r.owner
      || decide (2 ^ 17 ≤ r.owner) || ((r.members.zip (r.members.drop 1)).any fun (a, b) => decide (b ≤ a))
      || !inJob r.ctx r.members || r.buckets.any bucketBad
      || decide (r.sumSize < 4 * maxOf (r.buckets.map BucketRec.elems)) || !inRegion p .scratch r.sumOff (2 * r.sumSize)
      || (r.carryOff != 0 && !inRegion p .scratch r.carryOff (4 * (r.buckets.map BucketRec.elems).foldl (· + ·) 0)))
  ++ optFail p .exch 0x30C0 (repeatAt (p.exch.map ExchRec.chan))
  ++ each p .updates p.updates 0x30C2 (fun u => !coversOnce 0 u.elems ((p.exch.filter fun r => r.sparse == u.sparse).flatMap fun r =>
      (r.buckets.filter fun b => b.tensorId == u.tensorId).map fun b => (b.elem0, b.elem0 + b.elems)))
  ++ each p .exch p.exch 0x30C2 (fun r => !r.members.contains self && r.buckets.any fun b => (computedTensors p).contains b.tensorId)
  ++ each p .exch p.exch 0x30C3 (fun r => im.exch.straggler == 1 && r.carryOff == 0)
  ++ each p .exch p.exch 0x30C4 (lowBad p im self)

/-! ## Serving (chapter 11) -/

/-- The parts of the Cellar of a serving context: page sets, page lists of 4 bytes a page set, draft page sets of the request slots, and summary
pool (R301, R305, R323). DESIGN CHOICE (log entry 60): the manual gives page lists no layout. -/
def cellarAreas (r : ServeRec) : List (Nat × Nat) :=
  [(r.psetBase, r.psetBase + r.npset * r.psetBytes), (r.listBase, r.listBase + r.slots * (r.maxContext / 64) * 4),
   (r.draftSetBase, r.draftSetBase + r.slots * r.psetBytes), (r.summaryBase, r.summaryBase + r.summaryBytes)]

/-- DEDUCED (log entry 107): with no Husk bound nothing permits a teacher adapter area, and the permission needs the image's bit too (R442). -/
def serveFails (p : Plan) (im : ImageRecs) (policy : BitVec 32) : List Fail :=
  each p .serve p.serve 0x30D0 (fun r => !within 1 16384 r.slots || r.slotBytes % 128 != 0 || decide (r.slotBytes < 96) || !within r.chunk 65536 r.stepTokens
      || r.chunk % 256 != 0 || !within 256 8192 r.chunk || !within 1 8 r.inflight || decide (4 < r.sinkPages) || decide (64 < r.recentPages)
      || !within 6 16 r.maxRingLog2 || r.maxContext % 64 != 0 || !within 64 1048576 r.maxContext || r.psetBytes % 1024 != 0
      || !inRegion p .scratch r.reqOff (r.slots * r.slotBytes) || !inRegion p .scratch r.statusOff (4 * r.slots) || !within 1 16777216 r.ringHold || !(r.verdictMax == 0 || within 256 8192 r.verdictMax) || kindOf p r.ctx.val != some .serving)
  ++ flagFail p .serve 0x30D0 (decide (16384 < (p.serve.map ServeRec.slots).foldl (· + ·) 0))
  ++ each p .serve p.serve 0x30D2 (fun r => (cellarAreas r).any fun x => decide (regionSize p .cellar < x.2))
  ++ optFail p .serve 0x30D2 ((overlapAt (p.serve.flatMap cellarAreas)).map (· / 4))
  ++ each p .areas p.adapterAreas 0x30D3 (fun a => decide (regionSize p (if a.teacher then .teacher else .student) < a.base + a.slots * a.slotBytes)
      || (a.teacher && !(policy &&& im.exportPolicy).getLsbD 2))
  ++ flagFail p .areas 0x30D3 (decide (1024 < (p.adapterAreas.map AdapterArea.slots).foldl (· + ·) 0))
  ++ each p .data p.data 0x30D4 (fun d => kindOf p d.ctx.val == some .online &&
      p.serve.any fun r => r.verdictMax != 0 && (decide (d.slotBytes < 32 + 4 * r.verdictMax + (r.verdictMax + 3) / 4)
        || !inRegion p .scratch d.tableOff (d.slots * d.slotBytes)))

/-! ## Jobs and data (chapters 14 and 16) -/

/-- Bytes of the part of the role on a device, with the sections of Table 14-5 (R399, R550). -/
def partBytes (p : Plan) (im : ImageRecs) (self : Nat) (j : JobRec) (a : Nat) : Nat :=
  let sum (l : List Nat) : Nat := l.foldl (· + ·) 0
  let mine := p.exch.filter fun r => j.ctxMask.getLsbD r.ctx
  let owned (u : UpdRec) : Nat :=
    sum ((mine.filter fun r => !r.sparse && r.owner == a).flatMap fun r => (r.buckets.filter fun b => b.tensorId == u.tensorId).map BucketRec.elems)
  let dense := (p.updates.filter fun u => !u.sparse).flatMap fun u =>
    let n := owned u
    if n = 0 then [] else [2 * n] ++ if nmomOf p u = 0 then [] else [4 * nmomOf p u * n]
  let tables := (p.updates.filter UpdRec.sparse).filterMap fun u => (sparseTable p u).bind fun t =>
    let rows := sum ((p.shards.filter fun h => h.table == t.table && h.remote.getD self == a).map ShardRec.nrows)
    if rows = 0 then none else some (rows * (rowBytesOf t + 4 * nmomOf p u * t.d))
  let low := mine.flatMap fun r => (r.buckets.filter (compressedIn im r)).filterMap fun b =>
    let x := lowRange im a r b
    if isCollector im r a || r.owner == a then some ((x.2 - x.1) / 2) else none
  let hist := sum (p.hist.map fun h => 16 + 4 * h.h)
  let sections := dense ++ tables ++ low ++ [hist]
  96 + 16 * sections.length + sum sections

def jobFails (p : Plan) (im : ImageRecs) (self : Nat) : List Fail :=
  let inJobs (c : Nat) : Nat := (p.jobs.filter fun j => j.ctxMask.getLsbD c).length
  each p .jobs p.jobs 0x30F0 (fun j => !within 1 131072 j.members.length || j.ctxMask == 0 || decide (65536 < j.ckptEvery) || decide (65535 < j.extEvery)
      || !within 64 16777216 j.haltSettle || !within 1024 (2 ^ 32 - 1) j.restoreLimit || j.bankBytes % mib2 != 0 || decide (1024 < j.spares.length)
      || decide (255 < j.restartMax) || (repeatAt (j.members.map (·.1))).isSome
      || j.members.any fun m => match j.members[m.2]? with | some q => q.1 == m.1 | none => true)
  ++ optFail p .jobs 0x30F0 (repeatAt (p.jobs.map JobRec.job))
  ++ each p .contexts p.contexts 0x30F0 (fun c => (c.kind == .training || c.kind == .online) && inJobs c.ctx != 1)
  ++ each p .jobs p.jobs 0x30F1 (fun j => (j.members.any fun m => decide (j.bankBytes < partBytes p im self j m.1)) || decide (regionSize p .buddy < 4 * j.bankBytes))
  ++ flagFail p .hist 0x30F2 (decide (2 ^ 20 < (p.hist.map fun h => 4 * h.h + 16).foldl (· + ·) 0))

def dataFails (p : Plan) : List Fail :=
  let ranges (d : DataRec) : List (Nat × Nat) :=
    [(d.tableOff * 128, d.tableOff * 128 + d.slots * d.slotBytes), (d.statusOff * 128, d.statusOff * 128 + 4 * d.slots)]
  let trains (d : DataRec) : Bool := kindOf p d.ctx.val == some .training || kindOf p d.ctx.val == some .online
  each p .data p.data 0x30F3 (fun d => !within 1 (2 ^ 29) d.slots || d.slotBytes % 128 != 0 || decide (d.slotBytes < 128) || !within 1 65536 d.spm
      || (ranges d).any (fun r => decide (regionSize p .scratch < r.2)) || (trains d && (d.slots % d.spm != 0 || decide (d.slots < d.spm * p.microBatches)))
      || (d.relCommit && !trains d) || (d.relCommit && d.relCnt != 0))
  ++ optFail p .data 0x30F3 ((overlapAt (p.data.flatMap ranges)).map (· / 2))

/-! ## Instructions against records (Table 4-14, R28, R118, R182, R334) -/

/-- Whether Table 1-4 lets a core transfer in a direction. -/
def accessOk (scoreCore toHbm : Bool) (k : RegionKind) : Bool :=
  match k with
  | .teacher => !scoreCore && !toHbm
  | .student => scoreCore && !toHbm
  | .cellar => true
  | .buddy => false
  | .table => scoreCore
  | .scratch => true

/-- The entries of a layer: forward and backward, and those of scale recovery where it has them (R259). -/
def layerEntries (l : LayerRec) : List Nat := [l.fwdEntry, l.bwdEntry] ++ l.recFwd.toList ++ l.recBwd.toList

/-- Whether a schedule record can append its entry to a core (R347, R348). -/
def placedOn (p : Plan) (r : SchedRec) (core : Nat) : Bool := if r.affinity then (p.affinity.getD r.place []).contains core else r.place == core

/-- The layers whose entries a core runs for a context. -/
def coreLayers (p : Plan) (ctx core : Nat) : List LayerRec :=
  p.layers.filter fun l => p.stages.any fun r => r.stage == l.stage && r.ctx.val == ctx && r.cores.contains core

/-- Entries of a context that are started on a core: of its schedule and of its layers; where there are none, the first instruction. -/
def entriesOf (p : Plan) (ctx core : Nat) : List Nat :=
  let sched := (p.schedule.filter fun r => r.ctx == ctx && placedOn p r core).map SchedRec.entry
  let l := (sched ++ (coreLayers p ctx core).flatMap layerEntries).eraseDups
  if l.isEmpty then [0] else l

/-- The RELEASE counters of a core in a context (Table 7-2). -/
def releaseCnts (p : Plan) (g : Prog) : List Nat :=
  (p.landings.filter fun l => l.ckind == .program && l.cctx.val == g.ctx && Config.numTCores + l.score == g.core).map fun l => l.release.val

/-- Codes of an instruction that names a region, channel, bucket or buffer. -/
def refCodes (p : Plan) (g : Prog) (i : Nat) : List Nat :=
  let w := g.at_ i
  let tds (t : Nat) : List TileDesc := g.tdAt t i
  let written : List Nat := if wOp w = 0x21 then [wSub w % 16] else (wCounter w).toList
  let landing := isSCore g.core && rangesHit [(Config.sScratchBytes - p.landingArea, Config.sScratchBytes)] (g.staticWrites i)
  (if landing || (written.any (releaseCnts p g).contains) then [0x3092] else []) ++
  match wOp w with
  | 0x60 =>
    match p.regions.find? fun r => r.index == bf w 37 4 with
    | none => [0x30E1]
    | some r =>
      let partner := ((planCtx p g.ctx).map CtxRec.partner).getD 0xFF
      (if accessOk (isSCore g.core) (bf w 36 1 == 1) r.kind then [] else [0x3043])
        ++ (if r.owner == g.ctx || r.owner == partner || (kindOf p g.ctx == some .teacher && r.kind == .teacher) then [] else [0x30E1])
  | 0x70 => if p.channels.any fun c => c.chan == wChan w then [] else [0x3061]
  | 0x71 => if (p.channels.any fun c => c.chan == wChan w) || (p.exch.any fun r => r.chan == wChan w) then [] else [0x3061]
  | 0x72 => match p.exch.find? fun r => r.chan == wChan w with
    | none => [0x3061]
    | some r => if (g.pts i).any fun n => (n.td (wTd w)).fmtd.toNat % 32 != 0
        || (n.still (wTd w) 3 && !(r.buckets.any fun b => b.tensorId == (n.td (wTd w)).tensorId.toNat))
      then [0x3062] else []
  | 0x73 => match p.recipes.find? fun r => r.buffer == wChan w with
    | none => [0x3061]
    | some r => (match p.landings.find? fun l => l.buffer == wChan w with
        | none => [0x3061]
        | some l => if l.producer == g.core && l.pctx.val == g.ctx then [] else [0x3091])
        ++ (if (tds (wTd w)).any fun t => t.fmtd.toNat % 32 != 0 || decide (t.cols < r.width) || t.lrow == 0 then [0x3084] else [])
  | _ => []

/-- Programs under verification, with their place. -/
def progsOf (p : Plan) (canonMask : BitVec 8) : List Prog :=
  p.programs.flatMap fun r => r.cores.filterMap fun n =>
    let p : Prog := .mk' r.ctx n (((planCtx p r.ctx).map CtxRec.remote).getD []) (canonMask.getLsbD r.ctx) r.words r.pool (entriesOf p r.ctx n)
    if (structureFails r.ctx n r.words p.entries).isEmpty then some p else none

/-- LSEND and LRECV descriptors of each channel that pairs them, which an exchange channel does not: (channel, rows, packed row length, place). -/
def linkShapes (p : Plan) (l : List Prog) : List (Nat × Nat × Nat × Fail) :=
  l.flatMap fun g => g.live.flatMap fun i =>
    let w := g.at_ i
    if (wOp w = 0x70 || wOp w = 0x71) && p.channels.any fun c => c.chan == wChan w then
      (g.tdAt (wTd w) i).map fun t => (wChan w, t.rows, t.rowBytes, failAt g.ctx g.core i 0x3061)
    else []

def shapeFails : List (Nat × Nat × Nat × Fail) → List Fail
  | [] => []
  | (c, n, b, f) :: r =>
    ((r.filter fun x => x.1 == c && (x.2.1 != n || x.2.2.1 != b)).map fun x => if f.key < x.2.2.2.key then x.2.2.2 else f) ++ shapeFails r

/-- The rows of a descriptor as element-index ranges (R110). -/
def rowPieces (d : TileDesc) : List (Nat × Nat) :=
  (List.range d.rows).map fun r => (d.indexBase.toNat + r * d.lrow.toNat, d.indexBase.toNat + r * d.lrow.toNat + d.cols)

/-- The TD that an instruction writes with rounding: MRD and VOP (R66). -/
def srTarget (w : DWord) : Option Nat := if wOp w = 0x43 then some (wTdc w) else if wOp w = 0x50 then some (wTdd w) else none

/-- How often a step starts an entry on a core, for which layer, and whether for its recovery, which takes the place of the layer's other
entries (R259). -/
structure Start where
  entry : Nat
  times : Nat := 1
  layer : Option Nat := none
  recovery : Bool := false
deriving DecidableEq, Repr

/-- The entries that a step starts on a core: those of the schedule once, an affinity set's on its first core, and those of the core's layers once
for every micro-batch. DESIGN CHOICE (log entry 60): the manual does not say how the verifier counts them. -/
def startsOf (p : Plan) (g : Prog) : List Start :=
  let sched := p.schedule.filter fun r => r.ctx == g.ctx && (if r.affinity then ((p.affinity[r.place]?).bind List.head?) == some g.core else r.place == g.core)
  (sched.map fun r => { entry := r.entry : Start })
    ++ (coreLayers p g.ctx g.core).flatMap fun l => ([l.fwdEntry, l.bwdEntry].map fun e => ⟨e, p.microBatches, some l.layer, false⟩)
      ++ (l.recFwd.toList ++ l.recBwd.toList).map fun e => ⟨e, p.microBatches, some l.layer, true⟩

/-- A piece of a stochastically rounded write with static indices: purpose, tensor_id, its rows as index ranges, its place, and the entry that
makes it (R68). -/
structure SrPiece where
  purpose : Nat
  tensorId : Nat
  rows : List (Nat × Nat)
  place : Fail
  start : Start
deriving DecidableEq, Repr

def srPiece? (g : Prog) (start : Start) (i : Nat) (d : TileDesc) : Option SrPiece :=
  if fmtdRnd d.fmtd = 2 then some ⟨wOp (g.at_ i), d.tensorId.toNat, rowPieces d, failAt g.ctx g.core i 0x3036, start⟩ else none

/-- The pieces that one start of an entry makes: those of its run where the plan tells it, and otherwise those of the instructions that its paths
reach, twice where a loop repeats one. -/
def startPieces (g : Prog) (st : Start) : List SrPiece :=
  match g.runOf (fun w => (srTarget w).isSome) st.entry with
  | some run => run.filterMap fun x => (srTarget (g.at_ x.1)).bind fun t => srPiece? g st x.1 ((aget x.2 t).getD {})
  | none =>
    let reached := g.reach g.succ (fun _ => false) g.fuel [st.entry] []
    (g.live.filter reached.contains).flatMap fun i => match srTarget (g.at_ i) with
      | none => []
      | some t =>
        let one := (((g.pts i).filter fun n => n.still t 2 && n.still t 3).map fun n => n.td t).eraseDups.filterMap (srPiece? g st i)
        if wAlways (g.at_ i) && (g.inside i).any fun l => wGa (g.at_ l.1) == 0 && decide (2 ≤ wImm (g.at_ l.1)) then one ++ one else one

/-- The pieces of a step; those of an entry that every micro-batch starts again stand twice. -/
def srPieces (p : Plan) (l : List Prog) : List SrPiece :=
  l.flatMap fun g => (startsOf p g).flatMap fun st =>
    let one := startPieces g st
    if 1 < st.times then one ++ one else one

/-- Whether two pieces share a pair (R68). A layer's recovery entry and its other entries run in no one step. -/
def SrPiece.shares (x y : SrPiece) : Bool :=
  x.purpose == y.purpose && x.tensorId == y.tensorId && rangesHit x.rows y.rows
    && !(x.start.layer.isSome && x.start.layer == y.start.layer && x.start.recovery != y.start.recovery)

def srFails : List SrPiece → List Fail
  | [] => []
  | x :: r => ((r.filter x.shares).map fun y => if x.place.key < y.place.key then y.place else x.place) ++ srFails r

/-- Packets that one run of an entry sends on a buffer (R196): row counts times the counts of the enclosing loops; none where that cannot be
formed. -/
def Prog.packets (g : Prog) (entry buffer : Nat) : Option Nat :=
  let live := g.reach g.succ (fun _ => false) g.fuel [entry] []
  let sends := (List.range g.words.length).filter fun i =>
    live.contains i && wOp (g.at_ i) == 0x73 && wChan (g.at_ i) == buffer && !wNever (g.at_ i)
  sends.foldl (fun (n : Option Nat) i =>
    let rows := ((g.tdAt (wTd (g.at_ i)) i).map TileDesc.rows).eraseDups
    let loops := g.inside i
    match n, rows with
    | some n, [r] => if !wAlways (g.at_ i) || loops.any (fun e => wGa (g.at_ e.1) != 0) then none
        else some (n + loops.foldl (fun a e => a * wImm (g.at_ e.1)) r)
    | _, _ => none) (some 0)

/-- Packets of a buffer over the entries that its producing context's schedule starts on the producer. An affinity set may start an entry elsewhere,
so the count cannot be formed where such an entry sends. -/
def bufferPackets (p : Plan) (gs : List Prog) (l : LandRec) : Option Nat :=
  match gs.find? fun g => g.ctx == l.pctx.val && g.core == l.producer with
  | none => none
  | some g => (p.schedule.filter fun r => r.ctx == l.pctx.val && placedOn p r l.producer).foldl (fun (n : Option Nat) r =>
      match n, g.packets r.entry l.buffer with
      | some a, some b => if r.affinity && b != 0 then none else some (a + b)
      | _, _ => none) (some 0)

/-- The ranges that an instruction reads at a point, where the plan tells them. -/
def Prog.readsAt (g : Prog) (n : Node) : List (Nat × Nat) :=
  let w := g.at_ n.pc
  (if wOp w = 0x1A && wGa w == 0 then [(wImm w / 4 * 4, wImm w / 4 * 4 + 4)] else [])
    ++ ((tdReads w).filter fun t => n.still t 0).flatMap fun t => (n.td t).ranges

/-- 0x3092: a landing buffer that a program reads beside the consumer that its record names (R190, R196). -/
def consumerFails (p : Plan) (gs : List Prog) : List Fail :=
  each p .landings p.landings 0x3092 fun l => gs.any fun g => g.core == Config.numTCores + l.score && !(l.ckind == .program && g.ctx == l.cctx.val)
    && g.nodes.any fun n => !wNever (g.at_ n.pc) && rangesHit [(l.base, l.base + l.slots * l.slotSize)] (g.readsAt n)

/-- The slots of a joint set's buffers that a run of a consumer's program reads, in order, as (buffer, slot). -/
def slotReads (ls : List LandRec) (g : Prog) (run : List (Nat × List (Nat × TileDesc))) : List (Nat × Nat) :=
  run.flatMap fun x =>
    let w := g.at_ x.1
    let at_ : List (Nat × Nat) := if wOp w = 0x1A then [(wImm w / 4 * 4, wImm w / 4 * 4 + 4)]
      else (tdReads w).flatMap fun t => ((aget x.2 t).getD {}).ranges
    ls.flatMap fun l => ((List.range l.slots).filter fun k => rangesHit at_ [(l.base + k * l.slotSize, l.base + (k + 1) * l.slotSize)]).map fun k => (l.buffer, k)

/-- Whether reads keep a joint set in step: no buffer's row r + 1 is read before row r of every other (R196). `pos` holds each buffer's rows
read so far and the slot last read. -/
def inStep (bufs : List Nat) : List (Nat × Nat) → List (Nat × Nat × Nat) → Bool
  | [], _ => true
  | (b, k) :: r, pos =>
    let mine := (pos.find? fun x => x.1 == b).map (·.2)
    if mine.any fun m => m.2 == k then inStep bufs r pos
    else
      let n := (mine.map (·.1)).getD 0 + 1
      bufs.all (fun c => c == b || decide (n ≤ ((pos.find? fun x => x.1 == c).map fun x => x.2.1).getD 0 + 1))
        && inStep bufs r ((b, n, k) :: pos.filter fun x => x.1 != b)

/-- 0x3093: buffers of one joint set with different counts, with more than one consumer, or read out of step where the reads are static. -/
def jointFails (p : Plan) (gs : List Prog) : List Fail :=
  each p .landings p.landings 0x3093 (fun l =>
    let mates := p.landings.filter fun m => m.joint == l.joint
    let set := mates.map (bufferPackets p gs)
    let reader (m : LandRec) : Option (Nat × List Nat) := if m.ckind == .program then some (m.score, [])
      else some (2 ^ 16, (p.losses.filter fun r => r.segs.any fun g => g.buffer == m.buffer).map LossRec.id)
    let reads (w : DWord) : Bool := (wOp w == 0x1A && wGa w == 0) || !(tdReads w).isEmpty
    let runs := gs.filter fun g => l.ckind == .program && g.ctx == l.cctx.val && g.core == Config.numTCores + l.score
    ((set.all Option.isSome) && decide (1 < set.eraseDups.length) && (set.headD none != bufferPackets p gs l))
      || mates.any (fun m => m.ckind != l.ckind || m.cctx != l.cctx || reader m != reader l)
      || runs.any fun g => g.entries.any fun e => match g.runOf reads e with
        | some run => !inStep (mates.map LandRec.buffer) (slotReads mates g run) []
        | none => false)

/-- 0x3094: a WAIT of a student or serving context on the counter of a channel that an instruction of a teacher context fills (R196). -/
def dependFails (p : Plan) (gs : List Prog) : List Fail :=
  (gs.filter fun g => isStudentKind (kindOf p g.ctx)).flatMap fun g =>
    let fed := p.channels.filter fun c => (c.receiver.any fun e => e.core == g.core && e.ctx.val == g.ctx)
      && (match c.sender with | some e => kindOf p e.ctx.val == some .teacher | none => !isSCore c.peerCore)
    ((List.range g.words.length).filter fun i => wOp (g.at_ i) == 0x23 && fed.any fun c => c.cnt.val == wSub (g.at_ i)).map
      fun i => failAt g.ctx g.core i 0x3094

/-- Whether a descriptor contradicts the format that the Husk fixes for the teacher tensor that it names (R163). Scale bytes are moved as INT8
rows (R117). -/
def formatBad (p : Plan) (w : DWord) (d : TileDesc) : Bool :=
  p.teacherTensors.any fun x => x.1 == d.tensorId.toNat && x.2.toNat % 32 != d.fmtd.toNat % 32
    && !(wOp w == 0x60 && fmtdBlk x.2 && d.fmt == .int8)

/-- TDs through which an instruction reads a teacher tensor: its sources, and the target of a load out of the teacher region (R163). -/
def formatTds (p : Plan) (w : DWord) : List Nat :=
  tdReads w ++ if wOp w == 0x60 && (p.regions.any fun r => r.index == bf w 37 4 && r.kind == .teacher) then tdWrites w else []

/-- 0x3081: a teacher program that reads a teacher tensor through a descriptor of another format than the Husk's (R163), on a path or in a run. -/
def formatFails (p : Plan) (gs : List Prog) : List Fail :=
  (gs.filter fun g => kindOf p g.ctx == some .teacher).flatMap fun g =>
    let onPaths := (g.nodes.filter fun n => !wNever (g.at_ n.pc) && (formatTds p (g.at_ n.pc)).any fun t => n.still t 3 && formatBad p (g.at_ n.pc) (n.td t)).map Node.pc
    let inRuns := g.entries.flatMap fun e => (((g.runOf (fun w => !(formatTds p w).isEmpty) e).getD []).filter fun x =>
      (formatTds p (g.at_ x.1)).any fun t => formatBad p (g.at_ x.1) ((aget x.2 t).getD {})).map (·.1)
    (onPaths ++ inRuns).map fun i => failAt g.ctx g.core i 0x3081

/-- 0x3025 at a product of the student backward pass with an operand below 8 bits (R23; log entry 83): one that a backward entry reaches. -/
def backwardFails (p : Plan) (gs : List Prog) : List Fail :=
  (gs.filter fun g => isStudentKind (kindOf p g.ctx)).flatMap fun g =>
    let live := g.reach g.succ (fun _ => false) g.fuel ((coreLayers p g.ctx g.core).flatMap fun l => l.bwdEntry :: l.recBwd.toList) []
    (g.live.filter fun i => live.contains i && (wOp (g.at_ i) == 0x40 || wOp (g.at_ i) == 0x41)
      && ((g.tdAt (wTd (g.at_ i)) i ++ g.tdAt (wTdb (g.at_ i)) i).any small)).map fun i => failAt g.ctx g.core i 0x3025

/-- 0x30B2: a history-scaled tensor that is not FP8 without BLK (Table 9-8), as written by the entries that are not recovery entries. -/
def historyFails (p : Plan) (gs : List Prog) : List Fail :=
  let fp8 (d : TileDesc) : Bool := d.fmtd.toNat % 32 == 3 || d.fmtd.toNat % 32 == 4
  let recs := p.layers.flatMap fun l => l.recFwd.toList ++ l.recBwd.toList
  gs.flatMap fun g =>
    let normal := g.reach g.succ (fun _ => false) g.fuel (g.entries.filter fun e => !recs.contains e) []
    (g.nodes.filter fun n => normal.contains n.pc && !wNever (g.at_ n.pc) && (srTarget (g.at_ n.pc)).any fun t => n.still t 3 && !fp8 (n.td t)
      && p.hist.any fun x => !x.weight && histCovers x (n.td t).tensorId.toNat).map fun n => failAt g.ctx g.core n.pc 0x30B2

/-! ### Contributions (R268, R269) -/

/-- The bucket of a channel that a descriptor's first element lies in. -/
def bucketIdx (r : ExchRec) (d : TileDesc) : Nat :=
  (r.buckets.findIdx? fun b => b.tensorId == d.tensorId.toNat && decide (b.elem0 ≤ d.indexBase.toNat)
    && decide (d.indexBase.toNat < b.elem0 + b.elems)).getD r.buckets.length

/-- The LREDs of a run of an entry on a channel: instruction, bucket, and the rows of the piece. -/
def Prog.lreds (g : Prog) (r : ExchRec) (entry : Nat) : Option (List (Nat × Nat × List (Nat × Nat))) :=
  (g.runOf (fun w => wOp w == 0x72 && wChan w == r.chan) entry).map fun l => l.map fun x =>
    let d : TileDesc := (aget x.2 (wTd (g.at_ x.1))).getD {}
    (x.1, bucketIdx r d, rowPieces d)

/-- The entries that a step starts on a core, each as often as it does, but for scale recovery. -/
def stepEntries (p : Plan) (g : Prog) : List Nat := (startsOf p g).flatMap fun st => if st.recovery then [] else List.replicate st.times st.entry

/-- The pieces that this member's S-cores contribute to a channel in a step; none where that depends on run-time values. -/
def contribution (p : Plan) (gs : List Prog) (r : ExchRec) : Option (List (Nat × List (Nat × Nat))) :=
  (gs.filter fun g => g.ctx == r.ctx.val && isSCore g.core).foldl (fun acc g => (stepEntries p g).foldl (fun acc e =>
    match acc, g.lreds r e with
    | some l, some k => some (l ++ k.map fun x => x.2)
    | _, _ => none) acc) (some [])

/-- The points at which LREDs of a channel can execute, with the bucket and the piece; none of a piece whose indices are not known. -/
def Prog.lredPts (g : Prog) (r : ExchRec) : List (Node × Option (Nat × List (Nat × Nat))) :=
  (g.nodes.filter fun n => wOp (g.at_ n.pc) == 0x72 && wChan (g.at_ n.pc) == r.chan && !wNever (g.at_ n.pc)).map fun n =>
    let t := wTd (g.at_ n.pc)
    (n, if n.still t 2 && n.still t 3 then some (bucketIdx r (n.td t), rowPieces (n.td t)) else none)

/-- The pieces that LREDs of a channel can name at all, where the indices of every one are known. -/
def namedPieces (gs : List Prog) (r : ExchRec) : Option (List (Nat × List (Nat × Nat))) :=
  (gs.filter fun g => g.ctx == r.ctx.val && isSCore g.core).foldl (fun acc g => (g.lredPts r).foldl (fun acc x =>
    match acc, x.2 with
    | some l, some k => some (l ++ [k])
    | _, _ => none) acc) (some [])

/-- The gradient pieces of a list of LREDs: on a compressed bucket, whose factors follow its contribution (log entry 92), a piece that repeats an
earlier one is a factor. -/
def gradientPieces (factors : Nat → Bool) (l : List (Nat × List (Nat × Nat))) : List (Nat × List (Nat × Nat)) :=
  l.foldl (fun acc x => if factors x.1 && acc.any fun y => y.1 == x.1 && rangesHit y.2 x.2 then acc else acc ++ [x]) []

/-- LREDs of one core that issue out of the order of R268: after a later bucket's within a run of an entry; on a path within one entry, where the
course is not known; or, by the schedule's order of the entries of a micro-batch, in an earlier entry. -/
def lateLreds (p : Plan) (factors : Nat → Bool) (r : ExchRec) (g : Prog) : List Nat :=
  let runs := g.entries.flatMap fun e => match g.lreds r e with
    | some l =>
      let m := l.foldl (fun (acc : List (Nat × Nat × List (Nat × Nat))) x =>
        if factors x.2.1 && acc.any fun y => y.2.1 == x.2.1 && rangesHit y.2.2 x.2.2 then acc else acc ++ [x]) []
      (m.zip (m.drop 1)).filterMap fun (a, b) => if b.2.1 < a.2.1 then some b.1 else none
    | none =>
      let here := g.reach g.succ (fun _ => false) g.fuel [e] []
      let pts := (g.lredPts r).filter fun x => here.contains x.1.pc
      pts.filterMap fun (n, k) => if pts.any fun (m, j) => (g.reach g.succ (fun _ => false) g.fuel (g.succ m.pc) []).contains n.pc
          && (match j, k with
            | some j, some k => decide (k.1 < j.1) && !factors k.1
            | _, _ => false)
        then some n.pc else none
  let entries := (p.order.filter fun e => p.stages.any fun q => q.stage == e.stage && q.ctx.val == g.ctx && q.cores.contains g.core).map fun e =>
    (e.mb, (p.layers.find? fun l => l.layer == e.layer && l.stage == e.stage).map fun l => if e.fwd then l.fwdEntry else l.bwdEntry)
  let of (e : Nat) : List (Nat × Nat) :=
    let here := g.reach g.succ (fun _ => false) g.fuel [e] []
    (g.lredPts r).filterMap fun x => if here.contains x.1.pc then x.2.bind fun k => if factors k.1 then none else some (x.1.pc, k.1) else none
  let across := entries.zipIdx.flatMap fun (a, i) => (entries.drop (i + 1)).flatMap fun b => match a.2, b.2 with
    | some x, some y => if a.1 == b.1 then ((of y).filter fun k => (of x).any fun j => decide (k.2 < j.2)).map (·.1) else []
    | _, _ => []
  runs ++ across

/-- 0x30C1 (R268, R269): where a step's pieces are static they cover each bucket of a member exactly once, and otherwise the pieces that can be
named cover it, with none of one path twice; and an S-core issues no bucket after a later one. -/
def pieceFails (p : Plan) (im : ImageRecs) (gs : List Prog) (self : Nat) : List Fail :=
  let factors (r : ExchRec) (j : Nat) : Bool := (r.buckets[j]?).any (compressedIn im r)
  let covered (b : BucketRec) (l : List (Nat × Nat)) : Bool :=
    (List.range b.elems).all fun i => l.any fun x => decide (x.1 ≤ b.elem0 + i) && decide (b.elem0 + i < x.2)
  let mine (r : ExchRec) : List Prog := gs.filter fun g => g.ctx == r.ctx.val && isSCore g.core && !r.sparse
  each p .exch p.exch 0x30C1 (fun r => !r.sparse && r.members.contains self &&
    (r.buckets.zipIdx.any fun (b, j) =>
      let of (l : List (Nat × List (Nat × Nat))) : List (Nat × Nat) := (l.filter fun x => x.1 == j).flatMap (·.2)
      match contribution p gs r with
      | some l => !coversOnce b.elem0 b.elems (of (gradientPieces (factors r) l))
      | none => match namedPieces gs r with
        | some l => !covered b (of l)
        | none => false))
  ++ p.exch.flatMap fun r => (mine r).flatMap fun g =>
    let twice := (g.lredPts r).filterMap fun (n, k) => if (g.lredPts r).any fun (m, j) => m.pc != n.pc
        && (g.reach g.succ (fun _ => false) g.fuel (g.succ m.pc) []).contains n.pc
        && (match j, k with
          | some j, some k => j.1 == k.1 && !factors r k.1 && rangesHit j.2 k.2
          | _, _ => false)
      then some n.pc else none
    (twice ++ lateLreds p (factors r) r g).map fun i => failAt g.ctx g.core i 0x30C1

/-! ### Declared chains (R79, R83, R96) -/

/-- The terms of a piece of a declared chain: the K steps of the instructions from its first to its last that fill the set which the last reads
out or saves, where each is executed once with one descriptor; otherwise what the plan declares. -/
def pieceTerms (gs : List Prog) (c : ChainDecl) (x : ChainPiece) : Nat :=
  match (if x.device.isNone then gs.find? fun g => g.ctx == c.ctx && g.core == x.core else none) with
  | none => x.k
  | some g =>
    let on (i : Nat) : Bool := (fills (g.at_ i)).any fun f => (empties (g.at_ x.last)).contains (f.1, f.2.1)
    let is := (List.range g.words.length).filter fun i => decide (x.first ≤ i) && decide (i < x.last) && on i
    let k (i : Nat) : Option Nat := match ((g.tdAt (wTd (g.at_ i)) i).map TileDesc.cols).eraseDups with
      | [n] => if (g.inside i).isEmpty && wAlways (g.at_ i) && (wOp (g.at_ i) == 0x40 || wOp (g.at_ i) == 0x41) then some n else none
      | _ => none
    if is.isEmpty then x.k else (is.foldl (fun acc i => match acc, k i with | some a, some n => some (a + n) | _, _ => none) (some 0)).getD x.k

/-- The terms of a chain before each of its pieces, with the piece. -/
def chainStarts (gs : List Prog) (c : ChainDecl) : Nat → List ChainPiece → List (Nat × ChainPiece)
  | _, [] => []
  | k, x :: r => (k, x) :: chainStarts gs c (k + pieceTerms gs c x) r

def chainTerms (gs : List Prog) (c : ChainDecl) : Nat := (c.pieces.map (pieceTerms gs c)).foldl (· + ·) 0

/-- The instruction that a plan names, on a core of a context. -/
def planWord (p : Plan) (ctx core i : Nat) : DWord :=
  ((p.programs.find? fun r => r.ctx == ctx && r.cores.contains core).bind fun r => r.words[i]?).getD 0

/-- Declared chains: their length (R79); a continuation of a wide or split chain of the fast path at a K that is no multiple of 32, found at
the instruction that begins it (R83); and, in a canonical context, a piece other than the last that its instruction reads out to a storage
format instead of saving it as raw records (R96). The instructions of another device's pieces are that device's to check. -/
def chainFails (p : Plan) (canonMask : BitVec 8) (gs : List Prog) : List Fail :=
  each p .chains p.chains 0x3022 (fun c => chainTerms gs c == 0 || decide (2 ^ 24 < chainTerms gs c))
  ++ p.chains.flatMap fun c =>
    (if c.cls != 0 && !canonMask.getLsbD c.ctx then
      ((chainStarts gs c 0 c.pieces).filter fun x => x.2.device.isNone && x.1 % 32 != 0).map fun x => failAt c.ctx x.2.core x.2.first 0x3023
    else [])
    ++ (if canonMask.getLsbD c.ctx then
      (c.pieces.dropLast.filter fun x => x.device.isNone && wOp (planWord p c.ctx x.core x.last) != 0x45).map fun x => failAt c.ctx x.core x.last 0x3024
    else [])

/-- 0x3037: a descriptor pool that is not 32-byte-aligned, is longer than 256 entries, or lies outside its context's share (R111). DEDUCED (log
entry 85): the code is that of the other faults of a pool. -/
def poolFails (p : Plan) : List Fail :=
  each p .programs p.programs 0x3037 (fun r => match planCtx p r.ctx with
    | some c => r.poolBase % 32 != 0 || decide (256 < r.pool.length) || (!r.pool.isEmpty && r.cores.any fun n =>
        let (lo, size) := if isSCore n then (c.sSpBase, c.sSpSize) else (c.tSpBase, c.tSpSize)
        decide (r.poolBase < lo) || decide (lo + size < r.poolBase + 32 * r.pool.length))
    | none => false)

def instrFails (p : Plan) (im : ImageRecs) (self : Nat) : List Fail :=
  let n := im.numeric
  let own := p.programs.flatMap fun r => r.cores.flatMap fun c =>
    progFails r.ctx c (((planCtx p r.ctx).map CtxRec.remote).getD []) (n.canonMask.getLsbD r.ctx) r.words r.pool r.poolBase (entriesOf p r.ctx c)
  let gs := progsOf p n.canonMask
  own ++ (gs.flatMap fun g => g.live.flatMap fun i => (refCodes p g i).map (failAt g.ctx g.core i))
    ++ shapeFails (linkShapes p gs) ++ (if n.srEnable = 1 then srFails (srPieces p gs) else [])
    ++ chainFails p n.canonMask gs ++ consumerFails p gs ++ jointFails p gs ++ dependFails p gs ++ formatFails p gs ++ backwardFails p gs ++ historyFails p gs ++ pieceFails p im gs self ++ poolFails p

/-! ## The verdict (R133) -/

/-- Every failure of a plan under the applied image on this device. -/
def planFails (p : Plan) (im : ImageRecs) (env : VerifyEnv) : List Fail :=
  if !p.readable then [recFail p .contexts 0 0x3001]
  else
    (p.breaches.map fun (code, i) => ⟨code, false, i, locRecord i⟩)
      ++ shareFails p ++ ctxFails p ++ regionFails p ++ channelFails p ++ scheduleFails p ++ placeFails p env.self
      ++ teacherFails p ++ landingFails p ++ lossFails p env.self ++ studentFails p ++ updateFails p env
      ++ exchFails p im env.self ++ serveFails p im env.policy ++ jobFails p im env.self ++ dataFails p ++ instrFails p im env.self

/-- The plan verifier: none when every check passes, or the one code that it reports and its location. -/
def verifyPlan (p : Plan) (im : ImageRecs) (env : VerifyEnv) : Option (Nat × Nat) :=
  (firstFail (planFails p im env)).map fun f => (f.code, f.loc)

/-- The verifier's surroundings on this device. -/
def State.verifyEnv (s : State) (load : Bool) : VerifyEnv := ⟨s.addr, if s.sec.husk.isSome then s.sec.policy else 0, load⟩

end Sys2Proof.Machine
end

