-- ==== Sys2Proof/Machine/Restart.lean ====
section
/-!
DEFINITION. Fault notices, halted reports, the coordinator's decisions and the restore of a job (R395, R407 to R416).
-/

namespace Sys2Proof
open Machine

/-- A substitution of address `b` for `a` in the records of a job with these contexts (R410): member entries, channel members re-sorted
under R267, OWNER fields, commit-tree nodes, loss groups, and every other record that names the device. Partner pointers name roles and keep their values. -/
def Plan.subst (p : Plan) (job : Nat) (mask : BitVec 8) (a b : Nat) : Plan :=
  let f (x : Nat) : Nat := if x = a then b else x
  { p with
    jobs := p.jobs.map fun j => if j.job = job then
      { j with members := j.members.map fun m => (f m.1, m.2), tree := j.tree.map fun e => (f e.1, f e.2) } else j
    exch := p.exch.map fun r => if mask.getLsbD r.ctx then { r with owner := f r.owner, members := sortKey id (r.members.map f) } else r
    losses := p.losses.map fun r => if mask.getLsbD r.ctx then { r with group := sortKey id (r.group.map f) } else r
    channels := p.channels.map fun c =>
      if (c.sender.toList ++ c.receiver.toList).any fun e => mask.getLsbD e.ctx then { c with peer := c.peer.map f } else c
    shards := p.shards.map fun h => { h with remote := h.remote.map f }
    lossOrders := p.lossOrders.map fun o => (f o.1, o.2)
    heads := p.heads.map fun h => { h with device := f h.device, consumers := h.consumers.map f }
    taps := p.taps.map fun t => { device := f t.device, consumers := t.consumers.map f }
    splits := p.splits.map fun l => l.map f
    places := p.places.map fun x => { x with devices := x.devices.map f }
    pipeline := p.pipeline.map f }

end Sys2Proof

namespace Sys2Proof.Machine

/-! ## Notices and reports (R395, R408, R416) -/

/-- What the coordinator keeps of a fault record: the first of the attempt, the member that a STRAGGLER_LATE names, a device that left. -/
def State.coordFault (s : State) (j : JobRec) (f : FaultRec) : State :=
  if s.origin != s.addr then s
  else
    let t := s.jobSt j.job
    let c := t.coord.halt s.beat
    let late := if f.code = 0x6030 then c.late ++ f.detail.take 1 else c.late
    let s1 := s.setJob j.job { t with coord := { c with late, fault := if c.fault.isSome then c.fault else some f } }
    if f.device then { s1 with formation := { s1.formation with failed := s1.formation.failed ++ [f.address]
                                                                rejoined := s1.formation.rejoined.filter fun e => e.1 != f.address } }
    else s1

/-- Whether the job has begun the attempt after `attempt` in this very beat, which a halt of `attempt` comes before (R396). -/
def State.justStarted (s : State) (job attempt : Nat) : Bool :=
  (aget s.undos job).any fun x => x.beat == s.beat && x.job.attempt == attempt && (s.jobSt job).attempt == attempt + 1

/-- FAULT_NOTICE (R395, R396): the first notice of an attempt halts the job here and goes on to the other tree neighbours; later ones are
counted; those of an earlier attempt are ignored. -/
def execFaultNotice (from_ job attempt : Nat) (f : FaultRec) (s : State) : Host.Outcome State Fault Refusal :=
  .next (match s.jobRec job with
    | none => s
    | some j =>
      let t := s.jobSt job
      if !s.isMember j || (attempt != t.attempt && !s.justStarted job attempt) then s
      else if t.notified then s.count cntJobHalt
      else
        let s0 := s.haltJob j
        let s1 := ((s0.setJob job { s0.jobSt job with attempt }).coordFault j f).pumpAll
        (s1.send (((s1.treeNeighbours j).filter (· != from_)).map fun a => .notice a job attempt f)).reportHalt j (some f))

/-! ## Lost roles and Sprouts (R409 to R411, R415) -/

/-- The member that a STRAGGLER_LATE of the attempt names. -/
def State.late (s : State) (j : JobRec) (a : Nat) : Bool :=
  let c := (s.jobSt j.job).coord
  c.late.contains a || c.fault.any fun f => f.code == 0x6030 && f.detail.head? == some a

/-- A device of the Plot that the coordinator holds as JOINED or RUN. -/
def State.deviceUp (s : State) (a : Nat) : Bool := s.inPlot a && !s.excluded.contains a && !s.formation.failed.contains a

def State.reported (s : State) (j : JobRec) (a : Nat) : Bool :=
  let t := s.jobSt j.job
  t.coord.reports.any fun r => r.address == a && r.attempt == t.attempt

/-- Lost roles in ascending order (R409); `first`: at the first start, those on excluded devices (R415). -/
def State.lostRoles (s : State) (j : JobRec) (first : Bool) : List Nat :=
  j.members.zipIdx.filterMap fun (m, r) =>
    if (if first then s.excluded.contains m.1 else !s.reported j m.1 || !s.deviceUp m.1 || s.late j m.1) then some r else none

/-- The state of a job as the coordinator holds it: its own, or what it has seen of a job in which it has no role (log entry 121). -/
def State.jobView (s : State) (q : JobRec) : JobState := if s.isMember q then (s.jobSt q.job).st else (s.jobSt q.job).coord.view

/-- A Sprout of the job under plan p (R410): up, in no other job that runs, starts or restores, and with no role of one that is stopped. -/
def State.isSprout (s : State) (p : Plan) (j : JobRec) (a : Nat) : Bool :=
  s.deviceUp a && p.jobs.all fun q => q.job == j.job || !(q.members.any fun m => m.1 == a) || s.jobView q == .halted || s.jobView q == .none

/-- The device of a lost role is used again when it has rejoined since the halt and holds no other role (R410). -/
def State.comesBack (s : State) (p : Plan) (j : JobRec) (role a : Nat) : Bool :=
  let since := ((s.jobSt j.job).coord.since).getD 0
  (s.formation.rejoined.any fun e => e.1 == a && decide (since ≤ e.2))
    && p.jobs.all fun q => q.members.zipIdx.all fun (m, r) => m.1 != a || (q.job == j.job && r == role)

/-- Devices for lost roles in ascending role order: the plan and the substitutions, none when a role finds no device. -/
def State.assignRoles (s : State) (j : JobRec) : List Nat → Plan → List (Nat × Nat) → Option (Plan × List (Nat × Nat))
  | [], p, l => some (p, l)
  | r :: rest, p, l =>
    match (p.jobs.find? fun q => q.job == j.job).bind fun q => q.members[r]? with
    | none => none
    | some (a, _) =>
      if s.comesBack p j r a then State.assignRoles s j rest p l
      else
        let fits (b : Nat) : Bool := s.isSprout p j b && (verifyPlan (p.subst j.job j.ctxMask a b) s.img (s.verifyEnv false)).isNone
        match (if s.img.spares = 1 then j.spares.find? fits else none) with
        | some b => State.assignRoles s j rest (p.subst j.job j.ctxMask a b) (l ++ [(r, b)])
        | none => none

/-! ## The version restored (R412) -/

def State.reportOf (s : State) (j : JobRec) (a : Nat) : Option HaltedRep :=
  let t := s.jobSt j.job
  t.coord.reports.find? fun r => r.address == a && r.attempt == t.attempt

/-- Whether the local bank of a role's device, which was not substituted, holds its part of version v under map m. -/
def State.ownPart (s : State) (j : JobRec) (subst : List (Nat × Nat)) (role v : Nat) (m : Digest) : Bool :=
  match j.members[role]? with
  | none => false
  | some (a, _) => (aget subst role).isNone && (s.reportOf j a).any fun r => r.locals.contains ⟨v, role, m⟩

/-- Whether the part of a role at version v under map m is intact: in its device's local bank, or in its partner's hosted bank. -/
def State.intact (s : State) (j : JobRec) (subst : List (Nat × Nat)) (role v : Nat) (m : Digest) : Bool :=
  s.ownPart j subst role v m ||
    (((j.members[role]?).bind fun e => j.members[e.2]?).bind fun e => s.reportOf j e.1).any fun r => r.hosted.contains ⟨v, role, m⟩

/-- Reports of the attempt. -/
def State.reportsNow (s : State) (j : JobRec) : List HaltedRep :=
  let t := s.jobSt j.job
  t.coord.reports.filter fun r => r.attempt == t.attempt

/-- The manifest of a version with the copy of the history that the journal recorded with it (R258). -/
def State.journalManifest (s : State) (job v : Nat) : Option (Manifest × List Byte) :=
  (s.jnl.act.recs ++ s.jnl.queue).reverse.findSome? fun r => match r.body with
    | .manifest m h => if m.job == job && m.version == v then some (m, h) else none
    | _ => none

/-- Versions of the parts that the reports name, each with its map; one whose manifest this device has journalled only with the manifest's map. -/
def State.versionsHeld (s : State) (j : JobRec) : List (Nat × Digest) :=
  (((s.reportsNow j).flatMap fun r => (r.locals ++ r.hosted).map fun p => (p.version, p.map)).eraseDups).filter fun e =>
    (s.journalManifest j.job e.1).all fun m => m.1.mapDigest == e.2

/-- Whether the job has committed a checkpoint, as far as this device and the reports know. -/
def State.everCommitted (s : State) (j : JobRec) : Bool :=
  (s.jobSt j.job).committed.isSome || (s.reportsNow j).any fun r => r.committed.isSome

/-- The version chosen, whether it is external, and the roles whose part comes from a hosted bank: none when no version qualifies; the version none
is the initial weights. -/
def State.chooseVersion (s : State) (j : JobRec) (subst : List (Nat × Nat)) (ext : Option Nat) : Option (Option Nat × Bool × List Nat) :=
  let roles := List.range j.members.length
  let whole := (s.versionsHeld j).filter fun e => roles.all fun r => s.intact j subst r e.1 e.2
  let best := whole.foldl (fun (b : Option (Nat × Digest)) e => match b with | none => some e | some w => if w.1 < e.1 then some e else some w) none
  match best, ext.filter fun e => best.all fun b => decide (b.1 < e) with
  | _, some e => some (some e, true, [])
  | some (v, m), none => some (some v, false, roles.filter fun r => !s.ownPart j subst r v m)
  | none, none => if s.everCommitted j then none else some (none, false, [])

/-! ## Assignment on a device (R410, R413) -/

/-- A job stops (Table 14-8): its members stay idle, and the coordinator reports it. -/
def State.stopJob (s : State) (j : JobRec) (code : Nat) (lost : List Nat) (a : Assignment) : State :=
  let t := s.jobSt j.job
  let s1 := s.setJob j.job { t with st := .stopped, coord := { t.coord with restoreSince := none, restored := [], request := none, view := .stopped } }
  let s2 := s1.send ((j.members.filter fun m => m.1 != s.addr).map fun m => .stopped m.1 j.job code)
  s2.report code (.restart j.job t.coord.fault lost a 0 false)

/-- The assignment that a job has taken. -/
def JobSt.taken (t : JobSt) : Assignment := t.assign.getD { attempt := t.attempt, version := none, subst := [], external := false }

/-- A member's restore fails: the job stops, at the coordinator through it (Table 14-8). -/
def State.failRestore (s : State) (j : JobRec) (code : Nat) : State :=
  let t := s.jobSt j.job
  if s.origin = s.addr then s.stopJob j code t.coord.lost t.taken
  else (s.setJob j.job { t with st := .stopped }).send [.stopped s.origin j.job code]

/-- Parts that this device hosts for roles that restore from their partner's bank go to their devices (R412, R413). -/
def State.sendHosted (s : State) (j : JobRec) (a : Assignment) : State :=
  let t := s.jobSt j.job
  s.send (a.hosted.filterMap fun r =>
    (j.members[r]?).bind fun (d, p) =>
      if (j.members[p]?).map (·.1) != some s.addr then none
      else ([2, 3] : List (Fin 4)).findSome? fun b =>
        let x := t.banks[b]
        if x.complete && x.role == r && x.version == a.version then
          some (Out.hostedPart d j.job r (a.version.getD 0) (memGetBytes s.mem (s.bankAddr j b.val) x.bytes))
        else none)

/-- The assignment of a restart on a device (R407, R410, R413): the plan with its substitutions; a member is RESTORING, and sends the parts that it
hosts; a device that no longer holds a role leaves the job. A replay whose end version is restored already is over. -/
def State.takeAssign (s : State) (j : JobRec) (a : Assignment) : State :=
  let old (r : Nat) : Nat := ((j.members[r]?).map (·.1)).getD 0
  let plan := s.plan.map fun p => a.subst.foldl (fun (q : Plan) e => q.subst j.job j.ctxMask (old e.1) e.2) p
  let s1 : State := { s with plan }
  match s1.jobRec j.job with
  | none => s1
  | some k =>
    let t := s1.jobSt j.job
    if s1.isMember k then
      let replay := a.replay.filter fun v => decide (a.version.getD 0 < v)
      (s1.setJob j.job { t with st := .restoring, attempt := a.attempt, assign := some a, notified := false, startReady := [], startSent := false
                                startBeat := none, substituted := !a.subst.isEmpty, replayEnd := replay
                                exclusions := if replay.isSome then a.exclusions else []
                                started := t.started || decide (0 < a.attempt) }).sendHosted k a
    else s1.setJob j.job { t with st := .none, assign := none, banks := Vector.replicate 4 {} }

/-- The same check mismatch as in the attempt before (R414). -/
def mismatchKey (f : Option FaultRec) : Option (List Nat) := f.bind fun f => if f.code = 0x6032 then some (f.detail.take 3) else none

/-- Automatic restarts in succession (R414): none once a report names a committed checkpoint newer than the one restored last. -/
def State.autosNow (s : State) (j : JobRec) : Nat :=
  let t := s.jobSt j.job
  let newer (v : Nat) : Bool := (t.assign.bind Assignment.version).all fun r => decide (r < v)
  if (s.reportsNow j).any fun r => r.committed.any newer then 0 else t.coord.autos

/-- The assign phase at the coordinator (R408 to R415). `auto`: it is an automatic restart; `first`: the job has never started. -/
def State.assignPhase (s : State) (j : JobRec) (auto first : Bool) (q : RestartReq) : State :=
  let t := s.jobSt j.job
  let autos := s.autosNow j
  let a0 : Assignment := { attempt := t.attempt, version := none, subst := [], external := false }
  let lost := s.lostRoles j first
  let meter := s.sec.exhausted && s.isMember j || t.coord.fault.any fun f => f.code == 0x4120 && auto && (f.address != s.addr || s.sec.exhausted)
  let key := mismatchKey t.coord.fault
  let s1 := s.setJob j.job { t with coord := { t.coord with mismatch := key, lost, autos, request := none } }
  if auto && !first && key.isSome && key == t.coord.mismatch then s1.stopJob j 0x6114 lost a0
  else if auto && !first && decide (j.restartMax ≤ autos) then s1.stopJob j 0x6113 lost a0
  else if meter then s1.stopJob j 0x4120 lost a0
  else match s1.assignRoles j lost (s1.plan.getD {}) [] with
    | none => s1.stopJob j 0x6110 lost a0
    | some (_, subst) =>
      match (if first then some (q.ext, q.ext.isSome, []) else s1.chooseVersion j subst q.ext) with
      | none => s1.stopJob j 0x6111 lost { a0 with subst }
      | some (v, external, hosted) =>
        let a : Assignment := { attempt := t.attempt, version := v, subst, external, replay := q.replay, exclusions := q.exclusions, hosted }
        let s2 := s1.takeAssign j a
        let k := (s2.jobRec j.job).getD j
        let u := s2.jobSt j.job
        let c := { u.coord with restoreSince := some s.beat, restored := [], recovery := false, view := .restoring
                                autos := if auto && !first then autos + 1 else autos }
        let s3 := s2.setJob j.job { u with assign := some a, coord := c }
        s3.send (((j.members ++ k.members).map (·.1)).eraseDups.filter (· != s.addr) |>.map fun m => .assign m j.job a)

/-- Whether the halt phase is over: every role has reported, or HALT_SETTLE beats have passed (Table 14-8). -/
def State.settled (s : State) (j : JobRec) : Bool :=
  let c := (s.jobSt j.job).coord
  (j.members.all fun m => s.reported j m.1) || c.since.any fun b => decide (b + j.haltSettle ≤ s.beat)

/-- At the end of the halt phase the coordinator starts the assign phase for a RESTART that waits, or itself when AUTO_RESTART is 1; otherwise the
job waits for the operator (R408, R414). -/
def State.trySettle (s : State) (j : JobRec) : State :=
  let t := s.jobSt j.job
  if s.origin != s.addr || t.coord.since.isNone || t.coord.restoreSince.isSome || s.jobView j != .halted || !s.settled j then s
  else match t.coord.request with
    | some q => s.assignPhase j false false q
    | none => if s.img.autoRestart = 1 then s.assignPhase j true false {} else s

/-- HALTED_REPORT (R408): the coordinator holds a member's report; the last role's report ends the halt phase. -/
def execHaltedReport (r : HaltedRep) (s : State) : Host.Outcome State Fault Refusal :=
  .next (match s.jobRec r.job with
    | none => s
    | some j =>
      let t := s.jobSt r.job
      if s.origin != s.addr || !(j.members.any fun m => m.1 == r.address) || decide (r.attempt < t.attempt) || (s.isMember j && r.attempt != t.attempt)
          || (s.reported j r.address && t.coord.restoreSince.isNone) then s
      else
        let fresh : Bool := decide (t.attempt < r.attempt)
        let c := (if fresh then { t.coord with reports := [], since := none, fault := none, late := [], restoreSince := none, request := none }
          else t.coord).halt s.beat
        (s.setJob r.job { t with attempt := r.attempt, coord := { c with reports := c.reports ++ [r] } }).trySettle j)

/-- HALT_SETTLE (R408 to R415): at the coordinator the halt phase ends, or a member's restore has failed; at a member the coordinator's decision
arrives. -/
def execHaltSettle (job : Nat) (m : SettleMsg) (s : State) : Host.Outcome State Fault Refusal :=
  .next (match s.jobRec job with
    | none => s
    | some j =>
      let t := s.jobSt job
      match m with
      | .decide => s.trySettle j
      | .assigned a => if s.origin == s.addr || (s.isMember j && a.attempt != t.attempt) || t.st == .running then s else s.takeAssign j a
      | .stopped code =>
        if s.origin = s.addr then (if t.coord.restoreSince.isSome then s.failRestore j code else s)
        else if s.isMember j && t.st != .running then s.setJob job { t with st := .stopped } else s)

/-- RESTART (R407, R408, R411, R412, R446): the operator starts the assign phase at the coordinator. It waits for the end of a halt phase under way and
for the entry to JOINED; a job that was stopped before it ever started starts for the first time. A job that runs, starts or restores goes on. -/
def State.onRestart (s : State) (job : Nat) (replay : Bool) (vEnd : Nat) (ext : Option Nat) (excl : List Exclusion) : State × Nat :=
  match s.jobRec job with
  | none => (s, 0)
  | some j =>
    let t := s.jobSt job
    if s.sec.exhausted && s.isMember j then (s, 0x4120)
    else if s.origin != s.addr then (s, 0)
    else
      let q : RestartReq := { ext, replay := if replay then some vEnd else none, exclusions := if replay then excl else [] }
      let wait : State := s.setJob job { t with coord := { t.coord with request := some q } }
      match s.jobView j with
      | .stopped => (s.assignPhase j false t.coord.since.isNone q, 0)
      | .halted => (if s.settled j then s.assignPhase j false false q else wait, 0)
      | .none => (wait, 0)
      | _ => (s, 0)

/-! ## Restore (R258, R259, R413) -/

/-- A two's complement exponent byte. -/
def byteExp (b : Byte) : Int := b.toInt

/-- The history entries that a HISTORY section spells, with their recovery flags clear (R550). -/
def histOf : List HistRec → List Byte → List HistSt
  | [], _ => []
  | h :: r, l =>
    let n := beNat ((l.drop 4).take 4)
    let vals : List Word := (List.range n).map fun i => BitVec.ofNat 32 (beNat ((l.drop (16 + 4 * i)).take 4))
    { vals := vals.reverse, exp := byteExp (l.headD 0), copyExp := byteExp ((l.drop 1).headD 0) } :: histOf r (l.drop (16 + 4 * h.h))

/-- Bytes of a HISTORY section. -/
def histSize (l : List HistRec) : Nat := l.foldl (fun n h => n + 16 + 4 * h.h) 0

/-- Writing the sections of a part: its content into memory, and the bytes of the HISTORY section. -/
def putSecs (m : List Host.Cell) : List PartSec → List Byte → List Host.Cell × List Byte
  | [], l => (m, l)
  | x :: r, l =>
    if x.kind = 5 then (m, l)
    else
      let n := x.addrs.length
      putSecs ((x.addrs.zip (l.take n)).foldl (fun mm (a, b) => memPut mm a b) m) r (l.drop n)

/-- FP8 copies of the owned weights in slot 0, re-formed with the recorded exponents (R248, R257). -/
def State.reformCopies (s : State) (j : JobRec) : State :=
  let t := s.jobSt j.job
  (s.ownedWeights j).foldl (fun (v : State) (u, l) =>
    if u.copy = 0 then v
    else
      let base := ((v.stageRec u.stage).map fun r => v.slotAddr r 0).getD 0
      let e := (t.hist.getD u.hist {}).exp
      { v with mem := l.foldl (fun m i => memPut m (copyAddr base u i) (BitVec.ofNat 8 (copyBits u e (memGetLe m (wAddr base u i) 2)))) v.mem }) s

/-- Slot 0 of a stage is CURRENT with version v, slot 1 FREE; stash and bindings are empty (R238, R413). -/
def StageSt.restored (v : Nat) : StageSt := { slots := #v[⟨.current, v⟩, {}] }

/-- The CURRENT slot's content goes to slot 0 when the initial weights stand in slot 1. -/
def State.toSlot0 (s : State) (r : StageRec) : State :=
  if (s.stage r.stage).slotIn .current == some 1 then
    { s with mem := memPutBytes s.mem (s.slotAddr r 0) (memGetBytes s.mem (s.slotAddr r 1) r.slotBytes) }
  else s

/-- A core without the work and registers of a context. -/
def clearCore (c : Fin 8) (n : Nat) (k : CoreSt) : CoreSt :=
  { k with ctx := k.ctx.set c { vl := BitVec.ofNat 8 (lanesOf n), halted := true }, jobs := k.jobs.filter fun j => j.ctx != c }

/-- The units' content of a context goes. -/
def State.clearUnits (s : State) (c : Fin 8) : State :=
  let p := s.plan.getD {}
  { s with cores := s.cores.map fun (n, k) => (n, clearCore c n k)
           bufs := s.bufs.filter fun e => !p.landings.any fun l => l.buffer == e.1 && (l.pctx == c || l.cctx == c)
           exch := s.exch.filter fun e => !p.exch.any fun r => r.chan == e.1 && r.ctx == c
           accts := s.accts.filter fun e => e.1 != c.val }

/-- A context of a restored job: Table 4-1 takes its initial values on every core, sync counters included; its samples, landing buffers, exchange and
loss state are as at plan load. -/
def State.clearCtx (s : State) (c : Fin 8) : State :=
  let s1 := s.clearUnits c
  match s1.dataRec c with
  | some d => (List.range d.slots).foldl (fun (t : State) i => if (aget t.samples (sampleKey c i)).isSome then t.freeSample d i else t) s1
  | none => s1

/-- Owners broadcast the version restored to the holders (R279, R413). -/
def State.broadcast (s : State) (j : JobRec) (v : Nat) : State :=
  (s.jobChans j).foldl (fun (t : State) r =>
    if r.owner != t.addr || r.sparse then t
    else r.buckets.zipIdx.foldl (fun (w : State) (b, i) =>
      match w.updRec b.tensorId with
      | none => w
      | some u =>
        let base := ((w.stageRec u.stage).map fun q => w.slotAddr q 0).getD 0
        (w.paramChunks r u b base i v).foldl (fun (z : State) c => (w.routeChildren r).foldl (fun (z : State) d => z.sendParam d c) z) w) t) s

/-- The stages of a job with slot 0 CURRENT at version v, and its contexts cleared (R408, R413). -/
def State.setStages (s : State) (j : JobRec) (v : Nat) : State :=
  (s.jobStages j).foldl (fun (w : State) r => w.setStage r.stage (StageSt.restored v)) s
def State.clearJob (s : State) (j : JobRec) : State := (jobCtxs j).foldl State.clearCtx s

/-- A restart from the initial weights (R412). -/
def State.restoreInitial (s : State) (j : JobRec) : State :=
  let s1 := (((s.jobStages j).foldl State.toSlot0 s).setStages j 0).loadLowRank (s.jobChans j)
  ((s1.setJob j.job { s1.initJob (s1.jobSt j.job) with sampleFirst := s1.sampleFirstOf j 0 }).clearJob j).broadcast j 0

/-- The bytes that a member restores version v from: those delivered, else the local bank that holds v (R412). -/
def State.restorePart (s : State) (j : JobRec) (src : RestoreSrc) (v : Nat) : List Byte :=
  let t := s.jobSt j.job
  match src.part, [(0 : Fin 2), 1].find? fun b => (t.banks[localIdx b]).complete && (t.banks[localIdx b]).version == some v with
  | some l, _ => l
  | none, some b => memGetBytes s.mem (s.bankAddr j b.val) (t.banks[localIdx b]).bytes
  | none, none => []

/-- The manifest of version v that this member knows: delivered, or from its journal. -/
def State.knownManifest (s : State) (j : JobRec) (src : RestoreSrc) (v : Nat) : Option Manifest :=
  src.manifest.orElse fun _ => (s.journalManifest j.job v).map (·.1)

/-- A restart from version v: the part's bytes go to their places, the job takes the manifest's values, and an unusable history puts every
entry in recovery (R258, R259, R413). The Bool says whether recovery begins. -/
def State.restoreVersion (s : State) (j : JobRec) (src : RestoreSrc) (v : Nat) : State × Bool :=
  let secs := s.partSecs j (fun _ => 0) false
  let (mem, hist) := putSecs s.mem secs ((s.restorePart j src v).drop (96 + 16 * secs.length))
  let jm := s.journalManifest j.job v
  let known := s.knownManifest j src v
  let man : Manifest := known.getD (s.manifestOf j { version := v, bank := 0, beat := s.beat, carry := false })
  let own := hist.take (histSize s.planHist)
  let (hs, rec_) : List HistSt × Bool :=
    if known.any fun m => Config.sha256 own == m.histDigest then (histOf s.planHist own, false)
    else match jm with
      | some (_, h) => (histOf s.planHist h, false)
      | none => (s.planHist.map fun _ => { recovering := true }, !s.planHist.isEmpty)
  let s1 := ({ s with mem } : State).setStages j v
  let n := s.policyRec.recover
  let s2 := s1.setJob j.job { (s1.jobSt j.job) with step := v, u := man.u, e := man.e, growth := man.growth, cur := false, hist := hs
                                                    recoverLeft := if rec_ then n else 0, sampleFirst := man.sampleFirst, extern := none
                                                    externMan := none }
  let s3 := if rec_ then
      ((s2.studentCtxs j).foldl (fun (w : State) c => w.countCtx c ccScaleRecover) s2).journal (.scaleRecovery j.job v s.planHist.length n)
    else s2
  (((s3.reformCopies j).clearJob j).broadcast j v, rec_)

/-- The restore of this member (R258, R259, R413): the state, and whether it enters recovery; none when a part fails its digest. -/
def State.restore (s : State) (j : JobRec) (src : RestoreSrc) : Option (State × Bool) :=
  match (s.jobSt j.job).assign with
  | none => none
  | some a => match a.version with
    | none => some (s.restoreInitial j, false)
    | some v => if !partIntact (s.restorePart j src v) v ((s.knownManifest j src v).map Manifest.mapDigest) then none else some (s.restoreVersion j src v)

/-- Restore of every member is complete: the coordinator reports the restart, and what it held of the halt is over (R414). -/
def State.restartDone (s : State) (j : JobRec) : State :=
  let t := s.jobSt j.job
  let k := (s.jobRec j.job).getD j
  if !(k.members.all fun m => t.coord.restored.contains m.1) then s
  else
    let a := t.taken
    let s1 := s.setJob j.job { t with coord := { autos := t.coord.autos, mismatch := t.coord.mismatch, view := .starting } }
    s1.report 0 (.restart j.job t.coord.fault t.coord.lost a (s.sampleFirstOf j (a.version.getD 0)) t.coord.recovery)

/-- The coordinator takes a member's completion. -/
def State.restoredAt (s : State) (j : JobRec) (from_ : Nat) (recovery : Bool) : State :=
  let t := s.jobSt j.job
  if t.coord.restoreSince.isNone || t.coord.restored.contains from_ then s
  else (s.setJob j.job { t with coord := { t.coord with restored := t.coord.restored ++ [from_], recovery := t.coord.recovery || recovery } }).restartDone j

/-- Whether the plan's teacher region does not hold its Husk (R413, R439). -/
def State.lacksHusk (s : State) : Bool := (s.plan.bind fun p => p.regionOf .teacher).isSome && s.sec.husk.isNone

/-- RESTORE_COMPLETE (R408, R413): this member's own restore, which R413 applies and which its start-ready record follows, or the report of
another member to the coordinator. A part that fails its digest stops the job. A member that does not hold the plan's Husk loads it first (R354). -/
def execRestoreComplete (job from_ : Nat) (src : RestoreSrc) (recovery : Bool) (s : State) : Host.Outcome State Fault Refusal :=
  .next (match s.jobRec job with
    | none => s
    | some j =>
      let t := s.jobSt job
      if from_ = s.addr then
        if t.st != .restoring || !s.isMember j || s.lacksHusk then s
        else
          let full : RestoreSrc := match t.extern, src.part with
            | some l, none => { part := some l, manifest := src.manifest.orElse fun _ => t.externMan }
            | _, _ => src
          match s.restore j full with
          | none => s.failRestore j 0x6112
          | some (s1, rec_) =>
            let s2 := if s1.origin = s1.addr then s1.restoredAt j s1.addr rec_ else s1.send [.restoreDone s1.origin job rec_]
            s2.offerStart j
      else if s.origin = s.addr then s.restoredAt j from_ recovery else s)

/-- RESTORE_TIMEOUT (R408): RESTORE_LIMIT beats after restore began, a member's restore is not complete. -/
def execRestoreTimeout (job : Nat) (s : State) : Host.Outcome State Fault Refusal :=
  .next (match s.jobRec job with
    | none => s
    | some j =>
      let t := s.jobSt job
      if s.origin == s.addr && t.coord.restoreSince.any fun b => decide (b + j.restoreLimit ≤ s.beat) then
        s.failRestore j 0x6115
      else s)

end Sys2Proof.Machine
end

