-- ==== Sys2Proof/Machine/Boot.lean ====
section
/-!
DEFINITION. From power to CONFIGURED: power and reset, firmware selection, image checks, plans, bank writes, plan switching (R352 to R354,
R453 to R471, R525 to R534).
-/

namespace Sys2Proof
open Machine

/-! ## Images (R461 to R466, Tables 16-6 to 16-8) -/

/-- Types of Table 16-6 with their FIELD mark. -/
def imageTypes : List (Nat × Bool) :=
  [(0x10, true), (0x11, true), (0x12, true), (0x13, true), (0x14, true), (0x15, true), (0x16, true), (0x17, true), (0x20, true), (0x21, true),
   (0x22, true), (0x30, false), (0x31, false)]

/-- The bodies of the listed records (Table 16-7), by TYPE. -/
def imageBodies (r : ImageRecs) : List (Nat × List Byte) :=
  let b := r.beat
  let e := r.exch
  let keys (l : List Digest) : List Byte := natBe 1 l.length ++ List.replicate 7 0 ++ l.flatMap fun d => natBe 32 d.toNat
  [(0x10, natBe 1 r.n ++ natBe 1 r.p ++ natBe 1 r.x ++ natBe 1 r.y),
   (0x11, natBe 1 b.source ++ natBe 1 b.periodCode ++ natBe 2 b.excludeMax ++ natBe 4 b.startLead ++ natBe 4 b.joinLimit ++ natBe 4 b.lockLimit
      ++ natBe 1 b.podAlt ++ natBe 1 b.rowAlt ++ natBe 1 b.plotAltX ++ natBe 1 b.plotAltY),
   (0x12, natBe 1 r.numeric.srEnable ++ natBe 1 r.numeric.srBits ++ [r.numeric.canonMask]),
   (0x13, natBe 1 e.straggler ++ natBe 1 e.checkShift ++ natBe 1 e.lowrank ++ natBe 1 e.defaultRank ++ natBe 4 e.stragglerLimit ++ natBe 4 e.exchLimit),
   (0x14, natBe 1 r.autoRestart ++ natBe 1 r.spares),
   (0x15, natBe 4 r.exportPolicy.toNat ++ natBe 1 r.onlineDistill),
   (0x16, natBe 1 r.sealMask.toNat),
   (0x17, natBe 1 r.initial ++ natBe 1 r.directory.length ++ List.replicate 6 0
      ++ r.directory.flatMap fun d => natBe 1 d.slot ++ List.replicate 3 0 ++ natBe 4 d.bytes ++ natBe 32 d.digest.toNat),
   (0x20, keys r.operatorKeys), (0x21, keys r.licensorKeys), (0x22, natBe 2 r.fwSvnCommit),
   (0x30, natBe 8 r.ipv6Prefix.toNat ++ natBe 4 r.ipv4Base.toNat ++ natBe 1 r.ptpDomain), (0x31, natBe 2 r.capW)]

/-- A record as an image holds it (R462): head, body, zero padding. -/
def imageRecBytes (type flags : Nat) (body : List Byte) : List Byte :=
  natBe 2 type ++ natBe 1 flags ++ [0] ++ natBe 4 body.length ++ body ++ List.replicate ((8 - body.length % 8) % 8) 0

/-- The numeric-policy record of an image: as the image holds it, or an omitted one at its defaults. -/
def Image.policyRecord (i : Image) : List Byte :=
  match i.recList.find? fun r => r.type == 0x12 with
  | some r => r.all
  | none => imageRecBytes 0x12 1 ((((imageBodies i.records).find? fun e => e.1 == 0x12).map (·.2)).getD [])

/-- Strictly ascending record types; equal neighbours are the duplicates of 0x1003. -/
def typesAscend : List Nat → Bool
  | a :: b :: r => decide (a ≤ b) && typesAscend (b :: r)
  | _ => true

end Sys2Proof

namespace Sys2Proof.Machine

/-- Bytes of a plan slot at a capacity in MiB (R454). -/
def slotBytesAt (mib : Nat) : Nat := (mib - 41) / 16 * 2 ^ 20

/-- A field outside its range in Table 16-7, Table 13-2 or Table 10-6 (R456, R486). -/
def rangeBroken (r : ImageRecs) : Bool :=
  let b := r.beat
  let e := r.exch
  !(within 1 8 r.n && within 1 32 r.x && within 1 32 r.y && within 0 2 b.source && within 0 6 b.periodCode && within 0 1024 b.excludeMax
    && within 256 1048576 b.startLead && within 100 600000 b.joinLimit && within 1000 600000 b.lockLimit && within 0 1 r.numeric.srEnable
    && within 1 23 r.numeric.srBits && within 0 2 e.straggler && (within 0 16 e.checkShift || e.checkShift == 0xFF) && within 0 1 e.lowrank
    && within 1 64 e.defaultRank && within 1 16777216 e.stragglerLimit && within 1 16777216 e.exchLimit && within 0 1 r.autoRestart
    && within 0 1 r.spares && within 0 1 r.onlineDistill && (within 0 15 r.initial || r.initial == 0xFF) && decide (r.directory.length ≤ 16)
    && decide (r.operatorKeys.length ≤ 8) && decide (r.licensorKeys.length ≤ 16) && within 0 127 r.ptpDomain && within 1000 3800 r.capW
    && decide (r.ipv4Base.toNat % 2 ^ 17 = 0))

/-- An alternate outside its level (R360). -/
def altBroken (r : ImageRecs) : Bool :=
  let b := r.beat
  (decide (2 ≤ r.n) && !within 1 (r.n - 1) b.podAlt) || (decide (2 ≤ r.p) && !within 1 (r.p - 1) b.rowAlt)
    || (decide (2 ≤ r.x * r.y) && (!(decide (b.plotAltX < r.x) && decide (b.plotAltY < r.y)) || (b.plotAltX == 0 && b.plotAltY == 0)))

/-- A directory contrary to Table 16-8. -/
def directoryBroken (r : ImageRecs) (mib : Nat) : Bool :=
  let slots := r.directory.map PlanDirEntry.slot
  slots.any (fun n => decide (15 < n)) || decide (slots.eraseDups.length < slots.length) || (r.directory.any fun e => decide (slotBytesAt mib < e.bytes))
    || (r.initial != 0xFF && decide (r.directory.length ≤ r.initial))

/-- Keys that may sign an image (R429): the owner's, and operator keys named in the applied image. At boot, where no image is applied yet, the operator
keys of another image bank count that the owner has signed (log entry 13). -/
def State.imageSigners (s : State) (i : Image) : List Digest :=
  let owner := s.sec.owners.getLast?
  owner.toList ++
    (if s.imgApplied then s.img.operatorKeys
     else ((s.nvm.img.toList.filterMap id).filter fun k => k != i && k.sig.valid && owner == some k.signer).flatMap fun k => k.records.operatorKeys)

/-- Every check of R464 that an image fails. -/
def State.imageCodes (s : State) (i : Image) : List Nat :=
  let ts := i.types.map (·.1)
  let r := i.records
  let field := i.types.all fun (t, f, _) => match imageTypes.find? fun e => e.1 == t with | some e => e.2 == f | none => true
  let known := i.types.all fun (t, _, o) => o || imageTypes.any fun e => e.1 == t
  let reserved : Bool := r.exportPolicy.toNat / 32 != 0 || r.sealMask.toNat / 32 != 0
  (if !i.headerOk || !field || !typesAscend ts || reserved then [0x1001] else []) ++ (if known then [] else [0x1002])
    ++ (if ts.eraseDups.length < ts.length then [0x1003] else []) ++ (if rangeBroken r then [0x1010] else [])
    ++ (if [1, 2, 4, 8, 16].contains r.p then [] else [0x1011]) ++ (if altBroken r then [0x1012] else [])
    ++ (if directoryBroken r s.nvm.mib then [0x1013] else []) ++ (if i.sig.valid then [] else [0x4001])
    ++ (if (s.imageSigners i).contains i.signer then [] else [0x4002]) ++ (if i.svn.toNat < s.sec.imageSvnMin then [0x4004] else [])

def minCode (l : List Nat) : Option Nat := l.foldl (fun (b : Option Nat) n => match b with | none => some n | some m => some (min m n)) none

/-! ## Firmware (R459) -/

/-- The code of a firmware bank that does not qualify. DESIGN CHOICE (log entry 125): one whose header is contrary to Table 16-4 does not verify. -/
def State.firmwareCode (s : State) (f : Firmware) : Nat :=
  if !f.headerOk || !f.sig.valid then 0x4001 else if f.signer != s.sec.romKey then 0x4002 else if f.svn < s.sec.fwSvnMin then 0x4004 else 0

/-- The rejections of the banks that a boot does not accept, each with its code: they fall in one cycle, and ERR_LAST_* describe the one with the
lowest code (R19, R429, R430, R464, R515). -/
def State.rejectBanks (s : State) (codes : List Nat) : State :=
  match minCode codes with
  | some m => ((codes.erase m).foldl (fun (t : State) c => t.reject c) s).reject m
  | none => s
/-- The codes of the firmware banks, and of the image banks, that do not pass: an erased bank has none. -/
def State.firmwareRejects (s : State) : List Nat :=
  s.nvm.fw.toList.filterMap fun f => f.bind fun f => if s.firmwareCode f = 0 then none else some (s.firmwareCode f)
def State.imageRejects (s : State) : List Nat := s.nvm.img.toList.filterMap fun i => i.bind fun i => minCode (s.imageCodes i)

/-- The bank that the ROM starts. -/
def State.pickFirmware (s : State) : Option (Fin 2) :=
  let ok (b : Fin 2) : Option Nat := match s.nvm.fw[b] with | some f => if s.firmwareCode f = 0 then some f.seq.toNat else none | none => none
  match ok 0, ok 1 with
  | some a, some b => if a < b then some 1 else some 0
  | some _, none => some 0
  | none, some _ => some 1
  | none, none => none

/-! ## Boot (R457, R458, Table 16-3) -/

/-- Everything that a reset leaves: NVM and journal halves, fuses, the identity, power and pins; a write cut short leaves its target unusable
(R467). -/
def State.afterReset (s : State) (dev : DevState) : State :=
  let nvm := match s.nvm.write with
    | some (.firmware b _) => { s.nvm with fw := s.nvm.fw.set b none, write := none, writer := none }
    | some (.image b _) => { s.nvm with img := s.nvm.img.set b none, write := none, writer := none }
    | some (.plan n _) => { s.nvm with plans := adel s.nvm.plans n, write := none, writer := none }
    | none => s.nvm
  { (State.reset) with
    pending := s.pending, dev, nvm, jnl := { half := s.jnl.half }, deviceId := s.deviceId, out := s.out
    sec := { owners := s.sec.owners, fwSvnMin := s.sec.fwSvnMin, epochs := s.sec.epochs, draws := s.sec.draws, uds := s.sec.uds, romKey := s.sec.romKey }
    pwr := { vin := s.pwr.vin, en := s.pwr.en, good := s.pwr.good, resetN := s.pwr.resetN, cap := s.pwr.cap, shut := s.pwr.shut } }

/-- The device address from straps and position (R43). -/
def addrOf (st : Straps) (pos : Nat) : Nat := st.rowY.toNat * 4096 + st.rowX.toNat * 128 + st.podId.toNat * 8 + pos % 8

/-- The device stays in BOOT with a code. -/
def State.bootStop (s : State) (code : Nat) : State := ({ s with bootCode := code }).report code .none

/-- The boot count of the last BOOT record. -/
def JnlSt.boots (x : JnlSt) : Nat := (x.act.recs.reverse.findSome? fun r => match r.body with | .boot n .. => some n | _ => none).getD 0

/-- The Vine master takes position 0 and enumerates (R374, R375). -/
def State.masterEnum (s : State) : State :=
  if s.straps.rootSel then
    ({ s with addr := addrOf s.straps 0, addrValid := true, vine := { s.vine with enumOut := true } } : State).send [.vine (.enum 1)]
  else s

/-- Boot steps 1 to 6 (Table 16-3). `torn`: replay meets a torn record. -/
def State.boot (s : State) (torn : Bool) : State :=
  if !s.nvm.fitted then s.bootStop 0x1040
  else if !s.nvm.answers then s.bootStop 0x1041
  else if !s.nvm.supported || !(s.nvm.mib == 128 || s.nvm.mib == 256) then s.bootStop 0x1042
  else
    let s1 := s.rejectBanks s.firmwareRejects
    match s1.pickFirmware with
    | none => s1.bootStop 0x1021
    | some b =>
      let s2 : State := { s1 with fwRun := some b, sec := { s1.sec with bootKey := Config.trng s1.sec.draws ++ Config.trng (s1.sec.draws + 1), challenge := Config.trng (s1.sec.draws + 2), draws := s1.sec.draws + 3 } }
      let (s3, init) := s2.replay torn
      let bits : Word := (if s3.jnl.torn then 32 else 0) ||| (if init then 64 else 0)
      let s4 : State := { s3 with jnlInit := init, err := { s3.err with sticky := s3.err.sticky ||| bits }, dev := .hold }
      let fw := (s4.nvm.fw[b].map Firmware.version).getD 0
      ((s4.journal (.boot (s4.jnl.boots + 1) b.val 0xFF fw.toNat init)) : State).masterEnum

/-- An internal restart (R460, R468): boot runs again without sampling the straps; the position is kept. -/
def State.internalRestart (s : State) : State :=
  let s1 : State := { (s.afterReset .boot) with straps := s.straps, addr := s.addr, addrValid := s.addrValid }
  s1.boot false

/-! ## Power and reset pins (R525 to R528) -/

def State.powerOff (s : State) : State := let t : State := { s with pwr := { s.pwr with good := false } }; t.afterReset .off

/-- Power is good when the input is in range, PWR_EN is high and no shutdown holds the converters off. -/
def State.powerOn (s : State) : State :=
  if s.pwr.vin && s.pwr.en && !s.pwr.shut && s.dev == .off then { s with dev := .reset, pwr := { s.pwr with good := true } } else s

/-- PWR_EN_RISE (R526, R534): soft start; after a thermal shutdown only when PWR_EN has been low for 100 ms. -/
def execPwrEnRise (lowMs : Nat) (s : State) : Host.Outcome State Fault Refusal :=
  .next (({ s with pwr := { s.pwr with en := true, shut := s.pwr.shut && decide (lowMs < 100) } } : State).powerOn)

/-- PWR_EN_FALL (R527). -/
def execPwrEnFall (s : State) : Host.Outcome State Fault Refusal :=
  .next (({ s with pwr := { s.pwr with en := false } } : State).powerOff)

/-- VIN_OUT_OF_RANGE (R525): PWR_GOOD falls and the device is OFF. -/
def execVinOutOfRange (s : State) : Host.Outcome State Fault Refusal :=
  .next (({ s with pwr := { s.pwr with vin := false } } : State).powerOff)

/-- VIN_RECOVERY (R525): the converters restart when PWR_EN is high. -/
def execVinRecovery (s : State) : Host.Outcome State Fault Refusal :=
  .next (({ s with pwr := { s.pwr with vin := true } } : State).powerOn)

/-- RESET_N_ASSERT (R457, R527). -/
def execResetNAssert (s : State) : Host.Outcome State Fault Refusal :=
  .next (
    let s1 : State := { s with pwr := { s.pwr with resetN := false } }
    if s.dev == .off then s1 else s1.afterReset .reset)

/-- RESET_N_RISE (R43, R457, R526, R528): straps are sampled and boot runs, when power is good; otherwise the edge is ignored. At the state after
reset the edge has come and the boot steps are still to run. -/
def execResetNRise (st : Straps) (nvmPresN torn : Bool) (s : State) : Host.Outcome State Fault Refusal :=
  .next (
    let s1 : State := { s with pwr := { s.pwr with resetN := true } }
    let starts : Bool := s.dev == .reset || (s.dev == .boot && s.fwRun.isNone && s.bootCode == 0)
    if !s.pwr.good || !starts then s1
    else ({ s1 with dev := .boot, straps := st, nvm := { s1.nvm with fitted := !nvmPresN } } : State).boot torn)

/-! ## Temperature and capping (R532 to R534) -/

/-- PWRCAP_N_FALL (R532). -/
def execPwrcapNFall (s : State) : Host.Outcome State Fault Refusal := .next { s with pwr := { s.pwr with cap := true } }
/-- PWRCAP_N_RISE (R532). -/
def execPwrcapNRise (s : State) : Host.Outcome State Fault Refusal := .next { s with pwr := { s.pwr with cap := false } }

/-- Whether the module watches its temperatures: THERM_ALERT_N is released in OFF and RESET (Table 19-8). -/
def State.powered (s : State) : Bool := s.dev != .off && s.dev != .reset

/-- THERM_ALERT (R532): a die or stack reaches the alert temperature. -/
def execThermAlert (s : State) : Host.Outcome State Fault Refusal :=
  .next (if s.powered then { s with pwr := { s.pwr with alert := true } } else s)
/-- THERM_ALERT_RELEASE (R532). -/
def execThermAlertRelease (s : State) : Host.Outcome State Fault Refusal := .next { s with pwr := { s.pwr with alert := false } }

/-- THERMAL_TRIP (R534): fault of device reach; DETAIL names the die, or 16 + stack; all issue stops. -/
def execThermalTrip (idx : Nat) (s : State) : Host.Outcome State Fault Refusal :=
  .next (if s.powered then (let t := s.faultDevice 0x6103 [idx]; { t with pwr := { t.pwr with trip := true } }) else s)

/-- THERMAL_SHUTDOWN (R534): the converters turn off. -/
def execThermalShutdown (s : State) : Host.Outcome State Fault Refusal :=
  .next (({ s with pwr := { s.pwr with shut := true } } : State).powerOff)

/-- HBM_UNCORRECTABLE (R392). -/
def execHbmUncorrectable (addr : Nat) (s : State) : Host.Outcome State Fault Refusal :=
  .next (if s.powered then s.faultDevice 0x6100 [addr] else s)
/-- SRAM_UNCORRECTABLE (R392). -/
def execSramUncorrectable (unit : Nat) (s : State) : Host.Outcome State Fault Refusal :=
  .next (if s.powered then s.faultDevice 0x6101 [unit] else s)

/-! ## Loading and unloading a plan (R353, R354, R516) -/

/-- A plan is loaded: programs with their descriptor pools on every core that they name, context counters at zero. -/
def State.loadPlan (s : State) (p : Plan) (entry : Nat) : State :=
  let pools := p.programs.foldl (fun m r =>
    r.cores.foldl (fun m n => memPutBytes m (scrAddr n r.poolBase) (r.pool.flatMap tdBytes)) m) s.mem
  ({ s with plan := some p, planEntry := entry, mem := pools, ctxCnt := Vector.replicate 8 (Vector.replicate 16 0) } : State).loadLowRank p.exch

/-- Nothing of a plan stays: no programs, jobs' work, requests or tables; a job keeps its attempt and what it committed. -/
def State.dropPlan (s : State) : State :=
  let d := State.reset
  { s with
    plan := none, planEntry := 0xFF, cores := d.cores, chans := [], lookups := [], bufs := [], former := d.former, loss := [], lossEarly := [], stemStall := d.stemStall, stages := [], accts := []
    busy := d.busy, capt := [], exch := [], shadowCopy := [], shadow := [], samples := [], fired := [], keys := [], reqs := [], batches := []
    undos := [], adapters := [], adapterHigh := [], masks := [], maskFree := [], summaries := [], openEntries := [], heldEntries := [], turns := []
    jobs := s.jobs.map fun (k, j) => (k, { attempt := j.attempt, committed := j.committed }) }

/-- Every context is removed: teacher shares are zero-filled, the Cellar with its summaries is released, and jobs keep only what the journal
records of them. The teacher region stays when the new plan declares it alike (R354). -/
def State.unloadPlan (s : State) (next : Option Plan) : State :=
  let s1 := (List.finRange 8).foldl State.zeroShare s
  let same : Bool := match s.plan, next with
    | some p, some q => ((p.regionOf .teacher).map fun r => (r.base, r.size)) == ((q.regionOf .teacher).map fun r => (r.base, r.size))
        && p.huskDigest == q.huskDigest
    | _, _ => false
  let s2 := if same then s1.returnStations else s1.unbind
  let s3 := match s2.plan.bind fun p => p.regionOf .cellar with
    | some r => { s2 with mem := memZero s2.mem r.base r.size }
    | none => s2
  s3.dropPlan

/-- The plan of a slot under a directory entry (R470): its code when it cannot be loaded; a slot that holds none does not match its DIGEST. -/
def State.libraryPlan (s : State) (i : Nat) : Except Nat Plan :=
  match s.img.directory[i]? with
  | none => .error 0x2161
  | some e => match aget s.nvm.plans e.slot with
    | none => .error 0x1031
    | some p => if p.digest = e.digest then .ok p else .error 0x1031

/-- Boot step 9 (R458): the INITIAL plan, or its code; without it the device has no plan. -/
def State.loadInitial (s : State) : State :=
  if s.img.initial = 0xFF then s
  else match s.libraryPlan s.img.initial with
    | .error _ => (s.reject 0x1031).report 0x1031 .none
    | .ok p => match verifyPlan p s.img (s.verifyEnv true) with
      | some (code, loc) => (s.reject code 0 loc).report code .none
      | none => s.loadPlan p s.img.initial

/-- Vine master: phase 1 gathers straps and states; a count other than N keeps the Pod out (R375, R380). -/
def State.startPhase1 (s : State) : State :=
  let s1 : State := { s with formation := { s.formation with phase := 1, joinable := if s.straps.rootSel then [0] else s.formation.joinable } }
  if !s.straps.rootSel || s.vine.stopped then s1
  else
    let bad : Bool := match s.vine.count with | some c => c != s.img.n | none => false
    let s2 := if bad then ({ s1 with formation := { s1.formation with code := 0x5010 } }).report 0x5010 .none else s1
    s2.send [.vine (.strap [s.straps]), .vine (.state [DevState.configured.code])]

/-- BOOT_CONFIGURE (R44, R457, R458 steps 8 to 10, R464 to R466): with a position, an image is selected, checked and applied, the initial
plan loaded and FW_SVN_MIN burned; without one, or without an owner, the device is SAFE. -/
def execBootConfigure (s : State) : Host.Outcome State Fault Refusal :=
  .next (
    if s.dev != .hold || !s.addrValid then s
    else
      let s := if s.sec.owners.isEmpty then s else s.rejectBanks s.imageRejects
      let ok (b : Fin 2) : Option (Fin 2 × Image) := match s.nvm.img[b] with
        | some i => if (s.imageCodes i).isEmpty then some (b, i) else none
        | none => none
      let pick := match ok 0, ok 1 with
        | some a, some b => if a.2.seq.toNat < b.2.seq.toNat then some b else some a
        | some a, none => some a
        | none, b => b
      match (if s.sec.owners.isEmpty then none else pick) with
      | none => { s with dev := .safe }
      | some (b, i) =>
        let r := i.records
        let s1 : State := { s with dev := .configured, img := r, imgApplied := true, imgRun := some b, pwr := { s.pwr with capW := r.capW } }
        let s2 := if s.sec.imageSvnMin < i.svn.toNat then s1.journal (.svnMin i.svn.toNat) else s1
        let s3 := s2.loadInitial
        let run := ((s3.fwRun.bind fun f => s3.nvm.fw[f]).map Firmware.svn).getD 0
        let s4 := if i.has 0x22 && r.fwSvnCommit == run then s3.inSec fun x => { x with fwSvnMin := max x.fwSvnMin (min 128 run) } else s3
        s4.startPhase1)

/-- KEY_DERIVATION (R458): identity and KEM keys are ready; Husks and signatures that wait go on. A Husk's frame is then answered. -/
def execKeyDerivation (s : State) : Host.Outcome State Fault Refusal :=
  .next (
    if s.fwRun.isNone || s.sec.keys then s
    else
      let held := s.sec.held
      let s1 := s.inSec fun x => { x with keys := true, held := [], identityKey := identityKeyBytes (Config.identitySeed x.uds)
                                          encapKey := encapKeyBytes x.uds, decapKey := decapKeyBytes x.uds }
      let s2 := held.foldl (fun (t : State) h =>
        let (u, code) := t.loadHusk h.husk false [h.husk.chunks]
        (if code = 0 then u else u.reject code 5).sendFrame h.session (.status 5 code 0x30 h.psn)) s1
      s2.signAll)

/-! ## Writing banks (R467 to R470) -/

/-- An image write is refused before anything is erased (R467). -/
def State.onImageBank (s : State) (i : Image) : State × Nat :=
  let applied := if s.imgApplied then (s.imgRun.bind fun b => s.nvm.img[b]).map Image.seq else none
  if applied.any fun q => decide (i.seq.toNat ≤ q.toNat) then (s, 0x1004)
  else if s.nvm.write.isSome then (s, 0x1005)
  else
    let b : Fin 2 := match s.imgRun with | some b => 1 - b | none => 0
    ({ s with nvm := { s.nvm with write := some (.image b i) } }, 0)

def State.onFwBank (s : State) (f : Firmware) : State × Nat :=
  if s.nvm.write.isSome then (s, 0x1005)
  else ({ s with nvm := { s.nvm with write := some (.firmware (match s.fwRun with | some b => 1 - b | none => 0) f) } }, 0)

/-- A slot that the applied image's directory names is in use (R470). -/
def State.onPlanSlot (s : State) (slot : Nat) (p : Plan) : State × Nat :=
  if s.nvm.write.isSome then (s, 0x1005)
  else if s.img.directory.any fun e => e.slot == slot then (s, 0x1032)
  else if 15 < slot then (s, 0x2024)
  else ({ s with nvm := { s.nvm with write := some (.plan slot p) } }, 0)

/-- The code of a completed write is given where the write came from. -/
def State.writeCode (s : State) (code kind : Nat) : State :=
  if code = 0 then s
  else match s.nvm.writer with
    | some (id, psn) => (s.reject code 7).sendFrame id (.status 7 code (kind * 2 ^ 24) psn)
    | none => s.reject code

/-- BANK_WRITE_COMPLETE (R460, R467 to R469): the whole target is verified; an image written in SAFE, and firmware written in BOOT, restart the
device. -/
def execBankWriteComplete (s : State) : Host.Outcome State Fault Refusal :=
  .next (
    let done (n : NvmSt) : State := { s with nvm := { n with write := none } }
    let fin (t : State) : State := { t with nvm := { t.nvm with writer := none } }
    match s.nvm.write with
    | none => s
    | some (.plan n p) => fin (done { s.nvm with plans := aput s.nvm.plans n p })
    | some (.firmware b f) =>
      let t := done { s.nvm with fw := s.nvm.fw.set b (some f) }
      let u := fin (t.writeCode (t.firmwareCode f) 1)
      if s.dev == .boot then u.internalRestart else u
    | some (.image b i) =>
      let t := done { s.nvm with img := s.nvm.img.set b (some i) }
      let code := (minCode (t.imageCodes i)).getD 0
      let u := fin (t.writeCode code 2)
      if s.dev == .safe && code == 0 then u.internalRestart else u)

/-! ## Switching plans, DRAIN and REJOIN (R353, R397, Tables 12-5, 16-2) -/

/-- Unload and load of a switch: the device is CONFIGURED with the new plan and its formation begins anew (Table 12-5). -/
def State.changePlan (s : State) (p : Plan) (k : Nat) : State :=
  ({ ((s.unloadPlan (some p)).loadPlan p k) with dev := .configured, switch := none, acquired := false, bt := {}, formation := {} } : State).startPhase1

/-- SWITCH (R353): the new plan is verified before the drain begins; the location of a plan rejection goes with its code.
A CONFIGURED device has no context to drain (log entry 14). -/
def State.onSwitch (s : State) (entry : Nat) : State × Nat × Nat :=
  let found : Except Nat (Plan × Nat) :=
    if entry = 0xFF then (match s.planRx with | some p => .ok (p, 0xFE) | none => .error 0x2161)
    else (s.libraryPlan entry).map fun p => (p, entry)
  if s.switch.isSome then (s, 0x2160, 0)
  else match found with
    | .error e => (s, e, 0)
    | .ok (p, k) => match verifyPlan p s.img (s.verifyEnv true) with
      | some (code, loc) => (s, code, loc)
      | none =>
        if s.dev == .configured then (s.changePlan p k, 0, 0)
        else ({ s with dev := .drain, switch := some (p, k), drainSince := s.beat }, 0, 0)

/-- DRAIN (R457): contexts finish; a device in which none executes has nothing to drain (log entry 14). -/
def State.onDrain (s : State) : State × Nat := if s.dev != .run then (s, 0) else ({ s with dev := .drain, drainSince := s.beat }, 0)

/-- HALT is left by REJOIN: sticky fault bits and the first fault record clear (R397, R514), and the device rejoins alone (R381). -/
def State.onRejoin (s : State) : State × Nat :=
  if s.dev != .halt then (s, 0x2002)
  else ({ s with dev := .configured, acquired := false, bt := {}
                 err := { s.err with sticky := s.err.sticky &&& 0xFFFFFFE0, first := none }
                 formation := { phase := 1, alone := true, joinable := s.formation.joinable, closed := s.formation.closed } }, 0)

/-- Whether every context has finished: no batch step in flight, no job running, no program in progress and no entry queued. A job that has not
started yet starts no more (R353). -/
def State.drained (s : State) : Bool :=
  s.batches.isEmpty && s.heldEntries.isEmpty && (s.jobs.all fun (_, j) => j.st != .running)
    && s.cores.all fun (_, k) => k.ctx.toList.all fun x => !x.running && x.queue.isEmpty

/-- The end of a drain (Table 12-5, Table 16-2): unfinished requests end; a switch unloads the old plan and loads the new one, and the device
rejoins; without one it is JOINED again. -/
def State.finishDrain (s : State) : State :=
  let s1 := (List.finRange 8).foldl (fun (t : State) c => t.endAll c 0x214C) s
  match s1.switch with
  | none => { s1 with dev := .joined }
  | some (p, k) => s1.changePlan p k

/-- DRAIN_COMPLETE (R353). -/
def execDrainComplete (s : State) : Host.Outcome State Fault Refusal :=
  .next (if s.dev == .drain && s.drained then s.finishDrain else s)

/-- DRAIN_TIMEOUT (R353): contexts still running at DRAIN_LIMIT halt with DRAIN_TIMEOUT; the drain then ends. DRAIN_LIMIT is the new plan's. -/
def execDrainTimeout (s : State) : Host.Outcome State Fault Refusal :=
  .next (
    let limit := match s.switch with | some (p, _) => p.acct.drainLimit | none => ((s.plan.map Plan.acct).getD {}).drainLimit
    if s.dev != .drain || decide (s.beat < s.drainSince + limit) then s
    else
      let busy (t : State) (c : Fin 8) : Bool :=
        (t.batches.any fun b => b.ctx == c) || ((t.jobOf c).any fun j => (t.jobSt j.job).st == .running)
          || t.cores.any fun (_, k) => k.ctx[c].running || !k.ctx[c].queue.isEmpty
      ((List.finRange 8).foldl (fun (t : State) c => if busy t c then t.faultCtx 0x6104 c [] else t) s).finishDrain)

end Sys2Proof.Machine
end

