-- ==== Sys2Proof/Machine/Vine.lean ====
section
/-!
DEFINITION. The Vine: enumeration, straps, states, the early beat, the location of a break, and bank transfer (R374 to R378, R460, R469, R471,
R472, R537, R538).
-/

namespace Sys2Proof.Machine

/-- The device drives VINE_CK. -/
def State.isMaster (s : State) : Bool := s.straps.rootSel && !s.vine.stopped

/-- Whether firmware, or the ROM without firmware, handles Vine frames (R460, R536). -/
def State.vineUp (s : State) : Bool := s.powered && (s.dev != .boot || s.bootCode == 0x1021)

def State.pos (s : State) : Nat := posOf s.addr
def State.sendVine (s : State) (f : VineFrame) : State := s.send [.vine f]

/-- The Vine master is CONFIGURED or later, its image and firmware in force. -/
def State.masterReady (s : State) : Bool :=
  s.isMaster && s.imgApplied && (s.dev == .configured || s.dev == .joined || s.dev == .run || s.dev == .drain || s.dev == .halt)

/-- A status code of formation is reported, and the lowest of phases 1 to 3 kept for the join record (Table 13-11). -/
def State.formReport (s : State) (code : Nat) (v : List Nat) : State :=
  let c := s.formation.code
  ({ s with formation := { s.formation with code := if c = 0 then code else min c code } }).report code (.info v)

/-- The master gathers straps and states (R375). -/
def State.gather (s : State) : State := (s.sendVine (.strap [s.straps])).sendVine (.state [s.dev.code])

/-- ENUM (R375, R471, R537): a device without a position takes NEXT; one that holds it confirms it; the master sees its own frame return; a
device with ROOTSEL asserted that receives another's frame forwards it unchanged and stops driving VINE_CK. -/
def execEnum (f : EnumIn) (s : State) : Host.Outcome State Fault Refusal :=
  let next := f.next
  .next (
    if !s.vineUp then s
    else if s.straps.rootSel then
      if !f.own then (({ s with vine := { s.vine with stopped := true, enumOut := false } }).formReport 0x5011 []).sendVine (.enum next)
      else if !s.isMaster || !s.vine.enumOut then s
      else
        let s1 : State := { s with vine := { s.vine with enumOut := false, brk := none, ping := none, count := some next } }
        if !s1.masterReady then s1
        else if next != s1.img.n then (s1.formReport 0x5010 [next]).gather
        else s1.gather
    else if s.addrValid then
      if next = s.pos then s.sendVine (.enum (next + 1)) else s.formReport 0x5010 [next]
    else if 7 < next then s.sendVine (.enum next)
    else ({ s with addr := addrOf s.straps next, addrValid := true } : State).sendVine (.enum (next + 1)))

/-- What the master finds wrong with the straps of a position: differing from its own, or beyond the Plot (R377). -/
def strapCodes (own : Straps) (r : ImageRecs) (x : Straps) : List Nat :=
  (if x.podId != own.podId || x.rowX != own.rowX || x.rowY != own.rowY then [0x5012] else [])
    ++ (if decide (r.p ≤ x.podId.toNat) || decide (r.x ≤ x.rowX.toNat) || decide (r.y ≤ x.rowY.toNat) then [0x5013] else [])

/-- STRAP (R375, R377): a position appends its entry; the master compares them. -/
def execStrap (entries : List Straps) (s : State) : Host.Outcome State Fault Refusal :=
  .next (
    if !s.vineUp then s
    else if s.isMaster then
      let s1 : State := { s with vine := { s.vine with straps := entries } }
      if !s1.masterReady then s1
      else entries.zipIdx.foldl (fun (t : State) (x, i) => (strapCodes s.straps s.img x).foldl (fun (u : State) c => u.formReport c [i]) t) s1
    else s.sendVine (.strap (entries ++ [s.straps])))

/-! ## States, joinability and bank transfer (R379, R376, R460, R469) -/

/-- A STATE code of a device that has reached CONFIGURED. -/
def codeJoinable (c : Nat) : Bool := decide (5 ≤ c) && decide (c ≤ 8)

/-- What the master sends to a position in BOOT or SAFE: its own running bank. -/
def State.vineBank (s : State) (image : Bool) : Option (List Byte) :=
  if image then (s.imgRun.bind fun b => s.nvm.img[b]).map Image.content else (s.fwRun.bind fun b => s.nvm.fw[b]).map Firmware.content

/-- Block k of a bank as an XFER frame: 1,024 bytes, the last one the remainder. -/
def xferBlock (image : Bool) (target : Nat) (bank : List Byte) (k : Nat) : Xfer :=
  let data := (bank.drop (1024 * k)).take 1024
  { image, last := decide (bank.length ≤ 1024 * (k + 1)), target, block := k, length := data.length, status := 0, data }

/-- The CRC-32 of IEEE 802.3. -/
def crc32 (l : List Byte) : Word :=
  let bit (c : Word) : Word := if c.getLsbD 0 then (c >>> 1) ^^^ 0xEDB88320 else c >>> 1
  ~~~(l.foldl (fun c b => (List.range 8).foldl (fun x _ => bit x) (c ^^^ b.setWidth 32)) 0xFFFFFFFF)

/-- An XFER frame from its TYPE byte through its data (Table 13-6). -/
def xferBytes (x : Xfer) : List Byte :=
  natBe 1 6 ++ natBe 1 ((if x.image then 2 else 1) + 128 * x.last.toNat) ++ natBe 1 x.target ++ [0] ++ natBe 4 x.block ++ natBe 2 x.length ++ [0, 0] ++ x.data

/-- The bytes of a Vine frame (Table 13-6), big-endian. -/
def vineBytes : VineFrame → List Byte
  | .enum n => natBe 1 1 ++ natBe 1 n ++ [0, 0]
  | .strap l => natBe 1 2 ++ natBe 1 l.length ++ [0, 0] ++ l.flatMap fun x =>
      natBe 4 (x.podId.toNat + x.rowX.toNat * 16 + x.rowY.toNat * 512 + x.rootSel.toNat * 16384)
  | .ebeat c => natBe 1 3 ++ [0, 0, 0] ++ natBe 8 c
  | .state l => natBe 1 4 ++ natBe 1 l.length ++ [0, 0] ++ l.flatMap (natBe 1)
  | .ping j => natBe 1 5 ++ natBe 1 j ++ [0, 0]
  | .xfer x => xferBytes x ++ natBe 4 (crc32 (xferBytes x)).toNat ++ natBe 1 x.status

/-- The master begins a transfer to the first position that needs one and has had none in this boot of its. -/
def State.beginXfer (s : State) : State :=
  if s.vine.tx.isSome || !s.masterReady then s
  else
    let need (e : Nat × Nat) : Bool := (e.1 == 2 || e.1 == 4) && e.2 != 0 && !s.vine.served.contains e.2
    match s.vine.states.zipIdx.find? need with
    | none => s
    | some (c, j) =>
      let image : Bool := c == 4
      match s.vineBank image with
      | none => s
      | some bank =>
        ({ s with vine := { s.vine with tx := some (image, j, 0, 0), served := s.vine.served ++ [j] } } : State).sendVine
          (.xfer (xferBlock image j bank 0))

/-- STATE (R375, R379): a position appends its state; position 0 comes first, so that every device sees whether it is joinable. The master
counts positions as joinable until JOIN_LIMIT, and serves those in BOOT or SAFE. -/
def execVineState (entries : List Nat) (s : State) : Host.Outcome State Fault Refusal :=
  .next (
    if !s.vineUp then s
    else
      let all := if s.isMaster then entries else entries ++ [s.dev.code]
      let found := (all.zipIdx.filter fun e => codeJoinable e.1).map (·.2)
      let served := s.vine.served.filter fun j => match all[j]? with | some c => c == 2 || c == 4 | none => true
      let joinable := if s.formation.closed then s.formation.joinable
        else s.formation.joinable ++ found.filter fun j => !s.formation.joinable.contains j
      let s1 : State := { s with vine := { s.vine with states := all, served }, formation := { s.formation with joinable } }
      if s.isMaster then s1.beginXfer else s1.sendVine (.state all))

/-- EBEAT (R378): before acquisition the count is the master's, with 40 ns for each position ahead. The period is that of the image, or the default
before one is applied. -/
def execEbeat (count : Nat) (s : State) : Host.Outcome State Fault Refusal :=
  .next (
    if !s.vineUp || s.isMaster then s
    else
      let p := 256 * 2 ^ s.img.beat.periodCode
      let ahead := 40 * s.pos
      let s1 : State := if s.acquired then s else { s with beat := count + ahead / p, phase := ahead % p }
      s1.sendVine (.ebeat count))

/-- What the target of an XFER frame answers (R376). -/
def State.xferStatus (s : State) (x : Xfer) (crc : Word) : Nat := if crc != crc32 (xferBytes x) then 2 else if x.block != s.vine.rxNext then 3 else 1

/-- The bank that blocks received one after another make up (R376): BYTES of its header says where the signature begins. -/
def readImage (l : List Byte) (g : BankSig) : Image :=
  let n := beField l 20 4
  { header := l.take 96, body := (l.take n).drop 96, signature := l.drop n, sig := g.sig }
def readFirmware (l : List Byte) (g : BankSig) : Firmware :=
  let n := beField l 20 4
  { header := l.take 64, code := (l.take n).drop 64, signature := l.drop n, signer := g.signer, sig := g.sig }

/-- Whether this device takes a bank over the Vine (R460, R469). -/
def State.takesBank (s : State) (x : Xfer) : Bool :=
  s.nvm.write.isNone && (if x.image then s.dev == .safe && !s.sec.owners.isEmpty else s.dev == .boot && s.bootCode == 0x1021)

/-- XFER (R376, R460, R469; `sig`: the judgement on the signature of the whole bank): the target checks and stores a block and overwrites STATUS; with the last accepted one the bank is written. The
master sends the next block, or repeats one up to 16 times. -/
def execXfer (x : Xfer) (crc : Word) (sig : BankSig) (s : State) : Host.Outcome State Fault Refusal :=
  .next (
    if !s.vineUp then s
    else if s.isMaster then
      match s.vine.tx with
      | none => s
      | some (image, j, k, reps) =>
        if x.image != image || x.target != j || x.block != k then s
        else
          let own := (s.vineBank image).getD []
          let set (v : Option (Bool × Nat × Nat × Nat)) : State := { s with vine := { s.vine with tx := v } }
          if x.status = 1 then
            if x.last then (set none).beginXfer else (set (some (image, j, k + 1, 0))).sendVine (.xfer (xferBlock image j own (k + 1)))
          else if 16 ≤ reps then (set none).beginXfer
          else (set (some (image, j, k, reps + 1))).sendVine (.xfer (xferBlock image j own k))
    else if s.addrValid && x.target == s.pos && s.takesBank x then
      let st := s.xferStatus x crc
      let got := (if x.block = 0 then [] else s.vine.rxData) ++ x.data
      let s1 : State :=
        if st ≠ 1 then s
        else if !x.last then { s with vine := { s.vine with rxNext := x.block + 1, rxData := got } }
        else
          let w : NvmWrite := if x.image then .image 0 (readImage got sig) else .firmware 0 (readFirmware got sig)
          { s with vine := { s.vine with rxNext := 0, rxData := [] }, nvm := { s.nvm with write := some w, writer := none } }
      s1.sendVine (.xfer { x with status := st })
    else s.sendVine (.xfer x))

/-! ## A broken chain (R472, R538) -/

/-- The break lies at the lowest position without an answer: the master reports it. -/
def State.vineBreak (s : State) (j : Nat) : State :=
  let s1 : State := { s with vine := { s.vine with ping := none, brk := some j }, err := { s.err with sticky := s.err.sticky ||| 128 } }
  s1.formReport 0x5015 [j]

/-- ENUM_TIMEOUT (R472): ENUM has not come back within 1 ms, and the master asks position 1; or the position asked has not answered. -/
def execEnumTimeout (s : State) : Host.Outcome State Fault Refusal :=
  .next (
    if !s.isMaster || !s.vineUp then s
    else match s.vine.ping with
      | some j => s.vineBreak j
      | none => if s.vine.enumOut then ({ s with vine := { s.vine with enumOut := false, ping := some 1 } } : State).sendVine (.ping 1) else s)

/-- ENUM_REPEAT (R472): every 100 ms while the ring is broken. -/
def execEnumRepeat (s : State) : Host.Outcome State Fault Refusal :=
  .next (
    if !s.isMaster || !s.vineUp || (s.vine.brk.isNone && s.vine.ping.isNone) then s
    else
      let s1 := match s.vine.ping with | some j => s.vineBreak j | none => s
      ({ s1 with vine := { s1.vine with enumOut := true } } : State).sendVine (.enum 1))

/-- PING (R376, R472, R538): every position forwards it; the one asked answers on POD_FAULT_N. -/
def execPing (j : Nat) (s : State) : Host.Outcome State Fault Refusal :=
  .next (
    if !s.vineUp || s.isMaster then s
    else
      let s1 := s.sendVine (.ping j)
      if s.addrValid && s.pos == j then s1.send [.podFault 64] else s1)

/-- POD_FAULT_N (R538): a low pulse of `cycles`, starting `start` cycles after the end of the master's PING. -/
def execPodFaultN (cycles start : Nat) (s : State) : Host.Outcome State Fault Refusal :=
  .next (
    if !s.isMaster || !s.vineUp then s
    else match s.vine.ping with
      | some j =>
        if 48 ≤ cycles && cycles ≤ 80 && start ≤ 16 then
          let n := if s.imgApplied then s.img.n else 8
          if n ≤ j + 1 then s.vineBreak (j + 1)
          else ({ s with vine := { s.vine with ping := some (j + 1) } } : State).sendVine (.ping (j + 1))
        else s.sendVine (.ping j)
      | none => if 200 ≤ cycles then s.sendVine (.state [s.dev.code]) else s)

/-- JOINABLE_LIMIT (R379): positions not yet CONFIGURED are not joinable; with neither position 0 nor POD_ALT joinable there is no Root. -/
def execJoinableLimit (s : State) : Host.Outcome State Fault Refusal :=
  .next (
    if !s.imgApplied || s.formation.closed then s
    else
      let s1 : State := { s with formation := { s.formation with closed := true } }
      let j := s1.formation.joinable
      let alt := decide (2 ≤ s.img.n) && j.contains s.img.beat.podAlt
      if s.isMaster && !j.contains 0 && !alt then s1.formReport 0x5014 [] else s1)

end Sys2Proof.Machine
end

