-- ==== Sys2Proof/Machine/Formation.lean ====
section
/-!
DEFINITION. Link discovery, join records, the acting Roots, lock records, the announcement and the entry to JOINED (R364, R379 to R387, R415).
-/

namespace Sys2Proof.Machine

/-! ## Ports and neighbours (R38 to R41, Table 13-9) -/

def mkAddr (pos pod x y : Nat) : Nat := pos + pod * 8 + x * 128 + y * 4096

/-- Keys (port × 8 + lane) of the ports that the topology requires of a device (R39 to R41). -/
def requiredPorts (r : ImageRecs) (a : Nat) : List Nat :=
  let p := posOf a
  let mesh := (List.range 7).filter fun k => decide ((if k < p then k else k + 1) < r.n)
  let seven := if p = 0 then (List.range r.n).filter (· ≠ 0) |>.map fun l => 7 * 8 + l else [7 * 8]
  mesh.map (· * 8) ++ (if r.n = 1 then [] else seven) ++ ((List.range 4).filter fun d => decide (2 ^ d < r.p)).map (fun d => (8 + d) * 8)
    ++ (if 1 < r.x then [12 * 8, 13 * 8] else []) ++ (if 1 < r.y then [14 * 8, 15 * 8] else [])

/-- The neighbour of a port, with its port and lane (Table 13-9). -/
def neighbour (r : ImageRecs) (a key : Nat) : Nat × Nat × Nat :=
  let (p, d, x, y) := (posOf a, podOf a, rowXOf a, rowYOf a)
  let port := key / 8
  let lane := key % 8
  if port < 7 then (if port < p then (mkAddr port d x y, p - 1, 0) else (mkAddr (port + 1) d x y, p, 0))
  else if port = 7 then (if p = 0 then (mkAddr lane d x y, 7, 0) else (mkAddr 0 d x y, 7, p))
  else if port < 12 then (mkAddr p (d ^^^ 2 ^ (port - 8)) x y, port, 0)
  else if port = 12 then (mkAddr p d ((x + 1) % r.x) y, 13, 0)
  else if port = 13 then (mkAddr p d ((x + r.x - 1) % r.x) y, 12, 0)
  else if port = 14 then (mkAddr p d x ((y + 1) % r.y), 15, 0)
  else (mkAddr p d x ((y + r.y - 1) % r.y), 14, 0)

/-- The delay limit of a port's medium in ns (R383). -/
def delayLimit (key : Nat) : Nat := if key / 8 < 8 then 15 else if key / 8 < 12 then 40 else 2000

def State.portSt (s : State) (key : Nat) : PortSt := (aget s.ports key).getD {}
def State.setPort (s : State) (key : Nat) (x : PortSt) : State := { s with ports := aput s.ports key x }

/-- Lanes of a port: one on port 7, eight elsewhere. -/
def lanesMask (key : Nat) : Nat := if key / 8 = 7 then 2 ^ (key % 8) else 255

def State.formed (s : State) : Bool := s.dev == .joined || s.dev == .run || s.dev == .drain

/-! ## The beat tree (R364, Table 13-3) -/

/-- The key of the mesh port of position p towards position q. -/
def meshKey (p q : Nat) : Nat := (if q < p then q else q - 1) * 8

/-- The key of the port on which a device takes the markers of its parent in the beat tree of an acting Plot Root. -/
def beatKey (r : ImageRecs) (origin a : Nat) : Option Nat :=
  let (p, d, x, y) := (posOf a, podOf a, rowXOf a, rowYOf a)
  if a = origin then none
  else if d ≠ podOf origin then some ((8 + (d ^^^ podOf origin).log2) * 8)
  else if y ≠ rowYOf origin then some ((if ringUp r.y y (rowYOf origin) then 15 else 14) * 8)
  else if x ≠ rowXOf origin then some ((if ringUp r.x x (rowXOf origin) then 13 else 12) * 8)
  else some (if posOf origin = 0 then 7 * 8 else meshKey p (posOf origin))

/-- The parent of a device in the beat tree of an acting Plot Root. -/
def beatParent (r : ImageRecs) (origin a : Nat) : Option Nat := (beatKey r origin a).map fun k => (neighbour r a k).1

/-- The position that this device takes for its acting Pod Root (Table 13-7): position 0 unless it is not joinable. -/
def State.podRootPos (s : State) : Nat :=
  if s.formation.joinable.contains 0 || !s.formation.closed || s.img.n = 1 then 0 else s.img.beat.podAlt
def State.podRootAddr (s : State) : Nat := s.addr / 8 * 8 + s.podRootPos

/-- The secondary upstream of position `p` of this pod (R364). -/
def State.secondaryOf (s : State) (p : Nat) : Option Nat :=
  let root := s.podRootPos
  if s.img.n < 2 then none
  else if p = root then some (if root = 0 then 1 else 0)
  else some root

/-- The key of the port on which position `p` of this pod takes the markers of its secondary upstream. -/
def State.secondaryKey (s : State) (p : Nat) : Option Nat :=
  (s.secondaryOf p).map fun q => if q = 0 && p != s.podRootPos then 7 * 8 else meshKey p q

/-- Every device one link away. -/
def State.neighbours (s : State) : List Nat := ((requiredPorts s.img s.addr).map fun k => (neighbour s.img s.addr k).1).eraseDups

/-- Children in the beat tree, and devices of the pod whose secondary upstream this device is. -/
def State.beatChildren (s : State) : List Nat := s.neighbours.filter fun a => beatParent s.img s.origin a == some s.addr
def State.secondaryChildren (s : State) : List Nat :=
  ((List.range s.img.n).filter fun p => s.secondaryOf p == some s.pos && p != s.pos).map fun p => s.addr / 8 * 8 + p

/-! ## Discovery (R382 to R384) -/

/-- The HELLO of this device on a port. -/
def State.helloOn (s : State) (key : Nat) : Out :=
  .hello (key / 8) (key % 8) { addr := s.addr, port := key / 8, lane := key % 8, joinable := s.dev != .safe && s.imgApplied, form := s.form }

/-- HELLO_SEND (R382): on every required port, in each ms of discovery. -/
def execHelloSend (s : State) : Host.Outcome State Fault Refusal :=
  .next (
    if s.formation.phase = 2 && s.dev == .configured then s.send ((requiredPorts s.img s.addr).map s.helloOn)
    else s)

/-- HELLO (R44, R382): the port verifies when the claimed address and port are those of Table 13-9; otherwise it is miswired. -/
def execHello (port lane : Nat) (h : Hello) (s : State) : Host.Outcome State Fault Refusal :=
  .next (
    let key := port * 8 + lane
    if !(requiredPorts s.img s.addr).contains key || !s.addrValid || !((s.dev == .configured && decide (2 ≤ s.formation.phase)) || s.formed) then s
    else
      let x := s.portSt key
      let near : Bool := h.addr / 8 == s.addr / 8 && h.joinable && !s.formation.closed && !s.formation.joinable.contains (posOf h.addr)
      let s1 : State := if near then { s with formation := { s.formation with joinable := s.formation.joinable ++ [posOf h.addr] } } else s
      if neighbour s.img s.addr key = (h.addr, h.port, h.lane) then
        let y := { x with st := if x.st = 6 then 6 else 2, lanes := lanesMask key, neigh := some h }
        let s2 := s1.setPort key y
        if x.st = 2 || x.st = 6 then s2 else s2.send [.probes port lane]
      else if x.st = 3 then s1.setPort key { x with neigh := some h }
      else (s1.setPort key { x with st := 3, lanes := lanesMask key, neigh := some h }).formReport 0x5020 [port, h.addr])

/-- LINK_DELAY_PROBE (R366, R383): the smallest round trip of 64 probes gives the delay; times are in 1/8 ns. -/
def execLinkDelayProbe (port lane roundTrip turnaround : Nat) (s : State) : Host.Outcome State Fault Refusal :=
  .next (
    let key := port * 8 + lane
    let x := s.portSt key
    if x.st ≠ 2 && x.st ≠ 6 then s
    else
      let best := match x.best with
        | some (r, t) => if roundTrip < r then (roundTrip, turnaround) else (r, t)
        | none => (roundTrip, turnaround)
      if x.probes + 1 < 64 then s.setPort key { x with best := some best, probes := x.probes + 1 }
      else
        let d := (best.1 - best.2) / 2
        let far : Bool := decide (8 * delayLimit key < d)
        let s1 := s.setPort key { x with delay := d, best := none, probes := 0, st := if far then 6 else 2 }
        if far && x.st != 6 then s1.formReport 0x5022 [port, d] else s1)

/-- The end of phase 2 (R384): a required port without HELLO is absent, or squelched towards a device that is excluded: one of the pod that is not
joinable, one outside it that `away` names, and for a device that rejoins alone one that the announcement listed. -/
def State.endDiscovery (s : State) (away : List Nat) : State :=
  (requiredPorts s.img s.addr).foldl (fun (t : State) key =>
    let x := t.portSt key
    if x.neigh.isSome then t
    else
      let (a, _, _) := neighbour t.img t.addr key
      let out : Bool := if a / 8 == t.addr / 8 then t.formation.closed && !t.formation.joinable.contains (posOf a)
        else away.contains a || (t.formation.alone && t.excluded.contains a)
      if out then t.setPort key { x with st := 0 } else (t.setPort key { x with st := 4 }).formReport 0x5021 [key / 8]) s

/-- The devices that a transfer from a to b passes, both ends included (Table 10-4). -/
def wayOf (im : ImageRecs) : Nat → Nat → Nat → List Nat
  | 0, a, _ => [a]
  | n + 1, a, b => if a = b then [a] else a :: wayOf im n (neighbour im a (portTo im a b * 8)).1 b

/-- The transfers of an exchange channel from device to device: from each member up the route of the owner and, when buckets are checked, that of the check
target, whose sum goes to the owner; parameters down again; lists of rows straight to the owner. -/
def State.exchLegs (s : State) (r : ExchRec) : List (Nat × Nat) :=
  let at_ (t b m : Nat) : Nat := s.coll t b (m / 2 ^ b * 2 ^ b)
  let up (t m : Nat) : List (Nat × Nat) := (m, at_ t 3 m) :: (List.range 14).map fun i => (at_ t (i + 3) m, at_ t (i + 4) m)
  let t := s.checkTarget r.owner
  if r.sparse then r.members.map fun m => (m, r.owner)
  else (r.members.flatMap fun m => up r.owner m ++ (up r.owner m).map Prod.swap)
    ++ if s.img.exch.checkShift ≤ 16 then (t, r.owner) :: r.members.flatMap (up t) else []

/-- The transfers of a job's commit tree, and those of its channels and hosted copies (R262, R400). -/
def treeLegs (j : JobRec) : List (Nat × Nat) := j.tree.flatMap fun e => [e, e.swap]
def State.dataLegs (s : State) (j : JobRec) : List (Nat × Nat) :=
  let chans := ((s.plan.map Plan.channels).getD []).filter fun r => (r.sender.toList ++ r.receiver.toList).any fun x => j.ctxMask.getLsbD x.ctx
  (s.jobChans j).flatMap s.exchLegs ++ (chans.flatMap fun r => r.peer.toList.flatMap fun a => [(s.addr, a), (a, s.addr)])
    ++ j.members.filterMap fun m => (j.members[m.2]?).map fun q => (m.1, q.1)

/-- Whether a job has a channel, a tree edge or a route over the link of a port to a neighbour, at any of its hops (R391); only tree edges use a port-7
sub-link (Table 1-8). -/
def State.jobOver (s : State) (j : JobRec) (port a : Nat) : Bool :=
  let crosses (e : Nat × Nat) : Bool :=
    let l := wayOf s.img 64 e.1 e.2
    (l.zip l.tail).any fun h => h == (s.addr, a) || h == (a, s.addr)
  (s.treeNeighbours j).contains a || (port != 7 && ((treeLegs j).any crosses || (s.dataLegs j).any crosses))

/-- LINK_DOWN (R392): a verified port loses lane lock while the device is JOINED, RUN or DRAIN; every job over the link faults. -/
def execLinkDown (port lane : Nat) (s : State) : Host.Outcome State Fault Refusal :=
  .next (
    let key := port * 8 + lane
    let x := s.portSt key
    if x.st ≠ 2 || !s.formed then s
    else
      let a := (neighbour s.img s.addr key).1
      let s1 := s.setPort key { x with st := 5, lanes := 0 }
      (((s1.plan.map Plan.jobs).getD []).foldl (fun (t : State) j =>
        if t.jobOver j port a && (t.jobSt j.job).st != .halted then
          match jobCtxs j with
          | c :: _ => t.faultCtx 0x6102 c [port, a]
          | [] => t
        else t) s1).pumpAll)

/-! ## Join records (R363, R385 to R387) -/

/-- The string of Table 13-10. FIELD_DIGEST and POLICY_DIGEST are taken over whole records, an omitted one at its defaults (R462, R463). -/
def State.digestInput (s : State) : List Byte :=
  let r := s.img
  let fw := ((s.fwRun.bind fun b => s.nvm.fw[b]).map Firmware.version).getD 0
  let im := s.imgRun.bind fun b => s.nvm.img[b]
  let fld := Config.sha256 ((im.map Image.fieldRecords).getD [])
  let policy := Config.sha256 ((im.map Image.policyRecord).getD [])
  natBe 4 fw.toNat ++ natBe 32 fld.toNat ++ natBe 32 ((s.plan.map Plan.digest).getD 0).toNat ++ natBe 32 policy.toNat
    ++ natBe 1 r.n ++ natBe 1 r.p ++ natBe 1 r.x ++ natBe 1 r.y ++ natBe 1 r.beat.periodCode ++ natBe 1 r.beat.source
    ++ natBe 1 r.beat.podAlt ++ natBe 1 r.beat.rowAlt ++ natBe 1 r.beat.plotAltX ++ natBe 1 r.beat.plotAltY ++ natBe 2 r.beat.excludeMax
    ++ List.replicate 4 0

def State.ownDigest (s : State) : Digest := Config.sha256 s.digestInput

def noneBad : Nat := 0xFFFFFFFF

/-- This device's own join record. -/
def State.ownJoin (s : State) : JoinRec :=
  { address := s.addr, devices := 1, excluded := 0, firstBad := noneBad, digest := s.ownDigest, beatHwm := s.jnl.hwm, code := s.formation.code }

/-- The combination of R386 at an aggregator. -/
def State.combineJoin (s : State) (l : List JoinRec) : JoinRec :=
  let own := s.ownDigest
  l.foldl (fun (c : JoinRec) r =>
    let bad := min (if r.digest = own then noneBad else r.address) r.firstBad
    { c with devices := c.devices + r.devices, excluded := c.excluded + r.excluded, beatHwm := max c.beatHwm r.beatHwm
             code := if c.code = 0 then r.code else if r.code = 0 then c.code else min c.code r.code
             firstBad := min c.firstBad bad })
    { address := s.addr, devices := 0, excluded := 0, firstBad := noneBad, digest := own, beatHwm := 0, code := 0 }

/-- Join records are kept by level (0 pod, 1 row, 2 plot) and by position, pod or row. -/
def joinKey (level i : Nat) : Nat := level * 2 ^ 17 + i
def State.putJoin (s : State) (level i : Nat) (r : JoinRec) : State :=
  { s with formation := { s.formation with recs := aput s.formation.recs (joinKey level i) r } }
def State.joinAt (s : State) (level i : Nat) : Option JoinRec := aget s.formation.recs (joinKey level i)

def rowNo (a : Nat) : Nat := a / 128
/-- Where a record for the acting Pod Root of a pod goes: to position 0 and to POD_ALT, of which the acting one takes it (log entry 63). -/
def State.headsOf (s : State) (pod : Nat) : List Nat :=
  (if s.img.n < 2 then [0] else [0, s.img.beat.podAlt]).map fun p => pod * 8 + p
/-- A level has neither its Root nor its alternate (R379). -/
def State.rootAbsent (s : State) : State := s.formReport 0x5014 []

/-- The row of PLOT_ALT. -/
def State.plotAltRow (s : State) : Nat := s.img.beat.plotAltX + 32 * s.img.beat.plotAltY

/-- The acting Plot Root's test (R362, R387): phase 4 begins, or the lowest code is reported and no device joins. -/
def State.decidePlot (s : State) (t : JoinRec) : State :=
  let f := s.formation
  let s1 : State := { s with formation := { f with total := some t, plotRoot := true } }
  let codes := (if t.firstBad ≠ noneBad then [0x5001] else []) ++ (if s.img.beat.excludeMax < t.excluded then [0x5002] else [])
    ++ (if t.code ≠ 0 then [t.code] else [])
  match minCode codes with
  | some c => ({ s1 with formation := { s1.formation with phase := 0 } } : State).report c (.join t)
  | none =>
    if t.devices + t.excluded = s.img.n * s.img.p * s.img.x * s.img.y then { s1 with formation := { s1.formation with phase := 4 } } else s1

/-- The Plot level: both candidates hold the records of every row, and the acting Plot Root is decided (Table 13-7). -/
def State.tryPlot (s : State) : State :=
  let rows := (List.range s.img.y).flatMap fun y => (List.range s.img.x).map fun x => x + 32 * y
  let recs := rows.filterMap fun i => s.joinAt 2 i
  if recs.length < rows.length || s.formation.sent.contains 2 then s
  else
    let s1 : State := { s with formation := { s.formation with sent := s.formation.sent ++ [2] } }
    let first := (s.joinAt 2 0).any fun r => r.address % 128 == 0
    let alt := if s.img.x * s.img.y = 1 then none else (s.joinAt 2 s.plotAltRow).map JoinRec.address
    match if first then some 0 else alt with
    | none => s1.rootAbsent
    | some root => if root = s.addr then s1.decidePlot (s1.combineJoin recs) else s1

/-- The Row level: both candidates hold the records of every pod; the acting Row Root sends the row's record to both Plot candidates. -/
def State.tryRow (s : State) : State :=
  let recs := (List.range s.img.p).filterMap fun i => s.joinAt 1 i
  if recs.length < s.img.p || s.formation.sent.contains 1 then s
  else
    let s1 : State := { s with formation := { s.formation with sent := s.formation.sent ++ [1] } }
    let first := (s.joinAt 1 0).any fun r => posOf r.address == 0
    let alt := if s.img.p = 1 then none else (s.joinAt 1 s.img.beat.rowAlt).map JoinRec.address
    match if first then some (s.addr / 128 * 128) else alt with
    | none => s1.rootAbsent
    | some root => if root ≠ s.addr then s1
    else
      let c := s1.combineJoin recs
      let s2 : State := { s1 with formation := { s1.formation with rowRoot := true } }
      let rows := if s.img.x * s.img.y = 1 then [0] else [0, s.plotAltRow]
      let s3 := if rows.contains (rowNo s.addr) then (s2.putJoin 2 (rowNo s.addr) c).tryPlot else s2
      let pods := if s.img.p = 1 then [0] else [0, s.img.beat.rowAlt]
      s3.send (((rows.filter (· != rowNo s.addr)).flatMap fun i => pods.flatMap fun d => s.headsOf (i * 16 + d)).map fun a => .join a c)

/-- The Pod level: the acting Pod Root holds the record of every joinable position, and sends the pod's record to both Row candidates. -/
def State.tryPod (s : State) : State :=
  if s.pos != s.podRootPos || s.formation.sent.contains 0 then s
  else
    let all := List.range s.img.n
    let ready := all.all fun p => (s.joinAt 0 p).isSome || (s.formation.closed && !s.formation.joinable.contains p)
    if !ready then s
    else
      let recs := all.filterMap fun p => s.joinAt 0 p
      let c := s.combineJoin recs
      let c := { c with excluded := c.excluded + (s.img.n - recs.length) }
      let s1 : State := { s with formation := { s.formation with sent := s.formation.sent ++ [0], podRoot := true } }
      let pods := if s.img.p = 1 then [0] else [0, s.img.beat.rowAlt]
      let s2 := if pods.contains (podOf s.addr) then (s1.putJoin 1 (podOf s.addr) c).tryRow else s1
      s2.send (((pods.filter (· != podOf s.addr)).flatMap fun d => s.headsOf (rowNo s.addr * 16 + d)).map fun a => .join a c)

/-- Whether this device is the acting Plot Root of a joined Plot. -/
def State.isOrigin (s : State) : Bool := s.origin == s.addr && s.formation.plotRoot

/-- JOIN_RECORD (R363, R381, R386, R387): held and combined towards the acting Plot Root. In a joined Plot it is that of a device that rejoins
alone: the acting Plot Root accepts it when it carries no code and its digest is equal. -/
def execJoinRecord (r : JoinRec) (s : State) : Host.Outcome State Fault Refusal :=
  .next (
    if s.formed then
      if !s.isOrigin then s.send [.join s.origin r]
      else if r.code ≠ 0 then s.report r.code (.join r)
      else if r.digest = s.ownDigest then
        { s with formation := { s.formation with accepted := if s.formation.accepted.contains r.address then s.formation.accepted
                                                              else s.formation.accepted ++ [r.address] } }
      else s.report 0x5001 (.join r)
    else if s.dev != .configured || s.formation.phase = 0 then s
    else if r.address / 8 = s.addr / 8 then (s.putJoin 0 (posOf r.address) r).tryPod
    else if rowNo r.address = rowNo s.addr then (s.putJoin 1 (podOf r.address) r).tryRow
    else (s.putJoin 2 (rowNo r.address) r).tryPlot)

/-! ## Phases (R380) -/

/-- FORMATION_PHASE_START (R380, R381, R382, R384): the phase after the one that ended begins on this device. From no phase a device rejoins
alone with phase 2, and goes from phase 3 to phase 5; its join record goes to its acting Pod Root, or from that device itself to the acting Plot Root.
The acting Plot Root enters phase 4 by its own decision alone. Formation and a rejoin acquire the beat anew. -/
def execFormationPhaseStart (ph : PhaseStart) (s : State) : Host.Outcome State Fault Refusal :=
  .next (
    let f := s.formation
    if s.dev != .configured || !s.addrValid then s
    else
      let vineOk : Bool := !s.isMaster || (s.vine.brk.isNone && s.vine.count == some s.img.n)
      match ph.phase with
      | 1 => if f.phase = 0 && !f.alone then ({ s with formation := {}, acquired := false, bt := {} } : State).startPhase1 else s
      | 2 =>
        if f.phase = 1 && (vineOk || f.alone) || f.phase = 0 then
          let s1 := (requiredPorts s.img s.addr).foldl (fun (t : State) k => t.setPort k { st := 1 }) s
          let s2 : State := { s1 with formation := { f with phase := 2, alone := f.alone || f.phase == 0, joinBeat := none }, acquired := false, bt := {} }
          s2.send ((requiredPorts s.img s.addr).map s2.helloOn)
        else s
      | 3 =>
        if f.phase != 2 then s
        else
          let s1 := s.endDiscovery ph.away
          let s2 : State := { s1 with formation := { s1.formation with phase := 3 } }
          let own := s2.ownJoin
          if f.alone then s2.send [.join (if s2.podRootAddr = s2.addr then s2.origin else s2.podRootAddr) own]
          else if s2.pos = s2.podRootPos then (s2.putJoin 0 s2.pos own).tryPod
          else s2.send [.join s2.podRootAddr own]
      | 4 => if f.phase = 3 && !f.alone && !f.plotRoot then { s with formation := { f with phase := 4 } } else s
      | 5 => if (f.phase = 4 && !f.plotRoot) || (f.phase = 3 && f.alone) then { s with formation := { f with phase := 5 } } else s
      | _ => s)

/-- JOIN_TIMEOUT (R362, R380): the limit of the phase under way runs out on this device, which stays out of JOINED. -/
def execJoinTimeout (s : State) : Host.Outcome State Fault Refusal :=
  .next (
    let f := s.formation
    if s.dev != .configured || f.phase = 0 || f.joinBeat.isSome then s
    else
      let code := if f.phase = 4 && f.plotRoot && !s.bt.source then 0x5030 else if f.phase = 5 && !s.bt.locked then 0x5032
        else if (f.phase = 2 || f.phase = 3) && f.code ≠ 0 then f.code else 0x5003
      ({ s with formation := { f with phase := 0 } } : State).report code (.info [f.phase]))

/-! ## Lock records and the announcement (R380, R381) -/

/-- Addresses of the Plot. -/
def State.plotAddrs (s : State) : List Nat :=
  (List.range s.img.y).flatMap fun y => (List.range s.img.x).flatMap fun x => (List.range s.img.p).flatMap fun d =>
    (List.range s.img.n).map fun p => mkAddr p d x y

/-- When every joinable device is locked, the acting Plot Root announces the join beat. -/
def State.tryAnnounce (s : State) : State :=
  let f := s.formation
  match f.total with
  | none => s
  | some t =>
    if f.locks.length < t.devices || t.devices + t.excluded != s.img.n * s.img.p * s.img.x * s.img.y || f.joinBeat.isSome || s.dev != .configured then s
    else
      let a : Announce := { joinBeat := s.beat + 4096, excluded := s.plotAddrs.filter fun d => !f.locks.contains d, form := s.form, origin := s.addr
                            only := none }
      let s1 : State := { s with formation := { f with joinBeat := some a.joinBeat }, excluded := a.excluded }
      s1.send (s1.beatChildren.map fun d => .announce d a)

/-- A lock record at a device: kept at the acting Plot Root, sent on towards it elsewhere. A device that rejoins alone gets a join beat of
its own. -/
def State.takeLocks (s : State) (l : List Nat) : State :=
  if !s.isOrigin then s.send [.locked s.origin l]
  else if s.formed then
    l.foldl (fun (t : State) d =>
      if !t.formation.accepted.contains d then t
      else
        let a : Announce := { joinBeat := t.beat + 4096, excluded := t.excluded.filter (· != d), form := t.form, origin := t.addr, only := some d }
        let f := t.formation
        ({ t with excluded := a.excluded
                  formation := { f with accepted := f.accepted.filter (· != d), failed := f.failed.filter (· != d)
                                        rejoined := (f.rejoined.filter fun e => e.1 != d) ++ [(d, t.beat)] } } : State).send [.announce d a]) s
  else
    let f := s.formation
    ({ s with formation := { f with locks := f.locks ++ l.filter fun d => !f.locks.contains d } } : State).tryAnnounce

/-- LOCK_RECORD (R380). -/
def execLockRecord (devices : List Nat) (s : State) : Host.Outcome State Fault Refusal :=
  .next (if (s.dev == .configured && s.acquired) || s.formed then s.takeLocks devices else s)

/-- Whether a neighbour's claimed address does not match (R44, R382). -/
def State.miswired (s : State) : Bool := (requiredPorts s.img s.addr).any fun k => (s.portSt k).st == 3

/-- ANNOUNCEMENT (R44, R380, R381): a locked device holds the join beat and passes the announcement down the beat tree; one that receives it after
the join beat has begun stays CONFIGURED, as does a device with a miswired port. -/
def execAnnouncement (a : Announce) (s : State) : Host.Outcome State Fault Refusal :=
  .next (
    let f := s.formation
    if a.only.any (· != s.addr) then
      if s.formed then { s with excluded := s.excluded.filter fun d => a.only != some d } else s
    else if s.dev != .configured || f.phase != 5 || !s.bt.locked || f.joinBeat.isSome || s.miswired then s
    else
      let s1 : State := if a.joinBeat ≤ s.beat then { s with formation := { f with phase := 0 } }
        else { s with formation := { f with joinBeat := some a.joinBeat }, excluded := a.excluded }
      if a.only.isSome then s1 else s1.send (s1.beatChildren.map fun d => .announce d a))

/-- A job at the entry to JOINED: its first start is offered; the coordinator takes roles on excluded devices as lost, and serves a RESTART that waits
(R373, R411, R415). -/
def State.joinJob (s : State) (j : JobRec) : State :=
  let s1 := if (s.jobSt j.job).st == .none then s.offerStart j else s
  let t := s1.jobSt j.job
  if s1.isOrigin && !t.started && (s1.isMember j || t.coord.view == .none) && ((j.members.any fun m => s1.excluded.contains m.1) || t.coord.request.isSome) then
    s1.assignPhase j true true (t.coord.request.getD {})
  else if s1.isOrigin && t.coord.view == .none then s1.setJob j.job { t with coord := { t.coord with view := .starting } }
  else s1

/-- The entry to JOINED (R373, R381, R385, R415, Table 16-10): ports towards excluded devices are squelched, a BEAT_MARK is journalled, jobs of
the plan are offered. -/
def State.enterJoined (s : State) : State :=
  let s1 : State := { s with dev := .joined, joinDigest := s.ownDigest, formation := { s.formation with phase := 0, joinBeat := none, alone := false } }
  let s2 := s1.ports.foldl (fun (t : State) (k, x) =>
    if t.excluded.contains (neighbour t.img t.addr k).1 then t.setPort k { x with st := 0, lanes := 0 } else t) s1
  let s3 := s2.journal .beatMark
  ((s3.plan.map Plan.jobs).getD []).foldl State.joinJob s3

/-- JOIN_BEAT (R380): every announced device enters JOINED in the join beat. -/
def execJoinBeat (s : State) : Host.Outcome State Fault Refusal :=
  .next (if s.dev == .configured && s.formation.joinBeat == some s.beat then s.enterJoined else s)

end Sys2Proof.Machine
end

