-- ==== Sys2Proof/Machine/Beat.lean ====
section
/-!
DEFINITION. The beat: its source, markers, failover, slips, and what each boundary does (R15, R347, R351, R356 to R372, R378, R475).
-/

namespace Sys2Proof.Machine

/-- The period in ns (Table 13-1). -/
def periodNs (code : Nat) : Nat := 256 * 2 ^ code
def State.period (s : State) : Nat := periodNs s.img.beat.periodCode

/-! ## The source of the acting Plot Root (R361 to R363) -/

/-- Whether this device acts as Plot Root of a formation in phase 4 or later. -/
def State.rootsBeat (s : State) : Bool := s.formation.plotRoot && ((s.dev == .configured && decide (4 ≤ s.formation.phase)) || s.formed)

/-- PTP_SYNC (R361, R484): a Sync interval's offset estimate in ns; the acting Plot Root with BEAT_SOURCE = PTP uses it, in its PTP domain. -/
def execPtpSync (domain : Nat) (offset : Int) (s : State) : Host.Outcome State Fault Refusal :=
  .next (
    if s.rootsBeat && s.img.beat.source == 2 && domain == s.img.ptpDomain then
      { s with bt := { s.bt with ptpRun := if offset.natAbs ≤ 100 then s.bt.ptpRun + 1 else 0 } }
    else s)

/-- Whether the source is locked (R361). -/
def State.sourceReady (s : State) : Bool :=
  match s.img.beat.source with
  | 0 => true
  | 1 => decide (8 ≤ s.bt.ppsRun)
  | _ => decide (16 ≤ s.bt.ptpRun)

/-- The start count (R363), none when a PTP count is not above the floor. -/
def startCount (source p hwm ptpNs : Nat) : Option Nat :=
  let f := (hwm + p - 1) / p
  if source = 2 then (if f < ptpNs / p then some (ptpNs / p) else none) else some (f + 2 ^ 24)

/-- SOURCE_LOCK_LOSS (R362): the Root holds its frequency, sets REF_LOST and counts. -/
def execSourceLockLoss (s : State) : Host.Outcome State Fault Refusal :=
  .next (
    if !s.rootsBeat || !s.bt.source || s.img.beat.source == 0 then s
    else
      let s1 : State := { s with bt := { s.bt with source := false, ppsRun := 0, ptpRun := 0, start := none, refLost := s.formed } }
      if s.formed then s1.count cntRefLoss else s1)

/-! ## Markers (R365 to R369) -/

/-- Whether the beat holds the device: it acquires, or is JOINED, RUN or DRAIN. -/
def State.onBeat (s : State) : Bool := (s.dev == .configured && s.formation.phase == 5) || s.formed

def State.primaryUp (s : State) (origin : Nat) : Option Nat := beatParent s.img origin s.addr
def State.secondaryUp (s : State) : Option Nat := (s.secondaryOf s.pos).map fun p => s.addr / 8 * 8 + p

/-- The marker that this device sends (Table 13-4). -/
def State.markerOut (s : State) : BeatMarker :=
  { secondary := s.bt.secondary, altRoot := s.origin != 0, refLost := s.bt.refLost, depth := s.bt.depth, periodCode := s.img.beat.periodCode
    origin := s.origin, beat := s.beat, form := s.form, sender := s.addr }

/-- Port, lane and address of each child in the beat tree and of each device whose secondary upstream this device is (Table 13-3). -/
def State.markerLinks (s : State) : List (Nat × Nat × Nat) :=
  let link (a k : Nat) : Nat × Nat × Nat := let (_, port, lane) := neighbour s.img a k; (port, lane, a)
  ((s.beatChildren.filterMap fun a => (beatKey s.img s.origin a).map (link a))
    ++ s.secondaryChildren.filterMap fun a => (s.secondaryKey (posOf a)).map (link a)).eraseDups

/-- Markers leave at each boundary whose count is a multiple of 16 (R365). -/
def State.sendMarkers (s : State) : State :=
  if s.beat % 16 = 0 && s.acquired && s.onBeat then s.send (s.markerLinks.map fun (port, lane, a) => .beatMarker port lane a s.markerOut) else s

/-- The acting Plot Root begins to count (R363, R380): its start count, FORM, and phase 5, in which its markers leave from the boundary of that
count on. -/
def State.startBeats (s : State) (b phase : Nat) : State :=
  let s1 : State := { s with beat := b, phase, acquired := true, origin := s.addr, form := s.form + 1
                             bt := { s.bt with source := true, locked := true, depth := 0, lastPri := b, start := none }
                             formation := { s.formation with phase := 5 } }
  let s2 := s1.takeLocks [s1.addr]
  if phase = 0 then s2.sendMarkers else s2

/-- SOURCE_LOCK (R361 to R363, R380): the acting Plot Root fixes the start count; on relock REF_LOST ends. Under PTP `ptpNs` is the PTP time, from whose
epoch the beats are counted; under FREE the boundary of the start count is this moment, and under REF it waits for the next 1 PPS edge. -/
def execSourceLock (ptpNs : Nat) (s : State) : Host.Outcome State Fault Refusal :=
  .next (
    if !s.rootsBeat || !s.sourceReady then s
    else if s.formed || s.formation.phase == 5 then { s with bt := { s.bt with source := true, refLost := false } }
    else if s.formation.phase != 4 then s
    else match s.formation.total with
      | none => s
      | some t => match startCount s.img.beat.source s.period t.beatHwm ptpNs with
        | none => ({ s with formation := { s.formation with phase := 0 } } : State).report 0x5031 (.join t)
        | some b =>
          if s.img.beat.source = 1 then { s with bt := { s.bt with source := true, start := some b } }
          else s.startBeats b (if s.img.beat.source = 2 then ptpNs % s.period else 0))

/-- BEAT_PPS_IN (R361, R539): an edge `err` ns from the prediction; only the acting Plot Root with BEAT_SOURCE = REF uses it, and the boundary of its
start count falls on it. -/
def execBeatPpsIn (err : Int) (s : State) : Host.Outcome State Fault Refusal :=
  .next (
    if !s.rootsBeat || s.img.beat.source != 1 then s
    else
      let s1 : State := { s with bt := { s.bt with ppsRun := if err.natAbs ≤ 10 then s.bt.ppsRun + 1 else 0 } }
      match s1.bt.start with
      | some b => if s1.formation.phase == 4 then s1.startBeats b 0 else s1
      | none => s1)

/-- When a marker left its sender, on this device's time base in 1/8 ns from beat 0: it arrives now, `frac` being the part of the stamp below 1 ns, over
a link of delay d (R366). -/
def State.leftAt (s : State) (d frac : Nat) : Int := 8 * ((s.beat * s.period + s.phase : Nat) : Int) + frac - d
/-- δ: the device's own start of beat b less that moment (R366). -/
def State.deviation (s : State) (b d frac : Nat) : Int := 8 * ((b * s.period : Nat) : Int) - s.leftAt d frac
/-- The device's own count for that boundary: the nearest one. -/
def State.ownCount (s : State) (d frac : Nat) : Int := (s.leftAt d frac + 4 * s.period).fdiv (8 * s.period)

/-- A joined device slips (R368, R369). -/
def State.slip (s : State) (detail : List Nat) : State := (s.faultDevice 0x5040 detail).pumpAll

/-- Whether a beat lies within 64 beats of now. -/
def State.recent (s : State) (b : Nat) : Bool := decide (s.beat < b + 64)

/-- The lock of phase 5: 1,024 consecutive markers within 50 ns, after which the device tells its Pod Root (R387). -/
def State.countLock (s : State) (near : Bool) : State :=
  let run := if near then s.bt.run + 1 else 0
  let s3 : State := { s with bt := { s.bt with run } }
  if s.bt.locked || run < 1024 then s3
  else
    let s4 : State := { s3 with bt := { s3.bt with locked := true } }
    let root := s4.podRootAddr
    s4.send [.locked (if root = s4.addr then s4.origin else root) [s4.addr]]

/-- A valid marker of the primary upstream (R361, R366, R368). -/
def State.primaryMarker (s : State) (m : BeatMarker) (dev : Int) (near : Bool) : State :=
  let back := if s.bt.secondary then s.bt.back + 1 else 0
  let bt := { s.bt with dev, depth := m.depth + 1, refLost := m.refLost, lastPri := s.beat, back, secondary := s.bt.secondary && decide (back < 16) }
  let apart : Bool := match s.bt.lastSec, s.bt.devSec with
    | some b, some e => s.recent b && decide (8 * s.period < 4 * (dev - e).natAbs)
    | _, _ => false
  let s2 : State := { s with bt }
  if s.formed then (if apart then s2.slip [s.addr, m.sender] else s2) else s2.countLock near

/-- A valid marker of the secondary upstream (R366, R368). -/
def State.secondaryMarker (s : State) (m : BeatMarker) (dev : Int) : State :=
  let s2 : State := { s with bt := { s.bt with lastSec := some s.beat, devSec := some dev } }
  let apart : Bool := s.recent s.bt.lastPri && decide (8 * s.period < 4 * (s.bt.dev - dev).natAbs)
  if s.formed && apart then s2.slip [s.addr, m.sender] else s2

/-- BEAT_MARKER (R364 to R369, R380): a marker arrives on a port; it counts as that of an upstream on the upstream's port. A device in phase 5 sets its
count and phase from its first primary marker, and locks after 1,024 consecutive markers within 50 ns. -/
def execBeatMarker (port lane : Nat) (m : BeatMarker) (frac : Fin 8) (s : State) : Host.Outcome State Fault Refusal :=
  .next (
    let key := port * 8 + lane
    let d := (s.portSt key).delay
    let dev := s.deviation m.beat d frac
    let origin := if s.acquired then s.origin else m.origin % 2 ^ 17
    let pri : Bool := s.primaryUp origin == some m.sender && beatKey s.img origin s.addr == some key && !m.secondary
    let sec : Bool := !pri && s.secondaryUp == some m.sender && s.secondaryKey s.pos == some key && !m.secondary
    if !s.onBeat || s.isOrigin || !(pri || sec) then s
    else if !s.acquired then
      if pri && m.periodCode == s.img.beat.periodCode then
        { s with beat := m.beat + d / 8 / s.period, phase := d / 8 % s.period, acquired := true, origin, form := m.form
                 bt := { s.bt with depth := m.depth + 1, refLost := m.refLost, lastPri := m.beat, run := 0 } }
      else s
    else
      let p8 := 8 * s.period
      let near : Bool := decide (dev.natAbs ≤ 400)
      let s0 := if near then s else s.count cntBeatExcess
      let s1 : State := if pri then { s0 with bt := { s0.bt with dev } } else s0
      let wild : Bool := decide (p8 < 4 * dev.natAbs) || (m.beat : Int) != s.ownCount d frac
      let other : Bool := m.periodCode != s.img.beat.periodCode || m.form != s.form || m.origin % 2 ^ 17 != s.origin
      if wild || other then
        if s.formed then s1.slip [s.addr, m.sender, s.beat, m.beat] else { s1 with bt := { s1.bt with run := 0 } }
      else
        if pri then s1.primaryMarker m dev near else s1.secondaryMarker m dev)

/-- Whether the secondary upstream delivers. -/
def State.secondaryAlive (s : State) : Bool := s.bt.lastSec.any s.recent

/-- BEAT_FAILOVER (R368): 64 beats without a valid primary marker: the device steers from its secondary upstream, or slips without one. -/
def execBeatFailover (s : State) : Host.Outcome State Fault Refusal :=
  .next (
    if !s.formed || s.isOrigin || s.bt.secondary || s.recent s.bt.lastPri then s
    else if s.secondaryAlive then ({ s with bt := { s.bt with secondary := true, back := 0 } } : State).count cntBeatFailover
    else s.slip [s.addr])

/-! ## The boundary (R356, R372) -/

/-- Requests whose beat counts towards QWAIT: those that no ring has left out of a composition of this beat (R351). -/
def State.countQwait (s : State) : State :=
  let s1 := s.reqs.foldl (fun (t : State) (_, x) => if x.ph.active && x.inStep.isNone && !x.ringOut then t.acctAdd x.client 8 8 1 else t) s
  { s1 with reqs := s1.reqs.map fun (k, x) => (k, { x with ringOut := false }) }

/-- The counters of events that no command names: bank conflicts, corrected errors, frames that the port discards, and the assignments that the
programs of a plan with a mixture-of-experts layer drop (R173, R392, R482, R516). -/
def unseenCounters (p : Option Plan) : List (Fin 21) :=
  [cntBankStall, cntEccCorr, cntEthDiscard] ++ (if (p.map Plan.moe).getD [] = [] then [] else [cntMoeDrop])

/-- The events of the beat that no command names are counted. -/
def State.countUnseen (s : State) : State := (unseenCounters s.plan).foldl (fun t c => t.count c (Config.unseen c.val t.beat)) s

/-- What the end of a beat counts, and the adapters that become LIVE in it (R173, R195, R238, R241, R303, R351, R392, R475). -/
def State.endBeat (s : State) : State :=
  let s1 := (((s.countUnseen).countStemStalls.countIdle).countQwait).settleLive
  if s1.jnl.waits then s1.count cntJnlWait else s1

/-- Every 65,536 beats the ends of each link probe its delay again (R366). -/
def State.probeLinks (s : State) : State :=
  if s.formed && s.beat % 65536 == 0 then
    s.send ((s.ports.filter fun e => e.2.st == 2 || e.2.st == 6).map fun e => .probes (e.1 / 8) (e.1 % 8))
  else s

/-- A joined device that no upstream reaches for 64 beats slips (R368). -/
def State.checkUpstreams (s : State) : State :=
  if s.formed && !s.isOrigin && !s.recent s.bt.lastPri && !s.secondaryAlive then s.slip [s.addr] else s

/-- The count increments and the phase returns to 0; what is keyed to every beat follows. The Vine master gives its count every 1,024 beats, which is
the early beat of the positions that have not acquired the Plot's (R378). -/
def State.nextBeat (s : State) : State :=
  let s1 := s.endBeat
  let s2 : State := { s1 with beat := (s1.beat + 1) % 2 ^ 64, phase := 0 }
  let s3 := s2.checkUpstreams
  let s4 := if s3.isMaster && s3.vineUp && s3.beat % 1024 == 0 then s3.sendVine (.ebeat s3.beat) else s3
  (s4.probeLinks.sendMarkers.runSchedule).pumpAll

/-- BEAT_BOUNDARY (R347, R356, R365, R368, R378). -/
def execBeatBoundary (s : State) : Host.Outcome State Fault Refusal := .next (if s.powered then s.nextBeat else s)

/-- DESIGN CHOICE (log entry 61): a step with no command is 1 ns of the time base. The phase advances, and at P the next beat begins (R356). -/
def State.tick (s : State) : State :=
  if !s.powered then s else if s.phase + 1 < s.period then { s with phase := s.phase + 1 } else s.nextBeat

/-- ACCOUNTING_WINDOW (R350): in the first beat of a window its bank is zero-filled. -/
def execAccountingWindow (s : State) : Host.Outcome State Fault Refusal :=
  .next (match s.plan with
    | none => s
    | some p =>
      if s.beat % p.acct.beats != 0 then s
      else { s with mem := memZero s.mem (s.scratchAt p.acct.off + s.beat / p.acct.beats % 2 * 131072) 131072 })

end Sys2Proof.Machine
end

