-- ==== Sys2Proof/Machine/EngineCmds.lean ====
section
/-!
DEFINITION. The instructions that pass to an engine: matrix (R112 to R115), vector (R116, R145 to R158), DMA and link (R117, R118), Stem
(R182). Each captures its descriptors and registers at issue (R104) and enters its queue. An instruction that does not exist on the type of
its core has no effect; the verifier admits none (0x3011).
-/

namespace Sys2Proof.Machine

/-- Issue of a matrix, link or Stem instruction on the cores that have it. -/
def engOut (a : Site) (p : Pred) (cnt : CntSel) (present : Bool) (mk : CtxSt → EngOp) (s : State) : Host.Outcome State Fault Refusal :=
  coreOut a.core (if present then s.issueEngine a p cnt mk else s)

def execMma (a : Site) (p : Pred) (tda tdb tdc : Fin 64) (set arr : Fin 2) (mode : AccMode) (cnt : CntSel) (s : State) :
    Host.Outcome State Fault Refusal :=
  engOut a p cnt (isSCore a.core || arr == 0) (fun x => .mma false x.td[tda] x.td[tdb] x.td[tdc] set arr mode) s

def execMmat (a : Site) (p : Pred) (tda tdb tdc : Fin 64) (set arr : Fin 2) (mode : AccMode) (cnt : CntSel) (s : State) :
    Host.Outcome State Fault Refusal :=
  engOut a p cnt (isSCore a.core) (fun x => .mma true x.td[tda] x.td[tdb] x.td[tdc] set arr mode) s

def execMtwin (a : Site) (p : Pred) (tdg tdw tdx : Fin 64) (set0 set1 : Fin 2) (acc0 acc1 : Bool) (cnt : CntSel) (s : State) :
    Host.Outcome State Fault Refusal :=
  engOut a p cnt (isSCore a.core) (fun x => .mtwin x.td[tdg] x.td[tdw] x.td[tdx] set0 set1 acc0 acc1) s

def execMrd (a : Site) (p : Pred) (tdc : Fin 64) (set arr : Fin 2) (cnt : CntSel) (gstep : Fin 32) (s : State) :
    Host.Outcome State Fault Refusal :=
  engOut a p cnt (isSCore a.core || arr == 0) (fun x => .mrd x.td[tdc] set arr (x.pair gstep)) s

def execMrdp (a : Site) (p : Pred) (tda tdc : Fin 64) (set arr : Fin 2) (cnt : CntSel) (_gstep : Fin 32) (s : State) :
    Host.Outcome State Fault Refusal :=
  engOut a p cnt (isSCore a.core || arr == 0) (fun x => .mrdp x.td[tda] x.td[tdc] set arr) s

def execMsav (a : Site) (p : Pred) (tdc : Fin 64) (set arr : Fin 2) (cnt : CntSel) (s : State) : Host.Outcome State Fault Refusal :=
  engOut a p cnt (isSCore a.core || arr == 0) (fun x => .msav x.td[tdc] set arr) s

def execDma (a : Site) (p : Pred) (td : Fin 64) (gh : Fin 32) (region : Fin 16) (toHbm : Bool) (hstride : BitVec 16) (cnt : CntSel)
    (s : State) : Host.Outcome State Fault Refusal :=
  engOut a p cnt true (fun x => .dma x.td[td] ((x.greg gh).toNat * 128) region toHbm hstride.toNat) s

def execLsend (a : Site) (p : Pred) (td : Fin 64) (chan : BitVec 16) (cnt : CntSel) (s : State) : Host.Outcome State Fault Refusal :=
  engOut a p cnt true (fun x => .lsend x.td[td] chan.toNat) s

def execLrecv (a : Site) (p : Pred) (td : Fin 64) (chan : BitVec 16) (cnt : CntSel) (s : State) : Host.Outcome State Fault Refusal :=
  engOut a p cnt true (fun x => .lrecv x.td[td] chan.toNat) s

/-- LRED: the source contributes to the reduction on an exchange channel (R118, R269). -/
def execLred (a : Site) (p : Pred) (td : Fin 64) (chan : BitVec 16) (cnt : CntSel) (s : State) : Host.Outcome State Fault Refusal :=
  engOut a p cnt true (fun x => .lred x.td[td] chan.toNat) s

/-- STSEND exists only on T-cores. -/
def execStsend (a : Site) (p : Pred) (td : Fin 64) (buffer : BitVec 16) (cnt : CntSel) (s : State) : Host.Outcome State Fault Refusal :=
  engOut a p cnt (!isSCore a.core) (fun x => .stsend x.td[td] buffer.toNat) s

/-- A VOP: operation code, B source, descriptors, GS, IMM16, step and active length as they stand at issue (R138, R140, R144). -/
def vop (op : VOpc) (present : Bool) (a : Site) (p : Pred) (o : VOp) (s : State) : Host.Outcome State Fault Refusal :=
  engOut a p o.cnt present (fun x =>
    .vop op o.bsrc x.td[o.tdd] x.td[o.tda] x.td[o.tdb] (x.greg o.gs) (o.gs != 0) o.imm16 x.vstep x.vl.toNat) s

def execVmov (a : Site) (p : Pred) (o : VOp) (s : State) : Host.Outcome State Fault Refusal :=
  vop 0x00 true a p o s
def execVadd (a : Site) (p : Pred) (o : VOp) (s : State) : Host.Outcome State Fault Refusal :=
  vop 0x01 true a p o s
def execVsub (a : Site) (p : Pred) (o : VOp) (s : State) : Host.Outcome State Fault Refusal :=
  vop 0x02 true a p o s
def execVmul (a : Site) (p : Pred) (o : VOp) (s : State) : Host.Outcome State Fault Refusal :=
  vop 0x03 true a p o s
def execVfma (a : Site) (p : Pred) (o : VOp) (s : State) : Host.Outcome State Fault Refusal :=
  vop 0x04 true a p o s
def execVmin (a : Site) (p : Pred) (o : VOp) (s : State) : Host.Outcome State Fault Refusal :=
  vop 0x05 true a p o s
def execVmax (a : Site) (p : Pred) (o : VOp) (s : State) : Host.Outcome State Fault Refusal :=
  vop 0x06 true a p o s
def execVabs (a : Site) (p : Pred) (o : VOp) (s : State) : Host.Outcome State Fault Refusal :=
  vop 0x07 true a p o s
def execVneg (a : Site) (p : Pred) (o : VOp) (s : State) : Host.Outcome State Fault Refusal :=
  vop 0x08 true a p o s
def execVclt (a : Site) (p : Pred) (o : VOp) (s : State) : Host.Outcome State Fault Refusal :=
  vop 0x09 true a p o s
def execVceq (a : Site) (p : Pred) (o : VOp) (s : State) : Host.Outcome State Fault Refusal :=
  vop 0x0A true a p o s
def execVsel (a : Site) (p : Pred) (o : VOp) (s : State) : Host.Outcome State Fault Refusal :=
  vop 0x0B true a p o s
def execVrint (a : Site) (p : Pred) (o : VOp) (s : State) : Host.Outcome State Fault Refusal :=
  vop 0x0C true a p o s
def execVperm (a : Site) (p : Pred) (o : VOp) (s : State) : Host.Outcome State Fault Refusal :=
  vop 0x28 true a p o s
def execVrcpe (a : Site) (p : Pred) (o : VOp) (s : State) : Host.Outcome State Fault Refusal :=
  vop 0x10 true a p o s
def execVrsqe (a : Site) (p : Pred) (o : VOp) (s : State) : Host.Outcome State Fault Refusal :=
  vop 0x11 true a p o s
def execVexp2f (a : Site) (p : Pred) (o : VOp) (s : State) : Host.Outcome State Fault Refusal :=
  vop 0x12 true a p o s
def execVlog2f (a : Site) (p : Pred) (o : VOp) (s : State) : Host.Outcome State Fault Refusal :=
  vop 0x13 true a p o s
def execVexp (a : Site) (p : Pred) (o : VOp) (s : State) : Host.Outcome State Fault Refusal :=
  vop 0x18 true a p o s
def execVexp2 (a : Site) (p : Pred) (o : VOp) (s : State) : Host.Outcome State Fault Refusal :=
  vop 0x19 true a p o s
def execVlog (a : Site) (p : Pred) (o : VOp) (s : State) : Host.Outcome State Fault Refusal :=
  vop 0x1A true a p o s
def execVlog2 (a : Site) (p : Pred) (o : VOp) (s : State) : Host.Outcome State Fault Refusal :=
  vop 0x1B true a p o s
def execVdiv (a : Site) (p : Pred) (o : VOp) (s : State) : Host.Outcome State Fault Refusal :=
  vop 0x1C true a p o s
def execVsqrt (a : Site) (p : Pred) (o : VOp) (s : State) : Host.Outcome State Fault Refusal :=
  vop 0x1D true a p o s
def execVrsqrt (a : Site) (p : Pred) (o : VOp) (s : State) : Host.Outcome State Fault Refusal :=
  vop 0x1E true a p o s
def execVrcp (a : Site) (p : Pred) (o : VOp) (s : State) : Host.Outcome State Fault Refusal :=
  vop 0x1F true a p o s
def execVsigmoid (a : Site) (p : Pred) (o : VOp) (s : State) : Host.Outcome State Fault Refusal :=
  vop 0x20 true a p o s
def execVtanh (a : Site) (p : Pred) (o : VOp) (s : State) : Host.Outcome State Fault Refusal :=
  vop 0x21 true a p o s
def execVsilu (a : Site) (p : Pred) (o : VOp) (s : State) : Host.Outcome State Fault Refusal :=
  vop 0x22 true a p o s
def execVgelu (a : Site) (p : Pred) (o : VOp) (s : State) : Host.Outcome State Fault Refusal :=
  vop 0x23 true a p o s
def execVrsum (a : Site) (p : Pred) (o : VOp) (s : State) : Host.Outcome State Fault Refusal :=
  vop 0x30 true a p o s
def execVrmax (a : Site) (p : Pred) (o : VOp) (s : State) : Host.Outcome State Fault Refusal :=
  vop 0x31 true a p o s
def execVsoftmax (a : Site) (p : Pred) (o : VOp) (s : State) : Host.Outcome State Fault Refusal :=
  vop 0x34 true a p o s
def execVlogsoftmax (a : Site) (p : Pred) (o : VOp) (s : State) : Host.Outcome State Fault Refusal :=
  vop 0x35 true a p o s
def execVrmsnorm (a : Site) (p : Pred) (o : VOp) (s : State) : Host.Outcome State Fault Refusal :=
  vop 0x36 true a p o s
def execVlnorm (a : Site) (p : Pred) (o : VOp) (s : State) : Host.Outcome State Fault Refusal :=
  vop 0x37 true a p o s
def execVdsigmoid (a : Site) (p : Pred) (o : VOp) (s : State) : Host.Outcome State Fault Refusal :=
  vop 0x38 (isSCore a.core) a p o s
def execVdtanh (a : Site) (p : Pred) (o : VOp) (s : State) : Host.Outcome State Fault Refusal :=
  vop 0x39 (isSCore a.core) a p o s
def execVdsilu (a : Site) (p : Pred) (o : VOp) (s : State) : Host.Outcome State Fault Refusal :=
  vop 0x3A (isSCore a.core) a p o s
def execVdgelu (a : Site) (p : Pred) (o : VOp) (s : State) : Host.Outcome State Fault Refusal :=
  vop 0x3B (isSCore a.core) a p o s
def execVdsoftmax (a : Site) (p : Pred) (o : VOp) (s : State) : Host.Outcome State Fault Refusal :=
  vop 0x3C (isSCore a.core) a p o s
def execVdrmsnorm (a : Site) (p : Pred) (o : VOp) (s : State) : Host.Outcome State Fault Refusal :=
  vop 0x3D (isSCore a.core) a p o s
def execVdlnorm (a : Site) (p : Pred) (o : VOp) (s : State) : Host.Outcome State Fault Refusal :=
  vop 0x3E (isSCore a.core) a p o s

end Sys2Proof.Machine
end

