-- ==== Sys2Proof/Machine/Regs.lean ====
section
/-!
DEFINITION. The register space as READ returns it (R506 to R517, Tables 18-1 to 18-10).
-/

namespace Sys2Proof.Machine

/-! ## Words of big-endian records (R510) -/

/-- Word n of a big-endian record: byte 4n in bits [31:24]; bytes beyond its end read 0. -/
def wordOf (l : List Byte) (n : Nat) : Nat := (List.range 4).foldl (fun v i => v * 256 + (l.getD (4 * n + i) 0).toNat) 0

def bit (b : Bool) (n : Nat) : Nat := if b then 2 ^ n else 0

/-- The record that stands at [base, base + size) as a register range. -/
def inRange (base size off : Nat) (l : List Byte) : Option Nat :=
  if base ≤ off && off < base + size then some (wordOf l ((off - base) / 4)) else none

/-! ## ID and STS (Tables 18-2, 18-3) -/

def strapsWord (x : Straps) (absent : Bool) : Nat :=
  x.podId.toNat + x.rowX.toNat * 2 ^ 4 + x.rowY.toNat * 2 ^ 9 + bit x.rootSel 14 + bit absent 15

def State.runningFw (s : State) : Option Firmware := s.fwRun.bind fun b => s.nvm.fw[b]
def State.appliedImage (s : State) : Option Image := if s.imgApplied then s.imgRun.bind fun b => s.nvm.img[b] else none

/-- STS_STATE (Table 18-3). -/
def State.stsState (s : State) : Nat :=
  let f := s.formation
  s.dev.code + bit s.plan.isSome 4 + bit (!s.sec.owners.isEmpty) 5 + bit s.sec.husk.isSome 6 + bit f.podRoot 8 + bit f.rowRoot 9 + bit f.plotRoot 10
    + bit ((f.podRoot && s.pos != 0) || (f.rowRoot && podOf s.addr != 0) || (f.plotRoot && rowNo s.addr != 0)) 11

/-- STS_JOBS: the state of the job holding each context. -/
def State.stsJobs (s : State) : Nat :=
  (List.finRange 8).foldl (fun v c => v + (match s.jobOf c with | some j => (s.jobSt j.job).st.code | none => 0) * 2 ^ (4 * c.val)) 0

def State.regId (s : State) (off : Nat) : Nat :=
  match off with
  | 0x0000 => 0xE1D10432
  | 0x0004 => 0x00000101
  | 0x0008 => ((s.runningFw.map Firmware.version).getD 0).toNat
  | 0x000C => (s.runningFw.map Firmware.svn).getD 0 % 2 ^ 16
  | 0x0010 => strapsWord s.straps (!s.nvm.fitted)
  | _ => (inRange 0x0020 32 off (if s.sec.keys then natBe 32 s.deviceId.toNat else [])).getD 0

def State.regSts (s : State) (off : Nat) : Nat :=
  match off with
  | 0x1000 => s.stsState
  | 0x1004 => s.addr + bit s.addrValid 31
  | 0x1008 => s.stsJobs
  | 0x100C => s.planEntry
  | _ => (inRange 0x1020 32 off (natBe 32 ((s.plan.map Plan.digest).getD 0).toNat)).getD 0

/-! ## CFG (Tables 16-7, 18-4) -/

/-- Register ranges of the record bodies: TYPE, base, bytes of the range. -/
def cfgRanges : List (Nat × Nat × Nat) :=
  [(0x10, 0x2100, 4), (0x11, 0x2110, 20), (0x12, 0x2130, 4), (0x13, 0x2140, 12), (0x14, 0x2150, 4), (0x15, 0x2160, 8), (0x16, 0x2170, 4), (0x22, 0x2180, 4),
   (0x30, 0x2190, 16), (0x31, 0x21A0, 4), (0x20, 0x2200, 264), (0x21, 0x2400, 520), (0x17, 0x2800, 648)]

/-- Register ranges of the record bodies: base, bytes of the range, body. -/
def cfgBodies (r : ImageRecs) : List (Nat × Nat × List Byte) :=
  cfgRanges.map fun (t, base, n) => (base, n, (((imageBodies r).find? fun e => e.1 == t).map (·.2)).getD [])

def State.regCfg (s : State) (off : Nat) : Nat :=
  if !s.imgApplied then 0
  else
    let im := s.appliedImage
    let seq := ((im.map Image.seq).getD 0).toNat
    match off with
    | 0x2000 => 1 + bit (s.imgRun == some 1) 1 + bit (s.fwRun == some 1) 2
    | 0x2004 => seq % 2 ^ 32
    | 0x2008 => seq / 2 ^ 32
    | 0x200C => ((im.map Image.svn).getD 0).toNat
    | _ =>
      match inRange 0x2020 32 off (natBe 32 ((im.map Image.digest).getD 0).toNat) with
      | some w => w
      | none => ((cfgBodies s.img).findSome? fun (base, n, l) => inRange base n off l).getD 0

/-! ## ERR and CNT (Tables 18-5 to 18-8) -/

def State.regErr (s : State) (off : Nat) : Nat :=
  if h : 0x3000 ≤ off ∧ off < 0x3020 then (s.flags[(off - 0x3000) / 4]'(by omega)).toNat
  else match off with
    | 0x3020 => s.err.sticky.toNat
    | 0x3024 => s.err.lastCode.toNat
    | 0x3028 => s.err.lastLoc.toNat
    | 0x3030 => s.err.lastBeat.toNat % 2 ^ 32
    | 0x3034 => s.err.lastBeat.toNat / 2 ^ 32
    | 0x3038 => s.err.rejectTotal.toNat
    | 0x303C => s.err.rejectNew.toNat
    | 0x3040 => s.err.faultCnt.toNat
    | _ => (inRange 0x3100 64 off ((s.err.first.map faultBytes).getD [])).getD 0

/-- A half of a 64-bit counter pair. -/
def half64 (v : DWord) (off : Nat) : Nat := if off % 8 = 0 then v.toNat % 2 ^ 32 else v.toNat / 2 ^ 32

def State.regCnt (s : State) (off : Nat) : Nat :=
  if h : 0x4000 ≤ off ∧ off < 0x40A8 then half64 (s.devCnt[(off - 0x4000) / 8]'(by omega)) off
  else if h : 0x4400 ≤ off ∧ off < 0x4800 then
    half64 ((s.ctxCnt[(off - 0x4400) / 128]'(by omega))[(off - 0x4400) % 128 / 8]'(by omega)) off
  else 0

/-! ## LNK, BEAT, SEC, JNL and PWR (Tables 18-9, 18-10) -/

/-- The lanes of a port that hold state, in ascending lane. -/
def State.portLanes (s : State) (n : Nat) : List PortSt := (s.ports.filter fun e => e.1 / 8 == n).map (·.2)

/-- LNK_PORT of a port; on port 7 of the Pod Root, the highest STATE and DELAY of its lanes. -/
def State.lnkPort (s : State) (n : Nat) : Nat :=
  let l := s.portLanes n
  l.foldl (fun v x => max v x.st) 0 + (l.foldl (fun v x => v ||| x.lanes) 0) * 2 ^ 4 + min 65535 (l.foldl (fun v x => max v x.delay) 0) * 2 ^ 16

/-- LNK_NEIGH of a port; on port 7 of the Pod Root, that of the lowest lane with a HELLO. -/
def State.lnkNeigh (s : State) (n : Nat) : Nat :=
  match (s.portLanes n).findSome? PortSt.neigh with
  | some h => h.addr % 2 ^ 17 + h.port % 16 * 2 ^ 17 + h.lane % 8 * 2 ^ 21 + 2 ^ 31
  | none => 0

def State.lnkEth (s : State) : Nat :=
  let e := s.eth
  (if e.up then (if e.mode400 then 3 else 2) else if e.moduleOk && s.powered then 1 else 0) + bit e.pfc.isSome 2 + (e.pfc.getD 0) % 8 * 8
    + bit e.present 6 + bit e.dpFault 7 + e.modState % 8 * 2 ^ 8 + e.dpState % 16 * 2 ^ 12

/-- Bytes in the reorder pool (R493). -/
def State.poolBytes (s : State) : Nat := s.sessions.foldl (fun n (_, x) => x.early.foldl (fun m e => m + e.f.length) n) 0

def State.regLnk (s : State) (off : Nat) : Nat :=
  if 0x5000 ≤ off && off < 0x5040 then s.lnkPort ((off - 0x5000) / 4)
  else if 0x5040 ≤ off && off < 0x5080 then s.lnkNeigh ((off - 0x5040) / 4)
  else match off with
    | 0x5080 => s.lnkEth
    | 0x5084 => (s.sessions.filter fun (_, x) => x.opened).length
    | 0x5088 => min 65535 (s.poolBytes / 1024)
    | _ => 0

/-- δ in 1/8 ns as a saturating 16-bit value. -/
def dev16 (d : Int) : Nat := (BitVec.ofInt 16 (max (-32768) (min 32767 d))).toNat

def State.regBeat (s : State) (off : Nat) : Nat :=
  let b := s.bt
  match off with
  | 0x6000 => s.beat % 2 ^ 32
  | 0x6004 => s.beat / 2 ^ 32
  | 0x6008 => s.phase
  | 0x600C => dev16 b.dev
  | 0x6010 => (if s.imgApplied then s.img.beat.periodCode + s.img.beat.source * 8 else 0) + bit s.acquired 5 + bit b.locked 6 + bit b.secondary 7
      + bit b.refLost 8 + b.depth % 256 * 2 ^ 16
  | 0x6014 => s.form % 2 ^ 32
  | 0x6018 => s.origin % 2 ^ 17
  | 0x6020 => s.jnl.hwm % 2 ^ 32
  | 0x6024 => s.jnl.hwm / 2 ^ 32
  | _ => 0

def State.regSec (s : State) (off : Nat) : Nat :=
  let x := s.sec
  match off with
  | 0x7000 => bit (!x.owners.isEmpty) 0 + bit x.husk.isSome 1 + bit x.leafLow 2 + bit x.leafExhausted 3 + bit (x.meters.any fun e => e.2.exhausted) 4 + bit x.keys 5
      + x.owners.length * 2 ^ 6
  | 0x7004 => x.epochs
  | 0x7008 => x.nextLeaf % 2 ^ 32
  | 0x700C => x.nextLeaf / 2 ^ 32
  | 0x7010 => x.fwSvnMin
  | 0x7014 => x.imageSvnMin
  | 0x7018 => x.meters.length
  | 0x701C => x.waiting.length
  | _ => 0

/-- SEQ of the last durable record. -/
def JnlSt.durable (x : JnlSt) : Nat := (x.act.recs.getLast?.map JnlRec.seq).getD x.act.snap

def State.regJnl (s : State) (off : Nat) : Nat :=
  let x := s.jnl
  if s.fwRun.isNone then 0
  else match off with
    | 0x8000 => x.active.val + bit x.compact.isSome 1 + bit (!x.queue.isEmpty) 2 + bit s.jnlInit 3
    | 0x8004 => x.act.fill
    | 0x8008 => x.act.gen % 2 ^ 32
    | 0x800C => x.act.gen / 2 ^ 32
    | 0x8010 => x.durable % 2 ^ 32
    | 0x8014 => x.durable / 2 ^ 32
    | _ => 0

def State.regPwr (s : State) (off : Nat) : Nat :=
  let x := s.pwr
  if h : 0x9020 ≤ off ∧ off < 0x9054 then x.temps[(off - 0x9020) / 4]'(by omega)
  else match off with
    | 0x9000 => bit x.good 0 + bit x.cap 1 + bit x.alert 2 + bit (x.cap || x.alert) 3
    | 0x9004 => x.capW
    | 0x9008 => x.mv
    | 0x900C => x.w
    | _ => 0

/-- The register at an offset; an offset that no table lists reads 0 (R506). -/
def State.reg (s : State) (off : Nat) : Nat :=
  match off / 0x1000 with
  | 0 => s.regId off
  | 1 => s.regSts off
  | 2 => s.regCfg off
  | 3 => s.regErr off
  | 4 => s.regCnt off
  | 5 => s.regLnk off
  | 6 => s.regBeat off
  | 7 => s.regSec off
  | 8 => s.regJnl off
  | 9 => s.regPwr off
  | _ => 0

/-! ## READ (R16, R17, R503, R507, R517) -/

/-- The measurements of PWR as last refreshed: input mV, input W and the thirteen temperatures; an empty list leaves them. -/
def State.refresh (s : State) (meas : List Nat) : State :=
  if meas.isEmpty then s
  else { s with pwr := { s.pwr with mv := meas.getD 0 0 % 2 ^ 16, w := meas.getD 1 0 % 2 ^ 13, temps := Vector.ofFn fun i => meas.getD (i.val + 2) 0 % 2 ^ 12 } }

/-- A READ: every register in one cycle; ERR_REJECT_NEW clears when it is among them. -/
def State.readRegs (s : State) (off count : Nat) : List Nat × State :=
  let offs := (List.range count).map fun i => off + 4 * i
  (offs.map s.reg, if offs.contains 0x303C then { s with err := { s.err with rejectNew := 0 } } else s)

/-- Whether a READ is rejected with REG_RANGE. -/
def readBad (off count : Nat) : Bool := off % 4 != 0 || count == 0 || decide (256 < count) || decide (0x10000 < off + 4 * count)

/-- The open OPERATOR session that reads registers (R503). DESIGN CHOICE (log entry 101): of several, the one of lowest SESSION issues the READ that
falls in the cycle of the rejections. -/
def State.reader (s : State) : Option Nat := (s.sessions.find? fun e => e.2.opened && e.2.authority == .operator).map (·.1)

/-- `n` rejections in one cycle: each is counted in ERR_REJECT_TOTAL, and ERR_REJECT_NEW counts on from `base`, saturating (R515). -/
def State.rejections (s : State) (base n : Nat) : State :=
  { s with err := { s.err with rejectNew := BitVec.ofNat 16 (min 0xFFFF (base + n)), rejectTotal := s.err.rejectTotal + BitVec.ofNat 32 n } }

/-- ERR_REJECT_NEW (R17): a READ of the field in the cycle of `events` rejections. The reply carries the value before them, and the field is left
holding their number, saturating. With no OPERATOR session open nothing reads, and the rejections count on. -/
def execErrRejectNew (events : Nat) (s : State) : Host.Outcome State Fault Refusal :=
  .next (match s.reader with
    | some id => (s.rejections 0 events).sendFrame id (.values [s.err.rejectNew.toNat])
    | none => s.rejections s.err.rejectNew.toNat events)

end Sys2Proof.Machine
end

