-- ==== Sys2Proof/Machine/Student.lean ====
section
/-!
DEFINITION. The stash controller and the appending of student layer entries; waiting parameter receipts (R213, R226, R227, R234, R238,
R239).
-/

namespace Sys2Proof.Machine

/-- Bytes of a stash unit (Table 8-4). -/
def unitBytes (r : StageRec) : Nat := 4096 * 2 ^ r.unitCode

/-- Arguments of a student layer entry (Table 8-1). -/
def layerArgs (step mb ibase slot : Nat) (recompute : Bool) (q : Nat) : List Word :=
  [BitVec.ofNat 32 (step % 2 ^ 20 * 2 ^ 12 + mb % 2 ^ 12), BitVec.ofNat 32 ibase, BitVec.ofNat 32 slot,
   BitVec.ofNat 32 ((if recompute then 1 else 0) + fslotOf q * 2 ^ 8)]

/-- An entry, which carries no KEY, is appended to every core of its stage; its completion waits for the last of them. The stash controller raises its
event with the entry's arguments (R347). -/
def State.appendAll (s : State) (cores : List Nat) (c : Fin 8) (e : StartEntry) : State :=
  let s1 := cores.foldl (fun (t : State) n => ({ t with keys := adel t.keys (8 * n + c.val) }).append ⟨n, c⟩ e) s
  (({ s1 with openEntries := s1.openEntries ++ [(e.tag, cores)] } : State).raiseEvent c .stash e.args .plain)

/-- Whether a context is halted on a core of a list. -/
def State.ctxHalted (s : State) (cores : List Nat) (c : Fin 8) : Bool := cores.any fun n => (s.ctxAt ⟨n, c⟩).halted

/-- Whether a run of n units from r is free of every live record of the stage. -/
def runFree (live : List LiveRec) (r n : Nat) : Bool :=
  live.all fun v => match v.run with
    | none => true
    | some b => decide (r + n ≤ b) || decide (b + v.units ≤ r)

/-- The lowest free run of n units. -/
def findRun (total : Nat) (live : List LiveRec) (n : Nat) : Option Nat :=
  (List.range (total + 1 - n)).find? fun r => decide (r + n ≤ total) && runFree live r n

/-- on_forward_append (R226) of a layer with internals: the live list after it, the base of the internals, and the demotions counted. `v` is the
new record, without units. -/
def allocForward : Nat → StageRec → List LiveRec → LiveRec → List LiveRec × Nat × Nat
  | 0, r, live, v => (live ++ [{ v with demoted := true }], r.rcBase, 1)
  | fuel + 1, r, live, v =>
    match findRun r.intUnits live v.units with
    | some b => (live ++ [{ v with run := some b }], r.intBase + b * unitBytes r, 0)
    | none => match live.findIdx? (fun w => w.run.isSome) with
      | none => (live ++ [{ v with demoted := true }], r.rcBase, 1)
      | some i =>
        let live' := live.mapIdx fun k w => if k = i then { w with run := none, demoted := true } else w
        let (lv, base, n) := allocForward fuel r live' v
        (lv, base, n + 1)

/-- The slot of a stage to which a micro-batch is bound. -/
def StageSt.boundSlot (x : StageSt) (q : Nat) : Option (Fin 2) := (x.bound.find? fun e => e.1 == q).map (·.2)

/-- Whether a layer of a stage runs its recovery entries: it writes or reads a tensor of an entry in recovery (R259). -/
def State.inRecovery (s : State) (r : StageRec) (l : LayerRec) : Bool :=
  l.tensors.any fun t => match s.histEntry t with
    | some i => (((s.ctxJob r.ctx).hist.getD i {})).recovering
    | none => false
/-- The forward and backward entries of a layer, in recovery or not. A micro-batch keeps those that its forward pass began with (R228). -/
def fwdIdx (l : LayerRec) (recov : Bool) : BitVec 12 := BitVec.ofNat 12 (if recov then l.recFwd.getD l.fwdEntry else l.fwdEntry)
def bwdIdx (l : LayerRec) (recov : Bool) : BitVec 12 := BitVec.ofNat 12 (if recov then l.recBwd.getD l.bwdEntry else l.bwdEntry)

/-- Whether an entry is the next of its stage's schedule, in a context whose schedule runs. -/
def State.entryDue (s : State) (r : StageRec) (fwd : Bool) (layer mb : Nat) : Bool :=
  s.ctxRuns r.ctx && (s.stageOrder r.stage)[(s.stage r.stage).pos]? == some ⟨r.stage, fwd, layer, mb⟩

/-- The stage's schedule moves on; after its last entry it begins again with the next step. -/
def State.nextEntry (s : State) (k : Nat) : State :=
  let x := s.stage k
  s.setStage k { x with pos := (x.pos + 1) % (s.stageOrder k).length }

/-- FORWARD_APPEND (R226, R234, R235, R239): the stash controller appends the forward entry of a layer, when it is the next of the stage's
schedule. The first entry of a micro-batch waits
for micro-batch q − 64 and for a CURRENT slot that serves its step, and binds the micro-batch to it. -/
def execForwardAppend (stage step mb layer : Nat) (s : State) : Host.Outcome State Fault Refusal :=
  .next (match s.stageRec stage, (s.stageLayers stage).find? (fun l => l.layer == layer) with
    | some r, some l =>
      let q := s.seqNo step mb
      let x := s.stage stage
      let first := s.firstFwd stage mb layer
      if s.ctxHalted r.cores r.ctx || !s.entryDue r true layer mb then s else
      let bind : Option (StageSt × Fin 2) := match x.boundSlot q with
        | some i => some (x, i)
        | none =>
          if first && !(decide (64 ≤ q) && (x.boundSlot (q - 64)).isSome) then
            (x.slotAt .current step).map fun i => ({ x with bound := x.bound ++ [(q, i)] }, i)
          else none
      match bind with
      | none => s
      | some (x1, i) =>
        let v : LiveRec := ⟨q, layer, none, l.units, false, s.inRecovery r l⟩
        let (live, base, dem) := if l.recompute then (x1.live ++ [v], r.rcBase, 0) else allocForward (x1.live.length + 1) r x1.live v
        let slot := r.slotOff + i.val * (r.slotBytes / 128)
        let s1 := (s.setStage stage { x1 with live }).acctForward r.ctx step mb
        let s2 := (s1.countCtx r.ctx ccStashDemote dem).mapAcct r.ctx fun a => { a with demote := a.demote + dem }
        (s2.appendAll r.cores r.ctx ⟨fwdIdx l v.recov, layerArgs step mb base slot false q, .forward stage step mb layer⟩).nextEntry stage
    | _, _ => s)

/-- BACKWARD_APPEND (R226, R227, R235): the backward entry of a layer, when it is the next of the stage's schedule, after its recomputation when the layer is RECOMPUTE or demoted. -/
def execBackwardAppend (stage step mb layer : Nat) (s : State) : Host.Outcome State Fault Refusal :=
  .next (match s.stageRec stage, (s.stageLayers stage).find? (fun l => l.layer == layer) with
    | some r, some l =>
      let q := s.seqNo step mb
      let x := s.stage stage
      if s.ctxHalted r.cores r.ctx || !s.entryDue r false layer mb then s else
      match x.boundSlot q, x.live.find? (fun v => v.q == q && v.layer == layer) with
      | some i, some v =>
        let slot := r.slotOff + i.val * (r.slotBytes / 128)
        let s1 := s.setStage stage { x with live := x.live.filter fun w => !(w.q == q && w.layer == layer) }
        let bwd (t : State) (base : Nat) : State :=
          t.appendAll r.cores r.ctx ⟨bwdIdx l v.recov, layerArgs step mb base slot false q, .backward stage step mb layer⟩
        match v.run with
        | some b => (bwd s1 (r.intBase + b * unitBytes r)).nextEntry stage
        | none =>
          let s2 := (s1.countCtx r.ctx ccRecompute).mapAcct r.ctx fun a => { a with recompute := a.recompute + 1 }
          let s3 := s2.appendAll r.cores r.ctx
            ⟨fwdIdx l v.recov, layerArgs step mb r.rcBase slot true q, .recompute stage step mb layer⟩
          (bwd s3 r.rcBase).nextEntry stage
      | _, _ => s
    | _, _ => s)

/-- RECEIPT_START (R238, R240): a receipt or FUU write that waits for a slot of the stage takes the FREE slot as SHADOW. -/
def execReceiptStart (stage : Nat) (s : State) : Host.Outcome State Fault Refusal :=
  let x := s.stage stage
  .next (match x.waiting with
    | none => s
    | some v => match x.shadowFor v with
      | some (x1, _) => s.setStage stage { x1 with waiting := none }
      | none => s)

end Sys2Proof.Machine
end

