-- ==== Sys2Proof/Machine/Transport.lean ====
section
/-!
DEFINITION. The Ethernet port and the Umyan transport: reception of frames, acknowledgement, delivery, objects, sessions and controls (R481 to
R504, Tables 17-1 to 17-7).
-/

namespace Sys2Proof

/-! ## Classes, targets and authorities (Tables 15-5, 17-3, 17-5) -/

/-- CLASS of the frame that carries a body. -/
def FrameBody.cls : FrameBody → Nat
  | .sample .. => 1
  | .req .. => 2
  | .ack .. => 4
  | .fwBank .. => 7
  | .imageBank .. => 7
  | .planSlot .. => 7
  | .planForSwitch .. => 7
  | .ckpt .. => 8
  | .read .. => 6
  | _ => 5

/-- TARGET of the frame that carries a body. -/
def FrameBody.target : FrameBody → Nat
  | .sample c slot _ _ => c * 2 ^ 29 + slot
  | .req c slot _ => c * 2 ^ 29 + slot
  | .ack c slot _ => c * 2 ^ 29 + slot
  | .prove .. => 0x03
  | .close => 0x05
  | .cancel .. => 0x10
  | .resume .. => 0x11
  | .switch .. => 0x20
  | .restart .. => 0x21
  | .rejoin => 0x22
  | .drain => 0x23
  | .ticket .. => 0x24
  | .storageKey .. => 0x25
  | .pfcSet .. => 0x26
  | .husk .. => 0x30
  | .huskRemove .. => 0x31
  | .meterGrant .. => 0x32
  | .adapterLoad .. => 0x40
  | .adapterRemove .. => 0x41
  | .maskLoad .. => 0x42
  | .maskRemove .. => 0x43
  | .summaryExport .. => 0x44
  | .summaryImport .. => 0x45
  | .summaryDrop .. => 0x46
  | .ownerTransfer .. => 0x51
  | .read .. => 0x02
  | .fwBank .. => 0x01000000
  | .imageBank .. => 0x02000000
  | .planSlot slot _ => 0x03000000 + slot
  | .planForSwitch .. => 0x04000000
  | .ckpt _ role _ _ _ _ => role

/-- Kinds of object (R500), and PROVE, whose blocks come in the same order (R489); none for a body of one frame. -/
def FrameBody.kind : FrameBody → Option Nat
  | .fwBank .. => some 1
  | .imageBank .. => some 2
  | .planSlot .. => some 3
  | .planForSwitch .. => some 4
  | .husk .. => some 5
  | .adapterLoad .. => some 6
  | .maskLoad .. => some 7
  | .summaryImport .. => some 8
  | .ckpt .. => some 9
  | .prove .. => some 10
  | _ => none

/-- What an authority permits (Table 15-5). -/
def FrameBody.permitted (b : FrameBody) (a : Authority) : Bool :=
  match b with
  | .close => true
  | .prove .. => true
  | .sample .. => a == .client
  | .req .. => a == .client
  | .ack .. => a == .client
  | .cancel .. => a == .client
  | .resume .. => a == .client
  | .huskRemove .. => a != .client
  | .meterGrant .. => a != .client
  | _ => a == .operator

/-- FRAME_MALFORMED (R488): a nonzero reserved field, a reserved CLASS, or LENGTH above 8,192. -/
def Frame.malformed (f : Frame) : Bool := !f.reservedOk || decide (8192 < f.length)

end Sys2Proof

namespace Sys2Proof.Machine

/-- Whether a device state accepts a body (Table 17-6, R504). -/
def DevState.accepts (d : DevState) (b : FrameBody) : Bool :=
  match b with
  | .close => d != .off && d != .reset
  | .prove .. => d != .off && d != .reset
  | _ =>
    match d with
    | .off => false
    | .reset => false
    | .boot => b.cls == 6
    | .hold => b.cls == 6
    | .safe => b.cls == 6 || b.cls == 7 || (b.cls == 5 && b.target == 0x51)
    | .configured => b.cls != 1 && b.cls != 2 && b.cls != 4 && !(b.cls == 5 && (b.target == 0x10 || b.target == 0x22))
    | .joined => !(b.cls == 5 && b.target == 0x22)
    | .run => !(b.cls == 5 && b.target == 0x22)
    | .drain => b.cls != 1 && b.cls != 2 && !(b.cls == 5 && b.target == 0x22)
    | .halt => b.cls == 6 || b.cls == 7 || (b.cls == 5 && (b.target == 0x22 || b.target == 0x24 || b.target == 0x25))

/-! ## Acknowledgement (R402, R491, R492, R494) -/

/-- Frames that a session accepts beyond ACK_PSN. -/
def rxWindow : Nat := 1 + Config.window % 1024

def setBit64 (n : Nat) (i : Nat) : Nat := if i < 64 then n ||| 2 ^ i else n

/-- ACK_MAP of a session: frames that wait in the reorder pool. -/
def SessionSt.ackMap (x : SessionSt) : DWord :=
  BitVec.ofNat 64 (x.early.foldl (fun n e => if x.rx + 2 ≤ e.f.psn then setBit64 n (e.f.psn - x.rx - 2) else n) 0)

/-- An ACK_ONLY frame leaves. -/
def State.sendAckOnly (s : State) (id : Nat) : State :=
  match s.session id with
  | none => s
  | some x =>
    if !s.eth.up || s.eth.paused then s
    else (s.setSession id { x with aoTx := x.aoTx + 1, owed := 0 }).send [.ackOnly id (x.aoTx + 1) x.rx x.ackMap]

/-- Whether ACK_MAP says that a data frame has been received. -/
def mapped (ackPsn : Nat) (m : DWord) (psn : Nat) : Bool := decide (ackPsn + 2 ≤ psn) && m.getLsbD (psn - ackPsn - 2)

/-- How many later frames ACK_MAP shows received. -/
def laterMapped (ackPsn : Nat) (m : DWord) (psn : Nat) : Nat :=
  ((List.range 64).filter fun i => m.getLsbD i && decide (psn < ackPsn + 2 + i)).length

/-- Exports whose every frame the operator has acknowledged are stored: the record is journalled and the bank is free (R402). -/
def State.checkStored (s : State) : State :=
  ((s.plan.map Plan.jobs).getD []).foldl (fun (t : State) j =>
    let x := t.jobSt j.job
    match x.exporting, x.exportTx with
    | some (v, _), some (id, last) =>
      match t.session id with
      | none => t
      | some q =>
        if q.tx.any fun f => decide (f.psn ≤ last) then t
        else
          let t1 := t.setJob j.job { x with exportTx := none }
          (t1.journal (.stored j.job v ((t.roleOf j).getD 0))).endExport j
    | _, _ => t) s

/-- The acknowledgement fields of a frame from the peer: acknowledged frames go, three later ones received cause one retransmission, and the
window may let waiting frames leave. -/
def State.takeAcks (s : State) (f : Frame) : State :=
  match s.session f.session with
  | none => s
  | some x =>
    let ack := min f.ackPsn (x.txNext - 1)
    let left := x.tx.filter fun t => !(t.sent && (decide (t.psn ≤ ack) || mapped ack f.ackMap t.psn))
    let again (t : TxFrame) : Bool := t.sent && !t.fast && decide (3 ≤ laterMapped ack f.ackMap t.psn)
    let out := (left.filter again).map fun t => Out.frame f.session t.psn t.what
    let tx := left.map fun t => if again t then { t with fast := true, retx := t.retx + 1 } else t
    let newer : Bool := decide (x.peerAck ≤ ack)
    let y := { x with tx, peerAck := max x.peerAck ack, peerWindow := if newer then f.window else x.peerWindow }
    let s1 := ((s.setSession f.session y).send out).count cntEthRetx out.length
    (s1.checkStored).flushTx f.session

/-! ## The reorder pool and PFC (R485, R493) -/

/-- A PFC frame leaves when the pool passes 75 % occupancy, and the pause is released below 50 %. -/
def State.poolPfc (s : State) : State :=
  let n := s.poolBytes
  if s.eth.pfc.isNone || !s.eth.up then s
  else if !s.eth.pausing && decide (3 * Config.poolBytes < 4 * n) then ({ s with eth := { s.eth with pausing := true } } : State).send [.pfc true]
  else if s.eth.pausing && decide (2 * n < Config.poolBytes) then ({ s with eth := { s.eth with pausing := false } } : State).send [.pfc false]
  else s

/-! ## Answers -/

/-- A STATUS notice for a frame. -/
def State.status (s : State) (f : Frame) (b : FrameBody) (code : Nat) : State :=
  s.sendFrame f.session (.status b.cls code b.target f.psn)

/-- The rejection of a frame: the error record, and a STATUS notice (R19, R496, R501). -/
def State.refuse (s : State) (f : Frame) (b : FrameBody) (code : Nat) (loc : Nat := 0) : State := (s.reject code b.cls loc).status f b code

/-- The answer to a handled frame: CTRL frames get one STATUS notice, others one when they are rejected. 0xFFFF stands for a frame whose
answer comes later. -/
def State.answer (f : Frame) (b : FrameBody) (r : State × Nat) : State :=
  if r.2 = 0xFFFF then r.1
  else if r.2 ≠ 0 then r.1.refuse f b r.2
  else if b.cls = 5 then r.1.status f b 0
  else r.1

/-! ## Handlers of this chapter -/

/-- The key under which a session's authority proof must verify, or the ticket it needs (R431, R432, Table 15-5). -/
def State.proofCode (s : State) (x : SessionSt) (proof : Proof) (sig : SigInfo) : Nat :=
  let keyOk : Bool := Config.sha256 proof.publicKey == x.key
  match x.authority with
  | .client => match aget s.sec.tickets x.client with
    | none => 0x4030
    | some k => if proof.mac = Config.hmac (digestBytes k) (digestBytes x.transcript) then 0 else 0x2012
  | .operator => if keyOk && sig.valid && (x.key == s.sec.owner && !s.sec.owners.isEmpty || s.img.operatorKeys.contains x.key) then 0 else 0x2012
  | .licensor => if keyOk && sig.valid && s.sec.husk.isSome && x.key == s.sec.licensor then 0 else 0x2012

/-- PROVE (R489, R503): OPEN answers; a failed proof removes the session; waiting reports and exports go to a new OPERATOR session. -/
def State.onProve (s : State) (f : Frame) (proof : Proof) (sig : SigInfo) : State :=
  match s.session f.session with
  | none => s
  | some x =>
    let code := s.proofCode x proof sig
    if code ≠ 0 then ((s.reject code 5).sendFrame f.session (.opened code)).closeSession f.session
    else
      let s1 := (s.setSession f.session { x with opened := true }).sendFrame f.session (.opened 0)
      if x.authority != .operator then s1
      else (s1.reports.foldl (fun (t : State) r => t.sendFrame f.session (.report r)) ({ s1 with reports := [] } : State)).pumpExports

/-- A CKPT object for the role of this device in a job that is not running (R413, R451). -/
def State.onCkpt (s : State) (job role : Nat) (exportId : Digest) (part : List Byte) (m : Option Manifest) (tags : List (BitVec 128)) :
    State × Nat :=
  match s.jobRec job with
  | none => (s, 0x2024)
  | some j =>
    let t := s.jobSt job
    if s.roleOf j != some role then (s, 0x2024)
    else match (s.ckptBase j).bind fun k => openExport k exportId (ckptLabel j) part tags with
      | none => (s, 0x4142)
      | some l => if t.st == .running then (s, 0) else (s.setJob job { t with extern := some l, externMan := m }, 0)

/-- PFC_SET (R485). -/
def State.onPfcSet (s : State) (on : Bool) (prio : Nat) : State × Nat :=
  if 7 < prio then (s, 0x2001)
  else if on then ({ s with eth := { s.eth with pfc := some prio } }, 0)
  else ({ s with eth := { s.eth with pfc := none, paused := false, pausing := false } }, 0)

/-- READ (R503, R507). -/
def State.onRead (s : State) (f : Frame) (off count : Nat) (meas : List Nat) : State × Nat :=
  if readBad off count then (s, 0x2050)
  else
    let (v, s1) := (s.refresh meas).readRegs off count
    (s1.sendFrame f.session (.values v), 0)

/-- The context that TARGET names. -/
def ctxOf (c : Nat) : Fin 8 := ⟨c % 8, Nat.mod_lt _ (by decide)⟩

/-- The write of a bank or slot that a frame has begun knows where its result goes (R467). -/
def withWriter (f : Frame) (r : State × Nat) : State × Nat :=
  if r.2 = 0 then ({ r.1 with nvm := { r.1.nvm with writer := some (f.session, f.psn) } }, 0) else r

/-- The unit that a whole body goes to. `slot`: the adapter slot that its object holds. -/
def State.handle (s : State) (f : Frame) (slot : Option Nat) (b : FrameBody) : State :=
  let id := f.session
  match b with
  | .sample c n sid data => State.answer f b (s.onSample id f (ctxOf c) n sid data)
  | .req c n data => State.answer f b (s.onReq id f (ctxOf c) n data)
  | .ack c n cons => State.answer f b (s.onAck id (ctxOf c) n cons)
  | .prove k g => s.onProve f k g
  | .close => (s.status f b 0).closeSession id
  | .cancel c n => State.answer f b (s.onCancel id (ctxOf c) n)
  | .resume c n => State.answer f b (s.onResume id (ctxOf c) n)
  | .switch e => (match s.onSwitch e with | (t, 0, _) => t.status f b 0 | (t, code, loc) => t.refuse f b code loc)
  | .restart j r v e l => State.answer f b (s.onRestart j r v e l)
  | .rejoin => State.answer f b s.onRejoin
  | .drain => State.answer f b s.onDrain
  | .ticket c k => State.answer f b (s.onTicket c k)
  | .storageKey k => State.answer f b (s.onStorageKey k)
  | .pfcSet on p => State.answer f b (s.onPfcSet on p)
  | .husk h => State.answer f b (s.onHusk id f.psn h)
  | .huskRemove h => State.answer f b (s.onHuskRemove id h)
  | .meterGrant g => State.answer f b (s.onMeterGrant id g)
  | .adapterLoad a => State.answer f b (s.onAdapterLoad slot a)
  | .adapterRemove i t => State.answer f b (s.onAdapterRemove i t)
  | .maskLoad i d => State.answer f b (s.onMaskLoad i d)
  | .maskRemove i => State.answer f b (s.onMaskRemove i)
  | .summaryExport c => State.answer f b (s.onSummaryExport id c)
  | .summaryImport e d t => State.answer f b (s.onSummaryImport e d t)
  | .summaryDrop c => State.answer f b (s.onSummaryDrop c)
  | .ownerTransfer n k g => State.answer f b (s.onOwnerTransfer n k g)
  | .read o n m => State.answer f b (s.onRead f o n m)
  | .fwBank w => State.answer f b (withWriter f (s.onFwBank w))
  | .imageBank i => State.answer f b (withWriter f (s.onImageBank i))
  | .planSlot n p => State.answer f b (withWriter f (s.onPlanSlot n p))
  | .planForSwitch p => { s with planRx := some p }
  | .ckpt j r e part m t => State.answer f b (s.onCkpt j r e part m t)

/-! ## Objects (R489, R500) -/

/-- The first block of an adapter load takes its slot (Table 11-9). -/
def State.beginObject (s : State) (k : Nat) (b : FrameBody) : State × Nat :=
  match b with
  | .adapterLoad a => (match s.beginAdapter a with | (t, some i) => (t, k + 16 * (i + 1)) | (t, none) => (t, k))
  | _ => (s, k)

/-- A block before the LAST one is noted; one that comes in a CTRL frame has its STATUS notice like any other (R501), but PROVE, which OPEN answers. -/
def State.noteBlock (s : State) (f : Frame) (x : SessionSt) (k : Nat) (b : FrameBody) (o : Nat × Nat) : State :=
  let t := s.setSession f.session { x with obj := some o }
  if b.cls = 5 && k != 10 then t.status f b 0 else t

/-- A frame of an object: its place in the series, and at LAST the unit that takes the object. -/
def State.block (s : State) (f : Frame) (x : SessionSt) (k : Nat) (b : FrameBody) : State :=
  let short : Bool := !f.last && f.length != 8192
  match x.obj with
  | some (cur, next) =>
    if cur % 16 != k then s.refuse f b 0x2042
    else if f.offset != next || short then (s.dropObject f.session).refuse f b 0x2041
    else if f.last then (s.setSession f.session { x with obj := none }).handle f x.loading b
    else s.noteBlock f x k b (cur, next + 1)
  | none =>
    if f.offset != 0 || short then s.refuse f b 0x2041
    else
      let (s1, cur) := s.beginObject k b
      if f.last then s1.handle f (if cur < 16 then none else some (cur / 16 - 1)) b
      else s1.noteBlock f x k b (cur, 1)

/-! ## Delivery (R488, R491, R504, R433) -/

/-- A data frame is delivered: its checks in order, then its object or unit. -/
def State.deliverFrame (s : State) (f : Frame) (b : FrameBody) : State :=
  match s.session f.session with
  | none => s
  | some x =>
    if !x.opened then
      if b.kind != some 10 then s else if f.malformed then s.refuse f b 0x2001 else s.block f x 10 b
    else if f.malformed then s.refuse f b 0x2001
    else if !s.dev.accepts b then s.refuse f b 0x2002
    else if !f.subtypeOk && (b.cls == 5 || b.cls == 6) || b.target == 3 && b.cls == 5 then s.refuse f b 0x2040
    else if !b.permitted x.authority then s.refuse f b 0x4003
    else match b.kind with
      | some k => s.block f x k b
      | none => s.handle f none b

/-- Delivered in order: ACK_PSN advances, the arrival is owed an acknowledgement, and the frame engine takes the frame. -/
def State.inOrder (s : State) (f : Frame) (b : FrameBody) : State :=
  match s.session f.session with
  | none => s
  | some x => (s.setSession f.session { x with rx := x.rx + 1, owed := x.owed + 1 }).deliverFrame f b

/-- Frames of a session that no gap holds back any longer leave the reorder pool. -/
def State.drainPool : Nat → State → Nat → State
  | 0, s, _ => s
  | n + 1, s, id =>
    match s.session id with
    | none => s
    | some x =>
      match x.early.find? fun e => e.f.psn == x.rx + 1 with
      | none => s
      | some e => State.drainPool n ((s.setSession id { x with early := x.early.filter fun y => y.f.psn != e.f.psn }).inOrder e.f e.body) id

/-- A session whose numbers reach 2^48 closes (R490); sixteen arrivals are acknowledged at once (R494). -/
def State.afterFrame (s : State) (id : Nat) : State :=
  match s.session id with
  | none => s
  | some x =>
    if 2 ^ 48 ≤ x.txNext || 2 ^ 48 ≤ x.aoTx then s.closeSession id
    else if 16 ≤ x.owed then s.sendAckOnly id
    else s

/-- A sealed data frame arrives (R488, R491 to R494): no port, no session or a failing tag leaves nothing but a count; then its
acknowledgement fields, unless it is malformed (R8), then its place in the sequence. A session that is not open takes no frame but PROVE (R489). -/
def State.receive (s : State) (f : Frame) (b : FrameBody) : State :=
  if !s.eth.up || !s.powered then s
  else match s.session f.session with
    | none => s.count cntEthAuth
    | some x0 =>
      if !f.tagOk then s.count cntEthAuth
      else if 2 ^ 48 ≤ f.psn then s.closeSession f.session
      else
        let s1 := if f.malformed then s else s.takeAcks f
        let x := (s1.session f.session).getD x0
        if !x.opened && b.kind != some 10 then s
        else if f.psn ≤ x.rx then s1.sendAckOnly f.session
        else if f.psn = x.rx + 1 then
          let s2 := s1.inOrder f b
          ((State.drainPool (x.early.length + 1) s2 f.session).poolPfc).afterFrame f.session
        else if x.rx + rxWindow < f.psn || decide (Config.poolBytes < s1.poolBytes + f.length) then s1
        else
          let kept := x.early.any fun e => e.f.psn == f.psn
          let s2 := if kept then s1 else s1.setSession f.session { x with early := x.early ++ [⟨f, b⟩] }
          (s2.poolPfc).sendAckOnly f.session

/-- What a data frame's command answers. -/
def State.frame (s : State) (f : Frame) (b : FrameBody) : Host.Outcome State Fault Refusal := .next (s.receive f b)

/-! ## Data frames, one command for each class or subtype -/

/-- SAMPLE (R495 to R497). -/
def execSample (f : Frame) (ctx slot sampleId : Nat) (data : List Byte) (s : State) : Host.Outcome State Fault Refusal :=
  s.frame f (.sample ctx slot sampleId data)
/-- REQ (R495 to R498). -/
def execReq (f : Frame) (ctx slot : Nat) (data : List Byte) (s : State) : Host.Outcome State Fault Refusal := s.frame f (.req ctx slot data)
/-- ACK (R499). -/
def execAck (f : Frame) (ctx slot cons : Nat) (s : State) : Host.Outcome State Fault Refusal := s.frame f (.ack ctx slot cons)
/-- PROVE (R489). -/
def execProve (f : Frame) (proof : Proof) (sig : SigInfo) (s : State) : Host.Outcome State Fault Refusal := s.frame f (.prove proof sig)
/-- CLOSE (R490). -/
def execClose (f : Frame) (s : State) : Host.Outcome State Fault Refusal := s.frame f .close
/-- CANCEL (R318). -/
def execCancel (f : Frame) (ctx slot : Nat) (s : State) : Host.Outcome State Fault Refusal := s.frame f (.cancel ctx slot)
/-- STREAM_RESUME (R498). -/
def execStreamResume (f : Frame) (ctx slot : Nat) (s : State) : Host.Outcome State Fault Refusal := s.frame f (.resume ctx slot)
/-- SWITCH (R353). -/
def execSwitch (f : Frame) (entry : Nat) (s : State) : Host.Outcome State Fault Refusal := s.frame f (.switch entry)
/-- RESTART (R407, R412). -/
def execRestart (f : Frame) (job : Nat) (replay : Bool) (vEnd : Nat) (ext : Option Nat) (excl : List Exclusion) (s : State) :
    Host.Outcome State Fault Refusal := s.frame f (.restart job replay vEnd ext excl)
/-- REJOIN (R397). -/
def execRejoin (f : Frame) (s : State) : Host.Outcome State Fault Refusal := s.frame f .rejoin
/-- DRAIN (Table 16-2). -/
def execDrain (f : Frame) (s : State) : Host.Outcome State Fault Refusal := s.frame f .drain
/-- TICKET (R432). -/
def execTicket (f : Frame) (client : Nat) (key : Digest) (s : State) : Host.Outcome State Fault Refusal := s.frame f (.ticket client key)
/-- STORAGE_KEY (R432). -/
def execStorageKey (f : Frame) (key : Digest) (s : State) : Host.Outcome State Fault Refusal := s.frame f (.storageKey key)
/-- PFC_SET (R485). -/
def execPfcSet (f : Frame) (on : Bool) (prio : Nat) (s : State) : Host.Outcome State Fault Refusal := s.frame f (.pfcSet on prio)
/-- HUSK (R439). -/
def execHusk (f : Frame) (h : Husk) (s : State) : Host.Outcome State Fault Refusal := s.frame f (.husk h)
/-- HUSK_REMOVE (R441). -/
def execHuskRemove (f : Frame) (id : Digest) (s : State) : Host.Outcome State Fault Refusal := s.frame f (.huskRemove id)
/-- METER_GRANT (R447). -/
def execMeterGrant (f : Frame) (g : Grant) (s : State) : Host.Outcome State Fault Refusal := s.frame f (.meterGrant g)
/-- ADAPTER_LOAD (R320). -/
def execAdapterLoad (f : Frame) (a : AdapterObj) (s : State) : Host.Outcome State Fault Refusal := s.frame f (.adapterLoad a)
/-- ADAPTER_REMOVE (R320). -/
def execAdapterRemove (f : Frame) (ident : Nat) (teacher : Bool) (s : State) : Host.Outcome State Fault Refusal :=
  s.frame f (.adapterRemove ident teacher)
/-- MASK_LOAD (R307). -/
def execMaskLoad (f : Frame) (id : Nat) (data : List Byte) (s : State) : Host.Outcome State Fault Refusal := s.frame f (.maskLoad id data)
/-- MASK_REMOVE (R307). -/
def execMaskRemove (f : Frame) (id : Nat) (s : State) : Host.Outcome State Fault Refusal := s.frame f (.maskRemove id)
/-- SUMMARY_EXPORT (R326). -/
def execSummaryExport (f : Frame) (conv : Nat) (s : State) : Host.Outcome State Fault Refusal := s.frame f (.summaryExport conv)
/-- SUMMARY_IMPORT (R326, R451): the sealed blocks of the object, and their tags. -/
def execSummaryImport (f : Frame) (exportId : Digest) (data : List Byte) (tags : List (BitVec 128)) (s : State) : Host.Outcome State Fault Refusal :=
  s.frame f (.summaryImport exportId data tags)
/-- SUMMARY_DROP (R325). -/
def execSummaryDrop (f : Frame) (conv : Nat) (s : State) : Host.Outcome State Fault Refusal := s.frame f (.summaryDrop conv)
/-- OWNER_TRANSFER (R428). -/
def execOwnerTransfer (f : Frame) (next signer : Digest) (sig : SigInfo) (s : State) : Host.Outcome State Fault Refusal :=
  s.frame f (.ownerTransfer next signer sig)
/-- READ (R503, R507, R517). `meas`: the measurements of Table 18-9 of this moment. -/
def execRead (f : Frame) (off count : Nat) (meas : List Nat) (s : State) : Host.Outcome State Fault Refusal := s.frame f (.read off count meas)
/-- FIRMWARE_BANK (R467). -/
def execFirmwareBank (f : Frame) (fw : Firmware) (s : State) : Host.Outcome State Fault Refusal := s.frame f (.fwBank fw)
/-- IMAGE_BANK (R467). -/
def execImageBank (f : Frame) (i : Image) (s : State) : Host.Outcome State Fault Refusal := s.frame f (.imageBank i)
/-- PLAN_SLOT (R470). -/
def execPlanSlot (f : Frame) (slot : Nat) (p : Plan) (s : State) : Host.Outcome State Fault Refusal := s.frame f (.planSlot slot p)
/-- PLAN_FOR_SWITCH (R353, R501). -/
def execPlanForSwitch (f : Frame) (p : Plan) (s : State) : Host.Outcome State Fault Refusal := s.frame f (.planForSwitch p)
/-- CKPT (R413, R451, R500): the sealed blocks of the part, and their tags. -/
def execCkpt (f : Frame) (job role : Nat) (exportId : Digest) (part : List Byte) (m : Option Manifest) (tags : List (BitVec 128)) (s : State) :
    Host.Outcome State Fault Refusal := s.frame f (.ckpt job role exportId part m tags)

/-! ## Acknowledgement frames and timers (R490, R492, R494) -/

/-- ACK_ONLY (R494): discarded unless its PSN is above the last one accepted; a malformed one is rejected and not accepted (R8, R19, R488). -/
def execAckOnly (f : Frame) (s : State) : Host.Outcome State Fault Refusal :=
  .next (if !s.eth.up || !s.powered then s
    else match s.session f.session with
      | none => s.count cntEthAuth
      | some x =>
        if !f.tagOk then s.count cntEthAuth
        else if 2 ^ 48 ≤ f.psn then s.closeSession f.session
        else if f.psn ≤ x.aoRx then s
        else if f.malformed then
          (s.reject 0x2001 4).sendFrame f.session (.status 4 0x2001 0xFFFFFFFF f.psn)
        else (s.setSession f.session { x with aoRx := f.psn }).takeAcks f)

/-- ACK_ONLY_SEND (R494): 2 µs have passed since an arrival that nothing has acknowledged. -/
def execAckOnlySend (session : Nat) (s : State) : Host.Outcome State Fault Refusal :=
  .next (match s.session session with
    | none => s
    | some x => if x.owed = 0 then s else (s.sendAckOnly session).afterFrame session)

/-- RETRANSMIT_TIMEOUT (R492): the frame goes again, or after sixteen retransmissions the session is lost. -/
def execRetransmitTimeout (session psn : Nat) (s : State) : Host.Outcome State Fault Refusal :=
  .next (match s.session session with
    | none => s
    | some x => match x.tx.find? fun t => t.psn == psn && t.sent with
      | none => s
      | some t =>
        if 16 ≤ t.retx then ((s.closeSession session).reject 0x2013).report 0x2013 .none
        else if !s.eth.up || s.eth.paused then s
        else ((s.setSession session { x with tx := x.tx.map fun u => if u.psn = psn then { u with retx := u.retx + 1 } else u }).send
          [.frame session psn t.what]).count cntEthRetx)

/-- SESSION_IDLE_TIMEOUT (R490): 60 s of local time without a valid frame. -/
def execSessionIdleTimeout (session : Nat) (s : State) : Host.Outcome State Fault Refusal := .next (s.closeSession session)

def SignReq.isAccept : SignReq → Bool
  | .accept .. => true
  | .report .. => false

/-- Codes of AUTHORITY (R489). -/
def authorityCode : Authority → Nat
  | .operator => 1
  | .licensor => 2
  | .client => 3

/-- Payload of an INIT: N_i, AUTHORITY, a reserved byte, CLIENT, KEY_DIGEST, KEM_CT (R489). -/
def initPayload (authority : Authority) (client : Nat) (x : InitKeys) : List Byte :=
  digestBytes x.ni ++ natBe 1 (authorityCode authority) ++ [0] ++ natBe 2 client ++ digestBytes x.key ++ x.kemCt

/-- INIT (R489, R490): a plain CTRL frame; the session exists and ACCEPT leaves when a leaf signs it. -/
def execInit (authority : Authority) (client : Nat) (x : InitKeys) (kemOk reservedOk busy : Bool) (s : State) :
    Host.Outcome State Fault Refusal :=
  .next (
    let no (code : Nat) : State := (s.reject code 5).send [.plainStatus code]
    if !s.eth.up || !s.powered then s
    else if !reservedOk then no 0x2001
    else if Config.maxSessions ≤ s.sessions.length + (s.sec.waiting.filter SignReq.isAccept).length then no 0x2010
    else if !kemOk then no 0x2012
    else s.requestSign busy (.accept authority client x.key (initPayload authority client x)))

/-! ## The port (R482, R483, R485, R486) -/

/-- Frames that a stop of transmission held back leave. -/
def State.flushAll (s : State) : State := (s.sessions.map (·.1)).foldl (fun (t : State) id => t.flushTx id) s

/-- PCS_SEARCH (R482): 500 ms have passed without a lock, and the other mode is tried. -/
def execPcsSearch (s : State) : Host.Outcome State Fault Refusal :=
  .next (if s.eth.up || !s.eth.moduleOk || !s.powered then s else { s with eth := { s.eth with mode400 := !s.eth.mode400 } })

/-- PCS_ALIGNMENT_LOCK (R482): the port is up in the mode tried. -/
def execPcsAlignmentLock (s : State) : Host.Outcome State Fault Refusal :=
  .next (if s.eth.up || !s.eth.moduleOk || !s.powered then s else ({ s with eth := { s.eth with up := true } } : State).flushAll)

/-- The port leaves the link and begins its search with 800GBASE-R. -/
def State.portDown (s : State) : State := { s with eth := { s.eth with up := false, mode400 := false, paused := false } }

/-- ALIGNMENT_LOSS (R482): alignment has been lost for more than 10 ms. -/
def execAlignmentLoss (s : State) : Host.Outcome State Fault Refusal := .next (if s.eth.up then s.portDown else s)

/-- OSFP_MODULE_EVENT (R483): the module's presence, whether it advertises an Application, its fault and its CMIS states. -/
def execOsfpModuleEvent (present appOk dpFault : Bool) (modState dpState : Nat) (s : State) : Host.Outcome State Fault Refusal :=
  .next (
    if !s.powered then s
    else
      let ok := present && appOk && !dpFault
      let s1 : State := { s with eth := { s.eth with present, dpFault, modState := modState % 8, dpState := dpState % 16, moduleOk := ok } }
      if ok then s1 else s1.portDown)

/-- PFC_FRAME (R485): for the priority in use it stops transmission, or with no quanta releases it. -/
def execPfcFrame (prio quanta : Nat) (s : State) : Host.Outcome State Fault Refusal :=
  .next (if s.eth.pfc != some prio || !s.eth.up then s
    else
      let s1 : State := { s with eth := { s.eth with paused := quanta != 0 } }
      s1.flushAll)

/-- PFC_PAUSE_EXPIRY (R485): the quanta have passed. -/
def execPfcPauseExpiry (s : State) : Host.Outcome State Fault Refusal :=
  .next (if s.eth.paused then ({ s with eth := { s.eth with paused := false } } : State).flushAll else s)

/-- Whether an address of R486 is formed: 0 link-local, 1 under IPV6_PREFIX, 2 IPv4. -/
def State.addressFormed (s : State) (kind : Fin 3) : Bool :=
  match kind with
  | 0 => s.powered
  | 1 => s.imgApplied && s.img.ipv6Prefix != 0
  | 2 => s.imgApplied && s.img.ipv4Base != 0

/-- ADDRESS_DUPLICATE (R486): the address is not used, and the operator is told. -/
def execAddressDuplicate (kind : Fin 3) (s : State) : Host.Outcome State Fault Refusal :=
  .next (
    if !s.addressFormed kind || s.eth.dup.contains kind.val then s
    else (({ s with eth := { s.eth with dup := s.eth.dup ++ [kind.val] } } : State).reject 0x2003).report 0x2003 (.info [kind.val]))

end Sys2Proof.Machine
end

