-- ==== Sys2Proof/Machine/Dispatch.lean ====
section
/-!
DEFINITION. One arm for each command: the call of its meaning.
-/

namespace Sys2Proof.Machine

def exec (i : Instr) (s : State) : Host.Outcome State Fault Refusal :=
  match i with
  | .nop at_ p => Sys2Proof.Machine.execNop at_ p s
  | .endProg at_ p => Sys2Proof.Machine.execEnd at_ p s
  | .tend at_ p => Sys2Proof.Machine.execTend at_ p s
  | .br at_ p imm => Sys2Proof.Machine.execBr at_ p imm s
  | .loop at_ p ga imm endIdx => Sys2Proof.Machine.execLoop at_ p ga imm endIdx s
  | .endloop at_ p => Sys2Proof.Machine.execEndloop at_ p s
  | .movi at_ p gd imm => Sys2Proof.Machine.execMovi at_ p gd imm s
  | .add at_ p gd ga gb imm => Sys2Proof.Machine.execAdd at_ p gd ga gb imm s
  | .sub at_ p gd ga gb imm => Sys2Proof.Machine.execSub at_ p gd ga gb imm s
  | .mul at_ p gd ga gb imm => Sys2Proof.Machine.execMul at_ p gd ga gb imm s
  | .and at_ p gd ga gb imm => Sys2Proof.Machine.execAnd at_ p gd ga gb imm s
  | .or at_ p gd ga gb imm => Sys2Proof.Machine.execOr at_ p gd ga gb imm s
  | .xor at_ p gd ga gb imm => Sys2Proof.Machine.execXor at_ p gd ga gb imm s
  | .shl at_ p gd ga gb imm => Sys2Proof.Machine.execShl at_ p gd ga gb imm s
  | .shr at_ p gd ga gb imm => Sys2Proof.Machine.execShr at_ p gd ga gb imm s
  | .cmp at_ p gd cond ga gb imm => Sys2Proof.Machine.execCmp at_ p gd cond ga gb imm s
  | .lds at_ p gd ga imm => Sys2Proof.Machine.execLds at_ p gd ga imm s
  | .sts at_ p ga gb imm => Sys2Proof.Machine.execSts at_ p ga gb imm s
  | .cset at_ p c gb imm => Sys2Proof.Machine.execCset at_ p c gb imm s
  | .cinc at_ p c gb imm => Sys2Proof.Machine.execCinc at_ p c gb imm s
  | .wait at_ p c gb imm => Sys2Proof.Machine.execWait at_ p c gb imm s
  | .crd at_ p gd c => Sys2Proof.Machine.execCrd at_ p gd c s
  | .waitb at_ p ga gb imm => Sys2Proof.Machine.execWaitb at_ p ga gb imm s
  | .beatrd at_ p gd => Sys2Proof.Machine.execBeatrd at_ p gd s
  | .flagrc at_ p gd gb imm => Sys2Proof.Machine.execFlagrc at_ p gd gb imm s
  | .tdld at_ p td imm => Sys2Proof.Machine.execTdld at_ p td imm s
  | .tdadd at_ p td field ga imm => Sys2Proof.Machine.execTdadd at_ p td field ga imm s
  | .mma at_ p tda tdb tdc set arr mode cnt => Sys2Proof.Machine.execMma at_ p tda tdb tdc set arr mode cnt s
  | .mmat at_ p tda tdb tdc set arr mode cnt => Sys2Proof.Machine.execMmat at_ p tda tdb tdc set arr mode cnt s
  | .mtwin at_ p tdg tdw tdx set0 set1 acc0 acc1 cnt => Sys2Proof.Machine.execMtwin at_ p tdg tdw tdx set0 set1 acc0 acc1 cnt s
  | .mrd at_ p tdc set arr cnt gstep => Sys2Proof.Machine.execMrd at_ p tdc set arr cnt gstep s
  | .mrdp at_ p tda tdc set arr cnt gstep => Sys2Proof.Machine.execMrdp at_ p tda tdc set arr cnt gstep s
  | .msav at_ p tdc set arr cnt => Sys2Proof.Machine.execMsav at_ p tdc set arr cnt s
  | .vsetl at_ p gb imm => Sys2Proof.Machine.execVsetl at_ p gb imm s
  | .vmov at_ p o => Sys2Proof.Machine.execVmov at_ p o s
  | .vadd at_ p o => Sys2Proof.Machine.execVadd at_ p o s
  | .vsub at_ p o => Sys2Proof.Machine.execVsub at_ p o s
  | .vmul at_ p o => Sys2Proof.Machine.execVmul at_ p o s
  | .vfma at_ p o => Sys2Proof.Machine.execVfma at_ p o s
  | .vmin at_ p o => Sys2Proof.Machine.execVmin at_ p o s
  | .vmax at_ p o => Sys2Proof.Machine.execVmax at_ p o s
  | .vabs at_ p o => Sys2Proof.Machine.execVabs at_ p o s
  | .vneg at_ p o => Sys2Proof.Machine.execVneg at_ p o s
  | .vclt at_ p o => Sys2Proof.Machine.execVclt at_ p o s
  | .vceq at_ p o => Sys2Proof.Machine.execVceq at_ p o s
  | .vsel at_ p o => Sys2Proof.Machine.execVsel at_ p o s
  | .vrint at_ p o => Sys2Proof.Machine.execVrint at_ p o s
  | .vperm at_ p o => Sys2Proof.Machine.execVperm at_ p o s
  | .vrcpe at_ p o => Sys2Proof.Machine.execVrcpe at_ p o s
  | .vrsqe at_ p o => Sys2Proof.Machine.execVrsqe at_ p o s
  | .vexp2f at_ p o => Sys2Proof.Machine.execVexp2f at_ p o s
  | .vlog2f at_ p o => Sys2Proof.Machine.execVlog2f at_ p o s
  | .vexp at_ p o => Sys2Proof.Machine.execVexp at_ p o s
  | .vexp2 at_ p o => Sys2Proof.Machine.execVexp2 at_ p o s
  | .vlog at_ p o => Sys2Proof.Machine.execVlog at_ p o s
  | .vlog2 at_ p o => Sys2Proof.Machine.execVlog2 at_ p o s
  | .vdiv at_ p o => Sys2Proof.Machine.execVdiv at_ p o s
  | .vsqrt at_ p o => Sys2Proof.Machine.execVsqrt at_ p o s
  | .vrsqrt at_ p o => Sys2Proof.Machine.execVrsqrt at_ p o s
  | .vrcp at_ p o => Sys2Proof.Machine.execVrcp at_ p o s
  | .vsigmoid at_ p o => Sys2Proof.Machine.execVsigmoid at_ p o s
  | .vtanh at_ p o => Sys2Proof.Machine.execVtanh at_ p o s
  | .vsilu at_ p o => Sys2Proof.Machine.execVsilu at_ p o s
  | .vgelu at_ p o => Sys2Proof.Machine.execVgelu at_ p o s
  | .vrsum at_ p o => Sys2Proof.Machine.execVrsum at_ p o s
  | .vrmax at_ p o => Sys2Proof.Machine.execVrmax at_ p o s
  | .vsoftmax at_ p o => Sys2Proof.Machine.execVsoftmax at_ p o s
  | .vlogsoftmax at_ p o => Sys2Proof.Machine.execVlogsoftmax at_ p o s
  | .vrmsnorm at_ p o => Sys2Proof.Machine.execVrmsnorm at_ p o s
  | .vlnorm at_ p o => Sys2Proof.Machine.execVlnorm at_ p o s
  | .vdsigmoid at_ p o => Sys2Proof.Machine.execVdsigmoid at_ p o s
  | .vdtanh at_ p o => Sys2Proof.Machine.execVdtanh at_ p o s
  | .vdsilu at_ p o => Sys2Proof.Machine.execVdsilu at_ p o s
  | .vdgelu at_ p o => Sys2Proof.Machine.execVdgelu at_ p o s
  | .vdsoftmax at_ p o => Sys2Proof.Machine.execVdsoftmax at_ p o s
  | .vdrmsnorm at_ p o => Sys2Proof.Machine.execVdrmsnorm at_ p o s
  | .vdlnorm at_ p o => Sys2Proof.Machine.execVdlnorm at_ p o s
  | .dma at_ p td gh region toHbm hstride cnt => Sys2Proof.Machine.execDma at_ p td gh region toHbm hstride cnt s
  | .lsend at_ p td chan cnt => Sys2Proof.Machine.execLsend at_ p td chan cnt s
  | .lrecv at_ p td chan cnt => Sys2Proof.Machine.execLrecv at_ p td chan cnt s
  | .lred at_ p td chan cnt => Sys2Proof.Machine.execLred at_ p td chan cnt s
  | .stsend at_ p td buffer cnt => Sys2Proof.Machine.execStsend at_ p td buffer cnt s
  | .engineInstrComplete core engine => Sys2Proof.Machine.execEngineInstrComplete core engine s
  | .lrecvFilled at_ chan data => Sys2Proof.Machine.execLrecvFilled at_ chan data s
  | .waitSatisfied at_ => Sys2Proof.Machine.execWaitSatisfied at_ s
  | .waitExpired at_ => Sys2Proof.Machine.execWaitExpired at_ s
  | .startQueueDequeue at_ => Sys2Proof.Machine.execStartQueueDequeue at_ s
  | .startQueueAppendHeld at_ => Sys2Proof.Machine.execStartQueueAppendHeld at_ s
  | .beatBoundary => Sys2Proof.Machine.execBeatBoundary s
  | .beatMarker port lane m frac => Sys2Proof.Machine.execBeatMarker port lane m frac s
  | .beatFailover => Sys2Proof.Machine.execBeatFailover s
  | .linkDelayProbe port lane roundTrip turnaround => Sys2Proof.Machine.execLinkDelayProbe port lane roundTrip turnaround s
  | .sourceLock ptpNs => Sys2Proof.Machine.execSourceLock ptpNs s
  | .sourceLockLoss => Sys2Proof.Machine.execSourceLockLoss s
  | .beatPpsIn err => Sys2Proof.Machine.execBeatPpsIn err s
  | .ptpSync domain offset => Sys2Proof.Machine.execPtpSync domain offset s
  | .enum f => Sys2Proof.Machine.execEnum f s
  | .strap entries => Sys2Proof.Machine.execStrap entries s
  | .ebeat count => Sys2Proof.Machine.execEbeat count s
  | .vineState entries => Sys2Proof.Machine.execVineState entries s
  | .ping j => Sys2Proof.Machine.execPing j s
  | .xfer x crc sig => Sys2Proof.Machine.execXfer x crc sig s
  | .enumTimeout => Sys2Proof.Machine.execEnumTimeout s
  | .enumRepeat => Sys2Proof.Machine.execEnumRepeat s
  | .podFaultN cycles start => Sys2Proof.Machine.execPodFaultN cycles start s
  | .hello port lane h => Sys2Proof.Machine.execHello port lane h s
  | .helloSend => Sys2Proof.Machine.execHelloSend s
  | .formationPhaseStart p => Sys2Proof.Machine.execFormationPhaseStart p s
  | .joinRecord r => Sys2Proof.Machine.execJoinRecord r s
  | .lockRecord devices => Sys2Proof.Machine.execLockRecord devices s
  | .announcement a => Sys2Proof.Machine.execAnnouncement a s
  | .joinBeat => Sys2Proof.Machine.execJoinBeat s
  | .joinTimeout => Sys2Proof.Machine.execJoinTimeout s
  | .ready origin r => Sys2Proof.Machine.execReady origin r s
  | .commitMarker m => Sys2Proof.Machine.execCommitMarker m s
  | .commitTimeout job => Sys2Proof.Machine.execCommitTimeout job s
  | .commitBeat job => Sys2Proof.Machine.execCommitBeat job s
  | .hostedCopyAck job version => Sys2Proof.Machine.execHostedCopyAck job version s
  | .startReady job origin => Sys2Proof.Machine.execStartReady job origin s
  | .startRecord job form beat => Sys2Proof.Machine.execStartRecord job form beat s
  | .startBeat job => Sys2Proof.Machine.execStartBeat job s
  | .chunk m => Sys2Proof.Machine.execChunk m s
  | .stragglerDeadline chan idx => Sys2Proof.Machine.execStragglerDeadline chan idx s
  | .exchTimeout chan => Sys2Proof.Machine.execExchTimeout chan s
  | .fuuUpdate chan => Sys2Proof.Machine.execFuuUpdate chan s
  | .parameterChunk m => Sys2Proof.Machine.execParameterChunk m s
  | .receiptStart stage => Sys2Proof.Machine.execReceiptStart stage s
  | .sparseList chan l => Sys2Proof.Machine.execSparseList chan l s
  | .stemPacketStart port => Sys2Proof.Machine.execStemPacketStart port s
  | .stemArrival buffer => Sys2Proof.Machine.execStemArrival buffer s
  | .creditReturn buffer => Sys2Proof.Machine.execCreditReturn buffer s
  | .lossJobStart id step mb => Sys2Proof.Machine.execLossJobStart id step mb s
  | .lossExchange id mb row origin x => Sys2Proof.Machine.execLossExchange id mb row origin x s
  | .lossJobComplete => Sys2Proof.Machine.execLossJobComplete s
  | .acceptanceJob ctx slot => Sys2Proof.Machine.execAcceptanceJob ctx slot s
  | .draftSample ctx slot id row => Sys2Proof.Machine.execDraftSample ctx slot id row s
  | .lookupJob msd list bags chan statusOff doneCnt => Sys2Proof.Machine.execLookupJob msd list bags chan statusOff doneCnt s
  | .remoteLookup msd origin serial bag table pool rows => Sys2Proof.Machine.execRemoteLookup msd origin serial bag table pool rows s
  | .remotePartial serial bag dev p => Sys2Proof.Machine.execRemotePartial serial bag dev p s
  | .forwardAppend stage step mb layer => Sys2Proof.Machine.execForwardAppend stage step mb layer s
  | .backwardAppend stage step mb layer => Sys2Proof.Machine.execBackwardAppend stage step mb layer s
  | .compose ctx => Sys2Proof.Machine.execCompose ctx s
  | .batchStepEnd ctx id ranks => Sys2Proof.Machine.execBatchStepEnd ctx id ranks s
  | .deadline ctx slot => Sys2Proof.Machine.execDeadline ctx slot s
  | .ringHold ctx slot => Sys2Proof.Machine.execRingHold ctx slot s
  | .pauseComplete ctx slot core entry => Sys2Proof.Machine.execPauseComplete ctx slot core entry s
  | .summaryTtl conv => Sys2Proof.Machine.execSummaryTtl conv s
  | .accountingWindow => Sys2Proof.Machine.execAccountingWindow s
  | .sample f ctx slot sampleId data => Sys2Proof.Machine.execSample f ctx slot sampleId data s
  | .req f ctx slot data => Sys2Proof.Machine.execReq f ctx slot data s
  | .ack f ctx slot cons => Sys2Proof.Machine.execAck f ctx slot cons s
  | .ackOnly f => Sys2Proof.Machine.execAckOnly f s
  | .ackOnlySend session => Sys2Proof.Machine.execAckOnlySend session s
  | .retransmitTimeout session psn => Sys2Proof.Machine.execRetransmitTimeout session psn s
  | .sessionIdleTimeout session => Sys2Proof.Machine.execSessionIdleTimeout session s
  | .pcsSearch => Sys2Proof.Machine.execPcsSearch s
  | .alignmentLoss => Sys2Proof.Machine.execAlignmentLoss s
  | .pfcFrame prio quanta => Sys2Proof.Machine.execPfcFrame prio quanta s
  | .addressDuplicate kind => Sys2Proof.Machine.execAddressDuplicate kind s
  | .init authority client x kemOk reservedOk busy => Sys2Proof.Machine.execInit authority client x kemOk reservedOk busy s
  | .prove f proof sig => Sys2Proof.Machine.execProve f proof sig s
  | .close f => Sys2Proof.Machine.execClose f s
  | .cancel f ctx slot => Sys2Proof.Machine.execCancel f ctx slot s
  | .streamResume f ctx slot => Sys2Proof.Machine.execStreamResume f ctx slot s
  | .switch f entry => Sys2Proof.Machine.execSwitch f entry s
  | .drainComplete => Sys2Proof.Machine.execDrainComplete s
  | .drainTimeout => Sys2Proof.Machine.execDrainTimeout s
  | .restart f job replay vEnd ext excl => Sys2Proof.Machine.execRestart f job replay vEnd ext excl s
  | .rejoin f => Sys2Proof.Machine.execRejoin f s
  | .drain f => Sys2Proof.Machine.execDrain f s
  | .ticket f client key => Sys2Proof.Machine.execTicket f client key s
  | .storageKey f key => Sys2Proof.Machine.execStorageKey f key s
  | .pfcSet f on prio => Sys2Proof.Machine.execPfcSet f on prio s
  | .husk f h => Sys2Proof.Machine.execHusk f h s
  | .peerLoad dst h srcs => Sys2Proof.Machine.execPeerLoad dst h srcs s
  | .huskRemove f id => Sys2Proof.Machine.execHuskRemove f id s
  | .meterGrant f g => Sys2Proof.Machine.execMeterGrant f g s
  | .meterRequest st => Sys2Proof.Machine.execMeterRequest st s
  | .adapterLoad f a => Sys2Proof.Machine.execAdapterLoad f a s
  | .adapterRemove f ident teacher => Sys2Proof.Machine.execAdapterRemove f ident teacher s
  | .maskLoad f id data => Sys2Proof.Machine.execMaskLoad f id data s
  | .maskRemove f id => Sys2Proof.Machine.execMaskRemove f id s
  | .summaryExport f conv => Sys2Proof.Machine.execSummaryExport f conv s
  | .summaryImport f exportId data tags => Sys2Proof.Machine.execSummaryImport f exportId data tags s
  | .summaryDrop f conv => Sys2Proof.Machine.execSummaryDrop f conv s
  | .ownerClaim r sig reservedOk => Sys2Proof.Machine.execOwnerClaim r sig reservedOk s
  | .ownerTransfer f next signer sig => Sys2Proof.Machine.execOwnerTransfer f next signer sig s
  | .read f off count meas => Sys2Proof.Machine.execRead f off count meas s
  | .errRejectNew events => Sys2Proof.Machine.execErrRejectNew events s
  | .firmwareBank f fw => Sys2Proof.Machine.execFirmwareBank f fw s
  | .imageBank f im => Sys2Proof.Machine.execImageBank f im s
  | .planSlot f slot p => Sys2Proof.Machine.execPlanSlot f slot p s
  | .planForSwitch f p => Sys2Proof.Machine.execPlanForSwitch f p s
  | .bankWriteComplete => Sys2Proof.Machine.execBankWriteComplete s
  | .ckpt f job role exportId part m tags => Sys2Proof.Machine.execCkpt f job role exportId part m tags s
  | .attest q reservedOk busy => Sys2Proof.Machine.execAttest q reservedOk busy s
  | .keyDerivation => Sys2Proof.Machine.execKeyDerivation s
  | .faultNotice from_ job attempt f => Sys2Proof.Machine.execFaultNotice from_ job attempt f s
  | .haltedReport r => Sys2Proof.Machine.execHaltedReport r s
  | .haltSettle job m => Sys2Proof.Machine.execHaltSettle job m s
  | .restoreComplete job from_ src recovery => Sys2Proof.Machine.execRestoreComplete job from_ src recovery s
  | .restoreTimeout job => Sys2Proof.Machine.execRestoreTimeout job s
  | .journalDurable burnOk => Sys2Proof.Machine.execJournalDurable burnOk s
  | .compaction => Sys2Proof.Machine.execCompaction s
  | .compactionComplete => Sys2Proof.Machine.execCompactionComplete s
  | .pwrEnRise lowMs => Sys2Proof.Machine.execPwrEnRise lowMs s
  | .pwrEnFall => Sys2Proof.Machine.execPwrEnFall s
  | .resetNAssert => Sys2Proof.Machine.execResetNAssert s
  | .resetNRise st nvmPresN torn => Sys2Proof.Machine.execResetNRise st nvmPresN torn s
  | .bootConfigure => Sys2Proof.Machine.execBootConfigure s
  | .vinOutOfRange => Sys2Proof.Machine.execVinOutOfRange s
  | .vinRecovery => Sys2Proof.Machine.execVinRecovery s
  | .pwrcapNFall => Sys2Proof.Machine.execPwrcapNFall s
  | .pwrcapNRise => Sys2Proof.Machine.execPwrcapNRise s
  | .thermAlert => Sys2Proof.Machine.execThermAlert s
  | .thermAlertRelease => Sys2Proof.Machine.execThermAlertRelease s
  | .thermalTrip idx => Sys2Proof.Machine.execThermalTrip idx s
  | .thermalShutdown => Sys2Proof.Machine.execThermalShutdown s
  | .hbmUncorrectable addr => Sys2Proof.Machine.execHbmUncorrectable addr s
  | .sramUncorrectable unit => Sys2Proof.Machine.execSramUncorrectable unit s
  | .linkDown port lane => Sys2Proof.Machine.execLinkDown port lane s
  | .localCopyComplete job => Sys2Proof.Machine.execLocalCopyComplete job s
  | .hostedCopy job role version part => Sys2Proof.Machine.execHostedCopy job role version part s
  | .rowShadowCopyComplete table => Sys2Proof.Machine.execRowShadowCopyComplete table s
  | .halfEraseComplete => Sys2Proof.Machine.execHalfEraseComplete s
  | .joinableLimit => Sys2Proof.Machine.execJoinableLimit s
  | .pcsAlignmentLock => Sys2Proof.Machine.execPcsAlignmentLock s
  | .osfpModuleEvent present appOk dpFault modState dpState => Sys2Proof.Machine.execOsfpModuleEvent present appOk dpFault modState dpState s
  | .pfcPauseExpiry => Sys2Proof.Machine.execPfcPauseExpiry s

end Sys2Proof.Machine
end

