-- ==== Sys2Proof/Safety.lean ====
section
/-!
DEFINITION. What the statements call safe: states of legal form, commands that complete, and what no command of any kind may change.
-/

namespace Sys2Proof.Machine

/-- A context slot of legal form: p0 reads 1, at most four loops are open (R108), and the start queue holds at most 16 entries (R102). -/
def CtxSt.Ok (x : CtxSt) : Prop := x.p.getLsbD 0 = true ∧ x.loops.length ≤ 4 ∧ x.queue.length ≤ 16

/-- Every context slot of every core has legal form. -/
def CoresOk (l : List (Nat × CoreSt)) : Prop := ∀ e ∈ l, ∀ i : Fin 8, (e.2.ctx[i]).Ok

/-- The invariant of the device: memory has its canonical form and every context slot its legal form. -/
structure State.Ok (s : State) : Prop where
  mem : Memory.wf s.mem = true
  cores : CoresOk s.cores

/-- An outcome that is a next state. -/
def Completes (o : Host.Outcome State Fault Refusal) : Prop := ∃ t, o = .next t

/-- A property of the next state, if there is one. -/
def IfNext (o : Host.Outcome State Fault Refusal) (P : State → Prop) : Prop := ∀ t, o = .next t → P t

/-- What no command changes beside its own effect: the waiting commands, legal form, the identity (R418), what has been sent, and burned
fuses: OWNER slots, FW_SVN_MIN and EPOCH bits only grow (Table 15-2). -/
structure Keeps (s t : State) : Prop where
  pending : t.pending = s.pending
  ok : s.Ok → t.Ok
  deviceId : t.deviceId = s.deviceId
  out : s.out <+: t.out
  owners : s.sec.owners <+: t.sec.owners
  svn : s.sec.fwSvnMin ≤ t.sec.fwSvnMin
  epochs : s.sec.epochs ≤ t.sec.epochs

end Sys2Proof.Machine

namespace Sys2Proof
open Machine

/-! ## Sequencer instructions -/

/-- The core, context slot and predicate of a sequencer instruction; none of any other command. -/
def Instr.header : Instr → Option (Site × Pred)
  | .nop a p | .endProg a p | .tend a p | .br a p _ | .loop a p _ _ _ | .endloop a p | .movi a p _ _ | .add a p _ _ _ _
  | .sub a p _ _ _ _ | .mul a p _ _ _ _ | .and a p _ _ _ _ | .or a p _ _ _ _ | .xor a p _ _ _ _ | .shl a p _ _ _ _ | .shr a p _ _ _ _
  | .cmp a p _ _ _ _ _ | .lds a p _ _ _ | .sts a p _ _ _ | .cset a p _ _ _ | .cinc a p _ _ _ | .wait a p _ _ _ | .crd a p _ _
  | .waitb a p _ _ _ | .beatrd a p _ | .flagrc a p _ _ _ | .tdld a p _ _ | .tdadd a p _ _ _ _ | .mma a p _ _ _ _ _ _ _
  | .mmat a p _ _ _ _ _ _ _ | .mtwin a p _ _ _ _ _ _ _ _ | .mrd a p _ _ _ _ _ | .mrdp a p _ _ _ _ _ _ | .msav a p _ _ _ _
  | .vsetl a p _ _ | .vmov a p _ | .vadd a p _ | .vsub a p _ | .vmul a p _ | .vfma a p _ | .vmin a p _ | .vmax a p _ | .vabs a p _
  | .vneg a p _ | .vclt a p _ | .vceq a p _ | .vsel a p _ | .vrint a p _ | .vperm a p _ | .vrcpe a p _ | .vrsqe a p _ | .vexp2f a p _
  | .vlog2f a p _ | .vexp a p _ | .vexp2 a p _ | .vlog a p _ | .vlog2 a p _ | .vdiv a p _ | .vsqrt a p _ | .vrsqrt a p _ | .vrcp a p _
  | .vsigmoid a p _ | .vtanh a p _ | .vsilu a p _ | .vgelu a p _ | .vrsum a p _ | .vrmax a p _ | .vsoftmax a p _ | .vlogsoftmax a p _
  | .vrmsnorm a p _ | .vlnorm a p _ | .vdsigmoid a p _ | .vdtanh a p _ | .vdsilu a p _ | .vdgelu a p _ | .vdsoftmax a p _
  | .vdrmsnorm a p _ | .vdlnorm a p _ | .dma a p _ _ _ _ _ _ | .lsend a p _ _ _ | .lrecv a p _ _ _ | .lred a p _ _ _
  | .stsend a p _ _ _ => some (a, p)
  | _ => none

/-- Whether a sequencer instruction exists on the type of its core (R106, R158). -/
def Instr.present : Instr → Bool
  | .mma a _ _ _ _ _ arr _ _ => isSCore a.core || arr == 0
  | .mrd a _ _ _ arr _ _ => isSCore a.core || arr == 0
  | .mrdp a _ _ _ _ arr _ _ => isSCore a.core || arr == 0
  | .msav a _ _ _ arr _ => isSCore a.core || arr == 0
  | .mmat a .. | .mtwin a .. | .vdsigmoid a .. | .vdtanh a .. | .vdsilu a .. | .vdgelu a .. | .vdsoftmax a .. | .vdrmsnorm a ..
  | .vdlnorm a .. => isSCore a.core
  | .stsend a .. => !isSCore a.core
  | _ => true

/-- The frame and body that a command of a session's data frame brings; none of any other command. -/
def Instr.frame : Instr → Option (Frame × FrameBody)
  | .sample f c n i d => some (f, .sample c n i d)
  | .req f c n d => some (f, .req c n d)
  | .ack f c n k => some (f, .ack c n k)
  | .prove f k g => some (f, .prove k g)
  | .close f => some (f, .close)
  | .cancel f c n => some (f, .cancel c n)
  | .streamResume f c n => some (f, .resume c n)
  | .switch f e => some (f, .switch e)
  | .restart f j r v e l => some (f, .restart j r v e l)
  | .rejoin f => some (f, .rejoin)
  | .drain f => some (f, .drain)
  | .ticket f c k => some (f, .ticket c k)
  | .storageKey f k => some (f, .storageKey k)
  | .pfcSet f on p => some (f, .pfcSet on p)
  | .husk f h => some (f, .husk h)
  | .huskRemove f h => some (f, .huskRemove h)
  | .meterGrant f g => some (f, .meterGrant g)
  | .adapterLoad f a => some (f, .adapterLoad a)
  | .adapterRemove f i t => some (f, .adapterRemove i t)
  | .maskLoad f i d => some (f, .maskLoad i d)
  | .maskRemove f i => some (f, .maskRemove i)
  | .summaryExport f c => some (f, .summaryExport c)
  | .summaryImport f e d t => some (f, .summaryImport e d t)
  | .summaryDrop f c => some (f, .summaryDrop c)
  | .ownerTransfer f n k g => some (f, .ownerTransfer n k g)
  | .read f o n m => some (f, .read o n m)
  | .firmwareBank f w => some (f, .fwBank w)
  | .imageBank f i => some (f, .imageBank i)
  | .planSlot f n p => some (f, .planSlot n p)
  | .planForSwitch f p => some (f, .planForSwitch p)
  | .ckpt f j r e l m t => some (f, .ckpt j r e l m t)
  | _ => none

end Sys2Proof

namespace Sys2Proof.Machine

/-- The context can issue (R103, R336): its program is in progress, it is not waiting and not halted, and no context of the core comes before
it. -/
structure CanIssue (s : State) (a : Site) : Prop where
  core : a.core < Config.numCores
  running : (s.ctxAt a).running = true
  free : (s.ctxAt a).wait = none
  live : (s.ctxAt a).halted = false
  turn : s.hasTurn a = true

/-- The context can issue and an instruction with this predicate executes: p[PRED] xor PNEG = 1 (R105). -/
structure Issues (s : State) (a : Site) (p : Pred) : Prop extends CanIssue s a where
  executes : ((s.ctxAt a).preg p.pred != p.pneg) = true

/-- The program counter of a context past an instruction. -/
def CtxSt.next (x : CtxSt) : CtxSt := { x with pc := x.pc + 1 }

/-- The outcome in which context a has issued and only it has changed, to x. -/
def onlyCtx (s : State) (a : Site) (x : CtxSt) : Host.Outcome State Fault Refusal := .next ((s.tookTurn a).setCtx a x)

/-- The state in which an instruction of context a executes: its turn is taken and its program counter advanced. -/
def State.issued (s : State) (a : Site) : State := (s.tookTurn a).setCtx a (s.ctxAt a).next

/-- t differs from s in nothing but the core state of context slots and the order of turns; no other context differs. -/
structure OthersSame (a : Site) (s t : State) : Prop where
  rest : { t with cores := s.cores, turns := s.turns } = s
  ctx : ∀ e, e ≠ a → t.ctxAt e = s.ctxAt e
  units : ∀ n, (t.core n).jobs = (s.core n).jobs ∧ (t.core n).acc = (s.core n).acc ∧ (t.core n).own = (s.core n).own
    ∧ (t.core n).lastOwn = (s.core n).lastOwn
  mem : ∀ n, memGet t.mem n = memGet s.mem n

/-- Of the registers of context a, only the program counter, g[d] and p[q] differ; those named by none differ in nothing. -/
structure RegsSame (a : Site) (d : Option (Fin 32)) (q : Option (Fin 8)) (s t : State) : Prop where
  g : ∀ r, some r ≠ d → (t.ctxAt a).greg r = (s.ctxAt a).greg r
  p : ∀ r, some r ≠ q → (t.ctxAt a).preg r = (s.ctxAt a).preg r
  c : (t.ctxAt a).c = (s.ctxAt a).c
  td : (t.ctxAt a).td = (s.ctxAt a).td
  loops : (t.ctxAt a).loops = (s.ctxAt a).loops
  vl : (t.ctxAt a).vl = (s.ctxAt a).vl
  queue : (t.ctxAt a).queue = (s.ctxAt a).queue
  run : (t.ctxAt a).running = (s.ctxAt a).running ∧ (t.ctxAt a).wait = (s.ctxAt a).wait ∧ (t.ctxAt a).halted = (s.ctxAt a).halted
    ∧ (t.ctxAt a).ending = (s.ctxAt a).ending ∧ (t.ctxAt a).tag = (s.ctxAt a).tag ∧ (t.ctxAt a).entryNo = (s.ctxAt a).entryNo

/-! ## Engine instructions -/

/-- The issued instruction that an operation becomes: everything it names as it stands at issue (R104). -/
def State.captured (s : State) (a : Site) (cnt : CntSel) (op : EngOp) : EngJob :=
  { ctx := a.ctx, engines := enginesOf a.ctx op, op, phase := .queued, cnt, srcs := srcRanges op, dsts := dstRanges op
    entryNo := (s.ctxAt a).entryNo, step := s.stepOf a.ctx (s.ctxAt a).tag, mb := mbOf (s.ctxAt a).tag }

/-- An issued instruction at the end of a core's queue. -/
def State.addJob (s : State) (n : Nat) (j : EngJob) : State := s.setCore n { s.core n with jobs := (s.core n).jobs ++ [j] }

/-- The program counter past an engine instruction, which has entered its queue. -/
def State.enqueue (s : State) (a : Site) (j : EngJob) : State := (s.issued a).addJob a.core j

/-- Whether a vector operation overlaps a source other than by identity (R143). -/
def EngOp.overlaps : EngOp → Bool
  | .vop o bsrc d ta tb _ _ imm _ _ => match vkind o with
    | some k => vopOverlap k bsrc d ta tb imm
    | none => false
  | _ => false

/-- Nothing holds the issue of an operation (R123), and it passes the checks at issue (R135, R136, R143). -/
structure State.accepts (s : State) (a : Site) (op : EngOp) : Prop where
  free : (s.core a.core).holds a.ctx (srcRanges op) (dstRanges op) = false
  room : (s.core a.core).incomplete a.ctx < 16
  range : s.rangeCode a (srcRanges op) (dstRanges op) = none
  apart : op.overlaps = false

/-- Operations that hand over data when they complete. -/
def EngOp.isSend : EngOp → Bool
  | .lsend .. | .lrecv .. | .lred .. | .stsend .. => true
  | _ => false

/-! ## Frames -/

/-- The state in which a frame in sequence is delivered: its acknowledgement fields are taken, ACK_PSN has advanced, and the arrival is owed
an acknowledgement. -/
def State.taken (s : State) (f : Frame) : State :=
  match (s.takeAcks f).session f.session with
  | none => s.takeAcks f
  | some x => (s.takeAcks f).setSession f.session { x with rx := x.rx + 1, owed := x.owed + 1 }

/-- What follows the effect of a frame in sequence: waiting frames that it lets through, the pool's PFC, and the session's own limits. `n`: frames
that waited. -/
def State.endFrame (f : Frame) (n : Nat) (t : State) : State := ((State.drainPool (n + 1) t f.session).poolPfc).afterFrame f.session

/-- A data frame in sequence on session x: the port is up, the tag verifies, its PSN is the next, and its header is legal (R488, R491, R504). -/
structure Arrives (s : State) (f : Frame) (x : SessionSt) : Prop where
  up : s.eth.up = true
  powered : s.powered = true
  present : (s.session f.session).isSome = true
  tag : f.tagOk = true
  range : f.psn < 2 ^ 48
  session : (s.taken f).session f.session = some x
  next : x.rx = f.psn
  legal : f.reservedOk = true ∧ f.length ≤ 8192

/-- A frame with body b that passes every check of R504 on an open session x; a body that comes as an object stands whole in this frame. -/
structure Delivers (s : State) (f : Frame) (b : FrameBody) (x : SessionSt) : Prop extends Arrives s f x where
  opened : x.opened = true
  accepted : (s.taken f).dev.accepts b = true
  subtype : f.subtypeOk = true
  permitted : b.permitted x.authority = true
  whole : b.kind ≠ none → x.obj = none ∧ f.offset = 0 ∧ f.last = true

end Sys2Proof.Machine
end

