-- ==== Sys2Proof/Certificates/Slice0/Obligations.lean ====
section
/-!
DEFINITION. The statements for the provers: what the commands and the whole device do, by the rules of the manual.
-/

section
open Sys2Proof Sys2Proof.Machine

/-- For every state whose queue has a command in front, a step is that command's effect on the state with the queue's rest. That a step with no
command waiting lets 1 ns of the time base pass is the model's choice (log entries 17 and 61): without power nothing changes; the phase advances by 1
where that stays below P, and otherwise the next beat begins as at BEAT_BOUNDARY. (00_scope.md, 13_beat_and_plot.md R356) -/
def Obligations.StepRunsTheFrontCommand : Prop :=
  ∀ (s : State) (c : Instr) (rest : List Instr), (s.pending = c :: rest → step s = exec c { s with pending := rest }) ∧
    (s.pending = [] →
      (s.powered = false → step s = .next s) ∧
      (s.powered = true → s.phase + 1 < s.period → step s = .next { s with phase := s.phase + 1 }) ∧
      (s.powered = true → s.period ≤ s.phase + 1 → step s = exec .beatBoundary s))

/-- After reset the device is in BOOT with no command waiting, no plan, no image, no session, job or request, no journal record waiting, not in
formation and with no beat: STS_JOBS and every CFG, ERR and CNT register read 0, p0 reads 1 and every other scalar register, predicate and counter of
every core reads 0, with the active length at the full width. Memory lists nothing; that it then reads 0 is the model's choice (log entry 1).
(18_registers_and_codes.md R511, R513, Tables 18-3 to 18-10, 04_core_programs.md Table 4-1) -/
def Obligations.ResetState : Prop :=
  let s := State.reset
  s.pending = [] ∧ s.mem = [] ∧ s.dev = .boot ∧ s.plan = none ∧ s.imgApplied = false ∧ s.sessions = [] ∧ s.jobs = [] ∧ s.reqs = [] ∧ s.jnl.queue = [] ∧
    s.formation.phase = 0 ∧ s.acquired = false ∧ s.beat = 0 ∧ s.out = [] ∧ s.sec.owners = [] ∧ s.reg 0x1008 = 0 ∧
    (∀ n : Nat, n < 0x1000 → s.reg (0x2000 + n) = 0) ∧ (∀ n : Nat, n < 0x30 → s.reg (0x3000 + 4 * n) = 0) ∧ (∀ n : Nat, n < 0x800 → s.reg (0x4000 + n) = 0) ∧
    (∀ (a : Site) (r : Fin 32) (q : Fin 8) (k : Fin 16), (s.ctxAt a).greg r = 0 ∧ (s.ctxAt a).preg q = decide (q = 0) ∧ (s.ctxAt a).c[k] = 0 ∧
      (s.ctxAt a).running = false ∧ (s.ctxAt a).queue = [] ∧ (s.ctxAt a).vl.toNat = if isSCore a.core then 128 else 64)

/-- The state after reset meets the invariant State.Ok: its memory has the canonical form, and every context slot reads p0 as 1, has at most four open
loops and at most 16 queued entries. (04_core_programs.md Table 4-1, R102, R108) -/
def Obligations.ResetIsOk : Prop := State.reset.Ok

/-- From every state of legal form, whatever command waits in front: if a step answers a next state, every context slot of every core still holds 1 in
p0, at most four open loops and at most 16 start-queue entries, and memory still has its canonical form. (04_core_programs.md Table 4-1, R102, R108)
-/
def Obligations.EveryStepKeepsOk : Prop := ∀ s t : State, s.Ok → step s = .next t → t.Ok

/-- Whatever the command and the state: if it answers a next state, the waiting commands and the device's identity are as before, what has been sent
before is a first part of what has been sent, the burned OWNER slots keep their keys in their order, and FW_SVN_MIN and the count of burned EPOCH bits
have not fallen. (15_trust.md R418, R420, R428, R430, Table 15-2) -/
def Obligations.NothingIsUndone : Prop :=
  ∀ (i : Instr) (s t : State), exec i s = .next t →
    t.pending = s.pending ∧ t.deviceId = s.deviceId ∧ s.out <+: t.out ∧ s.sec.owners <+: t.sec.owners ∧ s.sec.fwSvnMin ≤ t.sec.fwSvnMin ∧
      s.sec.epochs ≤ t.sec.epochs

/-- No command is refused. The only fault is that of a command that names a device core index of 10,368 or more; every other command, in every state,
answers a next state. (00_scope.md, 04_core_programs.md R549) -/
def Obligations.NoCommandIsRefused : Prop :=
  ∀ (i : Instr) (s : State), (∃ t, exec i s = .next t) ∨ ∃ n, Config.numCores ≤ n ∧ exec i s = .fault (.noSuchAddress n)

/-- An executing NOP, MOVI, ADD, SUB, MUL, AND, OR, XOR, SHL or SHR completes: g[GD] takes the value of Table 4-3 on g[GA] and b = g[GB] + IMM modulo
2^32 (a write to g0 is discarded), the program counter advances, and nothing else changes. BR goes to IMM[11:0]. LOOP with count 0 goes past its
ENDLOOP; with another count, when fewer than four loops are open, it opens one with that count and the body start. ENDLOOP on a count of 1 closes the
innermost loop; on another count it counts down and goes back to the body. (04_core_programs.md Table 4-3, R106 to R108) -/
def Obligations.ScalarAndBranchResults : Prop :=
  (∀ (s : State) (a : Site) (p : Pred) (d ra rb : Fin 32) (imm : Word), Issues s a p →
     let x := s.ctxAt a
     let u := x.greg ra
     let b := x.greg rb + imm
     let w (v : Word) := onlyCtx s a (x.next.setG d v)
     exec (.nop a p) s = onlyCtx s a x.next ∧
     exec (.movi a p d imm) s = w imm ∧
     exec (.add a p d ra rb imm) s = w (u + b) ∧
     exec (.sub a p d ra rb imm) s = w (u - b) ∧
     exec (.mul a p d ra rb imm) s = w (u * b) ∧
     exec (.and a p d ra rb imm) s = w (u &&& b) ∧
     exec (.or a p d ra rb imm) s = w (u ||| b) ∧
     exec (.xor a p d ra rb imm) s = w (u ^^^ b) ∧
     exec (.shl a p d ra rb imm) s = w (u <<< (b.toNat % 32)) ∧
     exec (.shr a p d ra rb imm) s = w (u >>> (b.toNat % 32))) ∧
  (∀ (s : State) (a : Site) (p : Pred) (ra : Fin 32) (imm n : Word) (e body : BitVec 12) (r : List (Word × BitVec 12)), Issues s a p →
     let x := s.ctxAt a
     exec (.br a p imm) s = onlyCtx s a { x with pc := imm.setWidth 12 } ∧
     (x.greg ra + imm = 0 → exec (.loop a p ra imm e) s = onlyCtx s a { x with pc := e + 1 }) ∧
     (x.greg ra + imm ≠ 0 → x.loops.length < 4 →
       exec (.loop a p ra imm e) s = onlyCtx s a { x.next with loops := (x.greg ra + imm, x.pc + 1) :: x.loops }) ∧
     (x.loops = (n, body) :: r → n = 1 → exec (.endloop a p) s = onlyCtx s a { x.next with loops := r }) ∧
     (x.loops = (n, body) :: r → n ≠ 1 → exec (.endloop a p) s = onlyCtx s a { x with loops := (n - 1, body) :: r, pc := body }))

/-- An executing CMP completes: p[GD[2:0]] takes the truth of its condition of Table 4-5 on g[GA] and b, unsigned or signed as the condition says (a
write to p0 is discarded), and nothing else changes but the program counter. After a write to a scalar register or predicate, the register written
reads the value, every other reads as before, g0 still reads 0 and p0 still reads 1. (04_core_programs.md Tables 4-1, 4-3 to 4-5, R106) -/
def Obligations.CompareAndRegisterWrites : Prop :=
  (∀ (s : State) (a : Site) (p : Pred) (d ra rb : Fin 32) (imm : Word), Issues s a p →
     let x := s.ctxAt a
     let u := x.greg ra
     let b := x.greg rb + imm
     let w (v : Bool) := onlyCtx s a (x.next.setP (cmpPred d) v)
     exec (.cmp a p d .eq ra rb imm) s = w (decide (u = b)) ∧
     exec (.cmp a p d .ne ra rb imm) s = w (decide (u ≠ b)) ∧
     exec (.cmp a p d .ltu ra rb imm) s = w (decide (u.toNat < b.toNat)) ∧
     exec (.cmp a p d .geu ra rb imm) s = w (decide (b.toNat ≤ u.toNat)) ∧
     exec (.cmp a p d .lts ra rb imm) s = w (decide (u.toInt < b.toInt)) ∧
     exec (.cmp a p d .ges ra rb imm) s = w (decide (b.toInt ≤ u.toInt))) ∧
  ((∀ (x : CtxSt) (r q : Fin 32) (v : Word), (x.setG r v).greg q = if q = 0 then 0 else if q = r then v else x.greg q) ∧
   (∀ (x : CtxSt) (r q : Fin 8) (v : Bool), (x.setP r v).preg q = if q = 0 then true else if q = r then v else x.preg q))

/-- For every sequencer instruction that exists on its core, in a context that can issue, whose predicate does not select it: the outcome is a next
state in which only the program counter of the context has advanced. No counter increments, no register, memory or engine queue changes.
(04_core_programs.md, R105) -/
def Obligations.UnexecutedOnlyAdvances : Prop :=
  ∀ (i : Instr) (a : Site) (p : Pred) (s : State), i.header = some (a, p) → i.present = true → CanIssue s a →
    ((s.ctxAt a).preg p.pred != p.pneg) = false → exec i s = onlyCtx s a (s.ctxAt a).next

/-- On a core of the device, a context with no program in progress, with an unsatisfied wait, halted, or not next in turn runs no sequencer
instruction: the state stays as it is. On a core index that the device does not have (R549) every sequencer instruction faults. (04_core_programs.md
R103, 12_sharing_and_preemption.md R336) -/
def Obligations.WaitingContextIssuesNothing : Prop :=
  ∀ (i : Instr) (a : Site) (p : Pred) (s : State), i.header = some (a, p) →
    (a.core < Config.numCores → ((s.ctxAt a).running = false ∨ (s.ctxAt a).wait ≠ none ∨ (s.ctxAt a).halted = true ∨ s.hasTurn a = false) →
      exec i s = .next s) ∧
    (Config.numCores ≤ a.core → exec i s = .fault (.noSuchAddress a.core))

/-- When a NOP, MOVI, ADD, SUB, MUL, AND, OR, XOR, SHL, SHR, CRD or CMP answers a next state: no other context, no engine, no accumulator, no flag
word, no byte of memory and no other field of the device changes; of its own context only the program counter and the destination register (or
predicate) may change. (04_core_programs.md R100, Table 4-3) -/
def Obligations.RegisterFrames : Prop :=
  ∀ (s t : State) (a : Site) (p : Pred) (d ra rb cn : Fin 32) (cond : CmpCond) (imm : Word),
    (∀ i ∈ [Instr.movi a p d imm, .add a p d ra rb imm, .sub a p d ra rb imm, .mul a p d ra rb imm, .and a p d ra rb imm,
        .or a p d ra rb imm, .xor a p d ra rb imm, .shl a p d ra rb imm, .shr a p d ra rb imm, .crd a p d cn],
      exec i s = .next t → OthersSame a s t ∧ RegsSame a (some d) none s t) ∧
    (exec (.cmp a p d cond ra rb imm) s = .next t → OthersSame a s t ∧ RegsSame a none (some (cmpPred d)) s t) ∧
    (exec (.nop a p) s = .next t → OthersSame a s t ∧ RegsSame a none none s t)

/-- CSET writes b to c[SUB[3:0]] and CRD reads it. CINC adds b, unless its counter releases landing slots of which fewer than b are occupied (then it
is not executed and faults 0x6010); memory stays as it is where the counter releases no sample slots, and on a counter that releases nothing, nothing
else changes. WAIT on a LOCAL counter passes when (c - b) mod 2^32 < 2^31, and otherwise the context waits with its program counter on the WAIT; on a
REMOTE counter it is a tile boundary first, and a context that a fault at that boundary halts does not wait. WAIT_SATISFIED passes a pending wait
whose condition holds, and one whose condition does not hold stays; a wait on the present beat passes once no COMMIT or start keyed to that beat is
still to come. WAIT_EXPIRED whose limit has passed since the issue of a pending wait whose condition does not hold raises runtime fault 0x6003 for the
context, unless the wait is on a counter bound to an exchange channel. Before the limit has passed, when the condition holds, or with such a counter,
nothing changes. (04_core_programs.md R126, R127, R129, R130, Table 4-3, 07_stem_and_loss.md R194, 10_gradient_exchange.md R291,
12_sharing_and_preemption.md R344, R345, 13_beat_and_plot.md R372) -/
def Obligations.CounterAndWaitResults : Prop :=
  (∀ (s : State) (a : Site) (p : Pred) (d k rb : Fin 32) (imm : Word), Issues s a p →
     let x := s.ctxAt a
     let n := subCounter k
     let b := x.greg rb + imm
     exec (.cset a p k rb imm) s = onlyCtx s a { x.next with c := x.c.set n b } ∧
     exec (.crd a p d k) s = onlyCtx s a (x.next.setG d x.c[n]) ∧
     (s.overRelease a n b.toNat = false → ∃ t, exec (.cinc a p k rb imm) s = .next t ∧
       t.ctxAt a = { x.next with c := x.c.set n (x.c[n] + b) } ∧ t.flags = s.flags ∧ (s.relBinding a n = none → t.mem = s.mem)) ∧
     (s.releasedBy a n = [] → s.relBinding a n = none →
       exec (.cinc a p k rb imm) s = onlyCtx s a { x.next with c := x.c.set n (x.c[n] + b) }) ∧
     (s.overRelease a n b.toNat = true →
       exec (.cinc a p k rb imm) s = .next ((s.issued a).faultCtx 0x6010 a.ctx [a.core, x.pc.toNat]).pumpAll) ∧
     (s.isRemote a.ctx n = false →
       ((x.c[n] - b).toNat < 2 ^ 31 → exec (.wait a p k rb imm) s = onlyCtx s a x.next) ∧
       (2 ^ 31 ≤ (x.c[n] - b).toNat → exec (.wait a p k rb imm) s = onlyCtx s a { x with wait := some ⟨.counter n b, s.beat⟩ })) ∧
     (s.isRemote a.ctx n = true →
       let u := ((s.issued a).boundary a true).pump a.core
       (((u.ctxAt a).c[n] - b).toNat < 2 ^ 31 → exec (.wait a p k rb imm) s = .next u) ∧
       (2 ^ 31 ≤ ((u.ctxAt a).c[n] - b).toNat → (u.ctxAt a).halted = false → exec (.wait a p k rb imm) s =
         .next (u.setCtx a { u.ctxAt a with wait := some ⟨.counter n b, u.beat⟩, pc := x.pc })) ∧
       ((u.ctxAt a).halted = true → exec (.wait a p k rb imm) s = .next u))) ∧
  (∀ (s : State) (a : Site) (m : Fin 16) (v : Word) (target since : Nat), a.core < Config.numCores →
     let x := s.ctxAt a
     let passed : Host.Outcome State Fault Refusal := .next (s.setCtx a { x with wait := none, pc := x.pc + 1 })
     (x.wait = some ⟨.counter m v, since⟩ →
       ((x.c[m] - v).toNat < 2 ^ 31 → exec (.waitSatisfied a) s = passed) ∧
       (2 ^ 31 ≤ (x.c[m] - v).toNat → exec (.waitSatisfied a) s = .next s)) ∧
     (x.wait = some ⟨.beat target, since⟩ →
       (target < s.beat ∨ target = s.beat ∧ s.actionDue a.ctx = false → exec (.waitSatisfied a) s = passed) ∧
       (s.beat < target ∨ target = s.beat ∧ s.actionDue a.ctx = true → exec (.waitSatisfied a) s = .next s)) ∧
     (x.wait = none → exec (.waitSatisfied a) s = .next s)) ∧
  (∀ (s : State) (a : Site) (m : Fin 16) (v : Word) (target since : Nat) (r : CtxRec), a.core < Config.numCores → s.ctxRec a.ctx = some r →
     let x := s.ctxAt a
     let expired : Host.Outcome State Fault Refusal := .next (s.faultCtx 0x6003 a.ctx [a.core, x.pc.toNat]).pumpAll
     (x.wait = some ⟨.beat target, since⟩ →
       (since + r.waitLimit ≤ s.beat → s.beat < target → exec (.waitExpired (some a)) s = expired) ∧
       (s.beat < since + r.waitLimit ∨ target ≤ s.beat → exec (.waitExpired (some a)) s = .next s)) ∧
     (x.wait = some ⟨.counter m v, since⟩ →
       (since + r.waitLimit ≤ s.beat → 2 ^ 31 ≤ (x.c[m] - v).toNat → s.exchBound a m = false → exec (.waitExpired (some a)) s = expired) ∧
       (s.beat < since + r.waitLimit ∨ (x.c[m] - v).toNat < 2 ^ 31 ∨ s.exchBound a m = true → exec (.waitExpired (some a)) s = .next s)))

/-- When no incomplete instruction of the context holds the four bytes and they lie in its share, LDS writes the little-endian word at (g[GA] + IMM)
with bits [1:0] cleared to g[GD], and STS stores g[GB] there. When an incomplete instruction holds them, nothing changes. An LDS or STS whose word the
range check refuses writes no register but the program counter and stores nothing: the runtime fault of Table 4-15 is raised for the context with the
core and the program counter as its detail, and its share is all that an STS without fault can write. (04_core_programs.md R107, R123, R135, R136) -/
def Obligations.ScratchpadResults : Prop :=
  (∀ (s : State) (a : Site) (p : Pred) (d ra rb : Fin 32) (imm : Word), Issues s a p →
     let x := s.ctxAt a
     let ad := ((x.greg ra + imm) &&& 0xFFFFFFFC#32).toNat
     let r := [(ad, ad + 4)]
     let k := s.core a.core
     (k.holds a.ctx r [] = false → s.rangeCode a r [] = none →
       exec (.lds a p d ra imm) s = onlyCtx s a (x.next.setG d (BitVec.ofNat 32 (leNat (s.scr a.core ad 4))))) ∧
     (k.holds a.ctx r [] = true → exec (.lds a p d ra imm) s = .next s) ∧
     (k.holds a.ctx [] r = false → s.rangeCode a [] r = none →
       exec (.sts a p ra rb imm) s = .next ((s.issued a).setScr a.core ad (natLe 4 (x.greg rb).toNat))) ∧
     (k.holds a.ctx [] r = true → exec (.sts a p ra rb imm) s = .next s)) ∧
  (∀ (s : State) (a : Site) (p : Pred) (d ra rb : Fin 32) (imm : Word) (code : Nat), Issues s a p →
     let x := s.ctxAt a
     let ad := ((x.greg ra + imm) &&& 0xFFFFFFFC#32).toNat
     let r := [(ad, ad + 4)]
     let faulted : Host.Outcome State Fault Refusal := .next ((s.issued a).faultCtx code a.ctx [a.core, x.pc.toNat]).pumpAll
     ((s.core a.core).holds a.ctx r [] = false → s.rangeCode a r [] = some code → exec (.lds a p d ra imm) s = faulted) ∧
     ((s.core a.core).holds a.ctx [] r = false → s.rangeCode a [] r = some code → exec (.sts a p ra rb imm) s = faulted) ∧
     (s.rangeCode a [] r = none → (s.share a).1 ≤ ad ∧ ad + 4 ≤ (s.share a).2))

/-- When STS completes with its range in the context's share, the four bytes at its address hold g[GB], little-endian, every byte of HBM and of any
scratchpad outside them reads as before, and no register of any context but its own program counter changes. (04_core_programs.md R107, R136) -/
def Obligations.StoreFrame : Prop :=
  ∀ (s t : State) (a : Site) (p : Pred) (ra rb : Fin 32) (imm : Word), Issues s a p →
    let x := s.ctxAt a
    let ad := ((x.greg ra + imm) &&& 0xFFFFFFFC#32).toNat
    (s.core a.core).holds a.ctx [] [(ad, ad + 4)] = false → s.rangeCode a [] [(ad, ad + 4)] = none →
    exec (.sts a p ra rb imm) s = .next t →
      memGetLe t.mem (scrAddr a.core ad) 4 = (x.greg rb).toNat ∧
      (∀ n, n < scrAddr a.core ad ∨ scrAddr a.core ad + 4 ≤ n → memGet t.mem n = memGet s.mem n) ∧
      (∀ e, e ≠ a → t.ctxAt e = s.ctxAt e) ∧ t.ctxAt a = x.next ∧ t.flags = s.flags

/-- BEATRD writes the beat count of the issue to g[GD] and g[GD + 1]. FLAGRC returns the context's flag word and clears the bits that are 1 in b, and
no other flag word changes. VSETL sets the active length to min(b, W), W for b = 0. TDLD loads a descriptor from entry IMM of the pool; TDADD adds to
one field of a descriptor. (04_core_programs.md R106, R107, R111, 05_vector_engine.md R138, 02_number_formats.md R63) -/
def Obligations.SpecialRegisterResults : Prop :=
  ∀ (s : State) (a : Site) (p : Pred) (d ra rb : Fin 32) (imm : Word) (td : Fin 64) (f : TdField), Issues s a p →
    let x := s.ctxAt a
    let b := x.greg rb + imm
    (∀ h : d.val + 1 < 32, exec (.beatrd a p d) s =
      onlyCtx s a ((x.next.setG d (BitVec.ofNat 32 s.beat)).setG ⟨d.val + 1, h⟩ (BitVec.ofNat 32 (s.beat / 2 ^ 32)))) ∧
    exec (.flagrc a p d rb imm) s =
      .next { (s.tookTurn a).setCtx a (x.next.setG d s.flags[a.ctx]) with flags := s.flags.set a.ctx (s.flags[a.ctx] &&& ~~~b) } ∧
    (b = 0 → exec (.vsetl a p rb imm) s = onlyCtx s a { x.next with vl := BitVec.ofNat 8 (lanesOf a.core) }) ∧
    (b ≠ 0 → exec (.vsetl a p rb imm) s = onlyCtx s a { x.next with vl := BitVec.ofNat 8 (min b.toNat (lanesOf a.core)) }) ∧
    exec (.tdld a p td imm) s =
      onlyCtx s a { x.next with td := x.td.set td (tdOfBytes (s.scr a.core ((s.poolRange a).1 + 32 * imm.toNat) 32)) } ∧
    exec (.tdadd a p td f ra imm) s = onlyCtx s a { x.next with td := x.td.set td (tdAdd x.td[td] f (x.greg ra + imm)) }

/-- TEND and END are tile boundaries, after which whatever can start on the core starts; END also ends the program, and its entry completes once its
engine instructions have. WAITB is a boundary too; it waits for its beat, or passes when the beat has come with no COMMIT or start keyed to it still
due. On a core with no incomplete engine instruction each leaves the context owning no engine, and END leaves none of its entries (of no unit) open.
START_QUEUE_DEQUEUE at a context with no program in progress takes its oldest entry: g1 to g4 take the arguments, the program counter the entry index,
the loop stack is empty and every other register keeps its value; with a program in progress, when halted, or on an empty queue it changes nothing.
START_QUEUE_APPEND_HELD appends the oldest held entry of a queue with a free place, and holds it while the queue is full. (04_core_programs.md R102,
R107, R130, 12_sharing_and_preemption.md R338) -/
def Obligations.ProgramBoundaryResults : Prop :=
  (∀ (s : State) (a : Site) (p : Pred) (ra rb : Fin 32) (imm : Word), Issues s a p →
     let x := s.ctxAt a
     let target := (x.greg ra).toNat * 2 ^ 32 + (x.greg rb).toNat + imm.toNat
     let b := (s.issued a).boundary a false
     let u := ((s.issued a).boundary a true).pump a.core
     exec (.tend a p) s = .next (b.pump a.core) ∧
     exec (.endProg a p) s = .next ((State.endEntries (b.setCtx a { b.ctxAt a with running := false, ending := (b.ctxAt a).ending ++
       [((b.ctxAt a).entryNo, (b.ctxAt a).tag)] }) a).pump a.core) ∧
     let come (t : State) : Prop := target < t.beat ∨ target = t.beat ∧ t.actionDue a.ctx = false
     (come u → exec (.waitb a p ra rb imm) s = .next u) ∧
     (¬ come u → (u.ctxAt a).halted = false → exec (.waitb a p ra rb imm) s =
       .next (u.setCtx a { u.ctxAt a with wait := some ⟨.beat target, u.beat⟩, pc := x.pc })) ∧
     ((u.ctxAt a).halted = true → exec (.waitb a p ra rb imm) s = .next u) ∧
     ((s.core a.core).jobs = [] →
       let freed (y : CtxSt) (t : State) : Prop := t.ctxAt a = y ∧ t.mem = s.mem ∧ t.flags = s.flags ∧ (t.core a.core).jobs = [] ∧
         (∀ e : Fin 3, (t.core a.core).own[e] = if (s.core a.core).own[e] = some a.ctx then none else (s.core a.core).own[e])
       (∃ t, exec (.tend a p) s = .next t ∧ freed x.next t) ∧
       (x.tag = .plain → x.ending = [] → ∃ t, exec (.endProg a p) s = .next t ∧ freed { x.next with running := false } t) ∧
       (come s → ∃ t, exec (.waitb a p ra rb imm) s = .next t ∧ freed x.next t) ∧
       (¬ come s → ∃ t, exec (.waitb a p ra rb imm) s = .next t ∧ freed { x with wait := some ⟨.beat target, s.beat⟩ } t))) ∧
  (∀ (s : State) (a : Site) (e : StartEntry) (rest : List StartEntry) (l r : List (Site × StartEntry)), a.core < Config.numCores →
     let x := s.ctxAt a
     (x.running = false → x.halted = false → x.queue = e :: rest →
       ∃ t, exec (.startQueueDequeue a) s = .next t ∧ (t.ctxAt a).pc = e.entry ∧ (t.ctxAt a).loops = [] ∧ (t.ctxAt a).queue = rest ∧
         (t.ctxAt a).running = true ∧ (t.ctxAt a).tag = e.tag ∧
         (∀ r : Fin 32, (t.ctxAt a).greg r = if 1 ≤ r.val ∧ r.val ≤ 4 then e.args.getD (r.val - 1) 0 else x.greg r) ∧
         (t.ctxAt a).p = x.p ∧ (t.ctxAt a).c = x.c ∧ (t.ctxAt a).td = x.td ∧ (t.ctxAt a).vl = x.vl ∧ t.mem = s.mem ∧ t.flags = s.flags) ∧
     (x.running = true ∨ x.halted = true ∨ x.queue = [] → exec (.startQueueDequeue a) s = .next s) ∧
     (s.heldEntries = l ++ (a, e) :: r → (∀ h ∈ l, h.1 ≠ a) →
       (x.queue.length < 16 → ∃ t, exec (.startQueueAppendHeld a) s = .next t ∧ t.heldEntries = l ++ r ∧
         t.ctxAt a = { x with queue := x.queue ++ [e] } ∧ t.mem = s.mem) ∧
       (16 ≤ x.queue.length → exec (.startQueueAppendHeld a) s = .next s)))

/-- An executing MMA, MMAT, MTWIN, MRD, MRDP, MSAV, DMA, LSEND or STSEND that exists on its core, is not held under R123, and passes the range checks,
completes its issue: the program counter advances, the instruction joins its context's queue with its descriptors and registers as they stand, and
whatever can start on the core starts. LRECV posts its range at once; LRED also announces its elements to the leaf. (04_core_programs.md R103, R104,
R112 to R118, 06_teacher_path.md R182) -/
def Obligations.EngineIssue : Prop :=
  ∀ (s : State) (a : Site) (p : Pred) (ta tb tc : Fin 64) (set arr set1 : Fin 2) (mode : AccMode) (acc0 acc1 : Bool) (cnt : CntSel)
    (gh : Fin 32) (region : Fin 16) (toHbm : Bool) (hs ch : BitVec 16), Issues s a p →
    let x := s.ctxAt a
    let A := x.td[ta]
    let B := x.td[tb]
    let C := x.td[tc]
    let in_ (op : EngOp) (i : Instr) : Prop := s.accepts a op →
      exec i s = .next ((s.enqueue a (s.captured a cnt op)).pump a.core)
    (isSCore a.core = true ∨ arr = 0 →
      in_ (.mma false A B C set arr mode) (.mma a p ta tb tc set arr mode cnt) ∧
      in_ (.mrd C set arr (x.pair gh)) (.mrd a p tc set arr cnt gh) ∧
      in_ (.mrdp A C set arr) (.mrdp a p ta tc set arr cnt gh) ∧
      in_ (.msav C set arr) (.msav a p tc set arr cnt)) ∧
    (isSCore a.core = true →
      in_ (.mma true A B C set arr mode) (.mmat a p ta tb tc set arr mode cnt) ∧
      in_ (.mtwin A B C set set1 acc0 acc1) (.mtwin a p ta tb tc set set1 acc0 acc1 cnt)) ∧
    (isSCore a.core = false → in_ (.stsend A ch.toNat) (.stsend a p ta ch cnt)) ∧
    in_ (.dma A ((x.greg gh).toNat * 128) region toHbm hs.toNat) (.dma a p ta gh region toHbm hs cnt) ∧
    in_ (.lsend A ch.toNat) (.lsend a p ta ch cnt) ∧
    (s.accepts a (.lrecv A ch.toNat) → ∃ t, exec (.lrecv a p ta ch cnt) s = .next t ∧
      (t.core a.core).jobs = (s.core a.core).jobs ++ [{ s.captured a cnt (.lrecv A ch.toNat) with
        phase := .started, part := (s.lowPost ch.toNat A).2 }] ∧
      (t.chanSt ch.toNat).posts = (s.chanSt ch.toNat).posts + 1 ∧ t.ctxAt a = x.next ∧ t.mem = s.mem) ∧
    (s.accepts a (.lred A ch.toNat) → exec (.lred a p ta ch cnt) s =
      .next ((((s.issued a).leafIssue ch.toNat A (s.stepOf a.ctx x.tag)).addJob a.core { s.captured a cnt (.lred A ch.toNat) with
        part := s.lredPart ch.toNat A (s.stepOf a.ctx x.tag) }).pump a.core))

/-- An executing vector operation that exists on its core, is not held, overlaps no source and passes the range checks completes its issue: it joins
its context's queue under the operation code of Tables 5-3, 5-5, 5-8 and 5-9 with its descriptors, GS, IMM16, step g28 + 2^32 g29 and active length as
they stand, and whatever can start on the core starts. (05_vector_engine.md R138, R140, R144, Tables 5-3, 5-5, 5-8, 5-9, 04_core_programs.md R104,
R116) -/
def Obligations.VectorIssue : Prop :=
  ∀ (s : State) (a : Site) (p : Pred) (o : VOp), Issues s a p →
    let x := s.ctxAt a
    let run (code : VOpc) (i : Instr) : Prop :=
      let op : EngOp := .vop code o.bsrc x.td[o.tdd] x.td[o.tda] x.td[o.tdb] (x.greg o.gs) (o.gs != 0) o.imm16
        ((x.greg 28).toNat + 2 ^ 32 * (x.greg 29).toNat) x.vl.toNat
      s.accepts a op → exec i s = .next ((s.enqueue a (s.captured a o.cnt op)).pump a.core)
    (run 0x00 (.vmov a p o) ∧ run 0x01 (.vadd a p o) ∧ run 0x02 (.vsub a p o) ∧ run 0x03 (.vmul a p o) ∧ run 0x04 (.vfma a p o) ∧
      run 0x05 (.vmin a p o) ∧ run 0x06 (.vmax a p o) ∧ run 0x07 (.vabs a p o) ∧ run 0x08 (.vneg a p o) ∧ run 0x09 (.vclt a p o) ∧
      run 0x0A (.vceq a p o) ∧ run 0x0B (.vsel a p o) ∧ run 0x0C (.vrint a p o) ∧ run 0x28 (.vperm a p o)) ∧
    (run 0x10 (.vrcpe a p o) ∧ run 0x11 (.vrsqe a p o) ∧ run 0x12 (.vexp2f a p o) ∧ run 0x13 (.vlog2f a p o) ∧ run 0x18 (.vexp a p o) ∧
      run 0x19 (.vexp2 a p o) ∧ run 0x1A (.vlog a p o) ∧ run 0x1B (.vlog2 a p o) ∧ run 0x1C (.vdiv a p o) ∧ run 0x1D (.vsqrt a p o) ∧
      run 0x1E (.vrsqrt a p o) ∧ run 0x1F (.vrcp a p o) ∧ run 0x20 (.vsigmoid a p o) ∧ run 0x21 (.vtanh a p o) ∧ run 0x22 (.vsilu a p o) ∧
      run 0x23 (.vgelu a p o)) ∧
    (run 0x30 (.vrsum a p o) ∧ run 0x31 (.vrmax a p o) ∧ run 0x34 (.vsoftmax a p o) ∧ run 0x35 (.vlogsoftmax a p o) ∧
      run 0x36 (.vrmsnorm a p o) ∧ run 0x37 (.vlnorm a p o)) ∧
    (isSCore a.core = true → run 0x38 (.vdsigmoid a p o) ∧ run 0x39 (.vdtanh a p o) ∧ run 0x3A (.vdsilu a p o) ∧ run 0x3B (.vdgelu a p o) ∧
      run 0x3C (.vdsoftmax a p o) ∧ run 0x3D (.vdrmsnorm a p o) ∧ run 0x3E (.vdlnorm a p o))

/-- An engine instruction whose ranges an incomplete instruction of its context holds, or whose context has 16 incomplete engine instructions on the
core, leaves the state as it is. One that is not held and fails its range check, or a VOP whose destination overlaps a source other than in place,
joins no queue: the fault is raised for the context. (04_core_programs.md R123, R135, R136, 05_vector_engine.md R143) -/
def Obligations.HeldIssue : Prop :=
  ∀ (s : State) (a : Site) (p : Pred) (cnt : CntSel) (mk : CtxSt → EngOp), Issues s a p →
    let x := s.ctxAt a
    let op := mk x
    let k := s.core a.core
    (k.holds a.ctx (srcRanges op) (dstRanges op) = true ∨ 16 ≤ k.incomplete a.ctx → s.issueEngine a p cnt mk = s) ∧
    (∀ code, k.holds a.ctx (srcRanges op) (dstRanges op) = false → k.incomplete a.ctx < 16 →
      s.rangeCode a (srcRanges op) (dstRanges op) = some code →
      s.issueEngine a p cnt mk = (s.issued a).faultCtx code a.ctx [a.core, x.pc.toNat]) ∧
    (k.holds a.ctx (srcRanges op) (dstRanges op) = false → k.incomplete a.ctx < 16 → s.rangeCode a (srcRanges op) (dstRanges op) = none →
      op.overlaps = true → s.issueEngine a p cnt mk = (s.issued a).faultCtx 0x6006 a.ctx [a.core, x.pc.toNat])

/-- On a core whose only incomplete instruction is queued, whose owned engines are free or its context's and whose meter cost is 0, the instruction
starts: its engines become its context's, and MMA and MMAT put their chains in the named accumulator set, MTWIN in a set of each array, MRD, MRDP and
MSAV write their rows and a vector operation its rows; LSEND and LRED start with no effect yet, and STSEND and DMA with all their rows to go. It is
then started, with the flags that it posts on completion. An MMA or MMAT that loads a record of a refused CLASS does not execute and faults 0x6004.
That the rows of a DMA move no earlier than its completion is the model's choice (log entry 115). (04_core_programs.md R103, R112 to R118, R135,
06_teacher_path.md R182, 03_matrix_arithmetic.md R93, 12_sharing_and_preemption.md R337) -/
def Obligations.EngineStart : Prop :=
  ∀ (s : State) (n : Nat) (j : EngJob), (s.core n).jobs = [j] → j.phase = .queued → s.pwr.trip = false → s.meterCost j = 0 →
    (∀ e ∈ j.owns, (s.core n).own[e] = none ∨ (s.core n).own[e] = some j.ctx) →
    let v := if ∃ e ∈ j.owns, (s.core n).own[e] = none then s.setCore n (j.owns.foldl (fun q e => q.setOwn e j.ctx) (s.core n)) else s
    let goes (t : State) (fl : Word) (left : Nat) : Prop := s.pump n = t.setEngJob n 0 { j with phase := .started, fl := fl, left := left }
    let starts (t : State) (fl : Word) : Prop := goes t fl 0
    (∀ tr A B C set arr mode x, j.op = .mma tr A B C set arr mode → v.mmaSet n j.ctx tr A B C set arr mode = some x →
      starts (v.setCore n ((v.core n).putSet arr set x)) 0) ∧
    (∀ G W X set0 set1 acc0 acc1, j.op = .mtwin G W X set0 set1 acc0 acc1 →
      starts (v.setCore n (((v.core n).putSet 0 set0 (v.mtwinSets n j.ctx G W X set0 set1 acc0 acc1).1).putSet 1 set1
        (v.mtwinSets n j.ctx G W X set0 set1 acc0 acc1).2)) 0) ∧
    (∀ C set arr st, j.op = .mrd C set arr st →
      starts (v.mrdRows n C st ((v.core n).set arr set) (j.ctx, j.step)).1 (v.mrdRows n C st ((v.core n).set arr set) (j.ctx, j.step)).2) ∧
    (∀ A C set arr, j.op = .mrdp A C set arr →
      starts (v.mrdpRows n A C ((v.core n).set arr set)).1 (v.mrdpRows n A C ((v.core n).set arr set)).2) ∧
    (∀ C set arr, j.op = .msav C set arr → starts (v.msavRows n C ((v.core n).set arr set)) 0) ∧
    (∀ op k bsrc D A B gs named imm st vl, j.op = .vop op bsrc D A B gs named imm st vl → vkind op = some k →
      let r := v.vopRows n k D (v.vArgs n j.ctx k bsrc D A B gs named imm vl) A.rows st (j.ctx, j.step)
      starts r.1 r.2) ∧
    (∀ td ch, j.op = .lsend td ch ∨ j.op = .lred td ch → starts v 0) ∧
    (∀ td off region toHbm hs, j.op = .dma td off region toHbm hs → goes v 0 td.rows) ∧
    (∀ td b, j.op = .stsend td b → goes v 0 td.rows) ∧
    (∀ tr A B C set arr mode, j.op = .mma tr A B C set arr mode → v.mmaSet n j.ctx tr A B C set arr mode = none →
      let u := (v.dropJob n 0).faultCtx 0x6004 j.ctx [n]
      s.pump n = if u.haltedSince s = true then u.pumpAll else u)

/-- ENGINE_INSTR_COMPLETE for the only incomplete instruction of a core, started, of an array or of the vector engine, whose entry has not ended: its
flags join the context's flag word, a set read out or saved becomes empty, its counter takes the increment it names, and it leaves the queue. A DMA
that is the only incomplete instruction of its core has moved its rows in order as it completes; one of which a row is not permitted increments no
counter and faults 0x6005. LRECV_FILLED for the only incomplete instruction of a core, an LRECV of the context on that channel, whose data came over
the link: the rows land in its range, its counter takes the increment it names, and it leaves the queue. Without a posted range nothing changes. On
any queue, the oldest started instruction of the engine completes when it can (LRED also hands what it has read to the leaf of the exchange), and
stays while it cannot. (01_package_and_step.md R28, 04_core_programs.md R102, R103, R115, R117 to R119, R125, R128, 10_gradient_exchange.md R269) -/
def Obligations.EngineCompletion : Prop :=
  (∀ (s : State) (n : Nat) (e : Engine) (j : EngJob), n < Config.numCores → (s.core n).jobs = [j] → j.phase = .started →
     j.engines.contains e = true → j.op.isSend = false → (∀ td off region toHbm hs, j.op ≠ .dma td off region toHbm hs) → j.release = [] →
     ((s.core n).ctx[j.ctx]).ending = [] →
     ∃ t, exec (.engineInstrComplete n e) s = .next t ∧ (t.core n).jobs = [] ∧
       t.flags = s.flags.set j.ctx (s.flags[j.ctx] ||| j.fl) ∧ (t.core n).acc = ((s.core n).emptied j.op).acc ∧ t.mem = s.mem ∧
       (∀ c : Fin 16, (t.ctxAt ⟨n, j.ctx⟩).c[c] =
         if j.cnt.en = true ∧ c = j.cnt.cnt then (s.ctxAt ⟨n, j.ctx⟩).c[c] + 1 else (s.ctxAt ⟨n, j.ctx⟩).c[c])) ∧
  (∀ (s : State) (a : Site) (ch : BitVec 16) (data : List Byte) (td : TileDesc) (j : EngJob) (r : ChanRec), a.core < Config.numCores →
     ((s.core a.core).jobs = [] → exec (.lrecvFilled a ch data) s = .next s) ∧
     ((s.core a.core).jobs = [j] → j.ctx = a.ctx → j.op = .lrecv td ch.toNat → j.release = [] → j.fl = 0 → (s.ctxAt a).ending = [] →
       s.chanRec ch.toNat = some r → chanLocal r = false → (s.chanSt ch.toNat).inFlight = [] →
       ∃ t, exec (.lrecvFilled a ch data) s = .next t ∧ (t.core a.core).jobs = [] ∧ t.mem = (s.landRows a.core td data).mem ∧
         (∀ c : Fin 16, (t.ctxAt a).c[c] = if j.cnt.en = true ∧ c = j.cnt.cnt then (s.ctxAt a).c[c] + 1 else (s.ctxAt a).c[c]))) ∧
  (∀ (s : State) (n i : Nat) (e : Engine) (j : EngJob), n < Config.numCores →
     (s.core n).jobs.findIdx? (fun j => j.phase == .started && j.engines.contains e) = some i → (s.core n).jobs[i]? = some j →
     (s.canComplete j = false → exec (.engineInstrComplete n e) s = .next s) ∧
     (s.canComplete j = true →
       (∀ td ch, j.op = .lred td ch →
         exec (.engineInstrComplete n e) s = .next (((s.completeAt n i).leafRead n ch td j).tryReadyCtx j.ctx).pumpAll) ∧
       (∀ td off region toHbm hs, j.op = .dma td off region toHbm hs → exec (.engineInstrComplete n e) s = .next (s.dmaDone n i j)) ∧
       ((∀ td ch, j.op ≠ .lred td ch) → (∀ td off region toHbm hs, j.op ≠ .dma td off region toHbm hs) →
         exec (.engineInstrComplete n e) s = .next ((s.sendData n j).completeAt n i)))) ∧
  (∀ (s : State) (n : Nat) (e : Engine) (j : EngJob) (td : TileDesc) (off : Nat) (region : Fin 16) (toHbm : Bool) (hs : Nat),
     n < Config.numCores → (s.core n).jobs = [j] → j.phase = .started → j.engines.contains e = true → j.op = .dma td off region toHbm hs →
     j.left = td.rows → j.bad = false →
     let moved := (List.range td.rows).foldl (fun (q : State × Bool) r =>
       let z := q.1.dmaRow n td (q.1.region region.val) (off + r * hs * 32) toHbm r
       (z.1, q.2 && z.2)) (s, true)
     let done (y : EngJob) : State := (moved.1.setEngJob n 0 y).completeAt n 0
     (moved.2 = true → exec (.engineInstrComplete n e) s = .next (done { j with left := 0 })) ∧
     (moved.2 = false → exec (.engineInstrComplete n e) s =
       .next ((done { j with left := 0, bad := true, cnt := { j.cnt with en := false } }).faultCtx 0x6005 j.ctx [n]).pumpAll))

/-- STEM_PACKET_START takes the row that the Target Former picks, which holds a credit, spends the credit and puts the packet of that row on its way;
with no such row nothing changes. STEM_ARRIVAL writes the oldest packet under way to its slot and increments the arrival counter of the consuming
context. CREDIT_RETURN makes the credit of one freed slot usable, after the rows that wait for one at that moment are noted. (06_teacher_path.md R182,
07_stem_and_loss.md R191 to R195) -/
def Obligations.StemResults : Prop :=
  (∀ (s : State) (port : Fin 4), s.stemPick port = none → exec (.stemPacketStart port) s = .next s) ∧
  (∀ (s : State) (port : Fin 4) (n i b : Nat) (j : EngJob) (td : TileDesc) (r : Recipe), s.stemPick port = some (n, i, j) →
    j.op = .stsend td b → s.recipe b = some r →
    let row := td.rows - j.left
    let z := (List.range r.width).map fun c => s.elem n td row c
    let col0 := td.indexBase.toNat % td.lrow.toNat
    let x := s.buf b
    ∃ t, exec (.stemPacketStart port) s = .next t ∧ (∀ l, s.landRec b = some l → 0 < s.credits l) ∧
      t.buf b = { x with sent := x.sent + 1, flight := x.flight ++ [packetBytes r (formRow r z col0) (x.sent % 2 ^ 32) (td.indexBase.toNat / td.lrow.toNat + row) col0] } ∧
      (∀ e, e ≠ b → t.buf e = s.buf e) ∧ t.mem = s.mem) ∧
  (∀ (s : State) (b : Nat) (l : LandRec) (pkt : List Byte) (rest : List (List Byte)), s.landRec b = some l → (s.buf b).flight = pkt :: rest →
    ∃ t, exec (.stemArrival b) s = .next t ∧ t.mem = memPutBytes s.mem (scrAddr l.core (l.slotAddr (s.buf b).arrived)) pkt ∧
      t.buf b = { s.buf b with arrived := (s.buf b).arrived + 1, flight := rest } ∧
      (∀ c : Fin 16, (t.ctxAt ⟨l.core, l.cctx⟩).c[c] =
        if c = l.arrive then (s.ctxAt ⟨l.core, l.cctx⟩).c[c] + 1 else (s.ctxAt ⟨l.core, l.cctx⟩).c[c])) ∧
  (∀ (s : State) (b : Nat),
    ((s.buf b).returned < (s.buf b).freed →
      exec (.creditReturn b) s = .next (s.markStalls.setBuf b { s.buf b with returned := (s.buf b).returned + 1 })) ∧
    ((s.buf b).freed ≤ (s.buf b).returned → exec (.creditReturn b) s = .next s))

/-- An executing CINC on a counter that releases landing buffers adds b to the counter and frees b slots of each, when at least b are occupied in each
of them; when fewer are in one, it is not executed and runtime fault STEM_RELEASE (0x6010) is raised. On the release counter of a sample table it
frees the oldest b complete slots. (07_stem_and_loss.md R194, R210, 04_core_programs.md R127, 14_faults_and_checkpoints.md R405) -/
def Obligations.ReleaseByCinc : Prop :=
  ∀ (s : State) (a : Site) (p : Pred) (k rb : Fin 32) (imm : Word), Issues s a p →
    let x := s.ctxAt a
    let n := subCounter k
    let b := x.greg rb + imm
    let mine := s.releasedBy a n
    ((∀ l ∈ mine, b.toNat ≤ (s.buf l.buffer).occupied) → ∃ t, exec (.cinc a p k rb imm) s = .next t ∧
      t.ctxAt a = { x.next with c := x.c.set n (x.c[n] + b) } ∧ (s.relBinding a n = none → t.mem = s.mem) ∧
      (∀ e, (t.buf e).freed = (s.buf e).freed + (mine.filter fun l => l.buffer == e).length * b.toNat) ∧
      (∀ d, s.relBinding a n = some d → ∀ e ∈ (s.doneSamples d.ctx).take b.toNat, aget t.samples (sampleKey d.ctx e.1) = none)) ∧
    (∀ l ∈ mine, (s.buf l.buffer).occupied < b.toNat → exec (.cinc a p k rb imm) s =
      .next ((s.issued a).faultCtx 0x6010 a.ctx [a.core, x.pc.toNat]).pumpAll)

/-- LOSS_JOB_START opens the job when fewer than 8 are open (of a BE context: fewer than 6 of BE contexts, and no LC job that could open), all its
packets are in their slots and every row reads; with too few packets, or out of its turn, it waits; a packet of another place faults 0x6011.
LOSS_EXCHANGE takes a record of a device of the group into its row, or holds it until its job opens. LOSS_JOB_COMPLETE completes the oldest ready job
of a class: gradients, result, flags, slots freed and counters, then its event. WAIT_EXPIRED with no site faults each context one of whose open jobs
has waited on the exchange beyond its limit, at the first such job, and changes nothing where there is none. That the wait counts from the opening of
the job is the model's choice (log entry 111). (07_stem_and_loss.md R199, R200, R203, R204, R207, R210, 12_sharing_and_preemption.md R340) -/
def Obligations.LossStageResults : Prop :=
  (∀ (s : State) (id step mb : Nat) (r : LossRec), s.lossRec id = some r →
    let be := s.loss.filter fun j => ((s.lossRec j.id).map fun q => s.isBE q.ctx).getD false
    let turn := s.loss.length < 8 ∧ (s.isBE r.ctx = true → be.length < 6 ∧ s.lcLossWaits = false)
    let here := ∀ g ∈ r.segs, (s.buf g.buffer).taken + r.rows ≤ (s.buf g.buffer).arrived
    let rows := (List.range r.rows).map fun i => s.lossRow r i
    (∀ segs, turn → here → rows = segs.map some → exec (.lossJobStart id step mb) s = .next (s.openLoss r step mb segs)) ∧
    (turn → here → none ∈ rows → exec (.lossJobStart id step mb) s = .next (s.faultCtx 0x6011 r.ctx [id]).pumpAll) ∧
    (¬ turn ∨ ¬ here → exec (.lossJobStart id step mb) s = .next s)) ∧
  (∀ (s : State) (id mb row origin : Nat) (x : LossExch) (r : LossRec), s.lossRec id = some r → origin ∈ s.lossGroup r →
    (s.loss.findIdx? (fun j => j.id == id && j.mb == mb) = none →
      exec (.lossExchange id mb row origin x) s = .next { s with lossEarly := s.lossEarly ++ [⟨id, mb, row, origin, x⟩] }) ∧
    (∀ (k : Nat) (j : LossJob) (w : LossRowSt), s.loss.findIdx? (fun j => j.id == id && j.mb == mb) = some k → s.loss[k]? = some j →
      j.rows[row]? = some w →
      let w1 := match x with
        | .maxima .. => { w with x1 := putExch w.x1 origin x }
        | .sums .. => { w with x2 := putExch w.x2 origin x }
        | .partials .. => { w with x3 := putExch w.x3 origin x }
      let t := (s.advanceRow r j row w1).1
      exec (.lossExchange id mb row origin x) s =
        .next { t with loss := t.loss.set k { j with rows := j.rows.set row (s.advanceRow r j row w1).2 } })) ∧
  (∀ (s : State) (i : Nat) (j : LossJob) (r : LossRec),
    (s.lossHeads.find? fun e => e.2.2.kind != .accept && e.2.1.rows.all fun row => s.rowReady e.2.2 row) = some (i, j, r) →
    exec .lossJobComplete s = .next ((({ s with loss := s.loss.eraseIdx i }).completeLoss r j).raiseEvent r.ctx (.loss r.id)
      [BitVec.ofNat 32 (j.step % 2 ^ 20 * 2 ^ 12 + j.mb % 2 ^ 12)] .plain)) ∧
  (∀ s : State,
    (∀ (j : LossJob) (r : LossRec), (j, r) ∈ s.lossLate ↔ j ∈ s.loss ∧ s.lossRec j.id = some r ∧
      (∃ row ∈ j.rows, s.rowReady r row = false) ∧ j.since + ((s.ctxRec r.ctx).map CtxRec.waitLimit).getD 0 ≤ s.beat) ∧
    (s.lossLate = [] → exec (.waitExpired none) s = .next s) ∧
    (s.lossLate ≠ [] →
      let ctxs := (s.lossLate.map fun e => e.2.ctx).eraseDups
      exec (.waitExpired none) s = .next (ctxs.foldl (fun (t : State) c =>
        t.faultCtx 0x6003 c ((s.lossLate.find? fun e => e.2.ctx == c).toList.map fun e => e.1.id)) s).pumpAll))

/-- LOOKUP_JOB whose list lies in its region, reads no table under copy and is covered by its station pays its meter, pools the rows of this device,
asks other devices for theirs, and delivers at once what owes nothing. It waits while a table is copied or its station is short, faults 0x6005 when a
list leaves the region, and 0x4120 when the meter is exhausted. Its bags are those of its list, or of the lists of a RANK request's candidates.
REMOTE_LOOKUP returns a partial with its valid count, in the form of its pooling mode, or waits in the same way. REMOTE_PARTIAL merges a partial that
a bag owes; any other changes nothing. A job that owes nothing and whose status bytes lie in the scratch region delivers: results to its channel, the
status bytes and flags; one that owes a partial does not. A bag with no valid index gives zeros and EMPTY (with OOB where an index lay outside its
table), and one that is not processed zeros and INVALID. That the status bytes lie where the command says is the model's choice (log entry 90).
(06_teacher_path.md R176 to R179, 09_update_and_scaling.md R251, 11_serving.md R328, 15_trust.md R443, R445, R446) -/
def Obligations.LookupResults : Prop :=
  (∀ (s : State) (msd : Fin 6) (list : BagSrc) (bags chan statusOff doneCnt : Nat),
    let i : Instr := .lookupJob msd list bags chan statusOff doneCnt
    let lists := (s.bagStarts list bags).map fun e => (e.1, s.bagList e.2 e.1)
    let l := lists.flatMap fun e => e.2
    let st : Fin 10 := ⟨4 + msd.val, by omega⟩
    let teacher := ((s.ctxRec (s.lookupCtx chan)).map CtxRec.kind) == some .teacher
    let cost := (l.map fun e => if e.1.bad then 0 else s.rowsCost e.1.table e.2 teacher).foldl (· + ·) 0
    let clear := ∀ e ∈ l, e.1.table ∉ s.shadowCopy
    let inside := ∀ e ∈ lists, s.inScratch e.1 (bagsBytes e.2) = true
    (clear → inside → cost ≤ s.sec.station[st] → ∃ (t : State) (done : List BagSt),
      let j : LookupSt := ⟨s.nextLookup, chan, s.lookupCtx chan, statusOff, doneCnt, done⟩
      exec i s = .next (State.finishLookup { t with lookups := t.lookups ++ [j], nextLookup := s.nextLookup + 1 } j) ∧
        done.length = l.length ∧ t.sec.station[st] = s.sec.station[st] - cost ∧ t.mem = s.mem ∧ t.lookups = s.lookups) ∧
    (¬ clear → exec i s = .next s) ∧
    (clear → ¬ inside → exec i s = .next (s.faultCtx 0x6005 (s.lookupCtx chan) [msd.val]).pumpAll) ∧
    (clear → inside → s.sec.station[st] < cost → s.sec.exhausted = false → exec i s = .next s) ∧
    (clear → inside → s.sec.station[st] < cost → s.sec.exhausted = true →
      exec i s = .next (s.faultCtx 0x4120 (s.lookupCtx chan) [msd.val]).pumpAll)) ∧
  (∀ (s : State) (msd : Fin 6) (origin serial bag table : Nat) (rows : List (Nat × Word)) (pool : Pool),
    let cost := s.rowsCost table rows
    let st : Fin 10 := ⟨4 + msd.val, by omega⟩
    let q := (s.payMeter st cost).poolLocal { table, pool } rows
    (table ∉ s.shadowCopy → cost ≤ s.sec.station[st] →
      (pool ≠ .max → exec (.remoteLookup msd origin serial bag table pool rows) s =
        .next (q.1.send [.bagPartial origin serial bag (.raw q.2.1.valid q.2.1.raw)])) ∧
      (pool = .max → exec (.remoteLookup msd origin serial bag table pool rows) s = .next (q.1.send [.bagPartial origin serial bag
        (.max q.2.1.valid (q.2.1.mx.map fun x => BitVec.ofNat 32 (roundRne .fp32 x).bits) (q.2.1.mx.any Num.isNan))]))) ∧
    (table ∈ s.shadowCopy ∨ s.sec.station[st] < cost → exec (.remoteLookup msd origin serial bag table pool rows) s = .next s)) ∧
  (∀ (s : State) (serial bag dev : Nat) (p : BagPartial) (j : LookupSt) (b : BagSt),
    s.lookups.find? (fun j => j.serial == serial) = some j → j.bags[bag]? = some b →
    (dev ∈ b.owing →
      let j' := { j with bags := j.bags.set bag (b.merge dev p) }
      exec (.remotePartial serial bag dev p) s =
        .next (State.finishLookup { s with lookups := s.lookups.map fun x => if x.serial == serial then j' else x } j')) ∧
    (dev ∉ b.owing → exec (.remotePartial serial bag dev p) s = .next s)) ∧
  (∀ (s : State) (j : LookupSt), (∀ b ∈ j.bags, b.owing = []) → s.inScratch (s.scratchAt j.statusOff) j.bags.length = true →
    let res := j.bags.map fun b => b.result (s.lookupWidth b)
    let t := s.finishLookup j
    t.lookups = s.lookups.filter (fun x => x.serial != j.serial) ∧ (t.chanSt j.chan).inFlight.length = (s.chanSt j.chan).inFlight.length + 1 ∧
      t.mem = memPutBytes s.mem (s.scratchAt j.statusOff) (res.map fun r => BitVec.ofNat 8 r.2.1) ∧
      t.flags = s.flags.set j.ctx (s.flags[j.ctx] ||| res.foldl (fun (g : Flags) r => g ||| r.2.2) 0)) ∧
  (∀ (s : State) (j : LookupSt) (b : BagSt), b ∈ j.bags → b.owing ≠ [] → s.finishLookup j = s) ∧
  (∀ (b : BagSt) (d : Nat), (b.bad = true → b.result d = (List.replicate d 0, 8, 0)) ∧
    (b.bad = false → b.valid = 0 → b.result d = (List.replicate d 0, if b.oob then 3 else 1, 0)))

/-- FORWARD_APPEND of the entry that is due, for a micro-batch bound to a weight slot, or with the first entry of one that can be bound now (to a
CURRENT slot of its step, when micro-batch q - 64 is no longer bound), gives the layer's internals a free run of stash units, or demotes the record,
or marks it for recomputation; it opens or enters the step account, appends the entry on every core of the stage with the arguments of Table 8-1, and
moves the schedule on. BACKWARD_APPEND of the entry that is due drops the record and appends the entry, after a recomputation entry where the
internals are not stashed. An entry that is not due, of a halted context, or of a micro-batch that cannot be bound changes nothing. RECEIPT_START
gives a waiting receipt its SHADOW slot, and otherwise changes nothing. (08_student_backward.md R226, R227, R228, R234, R235, R238, R239) -/
def Obligations.StudentScheduleResults : Prop :=
  (∀ (s : State) (k step mb layer : Nat) (r : StageRec) (l : LayerRec) (i : Fin 2) (x1 : StageSt), s.stageRec k = some r →
    (s.stageLayers k).find? (fun l => l.layer == layer) = some l → s.ctxHalted r.cores r.ctx = false → s.entryDue r true layer mb = true →
    let q := s.seqNo step mb
    let x := s.stage k
    let v : LiveRec := ⟨q, layer, none, l.units, false, s.inRecovery r l⟩
    let appended (live : List LiveRec) (base dem : Nat) : Host.Outcome State Fault Refusal :=
      let s1 := (s.setStage k { x1 with live }).acctForward r.ctx step mb
      let s2 := (s1.countCtx r.ctx ccStashDemote dem).mapAcct r.ctx fun a => { a with demote := a.demote + dem }
      .next ((s2.appendAll r.cores r.ctx ⟨fwdIdx l (s.inRecovery r l),
        layerArgs step mb base (r.slotOff + i.val * (r.slotBytes / 128)) false q, .forward k step mb layer⟩).nextEntry k)
    (x.boundSlot q = some i ∧ x1 = x ∨ x.boundSlot q = none ∧ s.firstFwd k mb layer = true ∧ (q < 64 ∨ x.boundSlot (q - 64) = none) ∧
        x.slotAt .current step = some i ∧ x1 = { x with bound := x.bound ++ [(q, i)] } →
      (l.recompute = true → exec (.forwardAppend k step mb layer) s = appended (x1.live ++ [v]) r.rcBase 0) ∧
      (l.recompute = false →
        let e := allocForward (x1.live.length + 1) r x1.live v
        exec (.forwardAppend k step mb layer) s = appended e.1 e.2.1 e.2.2)) ∧
    (x.boundSlot q = none → s.firstFwd k mb layer = false ∨ (64 ≤ q ∧ x.boundSlot (q - 64) ≠ none) ∨ x.slotAt .current step = none →
      exec (.forwardAppend k step mb layer) s = .next s)) ∧
  (∀ (s : State) (k step mb layer : Nat) (r : StageRec) (l : LayerRec) (i : Fin 2) (v : LiveRec), s.stageRec k = some r →
    (s.stageLayers k).find? (fun l => l.layer == layer) = some l → s.ctxHalted r.cores r.ctx = false → s.entryDue r false layer mb = true →
    let q := s.seqNo step mb
    let x := s.stage k
    let slot := r.slotOff + i.val * (r.slotBytes / 128)
    let s1 := s.setStage k { x with live := x.live.filter fun w => !(w.q == q && w.layer == layer) }
    let bwd (t : State) (base : Nat) : Host.Outcome State Fault Refusal :=
      .next ((t.appendAll r.cores r.ctx ⟨bwdIdx l v.recov, layerArgs step mb base slot false q, .backward k step mb layer⟩).nextEntry k)
    x.boundSlot q = some i → x.live.find? (fun v => v.q == q && v.layer == layer) = some v →
    (∀ b, v.run = some b → exec (.backwardAppend k step mb layer) s = bwd s1 (r.intBase + b * unitBytes r)) ∧
    (v.run = none → exec (.backwardAppend k step mb layer) s =
      bwd (((s1.countCtx r.ctx ccRecompute).mapAcct r.ctx fun a => { a with recompute := a.recompute + 1 }).appendAll r.cores r.ctx
        ⟨fwdIdx l v.recov, layerArgs step mb r.rcBase slot true q, .recompute k step mb layer⟩) r.rcBase)) ∧
  (∀ (s : State) (k step mb layer : Nat) (r : StageRec), s.stageRec k = some r →
    (s.entryDue r true layer mb = false ∨ s.ctxHalted r.cores r.ctx = true → exec (.forwardAppend k step mb layer) s = .next s) ∧
    (s.entryDue r false layer mb = false ∨ s.ctxHalted r.cores r.ctx = true → exec (.backwardAppend k step mb layer) s = .next s)) ∧
  (∀ (s : State) (k : Nat), (s.stage k).waiting = none → exec (.receiptStart k) s = .next s) ∧
  (∀ (s : State) (k v : Nat), (s.stage k).waiting = some v →
    (∀ i, (s.stage k).slotAt .shadow v = some i → exec (.receiptStart k) s = .next (s.setStage k { s.stage k with waiting := none })) ∧
    (∀ i, (s.stage k).slotAt .shadow v = none → (s.stage k).slotIn .shadow = none → (s.stage k).slotIn .free = some i →
      exec (.receiptStart k) s = .next (s.setStage k { (s.stage k).setSlot i ⟨.shadow, v⟩ with waiting := none })) ∧
    ((s.stage k).slotAt .shadow v = none → (s.stage k).slotIn .shadow ≠ none ∨ (s.stage k).slotIn .free = none →
      exec (.receiptStart k) s = .next s))

/-- BEAT_BOUNDARY of a powered device counts one beat modulo 2^64 and returns the phase to 0; without power nothing changes. Edges and Sync intervals
count towards source lock, and a wide one starts the count again. Source lock in phase 4 fixes the start count: under FREE and PTP the acting Plot
Root begins to count at once, under REF on the next edge; a PTP count not above the floor is reported as 0x5031. A relock in phase 5 or on a joined
device ends REF_LOST; the loss of the lock sets REF_LOST and counts on a joined device. A marker counts as that of an upstream on the upstream's port.
A first primary marker acquires the beat; a wild one, or one of another period, formation or Root, slips a joined device (0x5040); a good one of the
primary steers it, one beyond 50 ns is counted, and one of the secondary is noted; others change nothing. BEAT_FAILOVER after 64 beats without a
primary marker steers from a live secondary upstream and counts, and slips without one. A window's bank is zero-filled in its first beat.
(12_sharing_and_preemption.md R350, 13_beat_and_plot.md R356, R361 to R369) -/
def Obligations.BeatResults : Prop :=
  (∀ s : State, (s.powered = true → ∃ t, exec .beatBoundary s = .next t ∧ t.beat = (s.beat + 1) % 2 ^ 64 ∧ t.phase = 0) ∧
    (s.powered = false → exec .beatBoundary s = .next s)) ∧
  (∀ (s : State) (b phase : Nat), let t := s.startBeats b phase
    t.beat = b ∧ t.phase = phase ∧ t.acquired = true ∧ t.origin = s.addr ∧ t.form = s.form + 1) ∧
  (∀ (s : State) (err : Int), s.rootsBeat = true → s.img.beat.source = 1 →
    let s1 : State := { s with bt := { s.bt with ppsRun := if err.natAbs ≤ 10 then s.bt.ppsRun + 1 else 0 } }
    (∀ b, s.bt.start = some b → s.formation.phase = 4 → exec (.beatPpsIn err) s = .next (s1.startBeats b 0)) ∧
    (s.bt.start = none ∨ s.formation.phase ≠ 4 → exec (.beatPpsIn err) s = .next s1)) ∧
  (∀ (s : State) (off : Int), s.rootsBeat = true → s.img.beat.source = 2 →
    exec (.ptpSync s.img.ptpDomain off) s = .next { s with bt := { s.bt with ptpRun := if off.natAbs ≤ 100 then s.bt.ptpRun + 1 else 0 } }) ∧
  (∀ (s : State) (n : Nat) (x : Int), s.rootsBeat = false →
    ∀ i ∈ [Instr.beatPpsIn x, .ptpSync n x, .sourceLock n, .sourceLockLoss], exec i s = .next s) ∧
  (∀ (s : State) (ptp : Nat), s.rootsBeat = true →
    (s.sourceReady = false → exec (.sourceLock ptp) s = .next s) ∧
    (s.sourceReady = true →
      (∀ (b : Nat) (r : JoinRec), s.formed = false → s.formation.phase = 4 → s.formation.total = some r →
        startCount s.img.beat.source s.period r.beatHwm ptp = some b →
        (s.img.beat.source = 1 → exec (.sourceLock ptp) s = .next { s with bt := { s.bt with source := true, start := some b } }) ∧
        (s.img.beat.source = 2 → exec (.sourceLock ptp) s = .next (s.startBeats b (ptp % s.period))) ∧
        (s.img.beat.source = 0 → exec (.sourceLock ptp) s = .next (s.startBeats b 0))) ∧
      (∀ r : JoinRec, s.formed = false → s.formation.phase = 4 → s.formation.total = some r →
        startCount s.img.beat.source s.period r.beatHwm ptp = none →
        exec (.sourceLock ptp) s = .next (State.report { s with formation := { s.formation with phase := 0 } } 0x5031 (.join r))) ∧
      (s.formed = true ∨ s.formation.phase = 5 →
        exec (.sourceLock ptp) s = .next { s with bt := { s.bt with source := true, refLost := false } }))) ∧
  (∀ s : State, s.rootsBeat = true → s.bt.source = true → s.img.beat.source ≠ 0 →
    let s1 (lost : Bool) : State := { s with bt := { s.bt with source := false, ppsRun := 0, ptpRun := 0, start := none, refLost := lost } }
    (s.formed = true → exec .sourceLockLoss s = .next ((s1 true).count cntRefLoss)) ∧
    (s.formed = false → exec .sourceLockLoss s = .next (s1 false))) ∧
  (∀ s : State, s.rootsBeat = true → s.bt.source = false ∨ s.img.beat.source = 0 → exec .sourceLockLoss s = .next s) ∧
  (∀ (s : State) (port lane : Nat) (m : BeatMarker) (frac : Fin 8),
    let i : Instr := .beatMarker port lane m frac
    let key := port * 8 + lane
    let d := (s.portSt key).delay
    let dev := s.deviation m.beat d frac
    let origin := m.origin % 2 ^ 17
    (s.onBeat = false ∨ s.isOrigin = true ∨ m.secondary = true → exec i s = .next s) ∧
    (s.onBeat = true → s.isOrigin = false → m.secondary = false →
      (s.acquired = false → s.primaryUp origin = some m.sender → beatKey s.img origin s.addr = some key → m.periodCode = s.img.beat.periodCode →
        ∃ t, exec i s = .next t ∧ t.acquired = true ∧ t.beat = m.beat + d / 8 / s.period ∧
          t.phase = d / 8 % s.period ∧ t.origin = origin ∧ t.form = m.form ∧ t.bt.depth = m.depth + 1) ∧
      (let pri := s.primaryUp s.origin = some m.sender ∧ beatKey s.img s.origin s.addr = some key
       let sec := s.secondaryUp = some m.sender ∧ s.secondaryKey s.pos = some key
       let near := dev.natAbs ≤ 400
       let s0 := if near then s else s.count cntBeatExcess
       let wild := 8 * s.period < 4 * dev.natAbs ∨ (m.beat : Int) ≠ s.ownCount d frac
       let other := m.periodCode ≠ s.img.beat.periodCode ∨ m.form ≠ s.form ∨ origin ≠ s.origin
       let hears (s1 good : State) : Prop :=
         (wild ∨ other → s.formed = true → exec i s = .next (s1.faultDevice 0x5040 [s.addr, m.sender, s.beat, m.beat]).pumpAll) ∧
         (wild ∨ other → s.formed = false → exec i s = .next { s1 with bt := { s1.bt with run := 0 } }) ∧
         (¬ (wild ∨ other) → exec i s = .next good)
       s.acquired = true →
         (pri → hears { s0 with bt := { s0.bt with dev } } (State.primaryMarker { s0 with bt := { s0.bt with dev } } m dev (decide near))) ∧
         (¬ pri → sec → hears s0 (s0.secondaryMarker m dev)) ∧
         (¬ pri → ¬ sec → exec i s = .next s)))) ∧
  (∀ s : State,
    (s.formed = false ∨ s.isOrigin = true ∨ s.bt.secondary = true ∨ s.recent s.bt.lastPri = true → exec .beatFailover s = .next s) ∧
    (s.formed = true → s.isOrigin = false → s.bt.secondary = false → s.recent s.bt.lastPri = false →
      (s.secondaryAlive = true →
        exec .beatFailover s = .next (State.count { s with bt := { s.bt with secondary := true, back := 0 } } cntBeatFailover)) ∧
      (s.secondaryAlive = false → exec .beatFailover s = .next (s.faultDevice 0x5040 [s.addr]).pumpAll))) ∧
  (∀ s : State, (s.plan = none → exec .accountingWindow s = .next s) ∧
    ∀ p : Plan, s.plan = some p →
      (s.beat % p.acct.beats = 0 → exec .accountingWindow s =
        .next { s with mem := memZero s.mem (s.scratchAt p.acct.off + s.beat / p.acct.beats % 2 * 131072) 131072 }) ∧
      (s.beat % p.acct.beats ≠ 0 → exec .accountingWindow s = .next s))

/-- A device that is not the Vine master and has no position takes NEXT (up to 7) and sends NEXT + 1; one that holds its position confirms it, and
another NEXT is reported as 0x5010 VINE_COUNT. The master sees its own ENUM return: the ring is whole, a count other than the image's is reported, and
it gathers straps and states. A device with ROOTSEL asserted that receives the ENUM of another stops driving VINE_CK, reports 0x5011 and sends the
frame on unchanged; that a frame is its own is told by the command (the model's choice, log entry 118). STRAP and STATE pass on with the device's own
entry appended; the master keeps the straps and reports one that differs, and keeps the states and counts the joinable positions until the limit.
EBEAT sets the early beat of a device that has not acquired the beat, 40 ns later per position, and is sent on. A device that does not handle the Vine
does none of this. (13_beat_and_plot.md R375 to R379, 16_boot_image_journal.md R471, 19_module_electrical.md R537) -/
def Obligations.VineResults : Prop :=
  ∀ (s : State) (next count : Nat) (own : Bool) (straps : List Straps) (states : List Nat),
    (s.vineUp = false → ∀ i ∈ [Instr.enum ⟨next, own⟩, .strap straps, .vineState states, .ebeat count], exec i s = .next s) ∧
    (s.vineUp = true →
    (s.straps.rootSel = false → s.addrValid = false →
      (next ≤ 7 → exec (.enum ⟨next, own⟩) s =
        .next (State.sendVine { s with addr := addrOf s.straps next, addrValid := true } (.enum (next + 1)))) ∧
      (7 < next → exec (.enum ⟨next, own⟩) s = .next (s.sendVine (.enum next)))) ∧
    (s.straps.rootSel = false → s.addrValid = true →
      (next = s.pos → exec (.enum ⟨next, own⟩) s = .next (s.sendVine (.enum (next + 1)))) ∧
      (next ≠ s.pos → exec (.enum ⟨next, own⟩) s = .next (s.formReport 0x5010 [next]))) ∧
    (own = true → s.isMaster = true → s.vine.enumOut = true →
      let s1 : State := { s with vine := { s.vine with enumOut := false, brk := none, ping := none, count := some next } }
      (s1.masterReady = false → exec (.enum ⟨next, own⟩) s = .next s1) ∧
      (s1.masterReady = true → next = s.img.n → exec (.enum ⟨next, own⟩) s = .next s1.gather) ∧
      (s1.masterReady = true → next ≠ s.img.n → exec (.enum ⟨next, own⟩) s = .next (s1.formReport 0x5010 [next]).gather)) ∧
    (own = true → s.straps.rootSel = true → s.isMaster = false ∨ s.vine.enumOut = false → exec (.enum ⟨next, own⟩) s = .next s) ∧
    (own = false → s.straps.rootSel = true → exec (.enum ⟨next, own⟩) s =
      .next ((State.formReport { s with vine := { s.vine with stopped := true, enumOut := false } } 0x5011 []).sendVine (.enum next))) ∧
    (s.isMaster = false → exec (.strap straps) s = .next (s.sendVine (.strap (straps ++ [s.straps])))) ∧
    (s.isMaster = true → ∃ t, exec (.strap straps) s = .next t ∧ t.vine.straps = straps) ∧
    (∀ x : Straps, s.masterReady = true →
      let s1 : State := { s with vine := { s.vine with straps := [x] } }
      (strapCodes s.straps s.img x = [] → exec (.strap [x]) s = .next s1) ∧
      (∀ c, strapCodes s.straps s.img x = [c] → exec (.strap [x]) s = .next (s1.formReport c [0]))) ∧
    (s.isMaster = false → ∃ t, exec (.vineState states) s = .next t ∧ t.vine.states = states ++ [s.dev.code] ∧
      t.out = s.out ++ [.vine (.state (states ++ [s.dev.code]))]) ∧
    (s.isMaster = true → ∃ t, exec (.vineState states) s = .next t ∧ t.vine.states = states ∧
      (s.formation.closed = false → ∀ e ∈ states.zipIdx, codeJoinable e.1 = true → e.2 ∈ t.formation.joinable) ∧
      (s.formation.closed = true → t.formation.joinable = s.formation.joinable)) ∧
    (s.isMaster = true → exec (.ebeat count) s = .next s) ∧
    (s.isMaster = false → s.acquired = false →
      let p := 256 * 2 ^ s.img.beat.periodCode
      exec (.ebeat count) s = .next (State.sendVine { s with beat := count + 40 * s.pos / p, phase := 40 * s.pos % p } (.ebeat count))) ∧
    (s.isMaster = false → s.acquired = true → exec (.ebeat count) s = .next (s.sendVine (.ebeat count))))

/-- When ENUM does not return the master asks position 1; an answer of 48 to 80 cycles within 16 cycles asks the next, any other pulse asks again, and
a position that does not answer is the break, reported as 0x5015, as is the end of the chain when the last position answers. With nothing out the
master does nothing. PING passes on, and the position asked answers with a 64-cycle pulse. While the ring is broken the master repeats ENUM. A pulse
of 200 cycles or more when nothing is asked makes it gather states. At the joinability limit the joinable set is closed, and the master without
position 0 or its alternate reports 0x5014. (13_beat_and_plot.md R376, R379, 16_boot_image_journal.md R472, 19_module_electrical.md R538) -/
def Obligations.VineBreakResults : Prop :=
  ∀ (s : State) (j cycles start : Nat), s.vineUp = true →
    (s.isMaster = true →
      (s.vine.ping = none → s.vine.enumOut = true → exec .enumTimeout s =
        .next (State.sendVine { s with vine := { s.vine with enumOut := false, ping := some 1 } } (.ping 1))) ∧
      (s.vine.ping = none → s.vine.enumOut = false → exec .enumTimeout s = .next s) ∧
      (s.vine.ping = some j → exec .enumTimeout s = .next (s.vineBreak j)) ∧
      (s.vine.ping = none → s.vine.brk ≠ none → exec .enumRepeat s =
        .next (State.sendVine { s with vine := { s.vine with enumOut := true } } (.enum 1))) ∧
      (s.vine.ping = some j → exec .enumRepeat s = .next (State.sendVine { s.vineBreak j with
        vine := { (s.vineBreak j).vine with enumOut := true } } (.enum 1))) ∧
      (s.vine.ping = none → s.vine.brk = none → exec .enumRepeat s = .next s) ∧
      exec (.ping j) s = .next s ∧
      (s.vine.ping = some j →
        let n := if s.imgApplied = true then s.img.n else 8
        let good := 48 ≤ cycles ∧ cycles ≤ 80 ∧ start ≤ 16
        (good → j + 1 < n → exec (.podFaultN cycles start) s =
          .next (State.sendVine { s with vine := { s.vine with ping := some (j + 1) } } (.ping (j + 1)))) ∧
        (good → n ≤ j + 1 → exec (.podFaultN cycles start) s = .next (s.vineBreak (j + 1))) ∧
        (¬ good → exec (.podFaultN cycles start) s = .next (s.sendVine (.ping j)))) ∧
      (s.vine.ping = none →
        (200 ≤ cycles → exec (.podFaultN cycles start) s = .next (s.sendVine (.state [s.dev.code]))) ∧
        (cycles < 200 → exec (.podFaultN cycles start) s = .next s))) ∧
    (s.isMaster = false →
      (s.addrValid = true → s.pos = j → exec (.ping j) s = .next ((s.sendVine (.ping j)).send [.podFault 64])) ∧
      (s.addrValid = false ∨ s.pos ≠ j → exec (.ping j) s = .next (s.sendVine (.ping j))) ∧
      (∀ i ∈ [Instr.enumTimeout, .enumRepeat, .podFaultN cycles start], exec i s = .next s)) ∧
    (∀ k : Nat, ((s.vineBreak k).vine.ping = none ∧ (s.vineBreak k).vine.brk = some k ∧
      (s.vineBreak k).err.sticky = s.err.sticky ||| 128)) ∧
    (s.imgApplied = true → s.formation.closed = false →
      let s1 : State := { s with formation := { s.formation with closed := true } }
      let rootless := s.isMaster = true ∧ 0 ∉ s.formation.joinable ∧ (s.img.n < 2 ∨ s.img.beat.podAlt ∉ s.formation.joinable)
      (rootless → exec .joinableLimit s = .next (s1.formReport 0x5014 [])) ∧ (¬ rootless → exec .joinableLimit s = .next s1)) ∧
    (s.imgApplied = false ∨ s.formation.closed = true → exec .joinableLimit s = .next s)

/-- XFER: a position passes on a block meant for another. The target answers 2 to a block whose CRC-32 differs, 3 to one that is not the next, and
otherwise stores its bytes and answers 1; with the last block the bank that the bytes make up is written. The master, on the status of the block that
it has sent, sends the next one, repeats it up to 16 times, or is done with the position and begins with the next that needs a bank.
(13_beat_and_plot.md R376, 16_boot_image_journal.md R460, R469) -/
def Obligations.BankTransferResults : Prop :=
  ∀ (s : State) (x : Xfer) (crc : Word) (sig : BankSig), s.vineUp = true →
    let i : Instr := .xfer x crc sig
    (s.isMaster = false →
      (s.addrValid = false ∨ x.target ≠ s.pos ∨ s.takesBank x = false → exec i s = .next (s.sendVine (.xfer x))) ∧
      (s.addrValid = true → x.target = s.pos → s.takesBank x = true →
        let got := (if x.block = 0 then [] else s.vine.rxData) ++ x.data
        let written (w : NvmWrite) : Host.Outcome State Fault Refusal := .next (State.sendVine
          { s with vine := { s.vine with rxNext := 0, rxData := [] }, nvm := { s.nvm with write := some w, writer := none } }
          (.xfer { x with status := 1 }))
        (crc ≠ crc32 (xferBytes x) → exec i s = .next (s.sendVine (.xfer { x with status := 2 }))) ∧
        (crc = crc32 (xferBytes x) → x.block ≠ s.vine.rxNext → exec i s = .next (s.sendVine (.xfer { x with status := 3 }))) ∧
        (crc = crc32 (xferBytes x) → x.block = s.vine.rxNext →
          (x.last = false → exec i s =
            .next (State.sendVine { s with vine := { s.vine with rxNext := x.block + 1, rxData := got } } (.xfer { x with status := 1 }))) ∧
          (x.last = true → x.image = true → exec i s = written (.image 0 (readImage got sig))) ∧
          (x.last = true → x.image = false → exec i s = written (.firmware 0 (readFirmware got sig)))))) ∧
    (s.isMaster = true →
      (s.vine.tx = none → exec i s = .next s) ∧
      (∀ (image : Bool) (j k reps : Nat), s.vine.tx = some (image, j, k, reps) →
        let sent := x.image = image ∧ x.target = j ∧ x.block = k
        let done : State := { s with vine := { s.vine with tx := none } }
        let again (k n : Nat) : Host.Outcome State Fault Refusal := .next (State.sendVine { s with vine := { s.vine with tx := some (image, j, k, n) } }
          (.xfer (xferBlock image j ((s.vineBank image).getD []) k)))
        (¬ sent → exec i s = .next s) ∧
        (sent → x.status = 1 → x.last = true → exec i s = .next done.beginXfer) ∧
        (sent → x.status = 1 → x.last = false → exec i s = again (k + 1) 0) ∧
        (sent → x.status ≠ 1 → reps < 16 → exec i s = again k (reps + 1)) ∧
        (sent → x.status ≠ 1 → 16 ≤ reps → exec i s = .next done.beginXfer)))

/-- In phase 2 a device sends HELLO on every required port. A HELLO of the wired neighbour verifies the port and starts its probes (once); another
marks it miswired and reports 0x5020 (once); a joinable neighbour of the pod counts as joinable before the limit. Of 64 probes the smallest round trip
gives the delay; a delay beyond the medium's limit is reported as 0x5022. A verified port that goes down on a joined device loses its lanes, and a job
over the link faults 0x6102. Commands that do not apply change nothing. (01_package_and_step.md R44, 13_beat_and_plot.md R366, R382 to R384,
14_faults_and_checkpoints.md R391, R392) -/
def Obligations.DiscoveryResults : Prop :=
  ∀ (s : State) (port lane rt ta : Nat) (h : Hello),
    let key := port * 8 + lane
    let x := s.portSt key
    (s.formation.phase = 2 → s.dev = .configured → exec .helloSend s = .next (s.send ((requiredPorts s.img s.addr).map s.helloOn))) ∧
    (s.formation.phase ≠ 2 ∨ s.dev ≠ .configured → exec .helloSend s = .next s) ∧
    (let hears := key ∈ requiredPorts s.img s.addr ∧ s.addrValid = true ∧ (s.dev = .configured ∧ 2 ≤ s.formation.phase ∨ s.formed = true)
     let wired := neighbour s.img s.addr key = (h.addr, h.port, h.lane)
     let s1 : State := if h.addr / 8 = s.addr / 8 ∧ h.joinable = true ∧ s.formation.closed = false ∧ posOf h.addr ∉ s.formation.joinable then
       { s with formation := { s.formation with joinable := s.formation.joinable ++ [posOf h.addr] } } else s
     (¬ hears → exec (.hello port lane h) s = .next s) ∧
     (hears → wired → x.st ≠ 2 → x.st ≠ 6 → exec (.hello port lane h) s =
       .next ((s1.setPort key { x with st := 2, lanes := lanesMask key, neigh := some h }).send [.probes port lane])) ∧
     (hears → wired → x.st = 2 ∨ x.st = 6 → exec (.hello port lane h) s =
       .next (s1.setPort key { x with lanes := lanesMask key, neigh := some h })) ∧
     (hears → ¬ wired → x.st ≠ 3 → exec (.hello port lane h) s =
       .next ((s1.setPort key { x with st := 3, lanes := lanesMask key, neigh := some h }).formReport 0x5020 [port, h.addr])) ∧
     (hears → ¬ wired → x.st = 3 → exec (.hello port lane h) s = .next (s1.setPort key { x with neigh := some h }))) ∧
    (x.st ≠ 2 → x.st ≠ 6 → exec (.linkDelayProbe port lane rt ta) s = .next s) ∧
    (∀ b : Nat × Nat, x.st = 2 ∨ x.st = 6 → (∀ r, x.best = some r → b = if rt < r.1 then (rt, ta) else r) → (x.best = none → b = (rt, ta)) →
      (x.probes < 63 → exec (.linkDelayProbe port lane rt ta) s = .next (s.setPort key { x with best := some b, probes := x.probes + 1 })) ∧
      (63 ≤ x.probes →
        let d := (b.1 - b.2) / 2
        let y : PortSt := { x with delay := d, best := none, probes := 0 }
        (d ≤ 8 * delayLimit key → exec (.linkDelayProbe port lane rt ta) s = .next (s.setPort key { y with st := 2 })) ∧
        (8 * delayLimit key < d → x.st = 2 → exec (.linkDelayProbe port lane rt ta) s =
          .next ((s.setPort key { y with st := 6 }).formReport 0x5022 [port, d])) ∧
        (8 * delayLimit key < d → x.st = 6 → exec (.linkDelayProbe port lane rt ta) s = .next (s.setPort key { y with st := 6 })))) ∧
    (let a := (neighbour s.img s.addr key).1
     let t := s.setPort key { x with st := 5, lanes := 0 }
     (x.st ≠ 2 ∨ s.formed = false → exec (.linkDown port lane) s = .next s) ∧
     (x.st = 2 → s.formed = true → (∀ j ∈ (s.plan.map Plan.jobs).getD [], t.jobOver j port a = false) →
       exec (.linkDown port lane) s = .next t.pumpAll) ∧
     (∀ (p : Plan) (j : JobRec) (c : Fin 8) (cs : List (Fin 8)), x.st = 2 → s.formed = true → s.plan = some p → p.jobs = [j] →
       t.jobOver j port a = true → (s.jobSt j.job).st ≠ .halted → jobCtxs j = c :: cs →
       exec (.linkDown port lane) s = .next (t.faultCtx 0x6102 c [port, a]).pumpAll))

/-- Each phase begins after the one before it: phase 1 on an idle device, 2 (with HELLO on every required port) once the ring is counted, 3 with the
device's own join record, 4 and 5 in their turn, the acting Plot Root entering phase 4 by its own decision alone; formation acquires the beat anew. A
device in no phase rejoins alone, and goes from phase 3 to 5; its join record goes to its acting Pod Root, or to the acting Plot Root from that device
itself. A phase that runs out leaves the device out of JOINED with the code of the phase. Join records are held by pod, row and Plot and combined; the
acting Plot Root of a joined Plot accepts one with no code and its own digest, and reports another. A lock record at the acting Plot Root joins its
list; elsewhere it goes on towards the Root. An announcement that comes in time fixes the join beat and is passed on, unless a port is miswired; a
late one leaves the device out. At the join beat the device is JOINED with its digest; with neither plan nor known ports it also journals a BEAT_MARK.
(01_package_and_step.md R44, 13_beat_and_plot.md R373, R379 to R387) -/
def Obligations.FormationResults : Prop :=
  ∀ (s : State),
    let f := s.formation
    (∀ n : PhaseStart, s.dev ≠ .configured ∨ s.addrValid = false ∨ n.phase ∉ [1, 2, 3, 4, 5] → exec (.formationPhaseStart n) s = .next s) ∧
    (∀ away : List Nat, s.dev = .configured → s.addrValid = true →
      (f.phase = 0 → f.alone = false →
        exec (.formationPhaseStart ⟨1, away⟩) s = .next (State.startPhase1 { s with formation := {}, acquired := false, bt := {} })) ∧
      (f.phase = 0 ∨ f.phase = 1 ∧ (f.alone = true ∨ s.isMaster = false ∨ s.vine.brk = none ∧ s.vine.count = some s.img.n) →
        let s1 := (requiredPorts s.img s.addr).foldl (fun (t : State) k => t.setPort k { st := 1 }) s
        let s2 : State := { s1 with formation := { f with phase := 2, alone := f.alone || f.phase == 0, joinBeat := none }, acquired := false, bt := {} }
        exec (.formationPhaseStart ⟨2, away⟩) s = .next (s2.send ((requiredPorts s.img s.addr).map s2.helloOn))) ∧
      (f.phase = 1 → f.alone = false → s.isMaster = true → s.vine.brk ≠ none ∨ s.vine.count ≠ some s.img.n →
        exec (.formationPhaseStart ⟨2, away⟩) s = .next s) ∧
      (f.phase = 2 →
        let s2 : State := { s.endDiscovery away with formation := { (s.endDiscovery away).formation with phase := 3 } }
        (f.alone = true → exec (.formationPhaseStart ⟨3, away⟩) s =
          .next (s2.send [.join (if s2.podRootAddr = s2.addr then s2.origin else s2.podRootAddr) s2.ownJoin])) ∧
        (f.alone = false → s2.pos ≠ s2.podRootPos → exec (.formationPhaseStart ⟨3, away⟩) s = .next (s2.send [.join s2.podRootAddr s2.ownJoin])) ∧
        (f.alone = false → s2.pos = s2.podRootPos → exec (.formationPhaseStart ⟨3, away⟩) s = .next (s2.putJoin 0 s2.pos s2.ownJoin).tryPod)) ∧
      (f.phase = 3 → f.alone = false → f.plotRoot = false →
        exec (.formationPhaseStart ⟨4, away⟩) s = .next { s with formation := { f with phase := 4 } }) ∧
      (f.plotRoot = true → exec (.formationPhaseStart ⟨4, away⟩) s = .next s) ∧
      (f.phase = 4 ∧ f.plotRoot = false ∨ f.phase = 3 ∧ f.alone = true →
        exec (.formationPhaseStart ⟨5, away⟩) s = .next { s with formation := { f with phase := 5 } })) ∧
    (let out (code : Nat) : Host.Outcome State Fault Refusal := .next (State.report { s with formation := { f with phase := 0 } } code (.info [f.phase]))
     (s.dev ≠ .configured ∨ f.phase = 0 ∨ f.joinBeat ≠ none → exec .joinTimeout s = .next s) ∧
     (s.dev = .configured → f.joinBeat = none →
       (f.phase = 1 → exec .joinTimeout s = out 0x5003) ∧
       (f.phase = 2 ∨ f.phase = 3 → exec .joinTimeout s = out (if f.code = 0 then 0x5003 else f.code)) ∧
       (f.phase = 4 → exec .joinTimeout s = out (if f.plotRoot = true ∧ s.bt.source = false then 0x5030 else 0x5003)) ∧
       (f.phase = 5 → exec .joinTimeout s = out (if s.bt.locked = true then 0x5003 else 0x5032)))) ∧
    (∀ r : JoinRec,
      (s.formed = false → s.dev = .configured → f.phase ≠ 0 →
        (r.address / 8 = s.addr / 8 → exec (.joinRecord r) s = .next (s.putJoin 0 (posOf r.address) r).tryPod) ∧
        (r.address / 8 ≠ s.addr / 8 → rowNo r.address = rowNo s.addr → exec (.joinRecord r) s = .next (s.putJoin 1 (podOf r.address) r).tryRow) ∧
        (rowNo r.address ≠ rowNo s.addr → exec (.joinRecord r) s = .next (s.putJoin 2 (rowNo r.address) r).tryPlot)) ∧
      (s.formed = true →
        (s.isOrigin = false → exec (.joinRecord r) s = .next (s.send [.join s.origin r])) ∧
        (s.isOrigin = true → r.code ≠ 0 → exec (.joinRecord r) s = .next (s.report r.code (.join r))) ∧
        (s.isOrigin = true → r.code = 0 → r.digest ≠ s.ownDigest → exec (.joinRecord r) s = .next (s.report 0x5001 (.join r))) ∧
        (s.isOrigin = true → r.code = 0 → r.digest = s.ownDigest → r.address ∉ f.accepted →
          exec (.joinRecord r) s = .next { s with formation := { f with accepted := f.accepted ++ [r.address] } }))) ∧
    (∀ l, (s.formed = true ∨ s.dev = .configured ∧ s.acquired = true) → s.isOrigin = false →
      exec (.lockRecord l) s = .next (s.send [.locked s.origin l])) ∧
    (∀ l, s.dev = .configured → s.acquired = true → s.isOrigin = true →
      exec (.lockRecord l) s = .next (State.tryAnnounce { s with formation := { f with locks := f.locks ++ l.filter fun d => !f.locks.contains d } })) ∧
    (∀ d, s.formed = true → s.isOrigin = true →
      (d ∉ f.accepted → exec (.lockRecord [d]) s = .next s) ∧
      (d ∈ f.accepted → ∃ t, exec (.lockRecord [d]) s = .next t ∧ d ∉ t.excluded ∧ d ∉ t.formation.accepted ∧
        t.out = s.out ++ [.announce d { joinBeat := s.beat + 4096, excluded := t.excluded, form := s.form, origin := s.addr, only := some d }])) ∧
    (∀ a : Announce,
      (∀ d, a.only = some d → d ≠ s.addr → s.formed = true →
        exec (.announcement a) s = .next { s with excluded := s.excluded.filter fun e => some d != some e }) ∧
      (∀ d, a.only = some d → d ≠ s.addr → s.formed = false → exec (.announcement a) s = .next s) ∧
      (a.only = none ∨ a.only = some s.addr →
        (s.dev = .configured → f.phase = 5 → s.bt.locked = true → f.joinBeat = none → s.miswired = false →
          let s1 : State := if a.joinBeat ≤ s.beat then { s with formation := { f with phase := 0 } }
            else { s with formation := { f with joinBeat := some a.joinBeat }, excluded := a.excluded }
          (a.only = none → exec (.announcement a) s = .next (s1.send (s1.beatChildren.map fun d => .announce d a))) ∧
          (a.only = some s.addr → exec (.announcement a) s = .next s1)) ∧
        (s.dev ≠ .configured ∨ f.phase ≠ 5 ∨ s.bt.locked = false ∨ f.joinBeat ≠ none ∨ s.miswired = true → exec (.announcement a) s = .next s))) ∧
    (s.dev ≠ .configured ∨ f.joinBeat ≠ some s.beat → exec .joinBeat s = .next s) ∧
    (s.dev = .configured → f.joinBeat = some s.beat →
      exec .joinBeat s = .next s.enterJoined ∧
      (s.plan = none → s.ports = [] →
        let t := s.enterJoined
        t.dev = .joined ∧ t.joinDigest = s.ownDigest ∧ t.formation.joinBeat = none ∧ t.formation.phase = 0 ∧
          t.jnl.queue = s.jnl.queue ++ [⟨s.jnl.seq + 1, s.beatNs, .beatMark⟩]))

/-- A READY record of a child for the step under way is held with the beat of the first one and combined; one of another step or version faults
0x5041. A marker of the step, in time, whose version is the next one and that of every SHADOW slot of the job, is held, passed to the children and
commits the checkpoint of the step; one whose commit beat has begun faults 0x6021, and one of another step or version 0x5041. Each 0x5041 names both
devices and both values that differ. The leader without a decision COMMIT_LIMIT beats after the first READY record faults 0x6020.
(09_update_and_scaling.md R262 to R264, 13_beat_and_plot.md R389) -/
def Obligations.CommitTreeResults : Prop :=
  ∀ (s : State) (n : Nat) (j : JobRec), s.jobRec n = some j →
    let t := s.jobSt j.job
    (∀ (origin : Nat) (r : ReadyRec), r.job = n → t.st = .running → origin ∈ s.treeChildren j → t.readySent = false →
      (r.step = t.step → r.version = t.step + 1 → exec (.ready origin r) s = .next ((s.setJob j.job { t with
        ready := aput t.ready origin r, firstReady := if t.firstReady.isSome then t.firstReady else some s.beat }).combineUp j)) ∧
      (r.step ≠ t.step → exec (.ready origin r) s = .next (s.faultJob 0x5041 j [s.addr, origin, t.step, r.step])) ∧
      (r.step = t.step → r.version ≠ t.step + 1 →
        exec (.ready origin r) s = .next (s.faultJob 0x5041 j [s.addr, origin, t.step + 1, r.version]))) ∧
    (∀ m : Marker, m.job = n → t.st = .running → t.marker = none →
      let agrees := m.version = t.step + 1 ∧ ∀ r ∈ s.jobStages j, ∀ i, (s.stage r.stage).slotIn .shadow = some i →
        (s.stage r.stage).slots[i].version = m.version
      let parent := (s.treeParent j).getD s.addr
      (s.beat < m.commitBeat → m.step = t.step → agrees → exec (.commitMarker m) s =
        .next (((s.setJob j.job { t with marker := some m }).send ((s.treeChildren j).map fun a => .marker a m)).commitCkpt j m.step)) ∧
      (m.commitBeat ≤ s.beat → exec (.commitMarker m) s = .next (s.faultJob 0x6021 j [s.addr])) ∧
      (s.beat < m.commitBeat → m.step ≠ t.step → exec (.commitMarker m) s = .next (s.faultJob 0x5041 j [s.addr, parent, t.step, m.step])) ∧
      (s.beat < m.commitBeat → m.step = t.step → ¬ agrees →
        ∃ v, v ≠ m.version ∧ exec (.commitMarker m) s = .next (s.faultJob 0x5041 j [s.addr, parent, v, m.version]))) ∧
    (∀ b, (s.jobSt n).firstReady = some b → (s.jobSt n).st = .running → (s.jobSt n).marker = none → s.treeParent j = none →
      s.isMember j = true →
      (b + s.policyRec.commitLimit ≤ s.beat → exec (.commitTimeout n) s = .next (s.faultJob 0x6020 j [s.addr])) ∧
      (s.beat < b + s.policyRec.commitLimit → exec (.commitTimeout n) s = .next s))

/-- At the beat of its marker COMMIT_BEAT applies it and takes the checkpoint that is due with a COMMIT, after which READY is tried again and the
schedule of the job's contexts is evaluated; in DRAIN the job's student contexts stop instead. What a halt in the same beat takes back is kept.
Applying a COMMIT makes the marker's version the step under way, adds 1 to the update count, turns the moment-bank selector and moves the loss scale
and its growth counter as R253 says; applying a SKIP changes none of the first three and lowers the scale. The marker is no longer held. In another
beat nothing changes. (09_update_and_scaling.md R243, R253, R257, R265, 08_student_backward.md R240, 14_faults_and_checkpoints.md R396) -/
def Obligations.CommitBeatResults : Prop :=
  ∀ (s : State) (n : Nat) (j : JobRec) (m : Marker), s.jobRec n = some j →
    let t := s.jobSt n
    let after := (s.applyMarker j m).jobSt n
    t.marker = some m →
    (t.st = .running → m.commitBeat = s.beat →
      let u := s.applyMarker j m
      let w := (if m.commit = true ∧ j.ckptEvery ≠ 0 ∧ m.version % j.ckptEvery = 0 then u.takeCkpt j else u).keepUndo n (s.undoOf j (!m.commit))
      (w.dev ≠ .drain → exec (.commitBeat n) s = .next ((w.tryReady j).runJob j).pumpAll) ∧
      (w.dev = .drain →
        let y := (w.studentCtxs j).foldl State.haltCtx w
        exec (.commitBeat n) s = .next (y.setJob n { w.jobSt n with st := .none, ckpt := none, ckptHold := false }))) ∧
    (m.commitBeat ≠ s.beat ∨ t.st ≠ .running → exec (.commitBeat n) s = .next s) ∧
    (m.commit = true → after.step = m.version ∧ after.u = t.u + 1 ∧ after.cur = !t.cur ∧
      (after.e, after.growth) = (if t.growth + 1 = s.policyRec.growth then (min (t.e + 1) s.policyRec.maxE, 0) else (t.e, t.growth + 1))) ∧
    (m.commit = false → after.step = t.step ∧ after.u = t.u ∧ after.cur = t.cur ∧ after.e = max (t.e - s.policyRec.backoff) s.policyRec.minE ∧
      after.growth = 0) ∧
    (after.marker = none ∧ after.ready = [] ∧ after.base = s.beat)

/-- At a commit the growth counter increments; when it reaches GROWTH, E becomes min(E + 1, MAX_E) and the counter 0. At a skip E becomes max(E -
BACKOFF, MIN_E) and the counter 0. With MIN_E = MAX_E the scale stays where it is, and the leader still decides SKIP when a READY flag is set. (R253)
-/
def Obligations.LossScaleRule : Prop :=
  ∀ (s : State) (t : JobSt) (m : Marker),
    let p := s.policyRec
    let y := s.jobAfter t m
    (m.commit = true → t.growth + 1 ≠ p.growth → y.e = t.e ∧ y.growth = t.growth + 1) ∧
    (m.commit = true → t.growth + 1 = p.growth → y.e = min (t.e + 1) p.maxE ∧ y.growth = 0) ∧
    (m.commit = false → y.e = max (t.e - p.backoff) p.minE ∧ y.growth = 0) ∧
    (p.minE = p.maxE → t.e = p.minE → y.e = t.e) ∧
    (∀ (j : JobRec) (r : ReadyRec), (s.jobSt j.job).readySent = false → aget (s.jobSt j.job).ready s.addr = some r → s.treeParent j = none →
      s.treeChildren j = [] → ((s.combineUp j).jobSt j.job).marker.map Marker.commit = some (!(r.nfGrad || r.nfUpdate)))

/-- LOCAL_COPY_COMPLETE writes the part of the checkpoint under way to its local bank and marks the bank complete. A partner writes a hosted copy to
the bank without the newest complete part; with the digest that the part names the bank is complete and the copy acknowledged, with another neither
(the model's choice, log entry 122). The acknowledgement of the version under way makes the hosted copy safe; that of another version changes nothing,
and neither does a local copy that is not under way or a hosted copy that is not this device's to hold. (14_faults_and_checkpoints.md R398 to R400) -/
def Obligations.CheckpointResults : Prop :=
  ∀ (s : State) (n role v a p : Nat) (j : JobRec) (c : CkptRun) (part : List Byte), s.jobRec n = some j →
    let t := s.jobSt n
    (t.ckpt = some c → c.waiting = false → c.localDone = false →
      let q := s.partNow j c.version
      let b := localIdx c.bank
      exec (.localCopyComplete n) s = .next (State.ckptSafe (State.setJob { s with mem := memPutBytes s.mem (s.bankAddr j b.val) q } n
        { t with ckpt := some { c with localDone := true }, banks := t.banks.set b { t.banks[b] with complete := true, bytes := q.length } }) j)) ∧
    (j.members[role]? = some (a, p) → t.st = .running → j.members[p]?.map (·.1) = some s.addr →
      let b := hostedIdx (otherBank t.banks[2] t.banks[3])
      let done (ok : Bool) : State := State.setJob { s with mem := memPutBytes s.mem (s.bankAddr j b.val) part } n
        { t with banks := t.banks.set b { version := some v, complete := ok, role, bytes := part.length } }
      (partIntact part v none = true → exec (.hostedCopy n role v part) s = .next ((done true).send [.hostedAck a n v])) ∧
      (partIntact part v none = false → exec (.hostedCopy n role v part) s = .next ((done false).send []))) ∧
    (t.ckpt = some c → c.waiting = false → exec (.hostedCopyAck n c.version) s =
      .next ((s.setJob n { t with ckpt := some { c with hostedDone := true } }).ckptSafe j)) ∧
    (t.ckpt = some c → c.version ≠ v ∨ c.waiting = true → exec (.hostedCopyAck n v) s = .next s) ∧
    (t.ckpt = some c → c.waiting = true ∨ c.localDone = true → exec (.localCopyComplete n) s = .next s) ∧
    (t.ckpt = none → exec (.localCopyComplete n) s = .next s ∧ exec (.hostedCopyAck n v) s = .next s) ∧
    (t.st ≠ .running → exec (.hostedCopy n role v part) s = .next s)

/-- A child's start-ready record is held and combined; a second one, and one to a running job, change nothing. A start record of this formation fixes
the start beat and passes down; one of another formation faults 0x5041, one whose beat has begun faults 0x5042. At the start beat the job runs with
ATTEMPT one higher, its contexts' records are armed, the scale words are written, and a JOINED device is in RUN; a first start begins from the initial
values, and it and a start after a substitution take a checkpoint. The schedule of the job's contexts is then evaluated. (09_update_and_scaling.md
R243, R256, 13_beat_and_plot.md R373, R389, 14_faults_and_checkpoints.md R398, R408) -/
def Obligations.StartResults : Prop :=
  ∀ (s : State) (n origin f b : Nat) (j : JobRec), s.jobRec n = some j →
    let t := s.jobSt n
    (origin ∈ s.treeChildren j → origin ∉ t.startReady → t.st ≠ .running →
      exec (.startReady n origin) s = .next ((s.setJob n { t with startReady := t.startReady ++ [origin] }).combineStart j)) ∧
    (origin ∉ s.treeChildren j ∨ origin ∈ t.startReady ∨ t.st = .running → exec (.startReady n origin) s = .next s) ∧
    (t.st = .starting → t.startBeat = none → f = s.form → s.beat < b → exec (.startRecord n f b) s =
      .next ((s.setJob n { t with startBeat := some b }).send ((s.treeChildren j).map fun a => .startRecord a n f b))) ∧
    (t.st = .starting → t.startBeat = none → f ≠ s.form → exec (.startRecord n f b) s = .next (s.faultJob 0x5041 j [s.addr, (s.treeParent j).getD s.addr, s.form, f])) ∧
    (t.st = .starting → t.startBeat = none → f = s.form → b ≤ s.beat → exec (.startRecord n f b) s = .next (s.faultJob 0x5042 j [s.addr])) ∧
    (t.st = .starting → t.startBeat = some s.beat → s.dev ≠ .drain →
      let t1 := if t.started = true then t else s.initJob t
      let s1 := s.setJob n { t1 with st := .running, attempt := t.attempt + 1, notified := false, base := s.beat, startBeat := none, startReady := [], startSent := false, started := true, substituted := false }
      let s3 := ((jobCtxs j).foldl State.startCtx { s1 with dev := if s.dev = .joined then .run else s.dev }).writeScales j
      let goes (u : State) : Prop := exec (.startBeat n) s = .next (((u.keepUndo n (s.undoOf j false)).tryReady j).runJob j).pumpAll
      (t.started = true → t.substituted = false → goes s3) ∧
      (t.started = false ∨ t.substituted = true → goes (s3.takeCkpt j))) ∧
    (t.st ≠ .starting ∨ t.startBeat ≠ some s.beat ∨ s.dev = .drain → exec (.startBeat n) s = .next s)

/-- A chunk for another device goes on towards it. A chunk without credit at the adders waits at its sender; one of another step faults 0x5041; with
credit it is combined, and a final check copy is compared. Low-rank factors need credit and are combined in the same way, and the broadcast of factors
is taken in the step after. Of a job that does not run, or of no bucket of the channel, a chunk changes nothing. At the deadline a contribution that
has not entered faults 0x6030 under WAIT; under CARRY or DROP it is marked late, counted and journalled, an excluded contribution takes its place, and
one carried already is dropped with it. From D_s + EXCH_LIMIT an exchange that is pending faults 0x6031, and nothing changes before or when nothing is
pending. (10_gradient_exchange.md R273, R275, R276, R283, R286 to R291, R294 to R296) -/
def Obligations.ExchangeResults : Prop :=
  (∀ (s : State) (dst : Nat) (c : Chunk), dst ≠ s.addr → exec (.chunk ⟨dst, c⟩) s = .next (s.sendChunk dst c)) ∧
  (∀ (s : State) (r : ExchRec) (c : Chunk), s.exchRec c.chan = some r →
    let i : Instr := .chunk ⟨s.addr, c⟩
    let x := s.exchSt c.chan
    let step := s.exchStep r
    let runs := s.jobRunning r.ctx = true ∧ c.kind ≠ .parameters ∧ c.idx < r.buckets.length
    let final := c.check = true ∧ s.lastBit r c ≤ c.bit
    let held := ¬ final ∧ s.credit r step c.idx c.check = false
    let mismatch (n : Nat) : Host.Outcome State Fault Refusal := .next (s.faultCtx 0x5041 r.ctx [s.addr, c.node, n, c.step]).pumpAll
    (¬ runs → exec i s = .next s) ∧
    (runs → c.kind = .lowPhQ → c.step ≠ step + 1 → exec i s = mismatch (step + 1)) ∧
    (runs → c.kind = .lowPhQ → c.step = step + 1 → exec i s = .next (s.lowBroadcast r c)) ∧
    (runs → c.kind ≠ .lowPhQ → held → exec i s = .next s) ∧
    (runs → c.kind ≠ .lowPhQ → ¬ held → c.step ≠ step → exec i s = mismatch step) ∧
    (runs → c.kind ≠ .lowPhQ → c.step = step → final →
      exec i s = .next ((((s.setExch c.chan { x with checks := x.checks ++ [c] }).compare r c).tryReadyCtx r.ctx).pumpAll)) ∧
    (runs → c.kind ≠ .lowPhQ → ¬ held → c.step = step → ¬ final →
      exec i s = .next ((((s.addChunk r c).settleLeaves r c.step).tryReadyCtx r.ctx).pumpAll))) ∧
  (∀ (s : State) (ch idx : Nat) (r : ExchRec) (b : BucketRec), s.exchRec ch = some r → s.jobRunning r.ctx = true → s.addr ∈ r.members →
    r.buckets[idx]? = some b →
    let step := s.exchStep r
    let x := s.exchSt ch
    let l := x.leaf idx step
    let inTime := (∃ e, l.entry = some e ∧ e < s.deadline r) ∧ s.replayExcluded r idx step = false
    let late := s.deadline r ≤ s.beat ∧ ¬ inTime ∧ l.late = false
    (¬ late → exec (.stragglerDeadline ch idx) s = .next s) ∧
    (late → s.policy r idx step = 0 → exec (.stragglerDeadline ch idx) s = .next (s.faultCtx 0x6030 r.ctx [s.addr, ch]).pumpAll) ∧
    (late → s.policy r idx step ≠ 0 →
      let twice := if r.sparse then (s.sparseCarry r step).isSome else (x.carryFor idx step).isSome
      let carry := decide (s.policy r idx step = 1) && !twice
      let y := x.setLeaf { l with late := true, drop := !carry, exp := (s.ctxJob r.ctx).e }
      let s1 := s.setExch ch { y with
        carries := if twice then y.carries.filter fun c => !(c.idx == idx) else y.carries
        own := if carry then y.own else y.own.filter fun w => !(w.step == step || twice && w.step + 1 == step) }
      let s2 := if carry then s1.countCtx r.ctx ccStragglerCarry else s1.countCtx r.ctx ccStragglerDrop (if twice then 2 else 1)
      let id := ((s.jobOf r.ctx).map (·.job)).getD 0
      let s3 := s2.journalStraggler id (.straggler id step ch idx s.addr (s.policy r idx step))
      let l1 := (s3.exchSt ch).leaf idx step
      (r.sparse = true → exec (.stragglerDeadline ch idx) s = .next ((s3.enterSparse r step).tryReadyCtx r.ctx).pumpAll) ∧
      (r.sparse = false → l1.data.length < b.elems →
        exec (.stragglerDeadline ch idx) s = .next ((s3.settleLeaves r step).tryReadyCtx r.ctx).pumpAll) ∧
      (r.sparse = false → b.elems ≤ l1.data.length →
        exec (.stragglerDeadline ch idx) s = .next (((s3.lateData r b l1).settleLeaves r step).tryReadyCtx r.ctx).pumpAll))) ∧
  (∀ (s : State) (ch : Nat) (r : ExchRec), s.exchRec ch = some r → s.jobRunning r.ctx = true →
    (s.deadline r + s.img.exch.exchLimit ≤ s.beat → s.exchPending r = true →
      exec (.exchTimeout ch) s = .next (s.faultCtx 0x6031 r.ctx [s.addr, ch]).pumpAll) ∧
    (s.beat < s.deadline r + s.img.exch.exchLimit ∨ s.exchPending r = false → exec (.exchTimeout ch) s = .next s))

/-- FUU_UPDATE at the owner processes the oldest summed bucket of a dense channel, or the step's lists of a sparse one. A range of the next version
for another device goes on; here it waits while the stage has no slot for it; otherwise it is stored with its copies, counted as received and sent on,
and when it is the last range its counter increments; a range of another version faults 0x5041, and during a restore it brings the version restored. A
sparse list of the step joins the owner's lists when the staging area has room, and otherwise waits; one of another step faults 0x5041, and a second
one of a source changes nothing. A completed row-shadow copy lets its table's lookups go on. (09_update_and_scaling.md R246 to R251,
08_student_backward.md R238, 10_gradient_exchange.md R275, R276, R279 to R281, 14_faults_and_checkpoints.md R413) -/
def Obligations.UpdateResults : Prop :=
  (∀ (s : State) (ch : Nat) (r : ExchRec), s.exchRec ch = some r →
    (s.jobRunning r.ctx = true → r.owner = s.addr → r.sparse = false →
      (∀ x rest, (s.exchSt ch).sums = x :: rest → exec (.fuuUpdate ch) s = .next (s.fuuBucket r x rest)) ∧
      ((s.exchSt ch).sums = [] → exec (.fuuUpdate ch) s = .next s)) ∧
    (s.jobRunning r.ctx = true → r.owner = s.addr → r.sparse = true → exec (.fuuUpdate ch) s = .next (s.fuuSparse r)) ∧
    (s.jobRunning r.ctx = false ∨ r.owner ≠ s.addr → exec (.fuuUpdate ch) s = .next s)) ∧
  (∀ (s : State) (dst : Nat) (c : ParamChunk), dst ≠ s.addr → exec (.parameterChunk ⟨dst, c⟩) s = .next (s.sendParam dst c)) ∧
  (∀ (s : State) (r : ExchRec) (c : ParamChunk) (b : BucketRec) (u : UpdRec) (st : StageRec), s.exchRec c.chan = some r →
    r.buckets[c.idx]? = some b → s.updRec b.tensorId = some u → s.stageRec u.stage = some st →
    let i : Instr := .parameterChunk ⟨s.addr, c⟩
    let v := s.exchStep r + 1
    let x := s.stage u.stage
    let restoring := (s.ctxJob r.ctx).st = .restoring ∨ (s.ctxJob r.ctx).st = .starting
    (restoring → exec i s = .next (s.restoreChunk r st u b c)) ∧
    (¬ restoring → s.jobRunning r.ctx = false → exec i s = .next s) ∧
    (¬ restoring → s.jobRunning r.ctx = true →
      (c.version ≠ v → exec i s = .next (s.faultCtx 0x5041 r.ctx [s.addr, r.owner, v, c.version]).pumpAll) ∧
      (c.version = v → x.shadowFor v = none → exec i s = .next (s.setStage u.stage (x.waitFor v))) ∧
      (∀ x1 sh, c.version = v → x.shadowFor v = some (x1, sh) →
        let s1 := c.vals.zipIdx.foldl (fun (t : State) e =>
          t.putWeight st.ctx (s.slotAddr st sh) u (v - 1) (weightIndex u b (c.off + e.2)) e.1.toNat) (s.setStage u.stage x1)
        let y := s1.exchSt r.chan
        let s2 := s1.setExch r.chan { y with got := aput y.got c.idx ((aget y.got c.idx).getD 0 + c.vals.length) }
        let s3 := (s2.routeChildren r).foldl (fun (t : State) d => t.sendParam d c) s2
        let whole := ∀ e ∈ r.buckets.zipIdx, e.1.elems ≤ (aget (s3.exchSt r.chan).got e.2).getD 0
        (whole → exec i s = .next ((s3.bumpEntry r.recvCnt 1).tryReadyCtx r.ctx)) ∧
        (¬ whole → exec i s = .next (s3.tryReadyCtx r.ctx))))) ∧
  (∀ (s : State) (ch : Nat) (r : ExchRec) (l : SparseList), s.exchRec ch = some r → r.owner = s.addr → r.sparse = true →
    s.jobRunning r.ctx = true →
    let x := s.exchSt ch
    ((∃ y ∈ x.lists, y.source = l.source ∧ y.step = l.step) → exec (.sparseList ch l) s = .next s) ∧
    ((∀ y ∈ x.lists, y.source ≠ l.source ∨ y.step ≠ l.step) →
      (l.step ≠ s.exchStep r → exec (.sparseList ch l) s = .next (s.faultCtx 0x5041 r.ctx [s.addr, l.source, s.exchStep r, l.step]).pumpAll) ∧
      (l.step = s.exchStep r → s.sparseRoom r l = false → exec (.sparseList ch l) s = .next s) ∧
      (l.step = s.exchStep r → s.sparseRoom r l = true →
        exec (.sparseList ch l) s = .next ((s.setExch ch { x with lists := x.lists ++ [l] }).enterSparse r l.step)))) ∧
  (∀ (s : State) (tb : Nat),
    (tb ∈ s.shadowCopy → exec (.rowShadowCopyComplete tb) s = .next { s with shadowCopy := s.shadowCopy.filter (· != tb) }) ∧
    (tb ∉ s.shadowCopy → exec (.rowShadowCopyComplete tb) s = .next s))

/-- With fewer than INFLIGHT batch steps in flight COMPOSE composes one, after the adapters that become LIVE and the requests that expire in the beat;
with INFLIGHT in flight, in DRAIN or with the context stopped it composes none. DRAFT_SAMPLE of a pair request appends the sampled token to the draft
and writes the transfer record; an EMPTY row ends the draft, and a NONFINITE one ends it and marks the round. For a single-model request it decides
the round: one token, or the end with REQ_MASK_EMPTY, or with REQ_NONFINITE and NAN_IN. ACCEPTANCE_JOB decides the round of a pair request from its
rows, frees the slots that it read and counts its completion. (11_serving.md R302, R303, R304, R306, R310 to R312) -/
def Obligations.ServingResults : Prop :=
  ∀ (s : State) (c : Fin 8) (p : ServeRec), s.serveRec c = some p →
    let s1 := s.settleLive.expireWaiting c
    let flying := (s1.batches.filter fun b => b.ctx == c).length
    let may := s1.ctxRuns c = true ∧ s1.dev ≠ .drain ∧ flying < p.inflight
    (may → exec (.compose c) s = .next (s1.compose c p).pumpAll) ∧
    (¬ may → exec (.compose c) s = .next s1) ∧
    (∀ (slot id row n : Nat) (x : ReqSt) (r : LossRec) (b : BatchSt), s.req c slot = some x → s.lossRec id = some r → x.round = none → r.ctx = c →
      r.kind = .accept → x.inStep = some n → (s.batches.find? fun q => q.id == n) = some b → b.items.contains (slot, .round) = true →
      let sigma := x.drafts.foldl (maskNext (s.maskOf x)) x.sigma
      let v := decode .fp32 x.r.invT.toNat
      let draw (g t role : Nat) (row : List Machine.Num) := sampleRow (x.r.accept == 2) v x.r.seed t role (maskRow (s.maskOf x) g row)
      let drafted := draw sigma (x.committed + x.drafts.length) 0 (s.studentRow r row)
      let ends (nan : Bool) := exec (.draftSample c slot id row) s =
        .next ((s.setReq c slot { x with draftStop := true, draftNan := nan }).writeDraft p (s.batchIndex x slot) x.drafts)
      let decides (t : State) : Sampled → Prop
        | .tok j => exec (.draftSample c slot id row) s = .next (t.setReq c slot { x with round := some { toks := [(j, 0)] } })
        | .empty => exec (.draftSample c slot id row) s = .next (t.setReq c slot { x with round := some { toks := [], code := some 0x2141 } })
        | .nonfinite => exec (.draftSample c slot id row) s =
            .next ((t.setReq c slot { x with round := some { toks := [], code := some 0x2142, nan := true } }).postFlags c flNanIn)
      (x.r.model = 0 → x.draftStop = true ∨ x.r.draft ≤ x.drafts.length → exec (.draftSample c slot id row) s = .next s) ∧
      (x.r.model = 0 → x.draftStop = false → x.drafts.length < x.r.draft →
        (∀ j, sigma ≠ maskAccept → drafted = .tok j → exec (.draftSample c slot id row) s =
          .next ((s.setReq c slot { x with drafts := x.drafts ++ [j] }).writeDraft p (s.batchIndex x slot) (x.drafts ++ [j]))) ∧
        (sigma = maskAccept ∨ drafted = .empty → ends false) ∧
        (sigma ≠ maskAccept → drafted = .nonfinite → ends true)) ∧
      (x.r.model = 1 → decides s (draw x.sigma x.committed 0 (s.studentRow r row))) ∧
      (∀ segs, x.r.model ≠ 0 → x.r.model ≠ 1 → (∀ g ∈ r.segs, (s.buf g.buffer).taken < (s.buf g.buffer).arrived) → s.lossRow r 0 = some segs →
        decides (r.segs.foldl (fun (u : State) g => u.setBuf g.buffer
            { u.buf g.buffer with taken := (u.buf g.buffer).taken + 1, freed := (u.buf g.buffer).freed + 1 }) s)
          (draw x.sigma x.committed 2 (segs.flatMap LossSeg.teachAll)))) ∧
    (∀ (slot i : Nat) (x : ReqSt) (j : LossJob) (r : LossRec), s.req c slot = some x →
      (s.lossHeads.find? fun (_, _, r) => r.kind == .accept && r.ctx == c) = some (i, j, r) → x.inStep.isSome = true → x.round = none → x.r.model = 0 →
      x.r.kind = 1 →
      let m := s.maskOf x
      let sig (k : Nat) : Nat := (x.drafts.take k).foldl (maskNext m) x.sigma
      let rowOf (k : Nat) (f : LossSeg → List Machine.Num) : List Machine.Num := ((j.rows[k]?).map fun w => w.segs.flatMap f).getD []
      let zs := (List.range x.drafts.length).map fun k => maskRow m (sig k) (rowOf k LossSeg.z)
      let ys := (List.range (x.drafts.length + 1)).map fun k => maskRow m (sig k) (rowOf k LossSeg.teachAll)
      let decided := decideRound (x.r.accept == 2) (decode .fp32 x.r.invT.toNat) x.r.seed x.committed x.drafts zs ys
      let rd : Round := if x.draftNan then { toks := [], code := some 0x2142, nan := true } else decided
      let t := ({ s with loss := s.loss.eraseIdx i }).setReq c slot { x with round := some rd }
      let t1 := if rd.nan then t.postFlags c flNanIn else t
      let t2 := r.segs.foldl (fun (t : State) g => t.freeSlots g.buffer r.rows) t1
      exec (.acceptanceJob c slot) s =
        .next (((LossRec.cores r).foldl (fun (t : State) n => t.bump ⟨n, c⟩ r.doneCnt 1) t2).raiseEvent c (.loss r.id) [] .plain))

/-- compose() adds at most one batch step, of this context, with the next identifier. The positions of its items are together at most STEP_TOKENS: n
for a prefill chunk of n positions, D + 1 for a round of a pair request, 1 for another round, N for a ranking request. Every page set that a request
of the context holds afterwards it held before or was free. (11_serving.md R302, Table 11-3) -/
def Obligations.ComposeWithinBudget : Prop :=
  ∀ (s : State) (c : Fin 8) (p : ServeRec), ∃ items : List (Nat × Work),
    (s.compose c p).batches = s.batches ++ (if items = [] then [] else [{ id := s.nextBatch, ctx := c, items }]) ∧
    (s.compose c p).nextBatch = (if items = [] then s.nextBatch else s.nextBatch + 1) ∧
    (items.map fun e => match e.2, s.req c e.1 with
      | .prefill n, _ => n
      | .round, some x => if x.r.model = 0 ∧ x.r.kind = 1 then x.r.draft + 1 else 1
      | .rank, some x => x.r.nTok
      | _, none => 0).sum ≤ p.stepTokens ∧
    (∀ (slot : Nat) (y : ReqSt) (e : Nat × Nat), (s.compose c p).req c slot = some y → e ∈ y.sets →
      e.2 ∈ s.freeSets c p ∨ ∃ x, s.req c slot = some x ∧ e ∈ x.sets)

/-- Whatever the drafts, the i-th token that greedy acceptance emits is the token that greedy sampling of the i-th teacher row gives: the element with
the largest value, ties to the lower index, at any position and seed. A token flagged DRAFTED is the draft of its place, and at most one token more
than the drafts is emitted. (11_serving.md R311, R312, R313) -/
def Obligations.GreedyEmitsTheTeachersTokens : Prop :=
  ∀ (v : Machine.Num) (seed t : Nat) (ds : List Nat) (zs ys : List (List (Machine.Num × Bool))),
    let l := (acceptFrom true v seed t ds zs ys).1
    l.length ≤ ds.length + 1 ∧
    ∀ (i tok fl : Nat), l[i]? = some (tok, fl) →
      (∃ y, ys[i]? = some y ∧ ∀ t' seed' v', sampleRow true v' seed' t' 2 y = .tok tok) ∧ (fl = fDrafted → ds[i]? = some tok)

/-- The end beat of a batch step removes it. Of a batch step with one request, its results are written, and the request ends when a condition of R312
holds or its ranking is done; one whose deadline has come ends with REQ_EXPIRED, a cancelled one with REQ_CANCELLED, and neither writes a record of
the batch step. A batch step that is not done or lacks its scores goes on. A request in no batch step expires in its deadline beat and not before.
Once no pause entry is open, a pause lists the summary and ends with END_PAUSED, or with REQ_NOT_KEPT where its conversation has been listed, or with
REQ_CANCELLED where a CANCEL has landed. An ENDING slot is FREE RING_HOLD beats after its terminal record, and a summary goes SUMMARY_TTL beats of its
context after its listing. (11_serving.md R303, R312, R316 to R319, R323, R325, R328) -/
def Obligations.RequestEndResults : Prop :=
  (∀ (s : State) (c : Fin 8) (p : ServeRec) (id : Nat) (ranks : List RankScores) (b : BatchSt), s.serveRec c = some p →
    (s.batches.find? fun b => b.id == id && b.ctx == c) = some b →
    let i : Instr := .batchStepEnd c id ranks
    let done := s.batchDone b = true ∧ s.ranksDone b ranks = true
    let s0 : State := { s with batches := s.batches.filter fun q => q.id != id }
    (¬ done → exec i s = .next s) ∧
    (done → ∃ t, exec i s = .next t ∧ t.batches = s0.batches) ∧
    (∀ (slot : Nat) (w : Work) (x : ReqSt), done → b.items = [(slot, w)] → s.req c slot = some x →
      (x.r.deadline ≠ 0 → x.r.deadline ≤ s.beat → exec i s = .next ((s0.skipItem c slot w ranks).endRequest c slot 0x2140)) ∧
      ((x.r.deadline = 0 ∨ s.beat < x.r.deadline) → x.cancel = true → exec i s = .next ((s0.skipItem c slot w ranks).endRequest c slot 0x2148)) ∧
      ((x.r.deadline = 0 ∨ s.beat < x.r.deadline) → x.cancel = false → exec i s = .next (match s0.writeItem c p slot w ranks with
        | (t, none) => t
        | (t, some (code, rank)) => t.finishReq c p slot code rank)))) ∧
  (∀ (s : State) (c : Fin 8) (slot : Nat) (x : ReqSt), s.req c slot = some x →
    (x.ph.active = true → x.inStep = none → x.r.deadline ≠ 0 → x.r.deadline ≤ s.beat → exec (.deadline c slot) s = .next (s.endRequest c slot 0x2140)) ∧
    (s.beat < x.r.deadline ∨ x.r.deadline = 0 ∨ x.ph.active = false ∨ x.inStep ≠ none → exec (.deadline c slot) s = .next s) ∧
    (∀ p b, s.serveRec c = some p → x.termBeat = some b →
      (x.ph = .ending → b + p.ringHold ≤ s.beat → exec (.ringHold c slot) s = .next (s.freeReq c slot)) ∧
      (x.ph ≠ .ending ∨ s.beat < b + p.ringHold → exec (.ringHold c slot) s = .next s)) ∧
    (x.ph ≠ .pausing ∨ s.pauseOpen c slot = true → ∀ core entry, exec (.pauseComplete c slot core entry) s = .next s) ∧
    (x.ph = .pausing → s.pauseOpen c slot = false →
      (x.cancel = true → ∀ core entry, exec (.pauseComplete c slot core entry) s = .next (s.endRequest c slot 0x2148)) ∧
      (∀ y, x.cancel = false → x.saved = some y → aget s.summaries x.r.conv ≠ none →
        ∀ core entry, exec (.pauseComplete c slot core entry) s = .next (s.endRequest c slot 0x2147)) ∧
      (∀ y, x.cancel = false → x.saved = some y → aget s.summaries x.r.conv = none →
        let z : Summary := { y with keptBeat := s.beat }
        ∀ core entry, exec (.pauseComplete c slot core entry) s = .next (({ s with summaries := aput s.summaries x.r.conv z
                                                                                   mem := memPutBytes s.mem (s.regionBase .cellar + z.at_) (sumRecord z) }).endRequest c slot 3)))) ∧
  (∀ (s : State) (conv : Nat) (x : Summary) (r : ServeRec), aget s.summaries conv = some x → s.serveRec x.ctx = some r →
    (r.summaryTtl ≠ 0 → x.keptBeat + r.summaryTtl ≤ s.beat → exec (.summaryTtl conv) s = .next { s with summaries := adel s.summaries conv }) ∧
    (r.summaryTtl = 0 ∨ s.beat < x.keptBeat + r.summaryTtl → exec (.summaryTtl conv) s = .next s))

/-- A SAMPLE or REQ frame that opens a free slot in order, or goes on with a slot that its session has claimed, writes its bytes to the slot; with
LAST a sample is complete, and a request is validated: with no code of R299 it is admitted, with one it ends. A request of another CLIENT than the
session's, or on the summary of another, is refused with 0x4003. An ACK within the ring sets CONS and frees an ENDING slot that it passes. A CANCEL
marks a request of a batch step or a pausing one, whose later pause entries go; it ends one in no batch step, with REQ_EXPIRED when its deadline has
come, and changes no ended one. STREAM_RESUME makes the session the stream session and sends from CONS. (11_serving.md R299, R316 to R319,
14_faults_and_checkpoints.md R404, R405, 15_trust.md R433, 17_ethernet_transport.md R495 to R499, R504) -/
def Obligations.ClientFrames : Prop :=
  ∀ (s : State) (f : Frame) (x : SessionSt) (c : Fin 8) (slot : Nat),
    let u := s.taken f
    let fin := State.endFrame f x.early.length
    (∀ (sid : Nat) (data : List Byte) (d : DataRec), Delivers s f (.sample c slot sid data) x → u.dataRec c = some d → slot < d.slots →
      (aget u.samples (sampleKey c slot) = none → f.offset = 0 → ((u.jobOf c).map fun j => (u.jobSt j.job).sampleFirst).getD 0 ≤ sid →
        data.length ≤ d.slotBytes → d.sampleBase ≤ sid → (sid - d.sampleBase) % d.slots = slot →
        exec (.sample f c slot sid data) s =
          .next (fin (u.landSample d f slot (sampleKey c slot) data { session := f.session, id := sid, written := 0 }))) ∧
      (∀ y : SampleSlot, aget u.samples (sampleKey c slot) = some y → y.done = none → y.session = f.session → f.offset = y.written →
        f.offset + data.length ≤ d.slotBytes →
        exec (.sample f c slot sid data) s = .next (fin (u.landSample d f slot (sampleKey c slot) data y)))) ∧
    (∀ (data : List Byte) (p : ServeRec), Delivers s f (.req c slot data) x → u.serveRec c = some p → slot < p.slots →
      f.offset + data.length ≤ p.slotBytes →
      let foreign := u.foreignClient p f slot x.client data = true ∨ u.foreignSummary p f slot x.client data = true
      (foreign → (u.req c slot = none ∧ f.offset = 0) ∨
          (∃ y, u.req c slot = some y ∧ y.ph = .claimed ∧ y.session = some f.session ∧ f.offset = y.written) →
        exec (.req f c slot data) s = .next (fin (u.refuse f (.req c slot data) 0x4003))) ∧
      (¬ foreign → u.req c slot = none → f.offset = 0 →
        exec (.req f c slot data) s = .next (fin (u.landReq c p f slot data { session := some f.session, client := x.client }))) ∧
      (∀ y : ReqSt, ¬ foreign → u.req c slot = some y → y.ph = .claimed → y.session = some f.session → f.offset = y.written →
        exec (.req f c slot data) s = .next (fin (u.landReq c p f slot data y)))) ∧
    (∀ (p : ServeRec) (y : ReqSt),
      let r := s.readRequest (s.scratchAt p.reqOff + slot * p.slotBytes)
      (s.settleLive.requestCodes p r = [] →
        ∃ z, (s.validate c p slot y).req c slot = some z ∧ z.ph = .admitted ∧ z.r = r ∧ z.admBeat = s.beat ∧ z.client = r.client) ∧
      (s.settleLive.requestCodes p r ≠ [] → ∃ z, (s.validate c p slot y).req c slot = some z ∧ z.ph = .ending ∧ z.r = r)) ∧
    (∀ q : ReqSt, u.req c slot = some q → q.ph ≠ .claimed → q.client = x.client →
      (∀ cons, Delivers s f (.ack c slot cons) x → cons < 2 ^ 32 → ringDist q.cons cons ≤ 2 ^ q.r.ringLog2 → ringDist cons q.prod ≤ 2 ^ q.r.ringLog2 →
        let pos := q.cons + ringDist q.cons cons
        (q.ph = .ending → ringDist cons q.prod = 0 → exec (.ack f c slot cons) s = .next (fin (u.freeReq c slot))) ∧
        (q.ph ≠ .ending ∨ ringDist cons q.prod ≠ 0 → exec (.ack f c slot cons) s =
          .next (fin (u.setReq c slot { q with cons := pos, ring := q.ring.drop (ringDist q.cons cons), sent := max q.sent pos })))) ∧
      (Delivers s f (.cancel c slot) x →
        let now (t : State) := exec (.cancel f c slot) s = .next (fin (t.status f (.cancel c slot) 0))
        let marked := u.setReq c slot { q with cancel := true }
        (q.ph = .pausing → now (if q.cancel then marked else marked.cancelPause c slot)) ∧
        (q.ph.active = true → q.inStep.isSome = true → now marked) ∧
        (q.ph.active = true → q.inStep = none → q.r.deadline = 0 ∨ u.beat < q.r.deadline → now (u.endRequest c slot 0x2148)) ∧
        (q.ph.active = true → q.inStep = none → q.r.deadline ≠ 0 → q.r.deadline ≤ u.beat → now (u.endRequest c slot 0x2140)) ∧
        (q.ph ≠ .pausing → q.ph.active = false → now u)) ∧
      (Delivers s f (.resume c slot) x → exec (.streamResume f c slot) s =
        .next (fin (((u.setReq c slot { q with session := some f.session, sent := q.cons }).pumpStream c slot).status f (.resume c slot) 0))))

/-- CLOSE removes the session. SWITCH to a plan that verifies starts the drain with that plan, and in CONFIGURED changes the plan at once. RESTART at
the coordinator of a stopped job, or of a halted one whose halt phase has ended, starts the assign phase; of one not yet so far it waits, and
elsewhere it is only answered; a member whose meter is exhausted refuses it. REJOIN takes a HALT device to CONFIGURED with its fault bits and first
fault record clear. DRAIN takes a RUN device to DRAIN. TICKET stores a key while there is room for its client, STORAGE_KEY stores its key, PFC_SET
sets the priority, OWNER_TRANSFER under the current owner's key burns the next owner, and READ answers with the registers. A PROVE that verifies opens
its session, and an OPERATOR one takes the waiting reports and exports; one that fails removes its session. (12_sharing_and_preemption.md R353,
14_faults_and_checkpoints.md R397, R407, 15_trust.md R428, R432, 17_ethernet_transport.md R485, R489, R490, R503) -/
def Obligations.ControlFrames : Prop :=
  ∀ (s : State) (f : Frame) (x : SessionSt),
    let u := s.taken f
    let fin := State.endFrame f x.early.length
    (Delivers s f .close x → exec (.close f) s = .next (fin ((u.status f .close 0).closeSession f.session))) ∧
    (∀ (e k : Nat) (p : Plan), Delivers s f (.switch e) x → u.switch = none → (e = 0xFF ∧ u.planRx = some p ∧ k = 0xFE) ∨ (e ≠ 0xFF ∧ u.libraryPlan e = .ok p ∧ k = e) →
      verifyPlan p u.img (u.verifyEnv true) = none →
      (u.dev ≠ .configured →
        exec (.switch f e) s = .next (fin (({ u with dev := .drain, switch := some (p, k), drainSince := u.beat } : State).status f (.switch e) 0))) ∧
      (u.dev = .configured → exec (.switch f e) s = .next (fin ((u.changePlan p k).status f (.switch e) 0)))) ∧
    (∀ (job vEnd : Nat) (replay : Bool) (ext : Option Nat) (excl : List Exclusion) (j : JobRec), Delivers s f (.restart job replay vEnd ext excl) x →
      u.jobRec job = some j →
      let b : FrameBody := .restart job replay vEnd ext excl
      let q : RestartReq := { ext, replay := if replay then some vEnd else none, exclusions := if replay then excl else [] }
      let t := u.jobSt job
      let done (v : State) : Prop := exec (.restart f job replay vEnd ext excl) s = .next (fin (v.status f b 0))
      let waits := u.setJob job { t with coord := { t.coord with request := some q } }
      (u.sec.exhausted = true → u.isMember j = true → exec (.restart f job replay vEnd ext excl) s = .next (fin (u.refuse f b 0x4120))) ∧
      (u.sec.exhausted = false ∨ u.isMember j = false →
        (u.origin = u.addr →
          (u.jobView j = .stopped → done (u.assignPhase j false t.coord.since.isNone q)) ∧
          (u.jobView j = .halted → u.settled j = true → done (u.assignPhase j false false q)) ∧
          (u.jobView j = .halted ∧ u.settled j = false ∨ u.jobView j = .none → done waits)) ∧
        (u.origin ≠ u.addr ∨ u.jobView j ∉ [JobState.stopped, .halted, .none] → done u))) ∧
    (Delivers s f .rejoin x → exec (.rejoin f) s =
      .next (fin (({ u with dev := .configured, acquired := false, bt := {}, err := { u.err with sticky := u.err.sticky &&& 0xFFFFFFE0, first := none }, formation := { phase := 1, alone := true, joinable := u.formation.joinable, closed := u.formation.closed } } : State).status f .rejoin 0))) ∧
    (Delivers s f .drain x →
      (u.dev = .run → exec (.drain f) s = .next (fin (({ u with dev := .drain, drainSince := u.beat } : State).status f .drain 0))) ∧
      (u.dev ≠ .run → exec (.drain f) s = .next (fin (u.status f .drain 0)))) ∧
    (∀ (client : Nat) (key : Digest), Delivers s f (.ticket client key) x →
      (u.sec.tickets.length < 4096 ∨ (aget u.sec.tickets client).isSome = true → exec (.ticket f client key) s =
        .next (fin (({ u with sec := { u.sec with tickets := aput u.sec.tickets client key } } : State).status f (.ticket client key) 0))) ∧
      (4096 ≤ u.sec.tickets.length → aget u.sec.tickets client = none →
        exec (.ticket f client key) s = .next (fin (u.status f (.ticket client key) 0)))) ∧
    (∀ key : Digest, Delivers s f (.storageKey key) x → exec (.storageKey f key) s =
      .next (fin ((({ u with sec := { u.sec with storageKey := some key } } : State).pumpExports).status f (.storageKey key) 0))) ∧
    (∀ prio : Nat, prio ≤ 7 →
      (Delivers s f (.pfcSet true prio) x → exec (.pfcSet f true prio) s =
        .next (fin (({ u with eth := { u.eth with pfc := some prio } } : State).status f (.pfcSet true prio) 0))) ∧
      (Delivers s f (.pfcSet false prio) x → exec (.pfcSet f false prio) s =
        .next (fin (({ u with eth := { u.eth with pfc := none, paused := false, pausing := false } } : State).status f (.pfcSet false prio) 0)))) ∧
    (∀ (next signer : Digest) (sig : SigInfo), Delivers s f (.ownerTransfer next signer sig) x →
      let b : FrameBody := .ownerTransfer next signer sig
      let no (code : Nat) : Prop := exec (.ownerTransfer f next signer sig) s = .next (fin (u.refuse f b code))
      let mine := u.sec.owners ≠ [] ∧ signer = u.sec.owner
      (sig.valid = true → mine → u.sec.owners.length < 16 → exec (.ownerTransfer f next signer sig) s =
        .next (fin (({ u with sec := { u.sec with owners := u.sec.owners ++ [next] } } : State).status f b 0))) ∧
      (sig.valid = false → no 0x4001) ∧ (sig.valid = true → ¬ mine → no 0x4002) ∧
      (sig.valid = true → mine → 16 ≤ u.sec.owners.length → no 0x4021)) ∧
    (∀ (off count : Nat) (meas : List Nat), Delivers s f (.read off count meas) x → off % 4 = 0 → 0 < count → count ≤ 256 → off + 4 * count ≤ 0x10000 →
      let v := u.refresh meas
      exec (.read f off count meas) s = .next (fin ((v.readRegs off count).2.sendFrame f.session (.values ((List.range count).map fun i => v.reg (off + 4 * i)))))) ∧
    (∀ (k : Proof) (g : SigInfo), Arrives s f x → x.opened = false → x.obj = none → f.offset = 0 → f.last = true →
      let o := (u.setSession f.session { x with opened := true }).sendFrame f.session (.opened 0)
      (u.proofCode x k g = 0 → x.authority ≠ .operator → exec (.prove f k g) s = .next (fin o)) ∧
      (u.proofCode x k g = 0 → x.authority = .operator → exec (.prove f k g) s =
        .next (fin (o.reports.foldl (fun (t : State) r => t.sendFrame f.session (.report r)) ({ o with reports := [] } : State)).pumpExports)) ∧
      (u.proofCode x k g ≠ 0 → exec (.prove f k g) s =
        .next (fin (((u.reject (u.proofCode x k g) 5).sendFrame f.session (.opened (u.proofCode x k g))).closeSession f.session))))

/-- A HUSK that passes R439 is bound and answered with code 0, one that fails is answered with its code and the teacher-region key rotates, and before
key derivation a Husk waits; with a Husk bound a delivery changes nothing (the model's choice, log entry 123). HUSK_REMOVE of the bound Husk by the
operator or its licensor unbinds it, and of another one changes nothing. A valid METER_GRANT under the key of its licensor is journalled. The last
frame of an adapter load stores its weights and records its version in a free slot of its rank, which becomes LIVE in the beat, and ADAPTER_REMOVE
retires it. Masks are read from their bytes and listed, and freed when no request refers to them; summaries are exported under seal, imported into a
pool when they open, and dropped. A firmware, image or plan write begins with nothing else under way, into the bank that is not in use. A plan for
SWITCH is held, and a CKPT object that opens is held for its role. (11_serving.md R307, R320, R325, R326, 15_trust.md R438 to R441, R447, R451,
16_boot_image_journal.md R467, R470, 17_ethernet_transport.md R500, R501) -/
def Obligations.ObjectFrames : Prop :=
  ∀ (s : State) (f : Frame) (x : SessionSt),
    let u := s.taken f
    let fin := State.endFrame f x.early.length
    (∀ h : Husk, Delivers s f (.husk h) x →
      let code := u.huskCode h false [h.chunks]
      let b : FrameBody := .husk h
      let done (v : State) (code : Nat) : Prop := exec (.husk f h) s = .next (fin (if code = 0 then v.status f b 0 else v.refuse f b code))
      (u.sec.keys = true → u.sec.husk ≠ none → done u (u.huskHeadCode h)) ∧
      (u.sec.keys = true → u.sec.husk = none →
        done (if code = 0 then u.bindHusk h ((u.unwrapKey h).getD 0) [h.chunks]
          else State.rotate { u with sec := { u.sec with contentKey := none } } .teacher) code) ∧
      (u.sec.keys = false → exec (.husk f h) s =
        .next (fin { u with sec := { u.sec with held := u.sec.held ++ [⟨f.session, f.psn, h⟩] } }))) ∧
    (∀ (h : Husk) (key : Digest) (srcs : List (List HuskChunk)), (u.bindHusk h key srcs).sec.husk = some h.huskId ∧
      (u.bindHusk h key srcs).sec.contentKey = some key ∧ (u.bindHusk h key srcs).sec.policy = h.policy) ∧
    (∀ id : Digest, Delivers s f (.huskRemove id) x →
      (u.sec.husk = some id → x.authority ≠ .licensor ∨ x.key = u.sec.licensor →
        exec (.huskRemove f id) s = .next (fin (u.unbind.status f (.huskRemove id) 0)) ∧ u.unbind.sec.husk = none) ∧
      (u.sec.husk ≠ some id → exec (.huskRemove f id) s = .next (fin (u.status f (.huskRemove id) 0)))) ∧
    (∀ (g : Grant) (m : MeterSt), Delivers s f (.meterGrant g) x →
      x.authority ≠ .licensor ∨ m.licensor = x.key → g.sig.valid = true → g.reservedOk = true →
      g.deviceId = u.deviceId → aget u.sec.meters g.huskId.toNat = some m → g.signer = m.licensor → m.grantSeq < g.seq → m.limit ≤ g.limit →
      exec (.meterGrant f g) s = .next (fin ((u.journal (.meterGrant g.huskId g.seq g.limit)).status f (.meterGrant g) 0))) ∧
    (∀ (a : AdapterObj) (i : Nat) (w : Nat × Nat), Delivers s f (.adapterLoad a) x → a.rank = 16 ∨ a.rank = 32 ∨ a.rank = 64 →
      ((u.adapterSlots a.teacher a.rank).find? fun e => (aget u.adapters e.1).isNone) = some (i, w) →
      (∀ h, aget u.adapterHigh (adapterKey a.ident a.teacher) = some h → h < a.version) → (a.teacher = true → u.exportBit 2 = true) →
      let v := ((u.beginAdapter a).1.onAdapterLoad (some i) a).1
      exec (.adapterLoad f a) s = .next (fin (v.status f (.adapterLoad a) 0)) ∧
        aget v.adapterHigh (adapterKey a.ident a.teacher) = some a.version ∧ (v.mem = match (u.adapterSlots a.teacher a.rank).find? fun e => e.1 == i with
          | some (_, b, n) => memPutBytes u.mem b (a.weights.take n)
          | none => u.mem) ∧
        (∃ l : AdapterSt, aget v.adapters i = some l ∧ l.loaded = true ∧ l.names a.ident a.teacher = true ∧ l.version = a.version ∧ l.rank = a.rank)) ∧
    (∀ (ident : Nat) (teacher : Bool) (i : Nat), Delivers s f (.adapterRemove ident teacher) x → u.settleLive.liveAdapter ident teacher = some i →
      exec (.adapterRemove f ident teacher) s =
        .next (fin ((u.settleLive.retireAdapter ident teacher).status f (.adapterRemove ident teacher) 0))) ∧
    (∀ (id : Nat) (data : List Byte) (m : MaskObj) (p : Plan) (r : ServeRec), Delivers s f (.maskLoad id data) x → aget u.masks id = none →
      parseMask data = some m → u.plan = some p → r ∈ p.serve → m.ok r.vocab = true →
      exec (.maskLoad f id data) s = .next (fin (({ u with masks := aput u.masks id m } : State).status f (.maskLoad id data) 0))) ∧
    (∀ (id : Nat) (m : MaskObj), Delivers s f (.maskRemove id) x → aget u.masks id = some m →
      (id ∉ u.maskFree → exec (.maskRemove f id) s =
        .next (fin ((({ u with maskFree := u.maskFree ++ [id] } : State).settleRefs).status f (.maskRemove id) 0))) ∧
      (id ∈ u.maskFree → exec (.maskRemove f id) s = .next (fin (u.settleRefs.status f (.maskRemove id) 0)))) ∧
    (∀ (conv : Nat) (y : Summary), aget u.summaries conv = some y →
      (Delivers s f (.summaryExport conv) x → u.exportBit 1 = true →
        let sealed := u.sealExport (u.sec.contentKey.getD 0) u.summaryLabel (u.sumData y) FrameOut.summary
        exec (.summaryExport f conv) s = .next (fin ((sealed.1.sendFrames f.session sealed.2).status f (.summaryExport conv) 0))) ∧
      (Delivers s f (.summaryDrop conv) x →
        exec (.summaryDrop f conv) s = .next (fin (({ u with summaries := adel u.summaries conv } : State).status f (.summaryDrop conv) 0)))) ∧
    (∀ (exportId : Digest) (data : List Byte) (tags : List (BitVec 128)), Delivers s f (.summaryImport exportId data tags) x →
      let b : FrameBody := .summaryImport exportId data tags
      let opened := u.sec.contentKey.bind fun k => openExport k exportId u.summaryLabel data tags
      (opened = none → exec (.summaryImport f exportId data tags) s = .next (fin (u.refuse f b 0x4142))) ∧
      (∀ (l : List Byte) (p : Plan) (c : Fin 8) (at_ : Nat), opened = some l → u.plan = some p →
        let y := readSummary l
        let z : Summary := { y with ctx := c, at_, keptBeat := u.beat }
        aget u.summaries y.conv.toNat = none → u.importPlace l.length = some (c, at_) → p.digest = y.planDigest →
        y.digest = sumDigest l (pageSets y.length) →
        exec (.summaryImport f exportId data tags) s = .next (fin (({ u with summaries := aput u.summaries y.conv.toNat z
                                                                             mem := memPutBytes u.mem (u.regionBase .cellar + at_) (sumRecord z ++ l.drop 128) } : State).status f b 0)))) ∧
    (u.nvm.write = none →
      let begin_ (w : NvmWrite) : State := { u with nvm := { u.nvm with write := some w, writer := some (f.session, f.psn) } }
      (∀ w : Firmware, Delivers s f (.fwBank w) x → exec (.firmwareBank f w) s = .next (fin (begin_ (.firmware (match u.fwRun with
        | some b => 1 - b
        | none => 0) w)))) ∧
      (∀ (i : Image), Delivers s f (.imageBank i) x → (u.imgApplied = false ∨ ∀ b j, u.imgRun = some b → u.nvm.img[b] = some j → j.seq.toNat < i.seq.toNat) →
        exec (.imageBank f i) s = .next (fin (begin_ (.image (match u.imgRun with
          | some b => 1 - b
          | none => 0) i)))) ∧
      (∀ (slot : Nat) (p : Plan), Delivers s f (.planSlot slot p) x → slot ≤ 15 → (∀ e ∈ u.img.directory, e.slot ≠ slot) →
        exec (.planSlot f slot p) s = .next (fin (begin_ (.plan slot p))))) ∧
    (∀ p : Plan, Delivers s f (.planForSwitch p) x → exec (.planForSwitch f p) s = .next (fin { u with planRx := some p })) ∧
    (∀ (job role : Nat) (exportId : Digest) (part : List Byte) (m : Option Manifest) (tags : List (BitVec 128)) (j : JobRec),
      let b : FrameBody := .ckpt job role exportId part m tags
      Delivers s f b x → u.jobRec job = some j → u.roleOf j = some role →
      let i : Instr := .ckpt f job role exportId part m tags
      let opened := (u.ckptBase j).bind fun k => openExport k exportId (ckptLabel j) part tags
      (opened = none → exec i s = .next (fin (u.refuse f b 0x4142))) ∧
      (∀ l, opened = some l →
        ((u.jobSt job).st ≠ .running → exec i s = .next (fin (u.setJob job { u.jobSt job with extern := some l, externMan := m }))) ∧
        ((u.jobSt job).st = .running → exec i s = .next (fin u))))

/-- ACK_ONLY with a new PSN is taken and its acknowledgement fields with it, a malformed one is rejected, one at or below the last is discarded, and
one of no session or with a bad tag is counted. An owed acknowledgement leaves. A timeout sends the frame again, and after 16 retransmissions closes
the session with 0x2013. An idle session closes. INIT is refused for a reserved field, a full table or a bad KEM; otherwise it asks for the ACCEPT.
The PCS search alternates modes until a lock brings the port up; loss or a bad module takes it down. A PFC frame of the priority in use stops
transmission or releases it. A duplicate address is used no more and reported. ERR_REJECT_NEW answers with its value and keeps the rejections of its
cycle. (00_scope.md R8, R17, 17_ethernet_transport.md R482, R483, R485, R486, R488, R489, R490, R492, R494, 18_registers_and_codes.md R517) -/
def Obligations.PortResults : Prop :=
  (∀ (s : State) (f : Frame), s.eth.up = true → s.powered = true →
    (s.session f.session = none ∨ f.tagOk = false → exec (.ackOnly f) s = .next (s.count cntEthAuth)) ∧
    (∀ x : SessionSt, s.session f.session = some x → f.tagOk = true →
      (2 ^ 48 ≤ f.psn → exec (.ackOnly f) s = .next (s.closeSession f.session)) ∧
      (f.psn < 2 ^ 48 → f.psn ≤ x.aoRx → exec (.ackOnly f) s = .next s) ∧
      (f.psn < 2 ^ 48 → x.aoRx < f.psn → f.malformed = false → exec (.ackOnly f) s = .next ((s.setSession f.session { x with aoRx := f.psn }).takeAcks f)) ∧
      (f.psn < 2 ^ 48 → x.aoRx < f.psn → f.malformed = true →
        exec (.ackOnly f) s = .next ((s.reject 0x2001 4).sendFrame f.session (.status 4 0x2001 0xFFFFFFFF f.psn))))) ∧
  (∀ (s : State) (n psn : Nat) (x : SessionSt), s.session n = some x →
    (x.owed = 0 → exec (.ackOnlySend n) s = .next s) ∧
    (0 < x.owed → s.eth.up = true → s.eth.paused = false →
      let t := (s.setSession n { x with aoTx := x.aoTx + 1, owed := 0 }).send [.ackOnly n (x.aoTx + 1) x.rx x.ackMap]
      (x.txNext < 2 ^ 48 → x.aoTx + 1 < 2 ^ 48 → exec (.ackOnlySend n) s = .next t) ∧
      (2 ^ 48 ≤ x.txNext ∨ 2 ^ 48 ≤ x.aoTx + 1 → exec (.ackOnlySend n) s = .next (t.closeSession n))) ∧
    ((x.tx.find? fun t => t.psn == psn && t.sent) = none → exec (.retransmitTimeout n psn) s = .next s) ∧
    (∀ t, (x.tx.find? fun t => t.psn == psn && t.sent) = some t →
      (16 ≤ t.retx → exec (.retransmitTimeout n psn) s = .next (((s.closeSession n).reject 0x2013).report 0x2013 .none)) ∧
      (t.retx < 16 → s.eth.up = false ∨ s.eth.paused = true → exec (.retransmitTimeout n psn) s = .next s) ∧
      (t.retx < 16 → s.eth.up = true → s.eth.paused = false → exec (.retransmitTimeout n psn) s =
        .next (((s.setSession n { x with tx := x.tx.map fun u => if u.psn = psn then { u with retx := u.retx + 1 } else u }).send
          [.frame n psn t.what]).count cntEthRetx))) ∧
    exec (.sessionIdleTimeout n) s = .next (s.closeSession n)) ∧
  (∀ (s : State) (a : Authority) (client : Nat) (k : InitKeys) (kem reserved busy : Bool), s.eth.up = true → s.powered = true →
    let full := Config.maxSessions ≤ s.sessions.length + (s.sec.waiting.filter SignReq.isAccept).length
    let i : Instr := .init a client k kem reserved busy
    let no (code : Nat) := exec i s = .next ((s.reject code 5).send [.plainStatus code])
    (reserved = false → no 0x2001) ∧
    (reserved = true → full → no 0x2010) ∧
    (reserved = true → ¬ full → kem = false → no 0x2012) ∧
    (reserved = true → ¬ full → kem = true → exec i s = .next (s.requestSign busy (.accept a client k.key (initPayload a client k))))) ∧
  (∀ s : State,
    (s.powered = true → s.eth.moduleOk = true → s.eth.up = false →
      exec .pcsSearch s = .next { s with eth := { s.eth with mode400 := !s.eth.mode400 } } ∧
      exec .pcsAlignmentLock s = .next ({ s with eth := { s.eth with up := true } } : State).flushAll) ∧
    (s.powered = false ∨ s.eth.moduleOk = false ∨ s.eth.up = true → exec .pcsSearch s = .next s ∧ exec .pcsAlignmentLock s = .next s) ∧
    (s.eth.up = true → exec .alignmentLoss s = .next { s with eth := { s.eth with up := false, mode400 := false, paused := false } }) ∧
    (s.eth.up = false → exec .alignmentLoss s = .next s)) ∧
  (∀ (s : State) (present app fault : Bool) (m d : Nat), s.powered = true →
    let e : EthSt := { s.eth with present := present, dpFault := fault, modState := m % 8, dpState := d % 16, moduleOk := present && app && !fault }
    exec (.osfpModuleEvent present app fault m d) s =
      .next { s with eth := if present && app && !fault then e else { e with up := false, mode400 := false, paused := false } }) ∧
  (∀ (s : State) (prio quanta : Nat),
    (s.eth.up = true → s.eth.pfc = some prio →
      exec (.pfcFrame prio quanta) s = .next ({ s with eth := { s.eth with paused := quanta != 0 } } : State).flushAll) ∧
    (s.eth.up = false ∨ s.eth.pfc ≠ some prio → exec (.pfcFrame prio quanta) s = .next s)) ∧
  (∀ s : State, s.eth.paused = true → exec .pfcPauseExpiry s = .next ({ s with eth := { s.eth with paused := false } } : State).flushAll) ∧
  (∀ (s : State) (kind : Fin 3),
    (s.addressFormed kind = true → kind.val ∉ s.eth.dup → exec (.addressDuplicate kind) s =
      .next ((({ s with eth := { s.eth with dup := s.eth.dup ++ [kind.val] } } : State).reject 0x2003).report 0x2003 (.info [kind.val]))) ∧
    (s.addressFormed kind = false ∨ kind.val ∈ s.eth.dup → exec (.addressDuplicate kind) s = .next s)) ∧
  (∀ (s : State) (n : Nat),
    let err (v : Nat) : State := { s with err := { s.err with rejectNew := BitVec.ofNat 16 (min 0xFFFF v), rejectTotal := s.err.rejectTotal + BitVec.ofNat 32 n } }
    (∀ id, s.reader = some id → exec (.errRejectNew n) s = .next ((err n).sendFrame id (.values [s.err.rejectNew.toNat]))) ∧
    (s.reader = none → exec (.errRejectNew n) s = .next (err (s.err.rejectNew.toNat + n))))

/-- For every command that brings a data frame of an open session in sequence: when the device state does not accept its class, or the session's
authority does not permit it, the frame is rejected with 0x2002, with 0x2040 for an unknown subtype, or with 0x4003, and no plan, job, request,
sample, key, owner, meter, NVM write, adapter, mask, summary or byte of memory changes by its delivery. (15_trust.md R433, 17_ethernet_transport.md
R488, R504, 00_scope.md R19) -/
def Obligations.RefusedFramesChangeNothing : Prop :=
  ∀ (s : State) (i : Instr) (f : Frame) (b : FrameBody) (x : SessionSt), i.frame = some (f, b) → Arrives s f x → x.opened = true →
    ((s.taken f).dev.accepts b = false ∨ b.permitted x.authority = false) →
    ∃ t : State, exec i s = .next (State.endFrame f x.early.length t) ∧
      t.plan = (s.taken f).plan ∧ t.jobs = (s.taken f).jobs ∧ t.reqs = (s.taken f).reqs ∧ t.samples = (s.taken f).samples ∧ t.sec = (s.taken f).sec ∧
      t.nvm = (s.taken f).nvm ∧ t.adapters = (s.taken f).adapters ∧ t.masks = (s.taken f).masks ∧ t.summaries = (s.taken f).summaries ∧
      t.mem = (s.taken f).mem ∧ t.cores = (s.taken f).cores ∧ t.dev = (s.taken f).dev ∧ t.err.rejectTotal = (s.taken f).err.rejectTotal + 1 ∧
      t.err.lastCode.toNat % 2 ^ 16 =
        if (s.taken f).dev.accepts b = false then 0x2002
        else if f.subtypeOk = false ∧ (b.cls = 5 ∨ b.cls = 6) then 0x2040 else 0x4003

/-- Blocks of an object on an open session, whatever command brings them: a block in its place that is not the LAST one, of 8,192 bytes, is noted, and
in a CTRL frame answered with STATUS 0; a block of another kind than the object under way is refused with 0x2042; one out of its place, or short
without being LAST, abandons the object and is refused with 0x2041; a first block begins an object only at OFFSET 0; the first block of an adapter
takes its slot; and the LAST block in its place gives the whole object to its unit. (17_ethernet_transport.md R500, R501, 11_serving.md R320) -/
def Obligations.ObjectBlocks : Prop :=
  ∀ (s : State) (i : Instr) (f : Frame) (b : FrameBody) (x : SessionSt) (k : Nat), i.frame = some (f, b) → Arrives s f x → x.opened = true →
    (s.taken f).dev.accepts b = true → f.subtypeOk = true → b.permitted x.authority = true → b.kind = some k → k ≠ 10 →
    let u := s.taken f
    let fin (t : State) : Host.Outcome State Fault Refusal := .next (State.endFrame f x.early.length t)
    let short : Prop := f.last = false ∧ f.length ≠ 8192
    let noted (t : State) (o : Nat × Nat) : State :=
      if b.cls = 5 then (t.setSession f.session { x with obj := some o }).status f b 0 else t.setSession f.session { x with obj := some o }
    (∀ cur next : Nat, x.obj = some (cur, next) →
      (cur % 16 ≠ k → exec i s = fin (u.refuse f b 0x2042)) ∧
      (cur % 16 = k → f.offset ≠ next ∨ short → exec i s = fin ((u.dropObject f.session).refuse f b 0x2041)) ∧
      (cur % 16 = k → f.offset = next → f.last = false → f.length = 8192 → exec i s = fin (noted u (cur, next + 1))) ∧
      (cur % 16 = k → f.offset = next → f.last = true →
        exec i s = fin ((u.setSession f.session { x with obj := none }).handle f x.loading b))) ∧
    (x.obj = none →
      (f.offset ≠ 0 ∨ short → exec i s = fin (u.refuse f b 0x2041)) ∧
      (f.offset = 0 → f.last = false → f.length = 8192 →
        exec i s = fin (noted (u.beginObject k b).1 ((u.beginObject k b).2, 1)) ∧
        ((∀ a, b ≠ .adapterLoad a) → u.beginObject k b = (u, k)) ∧
        (∀ a, b = .adapterLoad a → (u.beginObject k b).1 = (u.beginAdapter a).1 ∧
          (u.beginObject k b).2 = match (u.beginAdapter a).2 with | some n => k + 16 * (n + 1) | none => k)))

/-- ATTEST repeats a kept report; otherwise it asks for a signature. A request is refused with no leaf left or at the rate limit, and waits without
keys; with keys, a reserved leaf and nothing waiting, the report is signed with the next leaf, sent and kept. A claim of an unowned device with its
challenge burns the first owner. A peer load needs the permission of Husk and image. A short station takes up to 2^16 units; with none at hand a
reservation is journalled, and with none left the entry is exhausted. KEY_DERIVATION makes the keys ready, loads the Husks that wait and signs what
waits. (15_trust.md R421 to R427, R440, R445, R446, 16_boot_image_journal.md R458, 17_ethernet_transport.md R502) -/
def Obligations.TrustResults : Prop :=
  ∀ s : State,
    (∀ (nonce husk : Digest) (busy : Bool), s.dev ≠ .off → s.dev ≠ .reset →
      let kept := s.sec.reports.find? fun r => r.nonce == nonce && r.husk == husk
      (∀ r, kept = some r → exec (.attest ⟨nonce, husk⟩ true busy) s = .next (s.send [.attest r s.sec.encapKey s.nvm.cert])) ∧
      (kept = none → exec (.attest ⟨nonce, husk⟩ true busy) s = .next (s.requestSign busy (.report nonce husk))) ∧
      exec (.attest ⟨nonce, husk⟩ false busy) s = .next ((s.reject 0x2001 9).send [.plainStatus 0x2001])) ∧
    (∀ (busy : Bool) (r : SignReq),
      (s.sec.leafExhausted = true → s.requestSign busy r = s.signRefuse 0x4010 r) ∧
      (s.sec.leafExhausted = false → busy = true ∨ 1024 ≤ s.sec.waiting.length → s.requestSign busy r = s.signRefuse 0x4011 r) ∧
      (s.sec.leafExhausted = false → s.sec.waiting.length < 1024 → s.sec.keys = false →
        s.requestSign false r = { s with sec := { s.sec with waiting := s.sec.waiting ++ [r] } })) ∧
    (∀ (nonce husk : Digest) (e : Nat), s.dev ≠ .off → s.dev ≠ .reset → (s.sec.reports.find? fun r => r.nonce == nonce && r.husk == husk) = none →
      s.sec.waiting = [] → s.sec.keys = true → s.sec.epochAsked = false → s.sec.leafAsked = false → s.sec.epoch = some e → s.sec.nextLeaf < s.sec.leafEnd →
      s.sec.nextLeaf < (e + 1) * 2 ^ 30 →
      let q := s.sec.nextLeaf
      let t := (State.formUpper { s with sec := { s.sec with waiting := [], nextLeaf := q + 1 } } 0 (q / 2 ^ 30)).formUpper 1 (q / 2 ^ 15)
      let x := t.attestRep nonce husk q
      let y : AttestRep := { x with signature := some (t.identitySign q (reportBytes x t.deviceId (Config.sha256 t.sec.encapKey))) }
      exec (.attest ⟨nonce, husk⟩ true false) s =
        .next (State.sendReport { t with sec := { t.sec with reports := (t.sec.reports ++ [y]).drop (t.sec.reports.length + 1 - 16) } } y)) ∧
    (∀ (key challenge : Digest) (sig : SigInfo), s.dev ∉ [DevState.off, .reset, .boot, .hold, .halt] →
      let no (code : Nat) := exec (.ownerClaim ⟨key, challenge⟩ sig true) s = .next ((s.reject code 5).send [.plainStatus code])
      (sig.valid = false → no 0x4001) ∧
      (sig.valid = true → s.sec.owners ≠ [] → no 0x4020) ∧
      (sig.valid = true → s.sec.owners = [] → challenge ≠ s.sec.challenge → no 0x4022) ∧
      (sig.valid = true → s.sec.owners = [] → challenge = s.sec.challenge →
        exec (.ownerClaim ⟨key, challenge⟩ sig true) s = .next (State.send { s with sec := { s.sec with owners := [key] } } [.plainStatus 0]))) ∧
    (∀ (a : Nat) (h b : Husk) (srcs : List (List HuskChunk)), s.sec.huskObj = some b →
      (s.sec.husk ≠ some h.huskId → exec (.peerLoad (some a) h srcs) s = .next s) ∧
      (s.sec.husk = some h.huskId → s.exportBit 3 = true → exec (.peerLoad (some a) h srcs) s = .next (s.send [.huskPeer a (s.servedHusk b)])) ∧
      (s.sec.husk = some h.huskId → s.exportBit 3 = false → exec (.peerLoad (some a) h srcs) s = .next (s.reject 0x4106))) ∧
    (∀ (a : Nat) (h : Husk) (srcs : List (List HuskChunk)), s.sec.huskObj = none → exec (.peerLoad (some a) h srcs) s = .next s) ∧
    (∀ (h : Husk) (srcs : List (List HuskChunk)),
      (h.policy.getLsbD 3 = false ∨ s.img.exportPolicy.getLsbD 3 = false → exec (.peerLoad none h srcs) s = .next (s.reject 0x4106)) ∧
      (h.policy.getLsbD 3 = true → s.img.exportPolicy.getLsbD 3 = true → s.sec.husk = none →
        exec (.peerLoad none h srcs) s =
          .next (if s.huskCode h true srcs = 0 then s.bindHusk h ((s.unwrapKey h).getD 0) srcs
            else ((State.rotate { s with sec := { s.sec with contentKey := none } } .teacher)).reject (s.huskCode h true srcs)))) ∧
    (∀ (h : Husk) (key : Digest) (srcs : List (List HuskChunk)),
      (s.bindHusk h key srcs).sec.husk = some h.huskId ∧ (s.bindHusk h key srcs).sec.contentKey = some key ∧
      (s.bindHusk h key srcs).sec.policy = h.policy ∧ (s.bindHusk h key srcs).cores = s.cores) ∧
    (∀ st : Fin 10, s.sec.husk = none ∨ s.sec.exhausted = true → exec (.meterRequest st) s = .next s) ∧
    (∀ (st : Fin 10) (h : Digest), s.sec.husk = some h → s.sec.exhausted = false →
      let m := (aget s.sec.meters h.toNat).getD {}
      let short := if st ∈ s.sec.short then s.sec.short else s.sec.short ++ [st]
      (0 < m.pool →
        let n := min (2 ^ 16 * 2 ^ 20) m.pool
        ∃ u : State, exec (.meterRequest st) s = .next u.pumpAll ∧ u.sec.station = s.sec.station.set st (s.sec.station[st] + n) ∧
          u.sec.meters = aput s.sec.meters h.toNat { m with pool := m.pool - n } ∧ u.mem = s.mem ∧ u.cores = s.cores) ∧
      (m.pool = 0 → m.asked.isSome = true → exec (.meterRequest st) s = .next { s with sec := { s.sec with short } }) ∧
      (m.pool = 0 → m.asked = none → m.reserved < m.limit →
        let n := min (2 ^ 28) (m.limit - m.reserved)
        exec (.meterRequest st) s = .next (State.journal { s with sec := { s.sec with short, meters := aput s.sec.meters h.toNat { m with asked := some n } } }
          (.meterReserve h (m.reserved + n)))) ∧
      (m.pool = 0 → m.asked = none → m.limit ≤ m.reserved →
        exec (.meterRequest st) s =
          .next (State.pumpAll { s with sec := { s.sec with meters := aput s.sec.meters h.toNat { m with exhausted := true } } }))) ∧
    (s.fwRun ≠ none → s.sec.keys = false → exec .keyDerivation s =
      .next (s.sec.held.foldl (fun (t : State) h =>
        let r := t.loadHusk h.husk false [h.husk.chunks]
        (if r.2 = 0 then r.1 else r.1.reject r.2 5).sendFrame h.session (.status 5 r.2 0x30 h.psn))
        { s with sec := { s.sec with keys := true, held := [], identityKey := identityKeyBytes (Config.identitySeed s.sec.uds)
                                     encapKey := encapKeyBytes s.sec.uds, decapKey := decapKeyBytes s.sec.uds } }).signAll) ∧
    (s.fwRun = none ∨ s.sec.keys = true → exec .keyDerivation s = .next s)

/-- JOURNAL_DURABLE appends the oldest waiting record to the active half, where there is room for it, and then does what waits for it. At 75 % fill or
after a torn record compaction writes the snapshot to the erased half with the next GEN; with its completion the new half is active, the old one waits
for erasure, and CNT_JNL_COMPACT counts. Erasure empties the half that is not active. (16_boot_image_journal.md R473 to R478, 15_trust.md R420, R421,
R445, R447) -/
def Obligations.JournalResults : Prop :=
  ∀ s : State,
    (∀ (r : JnlRec) (rest : List JnlRec) (ok : Bool), s.jnl.queue = r :: rest → s.jnl.torn = false → s.jnl.act.complete = true →
      s.jnl.act.fill + r.size ≤ 8 * 2 ^ 20 →
      let u : State := { s with jnl := { s.jnl with queue := rest, hwm := max s.jnl.hwm r.time, half := s.jnl.half.set s.jnl.active { s.jnl.act with recs := s.jnl.act.recs ++ [r] } } }
      exec (.journalDurable ok) s = .next (u.recordDurable r ok) ∧
      (∀ q, r.body = .leafReserve q → u.recordDurable r ok = State.signAll { u with sec := { u.sec with leafAsked := false, leafEnd := q + 64 } }) ∧
      (∀ e, r.body = .epochOpen e → u.recordDurable r false = State.signAll { u with sec := { u.sec with epochs := max u.sec.epochs (e + 1), epochAsked := false } }) ∧
      (∀ e, r.body = .epochOpen e → u.recordDurable r true = State.signAll { u with sec := { u.sec with epochs := max u.sec.epochs (e + 1), epochAsked := false, epoch := some e, nextLeaf := e * 2 ^ 30, leafEnd := e * 2 ^ 30 } }) ∧
      (∀ v, r.body = .svnMin v → u.recordDurable r ok = { u with sec := { u.sec with imageSvnMin := max u.sec.imageSvnMin v } })) ∧
    (∀ ok : Bool, s.jnl.queue = [] ∨ s.jnl.torn = true ∨ s.jnl.act.complete = false ∨ s.jnl.waits = true → exec (.journalDurable ok) s = .next s) ∧
    (s.jnl.compact ≠ none ∨ s.jnl.act.complete = false ∨ (s.jnl.half[s.jnl.other]).erased = false ∨ (s.jnl.act.fill < 6291456 ∧ s.jnl.torn = false) →
      exec .compaction s = .next s) ∧
    (s.jnl.compact = none → exec .compactionComplete s = .next s) ∧
    (s.jnl.compact ≠ none → exec .halfEraseComplete s = .next s) ∧
    (s.jnl.compact = none → s.jnl.act.complete = true → (s.jnl.half[s.jnl.other]).erased = true → 6291456 ≤ s.jnl.act.fill ∨ s.jnl.torn = true →
      let k := (s.jnl.act.recs.getLast?.map JnlRec.seq).getD s.jnl.act.snap
      exec .compaction s = .next { s with jnl := { s.jnl with compact := some k, half := s.jnl.half.set s.jnl.other { erased := false, gen := s.jnl.act.gen + 1, snap := k, complete := false, recs := snapshot s.jnl.act.recs s.jnl.act.recs } } }) ∧
    (∀ k, s.jnl.compact = some k → ∃ t : State, exec .compactionComplete s = .next t ∧ t.jnl.active = s.jnl.other ∧ t.jnl.compact = none ∧ t.jnl.torn = false ∧
      t.jnl.act.complete = true ∧ t.jnl.act.recs = (s.jnl.half[s.jnl.other]).recs ++ s.jnl.act.recs.filter (fun r => decide (k < r.seq)) ∧
      t.devCnt[cntJnlCompact] = s.devCnt[cntJnlCompact] + 1 ∧ t.jnl.queue = s.jnl.queue ∧ t.jnl.seq = s.jnl.seq) ∧
    (s.jnl.compact = none → exec .halfEraseComplete s = .next { s with jnl := { s.jnl with half := s.jnl.half.set s.jnl.other {} } })

/-- The first notice of an attempt halts the job, goes on to the other tree neighbours and brings the halted report; a later one is counted; one of
another attempt is ignored, but for the attempt that ended in this very beat, which a halt comes before. The coordinator holds a role's report once.
The halt phase ends with the last role's report or after HALT_SETTLE beats: a RESTART that waits, or an automatic restart, then assigns; no other
state of the job does. The coordinator's decision makes a halted member RESTORING under the new attempt, or stops it. A member that has the plan's
Husk and a good part restores it, or the initial weights, reports and offers its start; a part whose DIGEST, VERSION or MAP_DIGEST does not match
stops the job. RESTORE_LIMIT beats after restore began the job stops. (14_faults_and_checkpoints.md R395, R396, R408, R412, R413, R414) -/
def Obligations.RestartResults : Prop :=
  ∀ (s : State) (n : Nat) (j : JobRec), s.jobRec n = some j →
    let t := s.jobSt n
    (∀ (a : Nat) (f : FaultRec),
      (∀ k, s.isMember j = true → k = t.attempt ∨ s.justStarted n k = true → t.notified = false → let s0 := s.haltJob j
        let s1 := ((s0.setJob n { s0.jobSt n with attempt := k }).coordFault j f).pumpAll
        exec (.faultNotice a n k f) s = .next ((s1.send (((s1.treeNeighbours j).filter (· != a)).map fun b => .notice b n k f)).reportHalt j (some f))) ∧
      (∀ k, s.isMember j = true → k = t.attempt ∨ s.justStarted n k = true → t.notified = true →
        exec (.faultNotice a n k f) s = .next (s.count cntJobHalt)) ∧
      (∀ k, s.isMember j = false ∨ (k ≠ t.attempt ∧ s.justStarted n k = false) → exec (.faultNotice a n k f) s = .next s)) ∧
    (∀ r : HaltedRep, r.job = n →
      let ignored := s.origin ≠ s.addr ∨ (∀ m ∈ j.members, m.1 ≠ r.address) ∨ r.attempt < t.attempt ∨ (s.isMember j = true ∧ r.attempt ≠ t.attempt) ∨
        (s.reported j r.address = true ∧ t.coord.restoreSince = none)
      (ignored → exec (.haltedReport r) s = .next s) ∧
      (¬ ignored → r.attempt = t.attempt →
        let c := t.coord.halt s.beat
        exec (.haltedReport r) s = .next ((s.setJob n { t with coord := { c with reports := c.reports ++ [r] } }).trySettle j)) ∧
      (¬ ignored → t.attempt < r.attempt →
        let c := ({ t.coord with reports := [], since := none, fault := none, late := [], restoreSince := none, request := none } : CoordSt).halt s.beat
        exec (.haltedReport r) s =
          .next ((s.setJob n { t with attempt := r.attempt, coord := { c with reports := c.reports ++ [r] } }).trySettle j))) ∧
    exec (.haltSettle n .decide) s = .next (s.trySettle j) ∧
    (let ready : Prop := s.origin = s.addr ∧ t.coord.since ≠ none ∧ t.coord.restoreSince = none ∧ s.jobView j = .halted ∧ s.settled j = true;
      (∀ q, ready → t.coord.request = some q → s.trySettle j = s.assignPhase j false false q) ∧
      (ready → t.coord.request = none → s.img.autoRestart = 1 → s.trySettle j = s.assignPhase j true false {}) ∧
      (¬ ready ∨ (t.coord.request = none ∧ s.img.autoRestart ≠ 1) → s.trySettle j = s)) ∧
    (s.settled j = true ↔ (∀ m ∈ j.members, ∃ r ∈ t.coord.reports, r.address = m.1 ∧ r.attempt = t.attempt) ∨
      ∃ b, t.coord.since = some b ∧ b + j.haltSettle ≤ s.beat) ∧
    (∀ a : Assignment,
      (s.origin ≠ s.addr → t.st ≠ .running → s.isMember j = false ∨ a.attempt = t.attempt → exec (.haltSettle n (.assigned a)) s = .next (s.takeAssign j a)) ∧
      (s.origin = s.addr ∨ t.st = .running ∨ (s.isMember j = true ∧ a.attempt ≠ t.attempt) → exec (.haltSettle n (.assigned a)) s = .next s) ∧
      (s.isMember j = true → a.subst = [] → s.plan ≠ none →
        ((s.takeAssign j a).jobSt n).st = .restoring ∧ ((s.takeAssign j a).jobSt n).attempt = a.attempt)) ∧
    (∀ code,
      (s.origin ≠ s.addr → s.isMember j = true → t.st ≠ .running → exec (.haltSettle n (.stopped code)) s = .next (s.setJob n { t with st := .stopped })) ∧
      (s.origin ≠ s.addr → s.isMember j = false ∨ t.st = .running → exec (.haltSettle n (.stopped code)) s = .next s) ∧
      (s.origin = s.addr → t.coord.restoreSince ≠ none → exec (.haltSettle n (.stopped code)) s = .next (s.failRestore j code)) ∧
      (s.origin = s.addr → t.coord.restoreSince = none → exec (.haltSettle n (.stopped code)) s = .next s)) ∧
    (∀ (src : RestoreSrc) (rcv : Bool),
      let i : Instr := .restoreComplete n s.addr src rcv
      let full : RestoreSrc := match t.extern, src.part with
        | some l, none => { part := some l, manifest := src.manifest.orElse fun _ => t.externMan }
        | _, _ => src
      let done (u : State) (recovery : Bool) := exec i s =
        .next ((if u.origin = u.addr then u.restoredAt j u.addr recovery else u.send [.restoreDone u.origin n recovery]).offerStart j)
      (t.st ≠ .restoring ∨ s.isMember j = false ∨ s.lacksHusk = true → exec i s = .next s) ∧
      (∀ a v, t.st = .restoring → s.isMember j = true → s.lacksHusk = false → t.assign = some a → a.version = some v →
        let good := partIntact (s.restorePart j full v) v ((s.knownManifest j full v).map Manifest.mapDigest)
        (good = true → done (s.restoreVersion j full v).1 (s.restoreVersion j full v).2) ∧
        (good = false → exec i s = .next (s.failRestore j 0x6112))) ∧
      (∀ a, t.st = .restoring → s.isMember j = true → s.lacksHusk = false → t.assign = some a → a.version = none → done (s.restoreInitial j) false)) ∧
    (∀ (from_ : Nat) (src : RestoreSrc) (rcv : Bool), from_ ≠ s.addr →
      (s.origin = s.addr → exec (.restoreComplete n from_ src rcv) s = .next (s.restoredAt j from_ rcv)) ∧
      (s.origin ≠ s.addr → exec (.restoreComplete n from_ src rcv) s = .next s)) ∧
    (∀ b, s.origin = s.addr → t.coord.restoreSince = some b →
      (b + j.restoreLimit ≤ s.beat → exec (.restoreTimeout n) s = .next (s.stopJob j 0x6115 t.coord.lost t.taken)) ∧
      (s.beat < b + j.restoreLimit → exec (.restoreTimeout n) s = .next s)) ∧
    (s.origin ≠ s.addr ∨ t.coord.restoreSince = none → exec (.restoreTimeout n) s = .next s)

/-- With the input in range, PWR_EN high and no shutdown standing, an OFF device comes to RESET with PWR_GOOD; after a thermal shutdown only when
PWR_EN was low for 100 ms. PWR_EN low, an input out of range or a thermal shutdown turns it OFF, and RESET_N low takes a powered device to RESET; NVM,
fuses and identity stay. RESET_N rising boots with power good, and is ignored otherwise. PWRCAP_N and the alert set and clear their bits. A trip, or
an uncorrectable error, raises its fault of device reach; a trip also stops all issue. (19_module_electrical.md R525 to R528, R532, R534,
16_boot_image_journal.md R457, 14_faults_and_checkpoints.md R391, R392) -/
def Obligations.PowerResults : Prop :=
  ∀ s : State,
    (∀ ms : Nat,
      (s.dev = .off → s.pwr.vin = true → s.pwr.shut = false ∨ 100 ≤ ms → exec (.pwrEnRise ms) s =
        .next { s with dev := .reset, pwr := { s.pwr with en := true, shut := false, good := true } }) ∧
      (s.dev ≠ .off ∨ s.pwr.vin = false ∨ (s.pwr.shut = true ∧ ms < 100) → exec (.pwrEnRise ms) s =
        .next { s with pwr := { s.pwr with en := true, shut := s.pwr.shut && decide (ms < 100) } })) ∧
    (s.dev = .off → s.pwr.en = true → s.pwr.shut = false → exec .vinRecovery s =
      .next { s with dev := .reset, pwr := { s.pwr with vin := true, good := true } }) ∧
    (s.dev ≠ .off ∨ s.pwr.en = false ∨ s.pwr.shut = true → exec .vinRecovery s = .next { s with pwr := { s.pwr with vin := true } }) ∧
    (∀ i : Instr, i = .pwrEnFall ∨ i = .vinOutOfRange ∨ i = .thermalShutdown → ∃ t : State, exec i s = .next t ∧ t.dev = .off ∧ t.pwr.good = false ∧
      t.pwr.en = (s.pwr.en && i != .pwrEnFall) ∧ t.pwr.vin = (s.pwr.vin && i != .vinOutOfRange) ∧ t.pwr.shut = (s.pwr.shut || i == .thermalShutdown) ∧
      t.sec.owners = s.sec.owners ∧ t.sec.epochs = s.sec.epochs ∧ t.sec.fwSvnMin = s.sec.fwSvnMin ∧ t.sec.uds = s.sec.uds ∧ t.deviceId = s.deviceId ∧
      t.jnl.half = s.jnl.half ∧ t.mem = [] ∧ t.plan = none ∧ t.sessions = [] ∧ t.sec.husk = none) ∧
    (s.dev ≠ .off → ∃ t : State, exec .resetNAssert s = .next t ∧ t.dev = .reset ∧ t.pwr.resetN = false ∧ t.pwr.good = s.pwr.good ∧
      t.sec.owners = s.sec.owners ∧ t.jnl.half = s.jnl.half ∧ t.plan = none) ∧
    (s.dev = .off → exec .resetNAssert s = .next { s with pwr := { s.pwr with resetN := false } }) ∧
    (∀ (st : Straps) (absent torn : Bool),
      let starts := s.pwr.good = true ∧ (s.dev = .reset ∨ (s.dev = .boot ∧ s.fwRun = none ∧ s.bootCode = 0))
      (starts → exec (.resetNRise st absent torn) s =
        .next (State.boot { s with dev := .boot, straps := st, nvm := { s.nvm with fitted := !absent }, pwr := { s.pwr with resetN := true } } torn)) ∧
      (¬ starts → exec (.resetNRise st absent torn) s = .next { s with pwr := { s.pwr with resetN := true } })) ∧
    exec .pwrcapNFall s = .next { s with pwr := { s.pwr with cap := true } } ∧
    exec .pwrcapNRise s = .next { s with pwr := { s.pwr with cap := false } } ∧
    exec .thermAlertRelease s = .next { s with pwr := { s.pwr with alert := false } } ∧
    (s.powered = true →
      exec .thermAlert s = .next { s with pwr := { s.pwr with alert := true } } ∧
      (∀ n : Nat, exec (.thermalTrip n) s = .next { s.faultDevice 0x6103 [n] with pwr := { (s.faultDevice 0x6103 [n]).pwr with trip := true } } ∧
        exec (.hbmUncorrectable n) s = .next (s.faultDevice 0x6100 [n]) ∧ exec (.sramUncorrectable n) s = .next (s.faultDevice 0x6101 [n]))) ∧
    (s.powered = false → exec .thermAlert s = .next s ∧
      ∀ n : Nat, exec (.thermalTrip n) s = .next s ∧ exec (.hbmUncorrectable n) s = .next s ∧ exec (.sramUncorrectable n) s = .next s)

/-- Without an NVM the device stays in BOOT with 0x1040, with one that does not answer with 0x1041, with one of another kind with 0x1042, and without
a firmware bank that qualifies with 0x1021; otherwise the bank with the higher SEQ runs and the device holds. BOOT_CONFIGURE of an unowned device, or
with no valid image, is SAFE; with one it is CONFIGURED under the valid image with the higher SEQ. A written plan is stored; written firmware and
images are verified, and restart the device in BOOT and in SAFE. A boot rejects each bank that does not pass with its code. A drain ends
when every context has finished, or at DRAIN_LIMIT with the contexts still busy faulting 0x6104, and not before. (16_boot_image_journal.md R453, R457,
R458, R459, R460, R464, R466 to R470, 15_trust.md R429, R430, 12_sharing_and_preemption.md R353) -/
def Obligations.BootResults : Prop :=
  ∀ s : State,
    (∀ torn : Bool,
      let stop (t : State) (code : Nat) := s.boot torn = ({ t with bootCode := code } : State).report code .none
      let good := s.nvm.fitted = true ∧ s.nvm.answers = true ∧ s.nvm.supported = true ∧ (s.nvm.mib = 128 ∨ s.nvm.mib = 256)
      (s.nvm.fitted = false → stop s 0x1040) ∧
      (s.nvm.fitted = true → s.nvm.answers = false → stop s 0x1041) ∧
      (s.nvm.fitted = true → s.nvm.answers = true → s.nvm.supported = false ∨ (s.nvm.mib ≠ 128 ∧ s.nvm.mib ≠ 256) → stop s 0x1042) ∧
      (good → s.pickFirmware = none →
        stop (s.rejectBanks s.firmwareRejects) 0x1021) ∧
      (∀ b, good → s.pickFirmware = some b → (s.boot torn).dev = .hold ∧ (s.boot torn).fwRun = some b ∧ (s.boot torn).sec.owners = s.sec.owners)) ∧
    (∀ b : Fin 2, s.pickFirmware = some b ↔ ∃ f, s.nvm.fw[b] = some f ∧ s.firmwareCode f = 0 ∧
      ∀ g, s.nvm.fw[1 - b] = some g → s.firmwareCode g = 0 → g.seq.toNat < f.seq.toNat ∨ (b = 0 ∧ g.seq.toNat = f.seq.toNat)) ∧
    (let valid (b : Fin 2) (i : Image) := s.nvm.img[b] = some i ∧ s.imageCodes i = []
     s.dev = .hold → s.addrValid = true →
      (s.sec.owners = [] → exec .bootConfigure s = .next { s with dev := .safe }) ∧
      (s.sec.owners ≠ [] → (∀ b i, ¬ valid b i) → exec .bootConfigure s =
        .next { (s.rejectBanks s.imageRejects) with dev := .safe }) ∧
      (∀ b i, s.sec.owners ≠ [] → valid b i → (∀ k, valid (1 - b) k → k.seq.toNat < i.seq.toNat ∨ (b = 0 ∧ k.seq.toNat = i.seq.toNat)) →
        ∃ t : State, exec .bootConfigure s = .next t ∧ t.dev = .configured ∧ t.img = i.records ∧ t.imgApplied = true ∧ t.imgRun = some b ∧
          t.formation.phase = 1 ∧ s.sec.fwSvnMin ≤ t.sec.fwSvnMin)) ∧
    (s.dev ≠ .hold ∨ s.addrValid = false → exec .bootConfigure s = .next s) ∧
    (s.nvm.write = none → exec .bankWriteComplete s = .next s) ∧
    (∀ (n : Nat) (p : Plan), s.nvm.write = some (.plan n p) →
      exec .bankWriteComplete s = .next { s with nvm := { s.nvm with plans := aput s.nvm.plans n p, write := none, writer := none } }) ∧
    (∀ (b : Fin 2) (f : Firmware), s.nvm.write = some (.firmware b f) →
      let t := State.writeCode { s with nvm := { s.nvm with fw := s.nvm.fw.set b (some f), write := none } } (s.firmwareCode f) 1
      let u : State := { t with nvm := { t.nvm with writer := none } }
      (s.dev ≠ .boot → exec .bankWriteComplete s = .next u) ∧ (s.dev = .boot → exec .bankWriteComplete s = .next u.internalRestart)) ∧
    (∀ (b : Fin 2) (i : Image), s.nvm.write = some (.image b i) →
      let v : State := { s with nvm := { s.nvm with img := s.nvm.img.set b (some i), write := none } }
      let code := (minCode (v.imageCodes i)).getD 0
      let u : State := { v.writeCode code 2 with nvm := { (v.writeCode code 2).nvm with writer := none } }
      (s.dev ≠ .safe ∨ code ≠ 0 → exec .bankWriteComplete s = .next u) ∧
      (s.dev = .safe → code = 0 → exec .bankWriteComplete s = .next u.internalRestart)) ∧
    (s.dev = .drain → s.drained = true → exec .drainComplete s = .next s.finishDrain) ∧
    (s.dev ≠ .drain ∨ s.drained = false → exec .drainComplete s = .next s) ∧
    (let limit := match s.switch with
       | some (p, _) => p.acct.drainLimit
       | none => ((s.plan.map Plan.acct).getD {}).drainLimit
     let busy (t : State) (c : Fin 8) : Bool := (t.batches.any fun b => b.ctx == c)
       || ((t.jobOf c).any fun j => (t.jobSt j.job).st == .running)
       || t.cores.any fun (_, k) => k.ctx[c].running || !k.ctx[c].queue.isEmpty
     (s.dev = .drain → s.drainSince + limit ≤ s.beat → exec .drainTimeout s =
       .next ((List.finRange 8).foldl (fun (t : State) c => if busy t c then t.faultCtx 0x6104 c [] else t) s).finishDrain) ∧
     (s.dev ≠ .drain ∨ s.beat < s.drainSince + limit → exec .drainTimeout s = .next s))

/-- Raising a fault of context reach writes its record to the journal's queue, counts it, keeps it as the first fault unless one is held, and raises
its sticky bit. The context's programs, waits and start queues are gone on every core, and the job of the context is HALTED, or stays STOPPED; what
the job did in this very beat, a commit, a skip or a start, is taken back before. No rejection is counted and no flag word changes. A fault of device
reach is counted and raises its sticky bit, no context of any core runs or waits any more, POD_FAULT_N is driven low for 256 cycles, and a device in
JOINED, RUN or DRAIN is in HALT; in another state it stays there. (14_faults_and_checkpoints.md R391 to R397, Tables 14-1, 14-2, 14-4,
18_registers_and_codes.md R515, 19_module_electrical.md R538) -/
def Obligations.FaultsHaltAndAreRecorded : Prop :=
  (∀ (s : State) (code : Nat) (c : Fin 8) (detail : List Nat),
     let u := ((s.jobOf c).map s.unapply).getD s
     let f := u.faultRec code (some c) (s.jobOf c) detail
     let t := s.faultCtx code c detail
     t.jnl.queue = u.jnl.queue ++ [⟨u.jnl.seq + 1, u.beatNs, .fault f⟩] ∧ t.err.faultCnt = s.err.faultCnt + 1 ∧
       t.err.first = some (s.err.first.getD f) ∧ t.err.sticky = s.err.sticky ||| stickyBit f.code.toNat ∧ t.err.rejectTotal = s.err.rejectTotal ∧
       t.flags = s.flags ∧ t.dev = u.dev ∧ ((∀ j, s.jobOf c = some j → aget s.undos j.job = none) → u = s) ∧
       (∀ n : Nat, (t.ctxAt ⟨n, c⟩).running = false ∧ (t.ctxAt ⟨n, c⟩).wait = none ∧ (t.ctxAt ⟨n, c⟩).queue = []) ∧
       (∀ j, s.jobOf c = some j → (t.jobSt j.job).st = (if (u.jobSt j.job).st = .stopped then .stopped else .halted) ∧ (t.jobSt j.job).notified = true)) ∧
  (∀ (s : State) (code : Nat) (detail : List Nat),
     let t := s.faultDevice code detail
     t.err.faultCnt = s.err.faultCnt + 1 ∧ t.err.sticky = s.err.sticky ||| stickyBit (code % 2 ^ 16) ∧ t.out.getLast? = some (.podFault 256) ∧
       t.dev = (if s.dev = .joined ∨ s.dev = .run ∨ s.dev = .drain then .halt else s.dev) ∧
       ∀ (n : Nat) (c : Fin 8), (t.ctxAt ⟨n, c⟩).running = false ∧ (t.ctxAt ⟨n, c⟩).wait = none)

/-- A rejection leaves every field of the state as it was but the error record: ERR_LAST_CODE takes the code and the class, ERR_REJECT_TOTAL counts,
ERR_REJECT_NEW counts up to 0xFFFF and stays there; the sticky bits and the first fault stay. (00_scope.md R19, 18_registers_and_codes.md Table 18-5)
-/
def Obligations.RejectionsOnlyRecord : Prop :=
  ∀ (s : State) (code cls loc : Nat),
    let t := s.reject code cls loc
    { t with err := s.err } = s ∧ t.err.lastCode.toNat = code % 2 ^ 16 + cls % 256 * 2 ^ 16 ∧ t.err.rejectTotal = s.err.rejectTotal + 1 ∧
      t.err.rejectNew.toNat = min 0xFFFF (s.err.rejectNew.toNat + 1) ∧ t.err.sticky = s.err.sticky ∧ t.err.first = s.err.first ∧
      t.err.faultCnt = s.err.faultCnt

/-- A zero of either sign read in one floating-point format and written in another reads as a zero of the same sign, with either saturation setting
and in every rounding mode. A zero of either sign written to INT8 is 0x00. An infinity written to a format that has infinity reads back as that
infinity, even when SAT = 1. To FP8 E4M3 it is ±448 with OVF under SAT = 1, and otherwise the canonical NaN with INVALID. To INT8 it is 127 or -128
with OVF. A NaN written to INT8 is 0x00 with INVALID. (R47, R61) -/
def Obligations.SpecialValuesWritten : Prop :=
  (∀ (f g : Fmt) (bits : Nat) (neg sat : Bool) (mode : RMode), decode f bits = .zero neg →
     (g ≠ .int8 → g ≠ .e8m0 → decode g (roundTo g sat mode (decode f bits)).bits = .zero neg) ∧ (roundTo .int8 sat mode (decode f bits)).bits = 0x00) ∧
  (∀ (f : Fmt) (sat neg : Bool) (mode : RMode),
     (f.hasInf = true → decode f (roundTo f sat mode (.inf neg)).bits = .inf neg) ∧
     (decode .e4m3 (roundTo .e4m3 true mode (.inf neg)).bits = .fin (if neg then -448 else 448) ∧ (roundTo .e4m3 true mode (.inf neg)).fl = flOvf) ∧
     roundTo .e4m3 false mode (.inf neg) = ⟨Fmt.nanBits .e4m3, flInvalid⟩ ∧
     (decode .int8 (roundTo .int8 sat mode (.inf neg)).bits = .fin (if neg then -128 else 127) ∧ (roundTo .int8 sat mode (.inf neg)).fl = flOvf) ∧
     roundTo .int8 sat mode .nan = ⟨0x00, flInvalid⟩)

/-- Element c of row r of a block-scaled tile reads as the decoded element times two to the power of the scale byte of its block of 32 less 127; with
scale 0xFF it is NaN, whatever its encoding. (R55) -/
def Obligations.BlockScaledElements : Prop :=
  ∀ (s : State) (n : Nat) (t : TileDesc) (r c : Nat), fmtdBlk t.fmtd = true →
    let b := elemBits s.mem (scrAddr n (t.base.toNat + r * t.stride.toNat)) t.fmt c
    let sc := (memGet s.mem (scrAddr n (t.scaleBase.toNat + r * t.scaleStride.toNat + c / 32))).toNat
    (sc = 0xFF → s.elem n t r c = .nan) ∧
    (∀ v, sc ≠ 0xFF → decode t.fmt b = .fin v → s.elem n t r c = .fin (v * pow2 ((sc : Int) - 127))) ∧
    (∀ neg, sc ≠ 0xFF → decode t.fmt b = .zero neg → s.elem n t r c = .zero neg) ∧
    (∀ neg, sc ≠ 0xFF → decode t.fmt b = .inf neg → s.elem n t r c = .inf neg) ∧
    (decode t.fmt b = .nan → s.elem n t r c = .nan)

/-- Adding the products of a narrow chain to an element gives the same element whatever their order, special values included; and the chain saved as a
raw record of its own and merged afterwards gives the element that adding its products one by one gives. (03_matrix_arithmetic.md R81, R92, R97) -/
def Obligations.NarrowSumsInAnyOrder : Prop :=
  ∀ (st : RawRec) (ab cd : List (Machine.Num × Machine.Num)),
    (ab.Perm cd → blockSum .narrow st ab = blockSum .narrow st cd) ∧ mergeRecord st (blockSum .narrow emptyEl ab) = blockSum .narrow st ab

/-- Every function of the vector engine gives NaN with NAN_IN on a NaN operand, in fast and canonical contexts alike. The exponentials of a zero are
1, the logarithms of a zero are -inf and of -inf NaN with INVALID, the reciprocal of an infinity is a zero of its sign, and 0/0 and inf/inf are NaN
with INVALID. Every native operation with a NaN operand that it reads posts NAN_IN. (05_vector_engine.md R150, R144, Table 5-6) -/
def Obligations.FunctionsOfNan : Prop :=
  ∀ (canon neg : Bool) (a b d : Machine.Num),
    (∀ f : VFun, fnF24 f canon .nan b = (.nan, flNanIn)) ∧
    (∀ f : VFun, f = .exp ∨ f = .exp2 → fnF24 f canon (.zero neg) b = (.one, 0)) ∧
    (∀ f : VFun, f = .log ∨ f = .log2 → fnF24 f canon (.zero neg) b = (.inf true, 0) ∧ fnF24 f canon (.inf true) b = (.nan, flInvalid)) ∧
    (∀ f : VFun, f = .rcp → fnF24 f canon (.inf neg) b = (.zero neg, 0)) ∧
    divNum canon (.zero neg) (.zero neg) = (.nan, flInvalid) ∧ divNum canon (.inf neg) (.inf neg) = (.nan, flInvalid) ∧
    (∀ op : NatOp, op ≠ .sel → a = .nan → (nativeOp op a b d).2 = flNanIn)

end
end

