-- ==== Sys2Proof/Laws/State.lean ====
section
/-!
SUPPORT. What each update of the state leaves as it was, field by field, and what is read back from sparse maps, cores and context slots.
-/

namespace Sys2Proof.Machine

/-! ## Sparse maps -/

theorem aget_aput_same {α : Type} (l : List (Nat × α)) (a : Nat) (v : α) : aget (aput l a v) a = some v := by
  induction l with
  | nil => simp only [aput, aget, if_true]
  | cons e r ih =>
    obtain ⟨k, w⟩ := e
    by_cases h1 : a = k
    · simp only [aput, if_pos h1, aget, if_true]
    · by_cases h2 : a < k
      · simp only [aput, if_neg h1, if_pos h2, aget, if_true]
      · simp only [aput, if_neg h1, if_neg h2, aget, ih]

theorem aget_aput_other {α : Type} (l : List (Nat × α)) {a n : Nat} (v : α) (h : n ≠ a) : aget (aput l a v) n = aget l n := by
  induction l with
  | nil =>
    simp only [aput, aget, if_neg h]
    split <;> rfl
  | cons e r ih =>
    obtain ⟨k, w⟩ := e
    by_cases h1 : a = k
    · subst h1; simp only [aput, if_true, aget, if_neg h]
    · by_cases h2 : a < k
      · simp only [aput, if_neg h1, if_pos h2, aget, if_neg h]
        by_cases h3 : n < a
        · have h4 : n ≠ k := by omega
          have h5 : n < k := by omega
          simp only [if_pos h3, if_neg h4, if_pos h5]
        · simp only [if_neg h3]
      · simp only [aput, if_neg h1, if_neg h2, aget, ih]

theorem aput_aput {α : Type} (l : List (Nat × α)) (a : Nat) (v w : α) : aput (aput l a v) a w = aput l a w := by
  induction l with
  | nil => simp only [aput, if_true]
  | cons e r ih =>
    obtain ⟨k, x⟩ := e
    by_cases h1 : a = k
    · simp only [aput, if_pos h1, if_true]
    · by_cases h2 : a < k
      · simp only [aput, if_neg h1, if_pos h2, if_true]
      · simp only [aput, if_neg h1, if_neg h2, ih]

/-! ## Cores and context slots -/

variable (s : State)

@[simp] theorem State.core_setCore (n : Nat) (c : CoreSt) : (s.setCore n c).core n = c := by
  simp only [State.core, State.setCore, aget_aput_same, Option.getD_some]

theorem State.core_setCore_other {n m : Nat} (c : CoreSt) (h : m ≠ n) : (s.setCore n c).core m = s.core m := by
  simp only [State.core, State.setCore, aget_aput_other _ _ h]

@[simp] theorem State.setCore_setCore (n : Nat) (c d : CoreSt) : (s.setCore n c).setCore n d = s.setCore n d := by
  simp only [State.setCore, aput_aput]

@[simp] theorem State.ctxAt_setCtx (a : Site) (x : CtxSt) : (s.setCtx a x).ctxAt a = x := by
  simp only [State.ctxAt, State.setCtx, State.core_setCore, Fin.getElem_fin, Vector.getElem_set_self]

theorem State.ctxAt_setCtx_other {a e : Site} (x : CtxSt) (h : e ≠ a) : (s.setCtx a x).ctxAt e = s.ctxAt e := by
  by_cases hc : e.core = a.core
  · have hx : a.ctx.val ≠ e.ctx.val := by
      intro hv; apply h; cases a; cases e; simp only at hc hv; subst hc; congr; exact Fin.ext hv.symm
    simp only [State.ctxAt, State.setCtx, hc, State.core_setCore, Fin.getElem_fin, Vector.getElem_set_ne _ _ hx]
  · simp only [State.ctxAt, State.setCtx, State.core_setCore_other _ _ hc]

@[simp] theorem State.setCtx_setCtx (a : Site) (x y : CtxSt) : (s.setCtx a x).setCtx a y = s.setCtx a y := by
  simp only [State.setCtx, State.core_setCore, State.setCore_setCore, Vector.set_set]

/-- A turn taken leaves the cores as they are. -/
@[simp] theorem State.tookTurn_core (a : Site) (n : Nat) : (s.tookTurn a).core n = s.core n := rfl
@[simp] theorem State.tookTurn_ctxAt (a e : Site) : (s.tookTurn a).ctxAt e = s.ctxAt e := rfl

/-- Only the context slots of a core differ after setCtx. -/
theorem State.core_setCtx (a : Site) (x : CtxSt) :
    (s.setCtx a x).core a.core = { s.core a.core with ctx := (s.core a.core).ctx.set a.ctx x } := by
  simp only [State.setCtx, State.core_setCore]

theorem State.core_setCtx_other (a : Site) (x : CtxSt) {n : Nat} (h : n ≠ a.core) : (s.setCtx a x).core n = s.core n := by
  simp only [State.setCtx, State.core_setCore_other _ _ h]

@[simp] theorem State.jobs_setCtx (a : Site) (x : CtxSt) (n : Nat) : ((s.setCtx a x).core n).jobs = (s.core n).jobs := by
  by_cases h : n = a.core
  · subst h; simp only [State.core_setCtx]
  · simp only [State.core_setCtx_other _ _ _ h]

@[simp] theorem State.own_setCtx (a : Site) (x : CtxSt) (n : Nat) : ((s.setCtx a x).core n).own = (s.core n).own := by
  by_cases h : n = a.core
  · subst h; simp only [State.core_setCtx]
  · simp only [State.core_setCtx_other _ _ _ h]

@[simp] theorem State.acc_setCtx (a : Site) (x : CtxSt) (n : Nat) : ((s.setCtx a x).core n).acc = (s.core n).acc := by
  by_cases h : n = a.core
  · subst h; simp only [State.core_setCtx]
  · simp only [State.core_setCtx_other _ _ _ h]

/-! ## Registers of a context -/

variable (x : CtxSt)

@[simp] theorem CtxSt.greg_zero : x.greg 0 = 0 := rfl
@[simp] theorem CtxSt.preg_zero : x.preg 0 = true := rfl

theorem CtxSt.greg_setG_same {r : Fin 32} (v : Word) (h : r ≠ 0) : (x.setG r v).greg r = v := by
  simp only [CtxSt.greg, CtxSt.setG, if_neg h, Fin.getElem_fin, Vector.getElem_set_self]

theorem CtxSt.greg_setG_other {r q : Fin 32} (v : Word) (h : q ≠ r) : (x.setG r v).greg q = x.greg q := by
  have hv : r.val ≠ q.val := fun e => h (Fin.ext e.symm)
  unfold CtxSt.greg CtxSt.setG
  split
  · rfl
  · split
    · rfl
    · simp only [Fin.getElem_fin, Vector.getElem_set_ne _ _ hv]

@[simp] theorem CtxSt.setG_zero (v : Word) : x.setG 0 v = x := rfl
@[simp] theorem CtxSt.setP_zero (v : Bool) : x.setP 0 v = x := rfl
@[simp] theorem CtxSt.setG_pc (r : Fin 32) (v : Word) : (x.setG r v).pc = x.pc := by unfold CtxSt.setG; split <;> rfl
@[simp] theorem CtxSt.setG_p (r : Fin 32) (v : Word) : (x.setG r v).p = x.p := by unfold CtxSt.setG; split <;> rfl
@[simp] theorem CtxSt.setG_c (r : Fin 32) (v : Word) : (x.setG r v).c = x.c := by unfold CtxSt.setG; split <;> rfl
@[simp] theorem CtxSt.setG_td (r : Fin 32) (v : Word) : (x.setG r v).td = x.td := by unfold CtxSt.setG; split <;> rfl
@[simp] theorem CtxSt.setG_loops (r : Fin 32) (v : Word) : (x.setG r v).loops = x.loops := by unfold CtxSt.setG; split <;> rfl
@[simp] theorem CtxSt.setG_vl (r : Fin 32) (v : Word) : (x.setG r v).vl = x.vl := by unfold CtxSt.setG; split <;> rfl
@[simp] theorem CtxSt.setG_queue (r : Fin 32) (v : Word) : (x.setG r v).queue = x.queue := by unfold CtxSt.setG; split <;> rfl
@[simp] theorem CtxSt.setG_running (r : Fin 32) (v : Word) : (x.setG r v).running = x.running := by unfold CtxSt.setG; split <;> rfl
@[simp] theorem CtxSt.setG_wait (r : Fin 32) (v : Word) : (x.setG r v).wait = x.wait := by unfold CtxSt.setG; split <;> rfl
@[simp] theorem CtxSt.setG_tag (r : Fin 32) (v : Word) : (x.setG r v).tag = x.tag := by unfold CtxSt.setG; split <;> rfl
@[simp] theorem CtxSt.setG_entryNo (r : Fin 32) (v : Word) : (x.setG r v).entryNo = x.entryNo := by unfold CtxSt.setG; split <;> rfl
@[simp] theorem CtxSt.setG_ending (r : Fin 32) (v : Word) : (x.setG r v).ending = x.ending := by unfold CtxSt.setG; split <;> rfl
@[simp] theorem CtxSt.setG_halted (r : Fin 32) (v : Word) : (x.setG r v).halted = x.halted := by unfold CtxSt.setG; split <;> rfl
@[simp] theorem CtxSt.setP_pc (r : Fin 8) (v : Bool) : (x.setP r v).pc = x.pc := by unfold CtxSt.setP; split <;> rfl
@[simp] theorem CtxSt.setP_g (r : Fin 8) (v : Bool) : (x.setP r v).g = x.g := by unfold CtxSt.setP; split <;> rfl
@[simp] theorem CtxSt.setP_c (r : Fin 8) (v : Bool) : (x.setP r v).c = x.c := by unfold CtxSt.setP; split <;> rfl
@[simp] theorem CtxSt.setP_td (r : Fin 8) (v : Bool) : (x.setP r v).td = x.td := by unfold CtxSt.setP; split <;> rfl
@[simp] theorem CtxSt.setP_loops (r : Fin 8) (v : Bool) : (x.setP r v).loops = x.loops := by unfold CtxSt.setP; split <;> rfl
@[simp] theorem CtxSt.setP_vl (r : Fin 8) (v : Bool) : (x.setP r v).vl = x.vl := by unfold CtxSt.setP; split <;> rfl
@[simp] theorem CtxSt.setP_queue (r : Fin 8) (v : Bool) : (x.setP r v).queue = x.queue := by unfold CtxSt.setP; split <;> rfl
@[simp] theorem CtxSt.setP_running (r : Fin 8) (v : Bool) : (x.setP r v).running = x.running := by unfold CtxSt.setP; split <;> rfl
@[simp] theorem CtxSt.setP_wait (r : Fin 8) (v : Bool) : (x.setP r v).wait = x.wait := by unfold CtxSt.setP; split <;> rfl
@[simp] theorem CtxSt.setP_tag (r : Fin 8) (v : Bool) : (x.setP r v).tag = x.tag := by unfold CtxSt.setP; split <;> rfl
@[simp] theorem CtxSt.setP_entryNo (r : Fin 8) (v : Bool) : (x.setP r v).entryNo = x.entryNo := by unfold CtxSt.setP; split <;> rfl
@[simp] theorem CtxSt.setP_ending (r : Fin 8) (v : Bool) : (x.setP r v).ending = x.ending := by unfold CtxSt.setP; split <;> rfl
@[simp] theorem CtxSt.setP_halted (r : Fin 8) (v : Bool) : (x.setP r v).halted = x.halted := by unfold CtxSt.setP; split <;> rfl

/-! ## setCore -/

@[simp] theorem State.setCore_pending (n : Nat) (c : CoreSt) : (s.setCore n c).pending = s.pending := rfl
@[simp] theorem State.setCore_mem (n : Nat) (c : CoreSt) : (s.setCore n c).mem = s.mem := rfl
@[simp] theorem State.setCore_cores (n : Nat) (c : CoreSt) : (s.setCore n c).cores = aput s.cores n c := rfl
@[simp] theorem State.setCore_flags (n : Nat) (c : CoreSt) : (s.setCore n c).flags = s.flags := rfl
@[simp] theorem State.setCore_chans (n : Nat) (c : CoreSt) : (s.setCore n c).chans = s.chans := rfl
@[simp] theorem State.setCore_plan (n : Nat) (c : CoreSt) : (s.setCore n c).plan = s.plan := rfl
@[simp] theorem State.setCore_img (n : Nat) (c : CoreSt) : (s.setCore n c).img = s.img := rfl
@[simp] theorem State.setCore_imgApplied (n : Nat) (c : CoreSt) : (s.setCore n c).imgApplied = s.imgApplied := rfl
@[simp] theorem State.setCore_beat (n : Nat) (c : CoreSt) : (s.setCore n c).beat = s.beat := rfl
@[simp] theorem State.setCore_phase (n : Nat) (c : CoreSt) : (s.setCore n c).phase = s.phase := rfl
@[simp] theorem State.setCore_dev (n : Nat) (c : CoreSt) : (s.setCore n c).dev = s.dev := rfl
@[simp] theorem State.setCore_addr (n : Nat) (c : CoreSt) : (s.setCore n c).addr = s.addr := rfl
@[simp] theorem State.setCore_addrValid (n : Nat) (c : CoreSt) : (s.setCore n c).addrValid = s.addrValid := rfl
@[simp] theorem State.setCore_acquired (n : Nat) (c : CoreSt) : (s.setCore n c).acquired = s.acquired := rfl
@[simp] theorem State.setCore_joinDigest (n : Nat) (c : CoreSt) : (s.setCore n c).joinDigest = s.joinDigest := rfl
@[simp] theorem State.setCore_err (n : Nat) (c : CoreSt) : (s.setCore n c).err = s.err := rfl
@[simp] theorem State.setCore_devCnt (n : Nat) (c : CoreSt) : (s.setCore n c).devCnt = s.devCnt := rfl
@[simp] theorem State.setCore_ctxCnt (n : Nat) (c : CoreSt) : (s.setCore n c).ctxCnt = s.ctxCnt := rfl
@[simp] theorem State.setCore_jobs (n : Nat) (c : CoreSt) : (s.setCore n c).jobs = s.jobs := rfl
@[simp] theorem State.setCore_undos (n : Nat) (c : CoreSt) : (s.setCore n c).undos = s.undos := rfl
@[simp] theorem State.setCore_sec (n : Nat) (c : CoreSt) : (s.setCore n c).sec = s.sec := rfl
@[simp] theorem State.setCore_lookups (n : Nat) (c : CoreSt) : (s.setCore n c).lookups = s.lookups := rfl
@[simp] theorem State.setCore_nextLookup (n : Nat) (c : CoreSt) : (s.setCore n c).nextLookup = s.nextLookup := rfl
@[simp] theorem State.setCore_bufs (n : Nat) (c : CoreSt) : (s.setCore n c).bufs = s.bufs := rfl
@[simp] theorem State.setCore_former (n : Nat) (c : CoreSt) : (s.setCore n c).former = s.former := rfl
@[simp] theorem State.setCore_loss (n : Nat) (c : CoreSt) : (s.setCore n c).loss = s.loss := rfl
@[simp] theorem State.setCore_lossEarly (n : Nat) (c : CoreSt) : (s.setCore n c).lossEarly = s.lossEarly := rfl
@[simp] theorem State.setCore_stemStall (n : Nat) (c : CoreSt) : (s.setCore n c).stemStall = s.stemStall := rfl
@[simp] theorem State.setCore_stages (n : Nat) (c : CoreSt) : (s.setCore n c).stages = s.stages := rfl
@[simp] theorem State.setCore_accts (n : Nat) (c : CoreSt) : (s.setCore n c).accts = s.accts := rfl
@[simp] theorem State.setCore_busy (n : Nat) (c : CoreSt) : (s.setCore n c).busy = s.busy := rfl
@[simp] theorem State.setCore_capt (n : Nat) (c : CoreSt) : (s.setCore n c).capt = s.capt := rfl
@[simp] theorem State.setCore_exch (n : Nat) (c : CoreSt) : (s.setCore n c).exch = s.exch := rfl
@[simp] theorem State.setCore_shadowCopy (n : Nat) (c : CoreSt) : (s.setCore n c).shadowCopy = s.shadowCopy := rfl
@[simp] theorem State.setCore_shadow (n : Nat) (c : CoreSt) : (s.setCore n c).shadow = s.shadow := rfl
@[simp] theorem State.setCore_jnl (n : Nat) (c : CoreSt) : (s.setCore n c).jnl = s.jnl := rfl
@[simp] theorem State.setCore_samples (n : Nat) (c : CoreSt) : (s.setCore n c).samples = s.samples := rfl
@[simp] theorem State.setCore_sampleSerial (n : Nat) (c : CoreSt) : (s.setCore n c).sampleSerial = s.sampleSerial := rfl
@[simp] theorem State.setCore_fired (n : Nat) (c : CoreSt) : (s.setCore n c).fired = s.fired := rfl
@[simp] theorem State.setCore_keys (n : Nat) (c : CoreSt) : (s.setCore n c).keys = s.keys := rfl
@[simp] theorem State.setCore_form (n : Nat) (c : CoreSt) : (s.setCore n c).form = s.form := rfl
@[simp] theorem State.setCore_origin (n : Nat) (c : CoreSt) : (s.setCore n c).origin = s.origin := rfl
@[simp] theorem State.setCore_excluded (n : Nat) (c : CoreSt) : (s.setCore n c).excluded = s.excluded := rfl
@[simp] theorem State.setCore_reqs (n : Nat) (c : CoreSt) : (s.setCore n c).reqs = s.reqs := rfl
@[simp] theorem State.setCore_batches (n : Nat) (c : CoreSt) : (s.setCore n c).batches = s.batches := rfl
@[simp] theorem State.setCore_nextBatch (n : Nat) (c : CoreSt) : (s.setCore n c).nextBatch = s.nextBatch := rfl
@[simp] theorem State.setCore_adapters (n : Nat) (c : CoreSt) : (s.setCore n c).adapters = s.adapters := rfl
@[simp] theorem State.setCore_adapterHigh (n : Nat) (c : CoreSt) : (s.setCore n c).adapterHigh = s.adapterHigh := rfl
@[simp] theorem State.setCore_masks (n : Nat) (c : CoreSt) : (s.setCore n c).masks = s.masks := rfl
@[simp] theorem State.setCore_maskFree (n : Nat) (c : CoreSt) : (s.setCore n c).maskFree = s.maskFree := rfl
@[simp] theorem State.setCore_summaries (n : Nat) (c : CoreSt) : (s.setCore n c).summaries = s.summaries := rfl
@[simp] theorem State.setCore_sessions (n : Nat) (c : CoreSt) : (s.setCore n c).sessions = s.sessions := rfl
@[simp] theorem State.setCore_nextSession (n : Nat) (c : CoreSt) : (s.setCore n c).nextSession = s.nextSession := rfl
@[simp] theorem State.setCore_reports (n : Nat) (c : CoreSt) : (s.setCore n c).reports = s.reports := rfl
@[simp] theorem State.setCore_eth (n : Nat) (c : CoreSt) : (s.setCore n c).eth = s.eth := rfl
@[simp] theorem State.setCore_deviceId (n : Nat) (c : CoreSt) : (s.setCore n c).deviceId = s.deviceId := rfl
@[simp] theorem State.setCore_nvm (n : Nat) (c : CoreSt) : (s.setCore n c).nvm = s.nvm := rfl
@[simp] theorem State.setCore_fwRun (n : Nat) (c : CoreSt) : (s.setCore n c).fwRun = s.fwRun := rfl
@[simp] theorem State.setCore_imgRun (n : Nat) (c : CoreSt) : (s.setCore n c).imgRun = s.imgRun := rfl
@[simp] theorem State.setCore_planEntry (n : Nat) (c : CoreSt) : (s.setCore n c).planEntry = s.planEntry := rfl
@[simp] theorem State.setCore_planRx (n : Nat) (c : CoreSt) : (s.setCore n c).planRx = s.planRx := rfl
@[simp] theorem State.setCore_switch (n : Nat) (c : CoreSt) : (s.setCore n c).switch = s.switch := rfl
@[simp] theorem State.setCore_drainSince (n : Nat) (c : CoreSt) : (s.setCore n c).drainSince = s.drainSince := rfl
@[simp] theorem State.setCore_turns (n : Nat) (c : CoreSt) : (s.setCore n c).turns = s.turns := rfl
@[simp] theorem State.setCore_openEntries (n : Nat) (c : CoreSt) : (s.setCore n c).openEntries = s.openEntries := rfl
@[simp] theorem State.setCore_heldEntries (n : Nat) (c : CoreSt) : (s.setCore n c).heldEntries = s.heldEntries := rfl
@[simp] theorem State.setCore_straps (n : Nat) (c : CoreSt) : (s.setCore n c).straps = s.straps := rfl
@[simp] theorem State.setCore_vine (n : Nat) (c : CoreSt) : (s.setCore n c).vine = s.vine := rfl
@[simp] theorem State.setCore_ports (n : Nat) (c : CoreSt) : (s.setCore n c).ports = s.ports := rfl
@[simp] theorem State.setCore_formation (n : Nat) (c : CoreSt) : (s.setCore n c).formation = s.formation := rfl
@[simp] theorem State.setCore_bt (n : Nat) (c : CoreSt) : (s.setCore n c).bt = s.bt := rfl
@[simp] theorem State.setCore_pwr (n : Nat) (c : CoreSt) : (s.setCore n c).pwr = s.pwr := rfl
@[simp] theorem State.setCore_bootCode (n : Nat) (c : CoreSt) : (s.setCore n c).bootCode = s.bootCode := rfl
@[simp] theorem State.setCore_jnlInit (n : Nat) (c : CoreSt) : (s.setCore n c).jnlInit = s.jnlInit := rfl
@[simp] theorem State.setCore_out (n : Nat) (c : CoreSt) : (s.setCore n c).out = s.out := rfl

/-! ## setCtx -/

@[simp] theorem State.setCtx_pending (a : Site) (x : CtxSt) : (s.setCtx a x).pending = s.pending := rfl
@[simp] theorem State.setCtx_mem (a : Site) (x : CtxSt) : (s.setCtx a x).mem = s.mem := rfl
@[simp] theorem State.setCtx_flags (a : Site) (x : CtxSt) : (s.setCtx a x).flags = s.flags := rfl
@[simp] theorem State.setCtx_chans (a : Site) (x : CtxSt) : (s.setCtx a x).chans = s.chans := rfl
@[simp] theorem State.setCtx_plan (a : Site) (x : CtxSt) : (s.setCtx a x).plan = s.plan := rfl
@[simp] theorem State.setCtx_img (a : Site) (x : CtxSt) : (s.setCtx a x).img = s.img := rfl
@[simp] theorem State.setCtx_imgApplied (a : Site) (x : CtxSt) : (s.setCtx a x).imgApplied = s.imgApplied := rfl
@[simp] theorem State.setCtx_beat (a : Site) (x : CtxSt) : (s.setCtx a x).beat = s.beat := rfl
@[simp] theorem State.setCtx_phase (a : Site) (x : CtxSt) : (s.setCtx a x).phase = s.phase := rfl
@[simp] theorem State.setCtx_dev (a : Site) (x : CtxSt) : (s.setCtx a x).dev = s.dev := rfl
@[simp] theorem State.setCtx_addr (a : Site) (x : CtxSt) : (s.setCtx a x).addr = s.addr := rfl
@[simp] theorem State.setCtx_addrValid (a : Site) (x : CtxSt) : (s.setCtx a x).addrValid = s.addrValid := rfl
@[simp] theorem State.setCtx_acquired (a : Site) (x : CtxSt) : (s.setCtx a x).acquired = s.acquired := rfl
@[simp] theorem State.setCtx_joinDigest (a : Site) (x : CtxSt) : (s.setCtx a x).joinDigest = s.joinDigest := rfl
@[simp] theorem State.setCtx_err (a : Site) (x : CtxSt) : (s.setCtx a x).err = s.err := rfl
@[simp] theorem State.setCtx_devCnt (a : Site) (x : CtxSt) : (s.setCtx a x).devCnt = s.devCnt := rfl
@[simp] theorem State.setCtx_ctxCnt (a : Site) (x : CtxSt) : (s.setCtx a x).ctxCnt = s.ctxCnt := rfl
@[simp] theorem State.setCtx_jobs (a : Site) (x : CtxSt) : (s.setCtx a x).jobs = s.jobs := rfl
@[simp] theorem State.setCtx_undos (a : Site) (x : CtxSt) : (s.setCtx a x).undos = s.undos := rfl
@[simp] theorem State.setCtx_sec (a : Site) (x : CtxSt) : (s.setCtx a x).sec = s.sec := rfl
@[simp] theorem State.setCtx_lookups (a : Site) (x : CtxSt) : (s.setCtx a x).lookups = s.lookups := rfl
@[simp] theorem State.setCtx_nextLookup (a : Site) (x : CtxSt) : (s.setCtx a x).nextLookup = s.nextLookup := rfl
@[simp] theorem State.setCtx_bufs (a : Site) (x : CtxSt) : (s.setCtx a x).bufs = s.bufs := rfl
@[simp] theorem State.setCtx_former (a : Site) (x : CtxSt) : (s.setCtx a x).former = s.former := rfl
@[simp] theorem State.setCtx_loss (a : Site) (x : CtxSt) : (s.setCtx a x).loss = s.loss := rfl
@[simp] theorem State.setCtx_lossEarly (a : Site) (x : CtxSt) : (s.setCtx a x).lossEarly = s.lossEarly := rfl
@[simp] theorem State.setCtx_stemStall (a : Site) (x : CtxSt) : (s.setCtx a x).stemStall = s.stemStall := rfl
@[simp] theorem State.setCtx_stages (a : Site) (x : CtxSt) : (s.setCtx a x).stages = s.stages := rfl
@[simp] theorem State.setCtx_accts (a : Site) (x : CtxSt) : (s.setCtx a x).accts = s.accts := rfl
@[simp] theorem State.setCtx_busy (a : Site) (x : CtxSt) : (s.setCtx a x).busy = s.busy := rfl
@[simp] theorem State.setCtx_capt (a : Site) (x : CtxSt) : (s.setCtx a x).capt = s.capt := rfl
@[simp] theorem State.setCtx_exch (a : Site) (x : CtxSt) : (s.setCtx a x).exch = s.exch := rfl
@[simp] theorem State.setCtx_shadowCopy (a : Site) (x : CtxSt) : (s.setCtx a x).shadowCopy = s.shadowCopy := rfl
@[simp] theorem State.setCtx_shadow (a : Site) (x : CtxSt) : (s.setCtx a x).shadow = s.shadow := rfl
@[simp] theorem State.setCtx_jnl (a : Site) (x : CtxSt) : (s.setCtx a x).jnl = s.jnl := rfl
@[simp] theorem State.setCtx_samples (a : Site) (x : CtxSt) : (s.setCtx a x).samples = s.samples := rfl
@[simp] theorem State.setCtx_sampleSerial (a : Site) (x : CtxSt) : (s.setCtx a x).sampleSerial = s.sampleSerial := rfl
@[simp] theorem State.setCtx_fired (a : Site) (x : CtxSt) : (s.setCtx a x).fired = s.fired := rfl
@[simp] theorem State.setCtx_keys (a : Site) (x : CtxSt) : (s.setCtx a x).keys = s.keys := rfl
@[simp] theorem State.setCtx_form (a : Site) (x : CtxSt) : (s.setCtx a x).form = s.form := rfl
@[simp] theorem State.setCtx_origin (a : Site) (x : CtxSt) : (s.setCtx a x).origin = s.origin := rfl
@[simp] theorem State.setCtx_excluded (a : Site) (x : CtxSt) : (s.setCtx a x).excluded = s.excluded := rfl
@[simp] theorem State.setCtx_reqs (a : Site) (x : CtxSt) : (s.setCtx a x).reqs = s.reqs := rfl
@[simp] theorem State.setCtx_batches (a : Site) (x : CtxSt) : (s.setCtx a x).batches = s.batches := rfl
@[simp] theorem State.setCtx_nextBatch (a : Site) (x : CtxSt) : (s.setCtx a x).nextBatch = s.nextBatch := rfl
@[simp] theorem State.setCtx_adapters (a : Site) (x : CtxSt) : (s.setCtx a x).adapters = s.adapters := rfl
@[simp] theorem State.setCtx_adapterHigh (a : Site) (x : CtxSt) : (s.setCtx a x).adapterHigh = s.adapterHigh := rfl
@[simp] theorem State.setCtx_masks (a : Site) (x : CtxSt) : (s.setCtx a x).masks = s.masks := rfl
@[simp] theorem State.setCtx_maskFree (a : Site) (x : CtxSt) : (s.setCtx a x).maskFree = s.maskFree := rfl
@[simp] theorem State.setCtx_summaries (a : Site) (x : CtxSt) : (s.setCtx a x).summaries = s.summaries := rfl
@[simp] theorem State.setCtx_sessions (a : Site) (x : CtxSt) : (s.setCtx a x).sessions = s.sessions := rfl
@[simp] theorem State.setCtx_nextSession (a : Site) (x : CtxSt) : (s.setCtx a x).nextSession = s.nextSession := rfl
@[simp] theorem State.setCtx_reports (a : Site) (x : CtxSt) : (s.setCtx a x).reports = s.reports := rfl
@[simp] theorem State.setCtx_eth (a : Site) (x : CtxSt) : (s.setCtx a x).eth = s.eth := rfl
@[simp] theorem State.setCtx_deviceId (a : Site) (x : CtxSt) : (s.setCtx a x).deviceId = s.deviceId := rfl
@[simp] theorem State.setCtx_nvm (a : Site) (x : CtxSt) : (s.setCtx a x).nvm = s.nvm := rfl
@[simp] theorem State.setCtx_fwRun (a : Site) (x : CtxSt) : (s.setCtx a x).fwRun = s.fwRun := rfl
@[simp] theorem State.setCtx_imgRun (a : Site) (x : CtxSt) : (s.setCtx a x).imgRun = s.imgRun := rfl
@[simp] theorem State.setCtx_planEntry (a : Site) (x : CtxSt) : (s.setCtx a x).planEntry = s.planEntry := rfl
@[simp] theorem State.setCtx_planRx (a : Site) (x : CtxSt) : (s.setCtx a x).planRx = s.planRx := rfl
@[simp] theorem State.setCtx_switch (a : Site) (x : CtxSt) : (s.setCtx a x).switch = s.switch := rfl
@[simp] theorem State.setCtx_drainSince (a : Site) (x : CtxSt) : (s.setCtx a x).drainSince = s.drainSince := rfl
@[simp] theorem State.setCtx_turns (a : Site) (x : CtxSt) : (s.setCtx a x).turns = s.turns := rfl
@[simp] theorem State.setCtx_openEntries (a : Site) (x : CtxSt) : (s.setCtx a x).openEntries = s.openEntries := rfl
@[simp] theorem State.setCtx_heldEntries (a : Site) (x : CtxSt) : (s.setCtx a x).heldEntries = s.heldEntries := rfl
@[simp] theorem State.setCtx_straps (a : Site) (x : CtxSt) : (s.setCtx a x).straps = s.straps := rfl
@[simp] theorem State.setCtx_vine (a : Site) (x : CtxSt) : (s.setCtx a x).vine = s.vine := rfl
@[simp] theorem State.setCtx_ports (a : Site) (x : CtxSt) : (s.setCtx a x).ports = s.ports := rfl
@[simp] theorem State.setCtx_formation (a : Site) (x : CtxSt) : (s.setCtx a x).formation = s.formation := rfl
@[simp] theorem State.setCtx_bt (a : Site) (x : CtxSt) : (s.setCtx a x).bt = s.bt := rfl
@[simp] theorem State.setCtx_pwr (a : Site) (x : CtxSt) : (s.setCtx a x).pwr = s.pwr := rfl
@[simp] theorem State.setCtx_bootCode (a : Site) (x : CtxSt) : (s.setCtx a x).bootCode = s.bootCode := rfl
@[simp] theorem State.setCtx_jnlInit (a : Site) (x : CtxSt) : (s.setCtx a x).jnlInit = s.jnlInit := rfl
@[simp] theorem State.setCtx_out (a : Site) (x : CtxSt) : (s.setCtx a x).out = s.out := rfl

/-! ## tookTurn -/

@[simp] theorem State.tookTurn_pending (a : Site) : (s.tookTurn a).pending = s.pending := rfl
@[simp] theorem State.tookTurn_mem (a : Site) : (s.tookTurn a).mem = s.mem := rfl
@[simp] theorem State.tookTurn_cores (a : Site) : (s.tookTurn a).cores = s.cores := rfl
@[simp] theorem State.tookTurn_flags (a : Site) : (s.tookTurn a).flags = s.flags := rfl
@[simp] theorem State.tookTurn_chans (a : Site) : (s.tookTurn a).chans = s.chans := rfl
@[simp] theorem State.tookTurn_plan (a : Site) : (s.tookTurn a).plan = s.plan := rfl
@[simp] theorem State.tookTurn_img (a : Site) : (s.tookTurn a).img = s.img := rfl
@[simp] theorem State.tookTurn_imgApplied (a : Site) : (s.tookTurn a).imgApplied = s.imgApplied := rfl
@[simp] theorem State.tookTurn_beat (a : Site) : (s.tookTurn a).beat = s.beat := rfl
@[simp] theorem State.tookTurn_phase (a : Site) : (s.tookTurn a).phase = s.phase := rfl
@[simp] theorem State.tookTurn_dev (a : Site) : (s.tookTurn a).dev = s.dev := rfl
@[simp] theorem State.tookTurn_addr (a : Site) : (s.tookTurn a).addr = s.addr := rfl
@[simp] theorem State.tookTurn_addrValid (a : Site) : (s.tookTurn a).addrValid = s.addrValid := rfl
@[simp] theorem State.tookTurn_acquired (a : Site) : (s.tookTurn a).acquired = s.acquired := rfl
@[simp] theorem State.tookTurn_joinDigest (a : Site) : (s.tookTurn a).joinDigest = s.joinDigest := rfl
@[simp] theorem State.tookTurn_err (a : Site) : (s.tookTurn a).err = s.err := rfl
@[simp] theorem State.tookTurn_devCnt (a : Site) : (s.tookTurn a).devCnt = s.devCnt := rfl
@[simp] theorem State.tookTurn_ctxCnt (a : Site) : (s.tookTurn a).ctxCnt = s.ctxCnt := rfl
@[simp] theorem State.tookTurn_jobs (a : Site) : (s.tookTurn a).jobs = s.jobs := rfl
@[simp] theorem State.tookTurn_undos (a : Site) : (s.tookTurn a).undos = s.undos := rfl
@[simp] theorem State.tookTurn_sec (a : Site) : (s.tookTurn a).sec = s.sec := rfl
@[simp] theorem State.tookTurn_lookups (a : Site) : (s.tookTurn a).lookups = s.lookups := rfl
@[simp] theorem State.tookTurn_nextLookup (a : Site) : (s.tookTurn a).nextLookup = s.nextLookup := rfl
@[simp] theorem State.tookTurn_bufs (a : Site) : (s.tookTurn a).bufs = s.bufs := rfl
@[simp] theorem State.tookTurn_former (a : Site) : (s.tookTurn a).former = s.former := rfl
@[simp] theorem State.tookTurn_loss (a : Site) : (s.tookTurn a).loss = s.loss := rfl
@[simp] theorem State.tookTurn_lossEarly (a : Site) : (s.tookTurn a).lossEarly = s.lossEarly := rfl
@[simp] theorem State.tookTurn_stemStall (a : Site) : (s.tookTurn a).stemStall = s.stemStall := rfl
@[simp] theorem State.tookTurn_stages (a : Site) : (s.tookTurn a).stages = s.stages := rfl
@[simp] theorem State.tookTurn_accts (a : Site) : (s.tookTurn a).accts = s.accts := rfl
@[simp] theorem State.tookTurn_busy (a : Site) : (s.tookTurn a).busy = s.busy := rfl
@[simp] theorem State.tookTurn_capt (a : Site) : (s.tookTurn a).capt = s.capt := rfl
@[simp] theorem State.tookTurn_exch (a : Site) : (s.tookTurn a).exch = s.exch := rfl
@[simp] theorem State.tookTurn_shadowCopy (a : Site) : (s.tookTurn a).shadowCopy = s.shadowCopy := rfl
@[simp] theorem State.tookTurn_shadow (a : Site) : (s.tookTurn a).shadow = s.shadow := rfl
@[simp] theorem State.tookTurn_jnl (a : Site) : (s.tookTurn a).jnl = s.jnl := rfl
@[simp] theorem State.tookTurn_samples (a : Site) : (s.tookTurn a).samples = s.samples := rfl
@[simp] theorem State.tookTurn_sampleSerial (a : Site) : (s.tookTurn a).sampleSerial = s.sampleSerial := rfl
@[simp] theorem State.tookTurn_fired (a : Site) : (s.tookTurn a).fired = s.fired := rfl
@[simp] theorem State.tookTurn_keys (a : Site) : (s.tookTurn a).keys = s.keys := rfl
@[simp] theorem State.tookTurn_form (a : Site) : (s.tookTurn a).form = s.form := rfl
@[simp] theorem State.tookTurn_origin (a : Site) : (s.tookTurn a).origin = s.origin := rfl
@[simp] theorem State.tookTurn_excluded (a : Site) : (s.tookTurn a).excluded = s.excluded := rfl
@[simp] theorem State.tookTurn_reqs (a : Site) : (s.tookTurn a).reqs = s.reqs := rfl
@[simp] theorem State.tookTurn_batches (a : Site) : (s.tookTurn a).batches = s.batches := rfl
@[simp] theorem State.tookTurn_nextBatch (a : Site) : (s.tookTurn a).nextBatch = s.nextBatch := rfl
@[simp] theorem State.tookTurn_adapters (a : Site) : (s.tookTurn a).adapters = s.adapters := rfl
@[simp] theorem State.tookTurn_adapterHigh (a : Site) : (s.tookTurn a).adapterHigh = s.adapterHigh := rfl
@[simp] theorem State.tookTurn_masks (a : Site) : (s.tookTurn a).masks = s.masks := rfl
@[simp] theorem State.tookTurn_maskFree (a : Site) : (s.tookTurn a).maskFree = s.maskFree := rfl
@[simp] theorem State.tookTurn_summaries (a : Site) : (s.tookTurn a).summaries = s.summaries := rfl
@[simp] theorem State.tookTurn_sessions (a : Site) : (s.tookTurn a).sessions = s.sessions := rfl
@[simp] theorem State.tookTurn_nextSession (a : Site) : (s.tookTurn a).nextSession = s.nextSession := rfl
@[simp] theorem State.tookTurn_reports (a : Site) : (s.tookTurn a).reports = s.reports := rfl
@[simp] theorem State.tookTurn_eth (a : Site) : (s.tookTurn a).eth = s.eth := rfl
@[simp] theorem State.tookTurn_deviceId (a : Site) : (s.tookTurn a).deviceId = s.deviceId := rfl
@[simp] theorem State.tookTurn_nvm (a : Site) : (s.tookTurn a).nvm = s.nvm := rfl
@[simp] theorem State.tookTurn_fwRun (a : Site) : (s.tookTurn a).fwRun = s.fwRun := rfl
@[simp] theorem State.tookTurn_imgRun (a : Site) : (s.tookTurn a).imgRun = s.imgRun := rfl
@[simp] theorem State.tookTurn_planEntry (a : Site) : (s.tookTurn a).planEntry = s.planEntry := rfl
@[simp] theorem State.tookTurn_planRx (a : Site) : (s.tookTurn a).planRx = s.planRx := rfl
@[simp] theorem State.tookTurn_switch (a : Site) : (s.tookTurn a).switch = s.switch := rfl
@[simp] theorem State.tookTurn_drainSince (a : Site) : (s.tookTurn a).drainSince = s.drainSince := rfl
@[simp] theorem State.tookTurn_openEntries (a : Site) : (s.tookTurn a).openEntries = s.openEntries := rfl
@[simp] theorem State.tookTurn_heldEntries (a : Site) : (s.tookTurn a).heldEntries = s.heldEntries := rfl
@[simp] theorem State.tookTurn_straps (a : Site) : (s.tookTurn a).straps = s.straps := rfl
@[simp] theorem State.tookTurn_vine (a : Site) : (s.tookTurn a).vine = s.vine := rfl
@[simp] theorem State.tookTurn_ports (a : Site) : (s.tookTurn a).ports = s.ports := rfl
@[simp] theorem State.tookTurn_formation (a : Site) : (s.tookTurn a).formation = s.formation := rfl
@[simp] theorem State.tookTurn_bt (a : Site) : (s.tookTurn a).bt = s.bt := rfl
@[simp] theorem State.tookTurn_pwr (a : Site) : (s.tookTurn a).pwr = s.pwr := rfl
@[simp] theorem State.tookTurn_bootCode (a : Site) : (s.tookTurn a).bootCode = s.bootCode := rfl
@[simp] theorem State.tookTurn_jnlInit (a : Site) : (s.tookTurn a).jnlInit = s.jnlInit := rfl
@[simp] theorem State.tookTurn_out (a : Site) : (s.tookTurn a).out = s.out := rfl

/-! ## setScr -/

@[simp] theorem State.setScr_pending (n a : Nat) (d : List Byte) : (s.setScr n a d).pending = s.pending := rfl
@[simp] theorem State.setScr_mem (n a : Nat) (d : List Byte) : (s.setScr n a d).mem = memPutBytes s.mem (scrAddr n a) d := rfl
@[simp] theorem State.setScr_cores (n a : Nat) (d : List Byte) : (s.setScr n a d).cores = s.cores := rfl
@[simp] theorem State.setScr_flags (n a : Nat) (d : List Byte) : (s.setScr n a d).flags = s.flags := rfl
@[simp] theorem State.setScr_chans (n a : Nat) (d : List Byte) : (s.setScr n a d).chans = s.chans := rfl
@[simp] theorem State.setScr_plan (n a : Nat) (d : List Byte) : (s.setScr n a d).plan = s.plan := rfl
@[simp] theorem State.setScr_img (n a : Nat) (d : List Byte) : (s.setScr n a d).img = s.img := rfl
@[simp] theorem State.setScr_imgApplied (n a : Nat) (d : List Byte) : (s.setScr n a d).imgApplied = s.imgApplied := rfl
@[simp] theorem State.setScr_beat (n a : Nat) (d : List Byte) : (s.setScr n a d).beat = s.beat := rfl
@[simp] theorem State.setScr_dev (n a : Nat) (d : List Byte) : (s.setScr n a d).dev = s.dev := rfl
@[simp] theorem State.setScr_addr (n a : Nat) (d : List Byte) : (s.setScr n a d).addr = s.addr := rfl
@[simp] theorem State.setScr_err (n a : Nat) (d : List Byte) : (s.setScr n a d).err = s.err := rfl
@[simp] theorem State.setScr_devCnt (n a : Nat) (d : List Byte) : (s.setScr n a d).devCnt = s.devCnt := rfl
@[simp] theorem State.setScr_jobs (n a : Nat) (d : List Byte) : (s.setScr n a d).jobs = s.jobs := rfl
@[simp] theorem State.setScr_sec (n a : Nat) (d : List Byte) : (s.setScr n a d).sec = s.sec := rfl
@[simp] theorem State.setScr_jnl (n a : Nat) (d : List Byte) : (s.setScr n a d).jnl = s.jnl := rfl
@[simp] theorem State.setScr_sessions (n a : Nat) (d : List Byte) : (s.setScr n a d).sessions = s.sessions := rfl
@[simp] theorem State.setScr_acquired (n a : Nat) (d : List Byte) : (s.setScr n a d).acquired = s.acquired := rfl
@[simp] theorem State.setScr_out (n a : Nat) (d : List Byte) : (s.setScr n a d).out = s.out := rfl

/-! ## postFlags -/

@[simp] theorem State.postFlags_pending (k : Fin 8) (f : Word) : (s.postFlags k f).pending = s.pending := rfl
@[simp] theorem State.postFlags_mem (k : Fin 8) (f : Word) : (s.postFlags k f).mem = s.mem := rfl
@[simp] theorem State.postFlags_cores (k : Fin 8) (f : Word) : (s.postFlags k f).cores = s.cores := rfl
@[simp] theorem State.postFlags_flags (k : Fin 8) (f : Word) : (s.postFlags k f).flags = s.flags.set k (s.flags[k] ||| f) := rfl
@[simp] theorem State.postFlags_chans (k : Fin 8) (f : Word) : (s.postFlags k f).chans = s.chans := rfl
@[simp] theorem State.postFlags_plan (k : Fin 8) (f : Word) : (s.postFlags k f).plan = s.plan := rfl
@[simp] theorem State.postFlags_img (k : Fin 8) (f : Word) : (s.postFlags k f).img = s.img := rfl
@[simp] theorem State.postFlags_imgApplied (k : Fin 8) (f : Word) : (s.postFlags k f).imgApplied = s.imgApplied := rfl
@[simp] theorem State.postFlags_beat (k : Fin 8) (f : Word) : (s.postFlags k f).beat = s.beat := rfl
@[simp] theorem State.postFlags_dev (k : Fin 8) (f : Word) : (s.postFlags k f).dev = s.dev := rfl
@[simp] theorem State.postFlags_addr (k : Fin 8) (f : Word) : (s.postFlags k f).addr = s.addr := rfl
@[simp] theorem State.postFlags_err (k : Fin 8) (f : Word) : (s.postFlags k f).err = s.err := rfl
@[simp] theorem State.postFlags_devCnt (k : Fin 8) (f : Word) : (s.postFlags k f).devCnt = s.devCnt := rfl
@[simp] theorem State.postFlags_jobs (k : Fin 8) (f : Word) : (s.postFlags k f).jobs = s.jobs := rfl
@[simp] theorem State.postFlags_sec (k : Fin 8) (f : Word) : (s.postFlags k f).sec = s.sec := rfl
@[simp] theorem State.postFlags_jnl (k : Fin 8) (f : Word) : (s.postFlags k f).jnl = s.jnl := rfl
@[simp] theorem State.postFlags_sessions (k : Fin 8) (f : Word) : (s.postFlags k f).sessions = s.sessions := rfl
@[simp] theorem State.postFlags_acquired (k : Fin 8) (f : Word) : (s.postFlags k f).acquired = s.acquired := rfl
@[simp] theorem State.postFlags_out (k : Fin 8) (f : Word) : (s.postFlags k f).out = s.out := rfl

/-! ## clearFlags -/

@[simp] theorem State.clearFlags_pending (k : Fin 8) (v : Word) : (s.clearFlags k v).pending = s.pending := rfl
@[simp] theorem State.clearFlags_mem (k : Fin 8) (v : Word) : (s.clearFlags k v).mem = s.mem := rfl
@[simp] theorem State.clearFlags_cores (k : Fin 8) (v : Word) : (s.clearFlags k v).cores = s.cores := rfl
@[simp] theorem State.clearFlags_flags (k : Fin 8) (v : Word) : (s.clearFlags k v).flags = s.flags.set k (s.flags[k] &&& ~~~v) := rfl
@[simp] theorem State.clearFlags_chans (k : Fin 8) (v : Word) : (s.clearFlags k v).chans = s.chans := rfl
@[simp] theorem State.clearFlags_plan (k : Fin 8) (v : Word) : (s.clearFlags k v).plan = s.plan := rfl
@[simp] theorem State.clearFlags_img (k : Fin 8) (v : Word) : (s.clearFlags k v).img = s.img := rfl
@[simp] theorem State.clearFlags_imgApplied (k : Fin 8) (v : Word) : (s.clearFlags k v).imgApplied = s.imgApplied := rfl
@[simp] theorem State.clearFlags_beat (k : Fin 8) (v : Word) : (s.clearFlags k v).beat = s.beat := rfl
@[simp] theorem State.clearFlags_dev (k : Fin 8) (v : Word) : (s.clearFlags k v).dev = s.dev := rfl
@[simp] theorem State.clearFlags_addr (k : Fin 8) (v : Word) : (s.clearFlags k v).addr = s.addr := rfl
@[simp] theorem State.clearFlags_err (k : Fin 8) (v : Word) : (s.clearFlags k v).err = s.err := rfl
@[simp] theorem State.clearFlags_devCnt (k : Fin 8) (v : Word) : (s.clearFlags k v).devCnt = s.devCnt := rfl
@[simp] theorem State.clearFlags_jobs (k : Fin 8) (v : Word) : (s.clearFlags k v).jobs = s.jobs := rfl
@[simp] theorem State.clearFlags_sec (k : Fin 8) (v : Word) : (s.clearFlags k v).sec = s.sec := rfl
@[simp] theorem State.clearFlags_jnl (k : Fin 8) (v : Word) : (s.clearFlags k v).jnl = s.jnl := rfl
@[simp] theorem State.clearFlags_sessions (k : Fin 8) (v : Word) : (s.clearFlags k v).sessions = s.sessions := rfl
@[simp] theorem State.clearFlags_acquired (k : Fin 8) (v : Word) : (s.clearFlags k v).acquired = s.acquired := rfl
@[simp] theorem State.clearFlags_out (k : Fin 8) (v : Word) : (s.clearFlags k v).out = s.out := rfl

/-! ## send -/

@[simp] theorem State.send_pending (l : List Out) : (s.send l).pending = s.pending := rfl
@[simp] theorem State.send_mem (l : List Out) : (s.send l).mem = s.mem := rfl
@[simp] theorem State.send_cores (l : List Out) : (s.send l).cores = s.cores := rfl
@[simp] theorem State.send_flags (l : List Out) : (s.send l).flags = s.flags := rfl
@[simp] theorem State.send_chans (l : List Out) : (s.send l).chans = s.chans := rfl
@[simp] theorem State.send_plan (l : List Out) : (s.send l).plan = s.plan := rfl
@[simp] theorem State.send_img (l : List Out) : (s.send l).img = s.img := rfl
@[simp] theorem State.send_imgApplied (l : List Out) : (s.send l).imgApplied = s.imgApplied := rfl
@[simp] theorem State.send_beat (l : List Out) : (s.send l).beat = s.beat := rfl
@[simp] theorem State.send_dev (l : List Out) : (s.send l).dev = s.dev := rfl
@[simp] theorem State.send_addr (l : List Out) : (s.send l).addr = s.addr := rfl
@[simp] theorem State.send_err (l : List Out) : (s.send l).err = s.err := rfl
@[simp] theorem State.send_devCnt (l : List Out) : (s.send l).devCnt = s.devCnt := rfl
@[simp] theorem State.send_jobs (l : List Out) : (s.send l).jobs = s.jobs := rfl
@[simp] theorem State.send_sec (l : List Out) : (s.send l).sec = s.sec := rfl
@[simp] theorem State.send_jnl (l : List Out) : (s.send l).jnl = s.jnl := rfl
@[simp] theorem State.send_sessions (l : List Out) : (s.send l).sessions = s.sessions := rfl
@[simp] theorem State.send_acquired (l : List Out) : (s.send l).acquired = s.acquired := rfl
@[simp] theorem State.send_out (l : List Out) : (s.send l).out = s.out ++ l := rfl

/-! ## count -/

@[simp] theorem State.count_pending (k : Fin 21) (n : Nat) : (s.count k n).pending = s.pending := rfl
@[simp] theorem State.count_mem (k : Fin 21) (n : Nat) : (s.count k n).mem = s.mem := rfl
@[simp] theorem State.count_cores (k : Fin 21) (n : Nat) : (s.count k n).cores = s.cores := rfl
@[simp] theorem State.count_flags (k : Fin 21) (n : Nat) : (s.count k n).flags = s.flags := rfl
@[simp] theorem State.count_chans (k : Fin 21) (n : Nat) : (s.count k n).chans = s.chans := rfl
@[simp] theorem State.count_plan (k : Fin 21) (n : Nat) : (s.count k n).plan = s.plan := rfl
@[simp] theorem State.count_img (k : Fin 21) (n : Nat) : (s.count k n).img = s.img := rfl
@[simp] theorem State.count_imgApplied (k : Fin 21) (n : Nat) : (s.count k n).imgApplied = s.imgApplied := rfl
@[simp] theorem State.count_beat (k : Fin 21) (n : Nat) : (s.count k n).beat = s.beat := rfl
@[simp] theorem State.count_dev (k : Fin 21) (n : Nat) : (s.count k n).dev = s.dev := rfl
@[simp] theorem State.count_addr (k : Fin 21) (n : Nat) : (s.count k n).addr = s.addr := rfl
@[simp] theorem State.count_err (k : Fin 21) (n : Nat) : (s.count k n).err = s.err := rfl
@[simp] theorem State.count_devCnt (k : Fin 21) (n : Nat) : (s.count k n).devCnt = s.devCnt.set k (s.devCnt[k] + BitVec.ofNat 64 n) := rfl
@[simp] theorem State.count_jobs (k : Fin 21) (n : Nat) : (s.count k n).jobs = s.jobs := rfl
@[simp] theorem State.count_sec (k : Fin 21) (n : Nat) : (s.count k n).sec = s.sec := rfl
@[simp] theorem State.count_jnl (k : Fin 21) (n : Nat) : (s.count k n).jnl = s.jnl := rfl
@[simp] theorem State.count_sessions (k : Fin 21) (n : Nat) : (s.count k n).sessions = s.sessions := rfl
@[simp] theorem State.count_acquired (k : Fin 21) (n : Nat) : (s.count k n).acquired = s.acquired := rfl
@[simp] theorem State.count_out (k : Fin 21) (n : Nat) : (s.count k n).out = s.out := rfl

/-! ## setJob -/

@[simp] theorem State.setJob_pending (n : Nat) (j : JobSt) : (s.setJob n j).pending = s.pending := rfl
@[simp] theorem State.setJob_mem (n : Nat) (j : JobSt) : (s.setJob n j).mem = s.mem := rfl
@[simp] theorem State.setJob_cores (n : Nat) (j : JobSt) : (s.setJob n j).cores = s.cores := rfl
@[simp] theorem State.setJob_flags (n : Nat) (j : JobSt) : (s.setJob n j).flags = s.flags := rfl
@[simp] theorem State.setJob_chans (n : Nat) (j : JobSt) : (s.setJob n j).chans = s.chans := rfl
@[simp] theorem State.setJob_plan (n : Nat) (j : JobSt) : (s.setJob n j).plan = s.plan := rfl
@[simp] theorem State.setJob_img (n : Nat) (j : JobSt) : (s.setJob n j).img = s.img := rfl
@[simp] theorem State.setJob_imgApplied (n : Nat) (j : JobSt) : (s.setJob n j).imgApplied = s.imgApplied := rfl
@[simp] theorem State.setJob_beat (n : Nat) (j : JobSt) : (s.setJob n j).beat = s.beat := rfl
@[simp] theorem State.setJob_dev (n : Nat) (j : JobSt) : (s.setJob n j).dev = s.dev := rfl
@[simp] theorem State.setJob_addr (n : Nat) (j : JobSt) : (s.setJob n j).addr = s.addr := rfl
@[simp] theorem State.setJob_err (n : Nat) (j : JobSt) : (s.setJob n j).err = s.err := rfl
@[simp] theorem State.setJob_devCnt (n : Nat) (j : JobSt) : (s.setJob n j).devCnt = s.devCnt := rfl
@[simp] theorem State.setJob_jobs (n : Nat) (j : JobSt) : (s.setJob n j).jobs = aput s.jobs n j := rfl
@[simp] theorem State.setJob_sec (n : Nat) (j : JobSt) : (s.setJob n j).sec = s.sec := rfl
@[simp] theorem State.setJob_jnl (n : Nat) (j : JobSt) : (s.setJob n j).jnl = s.jnl := rfl
@[simp] theorem State.setJob_sessions (n : Nat) (j : JobSt) : (s.setJob n j).sessions = s.sessions := rfl
@[simp] theorem State.setJob_acquired (n : Nat) (j : JobSt) : (s.setJob n j).acquired = s.acquired := rfl
@[simp] theorem State.setJob_out (n : Nat) (j : JobSt) : (s.setJob n j).out = s.out := rfl

/-! ## setChan -/

@[simp] theorem State.setChan_pending (n : Nat) (x : ChanSt) : (s.setChan n x).pending = s.pending := rfl
@[simp] theorem State.setChan_mem (n : Nat) (x : ChanSt) : (s.setChan n x).mem = s.mem := rfl
@[simp] theorem State.setChan_cores (n : Nat) (x : ChanSt) : (s.setChan n x).cores = s.cores := rfl
@[simp] theorem State.setChan_flags (n : Nat) (x : ChanSt) : (s.setChan n x).flags = s.flags := rfl
@[simp] theorem State.setChan_plan (n : Nat) (x : ChanSt) : (s.setChan n x).plan = s.plan := rfl
@[simp] theorem State.setChan_img (n : Nat) (x : ChanSt) : (s.setChan n x).img = s.img := rfl
@[simp] theorem State.setChan_imgApplied (n : Nat) (x : ChanSt) : (s.setChan n x).imgApplied = s.imgApplied := rfl
@[simp] theorem State.setChan_beat (n : Nat) (x : ChanSt) : (s.setChan n x).beat = s.beat := rfl
@[simp] theorem State.setChan_dev (n : Nat) (x : ChanSt) : (s.setChan n x).dev = s.dev := rfl
@[simp] theorem State.setChan_addr (n : Nat) (x : ChanSt) : (s.setChan n x).addr = s.addr := rfl
@[simp] theorem State.setChan_err (n : Nat) (x : ChanSt) : (s.setChan n x).err = s.err := rfl
@[simp] theorem State.setChan_devCnt (n : Nat) (x : ChanSt) : (s.setChan n x).devCnt = s.devCnt := rfl
@[simp] theorem State.setChan_jobs (n : Nat) (x : ChanSt) : (s.setChan n x).jobs = s.jobs := rfl
@[simp] theorem State.setChan_sec (n : Nat) (x : ChanSt) : (s.setChan n x).sec = s.sec := rfl
@[simp] theorem State.setChan_jnl (n : Nat) (x : ChanSt) : (s.setChan n x).jnl = s.jnl := rfl
@[simp] theorem State.setChan_sessions (n : Nat) (x : ChanSt) : (s.setChan n x).sessions = s.sessions := rfl
@[simp] theorem State.setChan_acquired (n : Nat) (x : ChanSt) : (s.setChan n x).acquired = s.acquired := rfl
@[simp] theorem State.setChan_out (n : Nat) (x : ChanSt) : (s.setChan n x).out = s.out := rfl

/-! ## withErr -/

@[simp] theorem State.withErr_pending (e : ErrSt) : (s.withErr e).pending = s.pending := rfl
@[simp] theorem State.withErr_mem (e : ErrSt) : (s.withErr e).mem = s.mem := rfl
@[simp] theorem State.withErr_cores (e : ErrSt) : (s.withErr e).cores = s.cores := rfl
@[simp] theorem State.withErr_flags (e : ErrSt) : (s.withErr e).flags = s.flags := rfl
@[simp] theorem State.withErr_chans (e : ErrSt) : (s.withErr e).chans = s.chans := rfl
@[simp] theorem State.withErr_plan (e : ErrSt) : (s.withErr e).plan = s.plan := rfl
@[simp] theorem State.withErr_img (e : ErrSt) : (s.withErr e).img = s.img := rfl
@[simp] theorem State.withErr_imgApplied (e : ErrSt) : (s.withErr e).imgApplied = s.imgApplied := rfl
@[simp] theorem State.withErr_beat (e : ErrSt) : (s.withErr e).beat = s.beat := rfl
@[simp] theorem State.withErr_dev (e : ErrSt) : (s.withErr e).dev = s.dev := rfl
@[simp] theorem State.withErr_addr (e : ErrSt) : (s.withErr e).addr = s.addr := rfl
@[simp] theorem State.withErr_err (e : ErrSt) : (s.withErr e).err = e := rfl
@[simp] theorem State.withErr_devCnt (e : ErrSt) : (s.withErr e).devCnt = s.devCnt := rfl
@[simp] theorem State.withErr_jobs (e : ErrSt) : (s.withErr e).jobs = s.jobs := rfl
@[simp] theorem State.withErr_sec (e : ErrSt) : (s.withErr e).sec = s.sec := rfl
@[simp] theorem State.withErr_jnl (e : ErrSt) : (s.withErr e).jnl = s.jnl := rfl
@[simp] theorem State.withErr_sessions (e : ErrSt) : (s.withErr e).sessions = s.sessions := rfl
@[simp] theorem State.withErr_acquired (e : ErrSt) : (s.withErr e).acquired = s.acquired := rfl
@[simp] theorem State.withErr_out (e : ErrSt) : (s.withErr e).out = s.out := rfl

/-! ## reject -/

@[simp] theorem State.reject_pending (code cls loc : Nat) : (s.reject code cls loc).pending = s.pending := State.withErr_pending s _
@[simp] theorem State.reject_mem (code cls loc : Nat) : (s.reject code cls loc).mem = s.mem := State.withErr_mem s _
@[simp] theorem State.reject_cores (code cls loc : Nat) : (s.reject code cls loc).cores = s.cores := State.withErr_cores s _
@[simp] theorem State.reject_flags (code cls loc : Nat) : (s.reject code cls loc).flags = s.flags := State.withErr_flags s _
@[simp] theorem State.reject_chans (code cls loc : Nat) : (s.reject code cls loc).chans = s.chans := State.withErr_chans s _
@[simp] theorem State.reject_plan (code cls loc : Nat) : (s.reject code cls loc).plan = s.plan := State.withErr_plan s _
@[simp] theorem State.reject_img (code cls loc : Nat) : (s.reject code cls loc).img = s.img := State.withErr_img s _
@[simp] theorem State.reject_imgApplied (code cls loc : Nat) : (s.reject code cls loc).imgApplied = s.imgApplied := State.withErr_imgApplied s _
@[simp] theorem State.reject_beat (code cls loc : Nat) : (s.reject code cls loc).beat = s.beat := State.withErr_beat s _
@[simp] theorem State.reject_dev (code cls loc : Nat) : (s.reject code cls loc).dev = s.dev := State.withErr_dev s _
@[simp] theorem State.reject_addr (code cls loc : Nat) : (s.reject code cls loc).addr = s.addr := State.withErr_addr s _
@[simp] theorem State.reject_err (code cls loc : Nat) : (s.reject code cls loc).err = s.rejErr code cls loc := State.withErr_err s _
@[simp] theorem State.reject_devCnt (code cls loc : Nat) : (s.reject code cls loc).devCnt = s.devCnt := State.withErr_devCnt s _
@[simp] theorem State.reject_jobs (code cls loc : Nat) : (s.reject code cls loc).jobs = s.jobs := State.withErr_jobs s _
@[simp] theorem State.reject_sec (code cls loc : Nat) : (s.reject code cls loc).sec = s.sec := State.withErr_sec s _
@[simp] theorem State.reject_jnl (code cls loc : Nat) : (s.reject code cls loc).jnl = s.jnl := State.withErr_jnl s _
@[simp] theorem State.reject_sessions (code cls loc : Nat) : (s.reject code cls loc).sessions = s.sessions := State.withErr_sessions s _
@[simp] theorem State.reject_acquired (code cls loc : Nat) : (s.reject code cls loc).acquired = s.acquired := State.withErr_acquired s _
@[simp] theorem State.reject_out (code cls loc : Nat) : (s.reject code cls loc).out = s.out := State.withErr_out s _

/-! ## journal -/

@[simp] theorem State.journal_pending (r : JnlBody) : (s.journal r).pending = s.pending := rfl
@[simp] theorem State.journal_mem (r : JnlBody) : (s.journal r).mem = s.mem := rfl
@[simp] theorem State.journal_cores (r : JnlBody) : (s.journal r).cores = s.cores := rfl
@[simp] theorem State.journal_flags (r : JnlBody) : (s.journal r).flags = s.flags := rfl
@[simp] theorem State.journal_chans (r : JnlBody) : (s.journal r).chans = s.chans := rfl
@[simp] theorem State.journal_plan (r : JnlBody) : (s.journal r).plan = s.plan := rfl
@[simp] theorem State.journal_img (r : JnlBody) : (s.journal r).img = s.img := rfl
@[simp] theorem State.journal_imgApplied (r : JnlBody) : (s.journal r).imgApplied = s.imgApplied := rfl
@[simp] theorem State.journal_beat (r : JnlBody) : (s.journal r).beat = s.beat := rfl
@[simp] theorem State.journal_dev (r : JnlBody) : (s.journal r).dev = s.dev := rfl
@[simp] theorem State.journal_addr (r : JnlBody) : (s.journal r).addr = s.addr := rfl
@[simp] theorem State.journal_err (r : JnlBody) : (s.journal r).err = s.err := rfl
@[simp] theorem State.journal_devCnt (r : JnlBody) : (s.journal r).devCnt = s.devCnt := rfl
@[simp] theorem State.journal_jobs (r : JnlBody) : (s.journal r).jobs = s.jobs := rfl
@[simp] theorem State.journal_sec (r : JnlBody) : (s.journal r).sec = s.sec := rfl
@[simp] theorem State.journal_sessions (r : JnlBody) : (s.journal r).sessions = s.sessions := rfl
@[simp] theorem State.journal_acquired (r : JnlBody) : (s.journal r).acquired = s.acquired := rfl
@[simp] theorem State.journal_out (r : JnlBody) : (s.journal r).out = s.out := rfl

end Sys2Proof.Machine
end

