-- ==== Sys2Proof/Laws/Frames.lean ====
section
/-!
SUPPORT. What the arrival of a data frame does, once: a frame in sequence is taken and delivered, and one that passes every check of R504
reaches its unit.
-/

namespace Sys2Proof.Machine

theorem session_setSession (s : State) (id : Nat) (x : SessionSt) : (s.setSession id x).session id = some x := aget_aput_same _ _ _

/-- A frame whose header is legal is not malformed. -/
theorem Arrives.formed {s : State} {f : Frame} {x : SessionSt} (h : Arrives s f x) : f.malformed = false := by
  unfold Frame.malformed
  rw [h.legal.1, decide_eq_false (Nat.not_lt.mpr h.legal.2)]
  rfl

/-- A frame in sequence on an open session, or PROVE: its acknowledgement fields, its delivery, and what follows it (R489, R491 to R494). -/
theorem receive_arrives {s : State} {f : Frame} {x : SessionSt} (h : Arrives s f x) {b : FrameBody} (ho : x.opened = true ∨ b.kind = some 10) :
    s.receive f b = State.endFrame f x.early.length ((s.taken f).deliverFrame f b) := by
  obtain ⟨x0, h0⟩ := Option.isSome_iff_exists.mp h.present
  have hx := h.session
  have hn := h.next
  have hr := h.range
  unfold State.taken at hx ⊢
  unfold State.receive State.inOrder State.endFrame
  simp only [h.up, h.powered, h0, h.tag, h.formed, Bool.not_true, Bool.or_self, Bool.false_eq_true, if_false]
  cases hs : (s.takeAcks f).session f.session with
  | none => simp only [hs] at hx; exact nomatch hx
  | some y =>
    simp only [hs, session_setSession, Option.some.injEq] at hx
    subst hx
    simp only at hn ho
    have h10 : (!y.opened && b.kind != some 10) = false := by rcases ho with h | h <;> simp [h]
    rw [if_neg (by omega)]
    simp only [Option.getD_some, h10, Bool.false_eq_true, if_false]
    rw [if_neg (by omega), if_pos (by omega)]

/-- What a data frame's command answers when the frame is in sequence and the session takes it. -/
theorem frame_arrives {s : State} {f : Frame} {x : SessionSt} (h : Arrives s f x) {b : FrameBody} (ho : x.opened = true ∨ b.kind = some 10) :
    s.frame f b = .next (State.endFrame f x.early.length ((s.taken f).deliverFrame f b)) := by
  unfold State.frame
  rw [receive_arrives h ho]

/-- A frame that passes every check and carries no object reaches its unit. -/
theorem deliverFrame_handle {s : State} {f : Frame} {b : FrameBody} {x : SessionSt} (h : Delivers s f b x) (hk : b.kind = none)
    (ht : ¬ (b.target = 3 ∧ b.cls = 5)) : (s.taken f).deliverFrame f b = (s.taken f).handle f none b := by
  have h5 : (b.target == 3 && b.cls == 5) = false := by
    rw [Bool.eq_false_iff]; simpa only [ne_eq, Bool.and_eq_true, beq_iff_eq] using ht
  unfold State.deliverFrame
  simp only [h.session, h.opened, h.formed, h.accepted, h.subtype, h.permitted, hk, h5, Bool.not_true,
    Bool.or_self, Bool.false_eq_true, if_false, Bool.false_and]

/-- A frame that passes every check and holds an object whole begins the object and hands it to its unit. -/
theorem deliverFrame_object {s : State} {f : Frame} {b : FrameBody} {x : SessionSt} (h : Delivers s f b x) {k : Nat} (hk : b.kind = some k)
    (ht : ¬ (b.target = 3 ∧ b.cls = 5)) :
    (s.taken f).deliverFrame f b =
      ((s.taken f).beginObject k b).1.handle f (if ((s.taken f).beginObject k b).2 < 16 then none
        else some (((s.taken f).beginObject k b).2 / 16 - 1)) b := by
  have h5 : (b.target == 3 && b.cls == 5) = false := by
    rw [Bool.eq_false_iff]; simpa only [ne_eq, Bool.and_eq_true, beq_iff_eq] using ht
  obtain ⟨w1, w2, w3⟩ := h.whole (by rw [hk]; exact Option.some_ne_none k)
  unfold State.deliverFrame
  simp only [h.session, h.opened, h.formed, h.accepted, h.subtype, h.permitted, hk, h5, Bool.not_true,
    Bool.or_self, Bool.false_eq_true, if_false, Bool.false_and]
  unfold State.block
  simp only [w1, w2, w3, Bool.not_true, Bool.false_and, Bool.or_false, bne_self_eq_false, Bool.false_eq_true, if_false, if_true]

end Sys2Proof.Machine
end

