-- ==== Sys2Proof/Laws/Issue.lean ====
section
/-!
SUPPORT. The shared operations of the sequencer, once each: when a context issues, what an executing and what an unexecuted instruction
leaves, and what a command to a core answers.
-/

namespace Sys2Proof.Machine

theorem CanIssue.issuable {s : State} {a : Site} (h : CanIssue s a) : (s.issuable a && s.hasTurn a) = true := by
  simp [State.issuable, h.core, h.running, h.free, h.live, h.turn]

/-- A command to a core of the device answers the next state that it computes. -/
theorem coreOut_next {n : Nat} (t : State) (h : n < Config.numCores) : coreOut n t = .next t := if_pos h

/-- A command to a core that the device does not have faults. -/
theorem coreOut_fault {n : Nat} (t : State) (h : Config.numCores ≤ n) : coreOut n t = .fault (.noSuchAddress n) := if_neg (by omega)

/-- An executing instruction runs on the state with its program counter advanced. -/
theorem issue_next {s : State} {a : Site} {p : Pred} (h : Issues s a p) (f) : s.issue a p f = f (s.issued a) := by
  have h1 := h.toCanIssue.issuable
  have h2 : (s.ctxAt a).executes p = true := h.executes
  unfold State.issue
  rw [if_pos h1]
  simp only [h2, if_true]
  rfl

/-- An instruction that its predicate does not select only advances the program counter (R105). -/
theorem issue_skip {s : State} {a : Site} {p : Pred} (h : CanIssue s a) (f) (h2 : ((s.ctxAt a).preg p.pred != p.pneg) = false) :
    s.issue a p f = s.issued a := by
  have h2 : (s.ctxAt a).executes p = false := h2
  unfold State.issue
  rw [if_pos h.issuable]
  simp only [h2]
  rfl

/-- A context that cannot issue, or whose turn it is not, runs nothing (R103, R336). -/
theorem issue_idle {s : State} {a : Site} {p : Pred} (h : (s.issuable a && s.hasTurn a) = false) (f) : s.issue a p f = s := by
  unfold State.issue
  rw [h]
  rfl

/-- An executing instruction on registers changes its context as its operation says, and nothing else. -/
theorem regOp_next {s : State} {a : Site} {p : Pred} (h : Issues s a p) (f) : regOp a p f s = onlyCtx s a (f (s.ctxAt a).next) := by
  unfold regOp onlyCtx
  rw [coreOut_next _ h.core, issue_next h]
  simp only [State.issued, State.ctxAt_setCtx, State.setCtx_setCtx]

theorem regOp_skip {s : State} {a : Site} {p : Pred} (h : CanIssue s a) (f) (h2 : ((s.ctxAt a).preg p.pred != p.pneg) = false) :
    regOp a p f s = onlyCtx s a (s.ctxAt a).next := by
  unfold regOp onlyCtx
  rw [coreOut_next _ h.core, issue_skip h _ h2]
  rfl

end Sys2Proof.Machine
end

