-- ==== Sys2Proof/Laws/Memory.lean ====
section
/-!
SUPPORT. Memory: every operation keeps the canonical form; a byte read after a store is the byte stored, and every other byte is as it was.
-/

namespace Sys2Proof.Machine

theorem memWfFrom_mono {m : List Host.Cell} {a b : Nat} (h : a ≤ b) (w : memWfFrom b m = true) : memWfFrom a m = true := by
  cases m with
  | nil => rfl
  | cons c r => simp only [memWfFrom, Bool.and_eq_true, decide_eq_true_eq] at w ⊢; exact ⟨⟨by omega, w.1.2⟩, w.2⟩

theorem memWfFrom_memPut {m : List Host.Cell} {lo a : Nat} {v : Byte} (ha : lo ≤ a) (w : memWfFrom lo m = true) :
    memWfFrom lo (memPut m a v) = true := by
  induction m generalizing lo with
  | nil => unfold memPut; split <;> simp_all [memWfFrom]
  | cons c r ih =>
    obtain ⟨k, b⟩ := c
    simp only [memWfFrom, Bool.and_eq_true, decide_eq_true_eq] at w
    obtain ⟨⟨h1, h2⟩, h3⟩ := w
    unfold memPut
    split
    · split
      · simp_all [memWfFrom]
      · simp only [memWfFrom, Bool.and_eq_true, decide_eq_true_eq]; exact ⟨⟨ha, ‹_›⟩, ⟨by omega, h2⟩, h3⟩
    · split
      · split
        · exact memWfFrom_mono (by omega) h3
        · subst a; simp only [memWfFrom, Bool.and_eq_true, decide_eq_true_eq]; exact ⟨⟨ha, ‹_›⟩, h3⟩
      · simp only [memWfFrom, Bool.and_eq_true, decide_eq_true_eq]; exact ⟨⟨h1, h2⟩, ih (by omega) h3⟩

/-- A store keeps the canonical form. -/
theorem memPut_wf {m : List Host.Cell} {a : Nat} {v : Byte} (w : Memory.wf m = true) : Memory.wf (memPut m a v) = true :=
  memWfFrom_memPut (Nat.zero_le a) w

theorem memPutBytes_wf {m : List Host.Cell} {a : Nat} {b : List Byte} (w : Memory.wf m = true) : Memory.wf (memPutBytes m a b) = true := by
  induction b generalizing m a with
  | nil => exact w
  | cons x r ih => exact ih (memPut_wf w)

theorem memPutLe_wf {m : List Host.Cell} {a n v : Nat} (w : Memory.wf m = true) : Memory.wf (memPutLe m a n v) = true := memPutBytes_wf w

theorem putElemBits_wf {m : List Host.Cell} {a : Nat} {f : Fmt} {c b : Nat} (w : Memory.wf m = true) :
    Memory.wf (putElemBits m a f c b) = true := memPutLe_wf w

theorem memWfFrom_filter {m : List Host.Cell} {lo : Nat} {q : Host.Cell → Bool} (w : memWfFrom lo m = true) :
    memWfFrom lo (m.filter q) = true := by
  induction m generalizing lo with
  | nil => rfl
  | cons c r ih =>
    obtain ⟨k, b⟩ := c
    simp only [memWfFrom, Bool.and_eq_true, decide_eq_true_eq] at w
    rw [List.filter_cons]
    split
    · simp only [memWfFrom, Bool.and_eq_true, decide_eq_true_eq]; exact ⟨w.1, ih w.2⟩
    · exact memWfFrom_mono (by omega) (ih w.2)

/-- Dropping cells keeps the canonical form; so does filling a range with zeros. -/
theorem filter_wf {m : List Host.Cell} {q : Host.Cell → Bool} (w : Memory.wf m = true) : Memory.wf (m.filter q) = true := memWfFrom_filter w
theorem memZero_wf {m : List Host.Cell} {a n : Nat} (w : Memory.wf m = true) : Memory.wf (memZero m a n) = true := memWfFrom_filter w

/-- A fold of stores keeps the canonical form. -/
theorem foldl_wf {α : Type} {f : List Host.Cell → α → List Host.Cell} (hf : ∀ m x, Memory.wf m = true → Memory.wf (f m x) = true)
    (l : List α) {m : List Host.Cell} (w : Memory.wf m = true) : Memory.wf (l.foldl f m) = true := by
  induction l generalizing m with
  | nil => exact w
  | cons x r ih => exact ih (hf m x w)

theorem memGet_below {m : List Host.Cell} {lo a : Nat} (h : a < lo) (w : memWfFrom lo m = true) : memGet m a = 0 := by
  cases m with
  | nil => rfl
  | cons c r =>
    simp only [memWfFrom, Bool.and_eq_true, decide_eq_true_eq] at w
    obtain ⟨⟨h1, _⟩, _⟩ := w
    have : ¬ a = c.1 := by omega
    have : a < c.1 := by omega
    simp [memGet, *]

theorem memGet_memPut_from {m : List Host.Cell} {lo a x : Nat} {v : Byte} (w : memWfFrom lo m = true) :
    memGet (memPut m a v) x = if x = a then v else memGet m x := by
  induction m generalizing lo with
  | nil => unfold memPut; split <;> simp_all [memGet]
  | cons c r ih =>
    obtain ⟨k, b⟩ := c
    simp only [memWfFrom, Bool.and_eq_true, decide_eq_true_eq] at w
    obtain ⟨⟨h1, h2⟩, h3⟩ := w
    have hr := @ih (k + 1) h3
    unfold memPut
    split
    · split
      · subst v; split <;> simp_all [memGet]; omega
      · by_cases hx : x = a
        · simp [memGet, hx]
        · by_cases h4 : x < a
          · have h5 : ¬ x = k := by omega
            have h6 : x < k := by omega
            simp [memGet, hx, h4, h5, h6]
          · simp [memGet, hx, h4]
    · split
      · subst a
        split
        · subst v
          split
          · subst x; exact memGet_below (by omega) h3
          · simp only [memGet]
            split
            · contradiction
            · split
              · exact memGet_below (by omega) h3
              · rfl
        · simp only [memGet]; split <;> simp_all
      · simp only [memGet, hr]
        split
        · have h4 : ¬ x = a := by omega
          rw [if_neg h4]
        · split
          · have h4 : ¬ x = a := by omega
            rw [if_neg h4]
          · rfl

/-- Reading after a store in canonical memory: the byte stored at its address, and every other byte as it was. -/
theorem memGet_memPut {m : List Host.Cell} {a x : Nat} {v : Byte} (w : Memory.wf m = true) :
    memGet (memPut m a v) x = if x = a then v else memGet m x := memGet_memPut_from w

theorem memGet_memPutBytes_outside {m : List Host.Cell} {a x : Nat} {b : List Byte} (w : Memory.wf m = true) (h : x < a ∨ a + b.length ≤ x) :
    memGet (memPutBytes m a b) x = memGet m x := by
  induction b generalizing m a with
  | nil => rfl
  | cons y r ih =>
    simp only [List.length_cons] at h
    rw [memPutBytes, ih (memPut_wf w) (by omega), memGet_memPut w, if_neg (by omega)]

theorem memGet_memPutBytes_inside {m : List Host.Cell} {a i : Nat} {b : List Byte} (w : Memory.wf m = true) (h : i < b.length) :
    memGet (memPutBytes m a b) (a + i) = b[i] := by
  induction b generalizing m a i with
  | nil => simp at h
  | cons y r ih =>
    rw [memPutBytes]
    cases i with
    | zero =>
      rw [memGet_memPutBytes_outside (memPut_wf w) (by omega), memGet_memPut w]; simp
    | succ j =>
      have := ih (a := a + 1) (i := j) (memPut_wf (a := a) (v := y) w) (by simpa using h)
      rw [show a + (j + 1) = a + 1 + j by omega, this]; simp

/-- Reading back bytes that were stored. -/
theorem memGetBytes_memPutBytes {m : List Host.Cell} {a : Nat} {b : List Byte} (w : Memory.wf m = true) :
    memGetBytes (memPutBytes m a b) a b.length = b := by
  apply List.ext_getElem
  · simp [memGetBytes]
  · intro i h1 h2
    simp only [memGetBytes, List.getElem_map, List.getElem_range]
    exact memGet_memPutBytes_inside w h2

theorem leNat_natLe (n v : Nat) : leNat (natLe n v) = v % 256 ^ n := by
  induction n generalizing v with
  | zero => simp [natLe, leNat, Nat.mod_one]
  | succ n ih =>
    simp only [natLe, leNat, ih, BitVec.toNat_ofNat]
    have h : v % 256 ^ (n + 1) = v % 256 + 256 * (v / 256 % 256 ^ n) := by rw [Nat.pow_succ', Nat.mod_mul]
    rw [h]

@[simp] theorem natLe_length (n v : Nat) : (natLe n v).length = n := by
  induction n generalizing v with
  | zero => rfl
  | succ n ih => simp [natLe, ih]

/-- The 32 bytes of a digest spell it. -/
theorem beNat_digestBytes (d : Digest) : BitVec.ofNat 256 (beNat (digestBytes d)) = d := by
  apply BitVec.eq_of_toNat_eq
  simp only [beNat, digestBytes, natBe, List.reverse_reverse, leNat_natLe, BitVec.toNat_ofNat]
  rw [show 256 ^ 32 = 2 ^ 256 by rfl, Nat.mod_mod, Nat.mod_eq_of_lt d.isLt]

/-- Reading back a little-endian value (R12). -/
theorem memGetLe_memPutLe {m : List Host.Cell} {a n v : Nat} (w : Memory.wf m = true) :
    memGetLe (memPutLe m a n v) a n = v % 256 ^ n := by
  have h := memGetBytes_memPutBytes (a := a) (b := natLe n v) w
  rw [natLe_length] at h
  rw [memGetLe, memPutLe, h, leNat_natLe]

end Sys2Proof.Machine
end

