-- ==== Sys2Proof/Laws/Keeps.lean ====
section
/-!
SUPPORT. What no command changes, as a preorder on states: the laws of Keeps for record updates, stores, cores and folds.
-/

namespace Sys2Proof.Machine

/-- Every next state of an outcome keeps what no command changes. -/
def KeepsOut (s : State) (o : Host.Outcome State Fault Refusal) : Prop := IfNext o (Keeps s)

variable {s t u : State}

theorem Keeps.refl (s : State) : Keeps s s :=
  ⟨rfl, id, rfl, List.prefix_refl _, List.prefix_refl _, Nat.le_refl _, Nat.le_refl _⟩

theorem Keeps.trans (h : Keeps s t) (g : Keeps t u) : Keeps s u :=
  ⟨g.pending.trans h.pending, fun x => g.ok (h.ok x), g.deviceId.trans h.deviceId, h.out.trans g.out, h.owners.trans g.owners,
   Nat.le_trans h.svn g.svn, Nat.le_trans h.epochs g.epochs⟩

/-- An update of fields that Keeps does not speak of. -/
theorem Keeps.upd
    {flags chans plan img imgApplied beat phase dev addr addrValid acquired joinDigest err devCnt ctxCnt jobs undos lookups nextLookup bufs former
    loss lossEarly stemStall stages accts busy capt exch shadowCopy shadow jnl samples sampleSerial fired keys form origin excluded reqs batches
    nextBatch adapters adapterHigh masks maskFree summaries sessions nextSession reports eth nvm fwRun imgRun planEntry planRx switch drainSince turns
    openEntries heldEntries straps vine ports formation bt pwr bootCode jnlInit}
    (h : Keeps s t) : Keeps s
    (State.mk t.pending t.mem t.cores flags chans plan img imgApplied beat phase dev addr addrValid acquired joinDigest err devCnt ctxCnt jobs undos
    t.sec lookups nextLookup bufs former loss lossEarly stemStall stages accts busy capt exch shadowCopy shadow jnl samples sampleSerial fired keys
    form origin excluded reqs batches nextBatch adapters adapterHigh masks maskFree summaries sessions nextSession reports eth t.deviceId nvm fwRun
    imgRun planEntry planRx switch drainSince turns openEntries heldEntries straps vine ports formation bt pwr bootCode jnlInit t.out) :=
  h.trans ⟨rfl, fun k => ⟨k.mem, k.cores⟩, rfl, List.prefix_refl _, List.prefix_refl _, Nat.le_refl _, Nat.le_refl _⟩

/-- The same with an update of security state other than fuses. -/
theorem Keeps.updSec
    {flags chans plan img imgApplied beat phase dev addr addrValid acquired joinDigest err devCnt ctxCnt jobs undos lookups nextLookup bufs former
    loss lossEarly stemStall stages accts busy capt exch shadowCopy shadow jnl samples sampleSerial fired keys form origin excluded reqs batches
    nextBatch adapters adapterHigh masks maskFree summaries sessions nextSession reports eth nvm fwRun imgRun planEntry planRx switch drainSince turns
    openEntries heldEntries straps vine ports formation bt pwr bootCode jnlInit} {x_station x_husk x_policy x_licensor x_macs x_short x_meters x_keys
    x_epoch x_epochAsked x_nextLeaf x_leafEnd x_leafAsked x_waiting x_challenge x_tickets x_storageKey x_reports x_rotation x_romKey x_uds
    x_identityKey x_encapKey x_decapKey x_huskObj x_bootKey x_contentKey x_upper x_imageSvnMin x_draws x_held}
    (h : Keeps s t) : Keeps s
    (State.mk t.pending t.mem t.cores flags chans plan img imgApplied beat phase dev addr addrValid acquired joinDigest err devCnt ctxCnt jobs undos
    (SecSt.mk x_station x_husk x_policy x_licensor x_macs x_short x_meters t.sec.owners t.sec.fwSvnMin t.sec.epochs x_keys x_epoch x_epochAsked
    x_nextLeaf x_leafEnd x_leafAsked x_waiting x_challenge x_tickets x_storageKey x_reports x_rotation x_romKey x_uds x_identityKey x_encapKey
    x_decapKey x_huskObj x_bootKey x_contentKey x_upper x_imageSvnMin x_draws x_held) lookups nextLookup bufs former loss lossEarly stemStall stages
    accts busy capt exch shadowCopy shadow jnl samples sampleSerial fired keys form origin excluded reqs batches nextBatch adapters adapterHigh masks
    maskFree summaries sessions nextSession reports eth t.deviceId nvm fwRun imgRun planEntry planRx switch drainSince turns openEntries heldEntries
    straps vine ports formation bt pwr bootCode jnlInit t.out) :=
  h.trans ⟨rfl, fun k => ⟨k.mem, k.cores⟩, rfl, List.prefix_refl _, List.prefix_refl _, Nat.le_refl _, Nat.le_refl _⟩

/-- The same with an update of memory that keeps its form. -/
theorem Keeps.updMem
    {flags chans plan img imgApplied beat phase dev addr addrValid acquired joinDigest err devCnt ctxCnt jobs undos lookups nextLookup bufs former
    loss lossEarly stemStall stages accts busy capt exch shadowCopy shadow jnl samples sampleSerial fired keys form origin excluded reqs batches
    nextBatch adapters adapterHigh masks maskFree summaries sessions nextSession reports eth nvm fwRun imgRun planEntry planRx switch drainSince turns
    openEntries heldEntries straps vine ports formation bt pwr bootCode jnlInit}
    {m : List Host.Cell} (hm : Memory.wf t.mem = true → Memory.wf m = true)
    (h : Keeps s t) : Keeps s
    (State.mk t.pending m t.cores flags chans plan img imgApplied beat phase dev addr addrValid acquired joinDigest err devCnt ctxCnt jobs undos t.sec
    lookups nextLookup bufs former loss lossEarly stemStall stages accts busy capt exch shadowCopy shadow jnl samples sampleSerial fired keys form
    origin excluded reqs batches nextBatch adapters adapterHigh masks maskFree summaries sessions nextSession reports eth t.deviceId nvm fwRun imgRun
    planEntry planRx switch drainSince turns openEntries heldEntries straps vine ports formation bt pwr bootCode jnlInit t.out) :=
  h.trans ⟨rfl, fun k => ⟨hm k.mem, k.cores⟩, rfl, List.prefix_refl _, List.prefix_refl _, Nat.le_refl _, Nat.le_refl _⟩

/-- The same with an update of the cores that keeps their form. -/
theorem Keeps.updCores
    {flags chans plan img imgApplied beat phase dev addr addrValid acquired joinDigest err devCnt ctxCnt jobs undos lookups nextLookup bufs former
    loss lossEarly stemStall stages accts busy capt exch shadowCopy shadow jnl samples sampleSerial fired keys form origin excluded reqs batches
    nextBatch adapters adapterHigh masks maskFree summaries sessions nextSession reports eth nvm fwRun imgRun planEntry planRx switch drainSince turns
    openEntries heldEntries straps vine ports formation bt pwr bootCode jnlInit}
    {c : List (Nat × CoreSt)} (hc : CoresOk t.cores → CoresOk c)
    (h : Keeps s t) : Keeps s
    (State.mk t.pending t.mem c flags chans plan img imgApplied beat phase dev addr addrValid acquired joinDigest err devCnt ctxCnt jobs undos t.sec
    lookups nextLookup bufs former loss lossEarly stemStall stages accts busy capt exch shadowCopy shadow jnl samples sampleSerial fired keys form
    origin excluded reqs batches nextBatch adapters adapterHigh masks maskFree summaries sessions nextSession reports eth t.deviceId nvm fwRun imgRun
    planEntry planRx switch drainSince turns openEntries heldEntries straps vine ports formation bt pwr bootCode jnlInit t.out) :=
  h.trans ⟨rfl, fun k => ⟨k.mem, hc k.cores⟩, rfl, List.prefix_refl _, List.prefix_refl _, Nat.le_refl _, Nat.le_refl _⟩

theorem Keeps.foldl {α : Type} {f : State → α → State} {l : List α} (hf : ∀ v x, Keeps s v → Keeps s (f v x)) (h : Keeps s t) :
    Keeps s (l.foldl f t) := by
  induction l generalizing t with
  | nil => exact h
  | cons x r ih => exact ih (hf t x h)

/-- A fold over a pair whose first part is a state. -/
theorem Keeps.foldlFst {α β : Type} {f : State × β → α → State × β} {l : List α} {p : State × β} (hf : ∀ v x, Keeps s v.1 → Keeps s (f v x).1)
    (h : Keeps s p.1) : Keeps s (l.foldl f p).1 := by
  induction l generalizing p with
  | nil => exact h
  | cons x r ih => exact ih (hf p x h)

theorem Keeps.ofFst {β : Type} {p : State × β} {v : State} {b : β} (e : p = (v, b)) (h : Keeps s p.1) : Keeps s v := by subst e; exact h

theorem Keeps.iteFst {β : Type} {c : Prop} [Decidable c] {p q : State × β} (h1 : Keeps s p.1) (h2 : Keeps s q.1) : Keeps s (if c then p else q).1 := by
  split
  · exact h1
  · exact h2

theorem KeepsOut.next (h : Keeps s t) : KeepsOut s (.next t) := fun _ e => by cases e; exact h
theorem KeepsOut.coreOut {n : Nat} (h : Keeps s t) : KeepsOut s (coreOut n t) := fun v e => by
  unfold Machine.coreOut at e; split at e
  · cases e; exact h
  · cases e

/-! ## Cores -/

/-- A context slot at its initial values (Table 4-1) has legal form. -/
theorem CtxSt.init_ok {vl : BitVec 8} {halted : Bool} : ({ vl, halted } : CtxSt).Ok :=
  ⟨(by decide : (1#8).getLsbD 0 = true), Nat.zero_le 4, Nat.zero_le 16⟩

theorem CoreSt.init_ok (n : Nat) (i : Fin 8) : ((CoreSt.init n).ctx[i]).Ok := by
  simp only [CoreSt.init, Fin.getElem_fin, Vector.getElem_replicate]
  exact ⟨(by decide : (1#8).getLsbD 0 = true), Nat.zero_le 4, Nat.zero_le 16⟩

theorem aget_mem {α : Type} {l : List (Nat × α)} {a : Nat} {v : α} (h : aget l a = some v) : ∃ e ∈ l, e.2 = v := by
  induction l with
  | nil => cases h
  | cons c r ih =>
    unfold aget at h
    split at h
    · cases h; exact ⟨c, List.mem_cons_self, rfl⟩
    · split at h
      · cases h
      · obtain ⟨e, he, hv⟩ := ih h; exact ⟨e, List.mem_cons_of_mem _ he, hv⟩

theorem mem_aput {α : Type} {l : List (Nat × α)} {a : Nat} {v : α} {e : Nat × α} (h : e ∈ aput l a v) : e ∈ l ∨ e.2 = v := by
  induction l with
  | nil => simp only [aput, List.mem_singleton] at h; exact .inr (by rw [h])
  | cons c r ih =>
    unfold aput at h
    split at h
    · cases h with
      | head => exact .inr rfl
      | tail _ h => exact .inl (List.mem_cons_of_mem _ h)
    · split at h
      · cases h with
        | head => exact .inr rfl
        | tail _ h => exact .inl h
      · cases h with
        | head => exact .inl List.mem_cons_self
        | tail _ h => exact (ih h).imp (List.mem_cons_of_mem _) id

theorem core_ok (k : s.Ok) (n : Nat) (i : Fin 8) : ((s.core n).ctx[i]).Ok := by
  unfold State.core
  cases h : aget s.cores n with
  | none => exact CoreSt.init_ok n i
  | some c => obtain ⟨e, he, hv⟩ := aget_mem h; subst hv; exact k.cores e he i

theorem ctxAt_ok (k : s.Ok) (a : Site) : (s.ctxAt a).Ok := core_ok k a.core a.ctx

theorem setCore_keeps {n : Nat} {c : CoreSt} (hc : s.Ok → t.Ok → ∀ i : Fin 8, (c.ctx[i]).Ok) (h : Keeps s t) : Keeps s (t.setCore n c) := by
  refine ⟨h.pending, fun k0 => ⟨(h.ok k0).mem, fun e he i => ?_⟩, h.deviceId, h.out, h.owners, h.svn, h.epochs⟩
  rcases mem_aput he with h1 | h1
  · exact (h.ok k0).cores e h1 i
  · rw [h1]; exact hc k0 (h.ok k0) i

/-- An update of a core that leaves its context slots. -/
theorem setCore_ctx {n : Nat} {c : CoreSt} (e : c.ctx = (t.core n).ctx) (h : Keeps s t) : Keeps s (t.setCore n c) :=
  setCore_keeps (fun _ k i => e ▸ core_ok k n i) h

theorem set_ok {v : Vector CtxSt 8} {j : Fin 8} {x : CtxSt} (hc : ∀ i : Fin 8, (v[i]).Ok) (hx : x.Ok) (i : Fin 8) : ((v.set j x)[i]).Ok := by
  simp only [Fin.getElem_fin, Vector.getElem_set]
  split
  · exact hx
  · exact hc i

theorem mapCores_ok {f : Nat → CoreSt → CoreSt} {l : List (Nat × CoreSt)}
    (hf : ∀ n k, (∀ i : Fin 8, (k.ctx[i]).Ok) → ∀ i : Fin 8, ((f n k).ctx[i]).Ok) (h : CoresOk l) :
    CoresOk (l.map fun (n, k) => (n, f n k)) := by
  intro e he
  obtain ⟨⟨n, k⟩, hk, rfl⟩ := List.mem_map.1 he
  exact hf n k (h _ hk)

@[simp] theorem CoreSt.leave_ctx (k : CoreSt) (e : Fin 3) : (k.leave e).ctx = k.ctx := rfl
@[simp] theorem CoreSt.foldl_leave_ctx (l : List (Fin 3)) (k : CoreSt) : (l.foldl CoreSt.leave k).ctx = k.ctx := by
  induction l generalizing k with
  | nil => rfl
  | cons x r ih => exact (ih _).trans rfl
@[simp] theorem CoreSt.foldl_leaveFst_ctx (l : List (Fin 3 × Bool)) (k : CoreSt) : (l.foldl (fun q x => q.leave x.1) k).ctx = k.ctx := by
  induction l generalizing k with
  | nil => rfl
  | cons x r ih => exact (ih _).trans rfl

theorem haltCore_ok {x : Fin 8} {k : CoreSt} (h : ∀ i : Fin 8, (k.ctx[i]).Ok) : ∀ i : Fin 8, ((haltCore x k).ctx[i]).Ok := by
  unfold haltCore
  rw [CoreSt.foldl_leave_ctx]
  exact set_ok h ⟨(h x).1, Nat.zero_le 4, Nat.zero_le 16⟩

theorem setCtx_keeps {a : Site} {x : CtxSt} (hx : s.Ok → t.Ok → x.Ok) (h : Keeps s t) : Keeps s (t.setCtx a x) :=
  setCore_keeps (fun k0 k => set_ok (core_ok k a.core) (hx k0 k)) h

@[simp] theorem CoreSt.putSet_ctx (k : CoreSt) (arr set : Fin 2) (x : List (List RawRec)) : (k.putSet arr set x).ctx = k.ctx := rfl
@[simp] theorem CoreSt.setOwn_ctx (k : CoreSt) (e : Fin 3) (c : Fin 8) : (k.setOwn e c).ctx = k.ctx := rfl
@[simp] theorem CoreSt.foldl_setOwn_ctx (l : List (Fin 3)) (k : CoreSt) (c : Fin 8) : (l.foldl (fun q e => q.setOwn e c) k).ctx = k.ctx := by
  induction l generalizing k with
  | nil => rfl
  | cons x r ih => exact (ih _).trans rfl
@[simp] theorem State.grantOne_ctx (w : State) (k : CoreSt) : (w.grantOne k).ctx = k.ctx := by unfold State.grantOne; dsimp only; split <;> simp
@[simp] theorem CoreSt.emptied_ctx (k : CoreSt) (o : EngOp) : (k.emptied o).ctx = k.ctx := by cases o <;> rfl

theorem CtxSt.setG_ok {x : CtxSt} {r : Fin 32} {v : Word} (h : x.Ok) : (x.setG r v).Ok := by unfold CtxSt.setG; split <;> exact h
theorem CtxSt.addC_ok {x : CtxSt} {r : Fin 16} {v : Word} (h : x.Ok) : (x.addC r v).Ok := h
theorem CtxSt.setP_ok {x : CtxSt} {r : Fin 8} {v : Bool} (h : x.Ok) : (x.setP r v).Ok := by
  unfold CtxSt.setP
  split
  · exact h
  · refine ⟨?_, h.2⟩
    have hr : r.val ≠ 0 := fun e => ‹¬ r = 0› (Fin.ext e)
    have h0 := h.1
    cases v <;> simp [h0] <;> omega

end Sys2Proof.Machine
end

