-- ==== Sys2Proof/Laws/KeepsOps.lean ====
section
/-!
SUPPORT. What the operations of Machine/Ops.lean never change: one lemma for each that answers a state.
-/

namespace Sys2Proof.Machine

theorem State.bump_keeps {s0 : State} {s : State} {a : Site} {c : Fin 16} {n : Word} (h : Keeps s0 s) : Keeps s0 (State.bump s a c n) :=
  setCtx_keeps (fun _ k => ctxAt_ok k a) h

theorem State.bumpEntry_keeps {s0 : State} {s : State} {id : Nat} {n : Word} (hk : Keeps s0 s) : Keeps s0 (State.bumpEntry s id n) := by
  unfold State.bumpEntry
  repeat'
    first
    | with_reducible assumption
    | with_reducible apply State.bump_keeps
    | split

theorem State.setScr_keeps {s0 : State} {s : State} {n a : Nat} {b : List Byte} (hk : Keeps s0 s) : Keeps s0 (State.setScr s n a b) := by
  unfold State.setScr
  repeat'
    first
    | with_reducible assumption
    | (fail_if_no_progress (with_reducible refine Keeps.updMem (fun w => ?_) ?_))
    | with_reducible apply memPutBytes_wf

theorem State.putRow_keeps {s0 : State} {s : State} {n : Nat} {t : TileDesc} {r : Nat} {els : List (Nat × Nat)} (h : Keeps s0 s) : Keeps s0 (State.putRow s n t r els) := by
  unfold State.putRow
  exact Keeps.updMem (foldl_wf (fun m x w => putElemBits_wf w) els) h

theorem State.putScale_keeps {s0 : State} {s : State} {n : Nat} {t : TileDesc} {r b v : Nat} (hk : Keeps s0 s) : Keeps s0 (State.putScale s n t r b v) := by
  unfold State.putScale
  repeat'
    first
    | with_reducible assumption
    | (fail_if_no_progress (with_reducible refine Keeps.updMem (fun w => ?_) ?_))
    | with_reducible apply memPut_wf

theorem State.capture_keeps {s0 : State} {s : State} {cap : Option CapKey} {xs : List Num} (hk : Keeps s0 s) : Keeps s0 (State.capture s cap xs) := by
  unfold State.capture
  repeat'
    first
    | with_reducible assumption
    | split
    | (fail_if_no_progress (with_reducible apply Keeps.upd))

theorem State.setJob_keeps {s0 : State} {s : State} {id : Nat} {j : JobSt} (hk : Keeps s0 s) : Keeps s0 (State.setJob s id j) := by
  unfold State.setJob
  repeat'
    first
    | with_reducible assumption
    | (fail_if_no_progress (with_reducible apply Keeps.upd))

theorem State.postFlags_keeps {s0 : State} {s : State} {c : Fin 8} {f : Word} (hk : Keeps s0 s) : Keeps s0 (State.postFlags s c f) := by
  unfold State.postFlags
  repeat'
    first
    | with_reducible assumption
    | (fail_if_no_progress (with_reducible apply Keeps.upd))

end Sys2Proof.Machine
end

