-- ==== Sys2Proof/Laws/KeepsCounters.lean ====
section
/-!
SUPPORT. What the operations of Machine/Counters.lean never change: one lemma for each that answers a state.
-/

namespace Sys2Proof.Machine

theorem State.count_keeps {s0 : State} {s : State} {c : Fin 21} {n : Nat} (hk : Keeps s0 s) : Keeps s0 (State.count s c n) := by
  unfold State.count
  repeat'
    first
    | with_reducible assumption
    | (fail_if_no_progress (with_reducible apply Keeps.upd))

theorem State.countCtx_keeps {s0 : State} {s : State} {b : Fin 8} {c : Fin 16} {n : Nat} (hk : Keeps s0 s) : Keeps s0 (State.countCtx s b c n) := by
  unfold State.countCtx
  repeat'
    first
    | with_reducible assumption
    | (fail_if_no_progress (with_reducible apply Keeps.upd))

theorem State.withErr_keeps {s0 : State} {s : State} {e : ErrSt} (hk : Keeps s0 s) : Keeps s0 (State.withErr s e) := by
  unfold State.withErr
  repeat'
    first
    | with_reducible assumption
    | (fail_if_no_progress (with_reducible apply Keeps.upd))

theorem State.reject_keeps {s0 : State} {s : State} {code : Nat} {cls : Nat} {loc : Nat} (hk : Keeps s0 s) : Keeps s0 (State.reject s code cls loc) := by
  unfold State.reject
  repeat'
    first
    | with_reducible assumption
    | with_reducible apply State.withErr_keeps

theorem State.send_keeps {s0 : State} {s : State} {m : List Out} (h : Keeps s0 s) : Keeps s0 (State.send s m) :=
  h.trans ⟨rfl, fun k => ⟨k.mem, k.cores⟩, rfl, List.prefix_append _ _, List.prefix_refl _, Nat.le_refl _, Nat.le_refl _⟩

theorem State.journal_keeps {s0 : State} {s : State} {b : JnlBody} (hk : Keeps s0 s) : Keeps s0 (State.journal s b) := by
  unfold State.journal
  repeat'
    first
    | with_reducible assumption
    | (fail_if_no_progress (with_reducible apply Keeps.upd))

end Sys2Proof.Machine
end

