-- ==== Sys2Proof/Laws/KeepsSend.lean ====
section
/-!
SUPPORT. What the operations of Machine/Send.lean never change: one lemma for each that answers a state.
-/

namespace Sys2Proof.Machine

theorem State.setSession_keeps {s0 : State} {s : State} {id : Nat} {x : SessionSt} (hk : Keeps s0 s) : Keeps s0 (State.setSession s id x) := by
  unfold State.setSession
  repeat'
    first
    | with_reducible assumption
    | (fail_if_no_progress (with_reducible apply Keeps.upd))

theorem State.flushTx_keeps {s0 : State} {s : State} {id : Nat} (hk : Keeps s0 s) : Keeps s0 (State.flushTx s id) := by
  unfold State.flushTx
  repeat'
    first
    | with_reducible assumption
    | with_reducible apply State.setSession_keeps
    | with_reducible apply State.send_keeps
    | split

theorem State.sendFrame_keeps {s0 : State} {s : State} {id : Nat} {w : FrameOut} (hk : Keeps s0 s) : Keeps s0 (State.sendFrame s id w) := by
  unfold State.sendFrame
  repeat'
    first
    | with_reducible assumption
    | with_reducible apply State.setSession_keeps
    | with_reducible apply State.flushTx_keeps
    | split

theorem State.reportFrom_keeps {s0 : State} {s : State} {r : Report} (hk : Keeps s0 s) : Keeps s0 (State.reportFrom s r) := by
  unfold State.reportFrom
  repeat'
    first
    | with_reducible assumption
    | with_reducible apply State.count_keeps
    | with_reducible apply State.sendFrame_keeps
    | with_reducible refine Keeps.foldl (fun _ _ _ => ?_) ?_
    | split
    | (fail_if_no_progress (with_reducible apply Keeps.upd))

theorem State.report_keeps {s0 : State} {s : State} {code : Nat} {d : ReportDetail} (hk : Keeps s0 s) : Keeps s0 (State.report s code d) := by
  unfold State.report
  repeat'
    first
    | with_reducible assumption
    | with_reducible apply State.reportFrom_keeps

theorem State.sealExport_keeps {s0 : State} {s : State} {base : Digest} {label data : List Byte} {mk : Nat → Digest → List Byte → Bool → FrameOut} (hk : Keeps s0 s) : Keeps s0 (State.sealExport s base label data mk).1 := by
  unfold State.sealExport
  repeat'
    first
    | with_reducible assumption
    | (fail_if_no_progress (with_reducible apply Keeps.updSec))

theorem State.sendFrames_keeps {s0 : State} {s : State} {id : Nat} {l : List FrameOut} (hk : Keeps s0 s) : Keeps s0 (State.sendFrames s id l) := by
  unfold State.sendFrames
  repeat'
    first
    | with_reducible assumption
    | with_reducible apply State.sendFrame_keeps
    | with_reducible refine Keeps.foldl (fun _ _ _ => ?_) ?_

theorem State.sampleWord_keeps {s0 : State} {s : State} {d : DataRec} {slot w : Nat} (hk : Keeps s0 s) : Keeps s0 (State.sampleWord s d slot w) := by
  unfold State.sampleWord
  repeat'
    first
    | with_reducible assumption
    | (fail_if_no_progress (with_reducible refine Keeps.updMem (fun w => ?_) ?_))
    | with_reducible apply memPutLe_wf

theorem State.freeSample_keeps {s0 : State} {s : State} {d : DataRec} {slot : Nat} (hk : Keeps s0 s) : Keeps s0 (State.freeSample s d slot) := by
  unfold State.freeSample
  repeat'
    first
    | with_reducible assumption
    | with_reducible apply State.sampleWord_keeps
    | (fail_if_no_progress (with_reducible apply Keeps.upd))

theorem State.releaseSamples_keeps {s0 : State} {s : State} {d : DataRec} {n : Nat} (hk : Keeps s0 s) : Keeps s0 (State.releaseSamples s d n) := by
  unfold State.releaseSamples
  repeat'
    first
    | with_reducible assumption
    | with_reducible apply State.freeSample_keeps
    | with_reducible refine Keeps.foldl (fun _ _ _ => ?_) ?_

theorem State.commitSamples_keeps {s0 : State} {s : State} {c : Fin 8} {step : Nat} (hk : Keeps s0 s) : Keeps s0 (State.commitSamples s c step) := by
  unfold State.commitSamples
  repeat'
    first
    | with_reducible assumption
    | with_reducible apply State.freeSample_keeps
    | with_reducible refine Keeps.foldl (fun _ _ _ => ?_) ?_
    | split

theorem State.setReq_keeps {s0 : State} {s : State} {c : Fin 8} {slot : Nat} {x : ReqSt} (hk : Keeps s0 s) : Keeps s0 (State.setReq s c slot x) := by
  unfold State.setReq
  repeat'
    first
    | with_reducible assumption
    | (fail_if_no_progress (with_reducible apply Keeps.upd))

theorem State.reqWord_keeps {s0 : State} {s : State} {c : Fin 8} {slot w : Nat} (hk : Keeps s0 s) : Keeps s0 (State.reqWord s c slot w) := by
  unfold State.reqWord
  repeat'
    first
    | with_reducible assumption
    | split
    | (fail_if_no_progress (with_reducible refine Keeps.updMem (fun w => ?_) ?_))
    | with_reducible apply memPutLe_wf

theorem State.freeReq_keeps {s0 : State} {s : State} {c : Fin 8} {slot : Nat} (hk : Keeps s0 s) : Keeps s0 (State.freeReq s c slot) := by
  unfold State.freeReq
  repeat'
    first
    | with_reducible assumption
    | with_reducible apply State.reqWord_keeps
    | (fail_if_no_progress (with_reducible apply Keeps.upd))

theorem State.dropObject_keeps {s0 : State} {s : State} {id : Nat} (hk : Keeps s0 s) : Keeps s0 (State.dropObject s id) := by
  unfold State.dropObject
  repeat'
    first
    | with_reducible assumption
    | with_reducible apply State.setSession_keeps
    | split
    | (fail_if_no_progress (with_reducible apply Keeps.upd))

theorem State.closeSession_keeps {s0 : State} {s : State} {id : Nat} (hk : Keeps s0 s) : Keeps s0 (State.closeSession s id) := by
  unfold State.closeSession
  repeat'
    first
    | with_reducible assumption
    | with_reducible apply State.dropObject_keeps
    | with_reducible apply State.freeSample_keeps
    | with_reducible apply State.freeReq_keeps
    | with_reducible refine Keeps.foldl (fun _ _ _ => ?_) ?_
    | split
    | (fail_if_no_progress (with_reducible apply Keeps.upd))

end Sys2Proof.Machine
end

