-- ==== Sys2Proof/Laws/KeepsRequests.lean ====
section
/-!
SUPPORT. What the operations of Machine/Requests.lean never change: one lemma for each that answers a state.
-/

namespace Sys2Proof.Machine

theorem State.acctAdd_keeps {s0 : State} {s : State} {client off size n : Nat} (hk : Keeps s0 s) : Keeps s0 (State.acctAdd s client off size n) := by
  unfold State.acctAdd
  repeat'
    first
    | with_reducible assumption
    | (fail_if_no_progress (with_reducible refine Keeps.updMem (fun w => ?_) ?_))
    | with_reducible apply memPutLe_wf

theorem State.pumpStream_keeps {s0 : State} {s : State} {c : Fin 8} {slot : Nat} (hk : Keeps s0 s) : Keeps s0 (State.pumpStream s c slot) := by
  unfold State.pumpStream
  repeat'
    first
    | with_reducible assumption
    | with_reducible apply State.sendFrame_keeps
    | with_reducible apply State.setReq_keeps
    | with_reducible refine Keeps.foldl (fun _ _ _ => ?_) ?_
    | split

theorem State.putRing_keeps {s0 : State} {s : State} {c : Fin 8} {slot : Nat} {l : List RingRec} (hk : Keeps s0 s) : Keeps s0 (State.putRing s c slot l) := by
  unfold State.putRing
  repeat'
    first
    | with_reducible assumption
    | with_reducible apply State.setReq_keeps
    | with_reducible apply State.pumpStream_keeps
    | split

theorem State.settleRefs_keeps {s0 : State} {s : State} (hk : Keeps s0 s) : Keeps s0 (State.settleRefs s) := by
  unfold State.settleRefs
  repeat'
    first
    | with_reducible assumption
    | (fail_if_no_progress (with_reducible apply Keeps.upd))

theorem State.retireAdapter_keeps {s0 : State} {s : State} {ident : Nat} {teacher : Bool} (hk : Keeps s0 s) : Keeps s0 (State.retireAdapter s ident teacher) := by
  unfold State.retireAdapter
  repeat'
    first
    | with_reducible assumption
    | with_reducible apply State.settleRefs_keeps
    | (fail_if_no_progress (with_reducible apply Keeps.upd))

theorem State.settleLive_keeps {s0 : State} {s : State} (hk : Keeps s0 s) : Keeps s0 (State.settleLive s) := by
  unfold State.settleLive
  repeat'
    first
    | with_reducible assumption
    | with_reducible apply State.retireAdapter_keeps
    | with_reducible refine Keeps.foldl (fun _ _ _ => ?_) ?_
    | (fail_if_no_progress (with_reducible apply Keeps.upd))

theorem State.writeVerdict_keeps {s0 : State} {s : State} {b : List Byte} (hk : Keeps s0 s) : Keeps s0 (State.writeVerdict s b) := by
  unfold State.writeVerdict
  repeat'
    first
    | with_reducible assumption
    | with_reducible apply State.countCtx_keeps
    | with_reducible apply State.sampleWord_keeps
    | with_reducible apply State.bumpEntry_keeps
    | split
    | (fail_if_no_progress (with_reducible refine Keeps.updMem (fun w => ?_) ?_))
    | with_reducible apply memPutBytes_wf

theorem State.verdict_keeps {s0 : State} {s : State} {c : Fin 8} {x : ReqSt} {code : Nat} {rank : List Nat} (hk : Keeps s0 s) : Keeps s0 (State.verdict s c x code rank) := by
  unfold State.verdict
  repeat'
    first
    | with_reducible assumption
    | with_reducible apply State.writeVerdict_keeps
    | split
    | dsimp only

theorem State.endRequest_keeps {s0 : State} {s : State} {c : Fin 8} {slot code : Nat} {rank : List Nat} (hk : Keeps s0 s) : Keeps s0 (State.endRequest s c slot code rank) := by
  unfold State.endRequest
  repeat'
    first
    | with_reducible assumption
    | with_reducible apply State.setReq_keeps
    | with_reducible apply State.putRing_keeps
    | with_reducible apply State.verdict_keeps
    | with_reducible apply State.acctAdd_keeps
    | with_reducible apply State.settleRefs_keeps
    | split

theorem State.endAll_keeps {s0 : State} {s : State} {c : Fin 8} {code : Nat} (hk : Keeps s0 s) : Keeps s0 (State.endAll s c code) := by
  unfold State.endAll
  repeat'
    first
    | with_reducible assumption
    | with_reducible apply State.endRequest_keeps
    | with_reducible refine Keeps.foldl (fun _ _ _ => ?_) ?_

end Sys2Proof.Machine
end

