-- ==== Sys2Proof/Laws/KeepsFaults.lean ====
section
/-!
SUPPORT. What the operations of Machine/Faults.lean never change: one lemma for each that answers a state.
-/

namespace Sys2Proof.Machine

theorem State.zeroShare_keeps {s0 : State} {s : State} {c : Fin 8} (hk : Keeps s0 s) : Keeps s0 (State.zeroShare s c) := by
  unfold State.zeroShare
  repeat'
    first
    | with_reducible assumption
    | split
    | (fail_if_no_progress (with_reducible refine Keeps.updMem (fun w => ?_) ?_))
    | with_reducible apply filter_wf

theorem State.returnStations_keeps {s0 : State} {s : State} (hk : Keeps s0 s) : Keeps s0 (State.returnStations s) := by
  unfold State.returnStations
  repeat'
    first
    | with_reducible assumption
    | split
    | (fail_if_no_progress (with_reducible apply Keeps.updSec))

theorem State.haltCtx_keeps {s0 : State} {s : State} {c : Fin 8} (hk : Keeps s0 s) : Keeps s0 (State.haltCtx s c) := by
  unfold State.haltCtx
  repeat'
    first
    | with_reducible assumption
    | with_reducible apply State.returnStations_keeps
    | with_reducible apply State.zeroShare_keeps
    | with_reducible apply State.endAll_keeps
    | with_reducible refine Keeps.updCores (fun k => mapCores_ok (fun _ _ => haltCore_ok) k) ?_
    | with_reducible refine setCore_ctx rfl ?_
    | with_reducible refine Keeps.foldl (fun _ _ _ => ?_) ?_
    | split

theorem State.unapply_keeps {s0 : State} {s : State} {j : JobRec} (hk : Keeps s0 s) : Keeps s0 (State.unapply s j) := by
  unfold State.unapply
  repeat'
    first
    | with_reducible assumption
    | with_reducible apply State.countCtx_keeps
    | with_reducible apply State.setJob_keeps
    | with_reducible refine Keeps.foldl (fun _ _ _ => ?_) ?_
    | split
    | (fail_if_no_progress (with_reducible refine Keeps.updMem (fun w => ?_) ?_))
    | with_reducible apply memPut_wf
    | with_reducible refine foldl_wf (fun _ _ _ => ?_) _ ?_

theorem State.haltJob_keeps {s0 : State} {s : State} {j : JobRec} (hk : Keeps s0 s) : Keeps s0 (State.haltJob s j) := by
  unfold State.haltJob
  repeat'
    first
    | with_reducible assumption
    | with_reducible apply State.haltCtx_keeps
    | with_reducible apply State.unapply_keeps
    | with_reducible apply State.setJob_keeps
    | with_reducible refine Keeps.foldl (fun _ _ _ => ?_) ?_
    | (fail_if_no_progress (with_reducible apply Keeps.upd))

theorem State.reportHalt_keeps {s0 : State} {s : State} {j : JobRec} {f : Option FaultRec} (hk : Keeps s0 s) : Keeps s0 (State.reportHalt s j f) := by
  unfold State.reportHalt
  repeat'
    first
    | with_reducible assumption
    | with_reducible apply State.setJob_keeps
    | with_reducible apply State.send_keeps
    | split

theorem State.recordFault_keeps {s0 : State} {s : State} {f : FaultRec} (hk : Keeps s0 s) : Keeps s0 (State.recordFault s f) := by
  unfold State.recordFault
  repeat'
    first
    | with_reducible assumption
    | with_reducible apply State.journal_keeps
    | with_reducible apply State.report_keeps
    | (fail_if_no_progress (with_reducible apply Keeps.upd))

theorem State.haltAndNotify_keeps {s0 : State} {s : State} {f : FaultRec} {j : JobRec} (hk : Keeps s0 s) : Keeps s0 (State.haltAndNotify s f j) := by
  unfold State.haltAndNotify
  repeat'
    first
    | with_reducible assumption
    | with_reducible apply State.haltJob_keeps
    | with_reducible apply State.send_keeps
    | with_reducible apply State.reportHalt_keeps
    | split
    | dsimp only

theorem State.faultCtx_keeps {s0 : State} {s : State} {code : Nat} {c : Fin 8} {detail : List Nat} (hk : Keeps s0 s) : Keeps s0 (State.faultCtx s code c detail) := by
  unfold State.faultCtx
  repeat'
    first
    | with_reducible assumption
    | with_reducible apply State.unapply_keeps
    | with_reducible apply State.recordFault_keeps
    | with_reducible apply State.haltAndNotify_keeps
    | with_reducible apply State.haltCtx_keeps
    | split
    | dsimp only

theorem State.faultDevice_keeps {s0 : State} {s : State} {code : Nat} {detail : List Nat} (hk : Keeps s0 s) : Keeps s0 (State.faultDevice s code detail) := by
  unfold State.faultDevice
  repeat'
    first
    | with_reducible assumption
    | with_reducible apply State.recordFault_keeps
    | with_reducible apply State.haltAndNotify_keeps
    | with_reducible apply State.haltCtx_keeps
    | with_reducible apply State.send_keeps
    | with_reducible refine Keeps.foldl (fun _ _ _ => ?_) ?_
    | split
    | (fail_if_no_progress (with_reducible apply Keeps.upd))

theorem State.scratchPut_keeps {s0 : State} {s : State} {c : Fin 8} {a : Nat} {b : List Byte} (hk : Keeps s0 s) : Keeps s0 (State.scratchPut s c a b) := by
  unfold State.scratchPut
  repeat'
    first
    | with_reducible assumption
    | with_reducible apply State.faultCtx_keeps
    | split
    | (fail_if_no_progress (with_reducible refine Keeps.updMem (fun w => ?_) ?_))
    | with_reducible apply memPutBytes_wf

end Sys2Proof.Machine
end

