-- ==== Sys2Proof/Laws/KeepsMatrix.lean ====
section
/-!
SUPPORT. What the operations of Machine/Matrix.lean never change: one lemma for each that answers a state.
-/

namespace Sys2Proof.Machine

theorem State.storeRow_keeps {s0 : State} {s : State} {n : Nat} {t : TileDesc} {sr : SrCtx} {r : Nat} {vals : List (Nat × Num)} (hk : Keeps s0 s) : Keeps s0 (State.storeRow s n t sr r vals).1 := by
  unfold State.storeRow
  repeat'
    first
    | with_reducible assumption
    | with_reducible apply State.putRow_keeps
    | with_reducible apply State.putScale_keeps
    | with_reducible apply State.capture_keeps
    | with_reducible refine Keeps.foldlFst (fun _ _ _ => ?_) ?_
    | split

theorem State.mrdRows_keeps {s0 : State} {s : State} {n : Nat} {c : TileDesc} {step : Nat} {set : List (List RawRec)} {who : Fin 8 × Nat} (hk : Keeps s0 s) : Keeps s0 (State.mrdRows s n c step set who).1 := by
  unfold State.mrdRows
  repeat'
    first
    | with_reducible assumption
    | with_reducible apply State.storeRow_keeps
    | with_reducible refine Keeps.foldlFst (fun _ _ _ => ?_) ?_

theorem State.mrdpRows_keeps {s0 : State} {s : State} {n : Nat} {a c : TileDesc} {set : List (List RawRec)} (hk : Keeps s0 s) : Keeps s0 (State.mrdpRows s n a c set).1 := by
  unfold State.mrdpRows
  repeat'
    first
    | with_reducible assumption
    | with_reducible apply State.putRow_keeps
    | with_reducible refine Keeps.foldlFst (fun _ _ _ => ?_) ?_

theorem State.msavRows_keeps {s0 : State} {s : State} {n : Nat} {c : TileDesc} {set : List (List RawRec)} (hk : Keeps s0 s) : Keeps s0 (State.msavRows s n c set) := by
  unfold State.msavRows
  repeat'
    first
    | with_reducible assumption
    | with_reducible apply State.setScr_keeps
    | with_reducible refine Keeps.foldl (fun _ _ _ => ?_) ?_

end Sys2Proof.Machine
end

