-- ==== Sys2Proof/Laws/KeepsExchange.lean ====
section
/-!
SUPPORT. What the operations of Machine/Exchange.lean never change: one lemma for each that answers a state.
-/

namespace Sys2Proof.Machine

theorem State.sendChunk_keeps {s0 : State} {s : State} {d : Nat} {c : Chunk} (hk : Keeps s0 s) : Keeps s0 (State.sendChunk s d c) := by
  unfold State.sendChunk
  repeat'
    first
    | with_reducible assumption
    | with_reducible apply State.send_keeps

theorem State.sendParam_keeps {s0 : State} {s : State} {d : Nat} {c : ParamChunk} (hk : Keeps s0 s) : Keeps s0 (State.sendParam s d c) := by
  unfold State.sendParam
  repeat'
    first
    | with_reducible assumption
    | with_reducible apply State.send_keeps

theorem State.setExch_keeps {s0 : State} {s : State} {chan : Nat} {x : ExchSt} (hk : Keeps s0 s) : Keeps s0 (State.setExch s chan x) := by
  unfold State.setExch
  repeat'
    first
    | with_reducible assumption
    | (fail_if_no_progress (with_reducible apply Keeps.upd))

theorem State.markNfGrad_keeps {s0 : State} {s : State} {c : Fin 8} (hk : Keeps s0 s) : Keeps s0 (State.markNfGrad s c) := by
  unfold State.markNfGrad
  repeat'
    first
    | with_reducible assumption
    | with_reducible apply State.setJob_keeps
    | split

theorem State.pushSum_keeps {s0 : State} {s : State} {r : ExchRec} {x : ExchSt} {m : SumSt} (hk : Keeps s0 s) : Keeps s0 (State.pushSum s r x m) := by
  unfold State.pushSum
  repeat'
    first
    | with_reducible assumption
    | with_reducible apply State.setExch_keeps
    | with_reducible apply State.countCtx_keeps
    | with_reducible apply State.markNfGrad_keeps
    | split

theorem State.compare_keeps {s0 : State} {s : State} {r : ExchRec} {c : Chunk} (hk : Keeps s0 s) : Keeps s0 (State.compare s r c) := by
  unfold State.compare
  repeat'
    first
    | with_reducible assumption
    | with_reducible apply State.setExch_keeps
    | with_reducible apply State.countCtx_keeps
    | with_reducible apply State.faultCtx_keeps
    | split
    | dsimp only

theorem State.deliver_keeps {s0 : State} {s : State} {r : ExchRec} {c : Chunk} (hk : Keeps s0 s) : Keeps s0 (State.deliver s r c) := by
  unfold State.deliver
  repeat'
    first
    | with_reducible assumption
    | with_reducible apply State.setExch_keeps
    | with_reducible apply State.pushSum_keeps
    | split
    | (fail_if_no_progress (with_reducible refine Keeps.updMem (fun w => ?_) ?_))
    | with_reducible apply memPutBytes_wf

theorem State.finish_keeps {s0 : State} {s : State} {r : ExchRec} {c : Chunk} (hk : Keeps s0 s) : Keeps s0 (State.finish s r c) := by
  unfold State.finish
  repeat'
    first
    | with_reducible assumption
    | with_reducible apply State.deliver_keeps
    | with_reducible apply State.compare_keeps
    | with_reducible apply State.setExch_keeps
    | with_reducible apply State.sendChunk_keeps
    | split
    | dsimp only

theorem State.addChunk_keeps {s0 : State} {s : State} {r : ExchRec} {c : Chunk} (hk : Keeps s0 s) : Keeps s0 (State.addChunk s r c) := by
  unfold State.addChunk
  repeat'
    first
    | with_reducible assumption
    | with_reducible apply State.setExch_keeps
    | with_reducible apply State.sendChunk_keeps
    | with_reducible apply State.finish_keeps
    | split
    | dsimp only

theorem State.enterChunks_keeps {s0 : State} {s : State} {r : ExchRec} {c : Chunk} {w : Option (List Word)} (hk : Keeps s0 s) : Keeps s0 (State.enterChunks s r c w) := by
  unfold State.enterChunks
  repeat'
    first
    | with_reducible assumption
    | with_reducible apply State.addChunk_keeps
    | with_reducible refine Keeps.foldl (fun _ _ _ => ?_) ?_

theorem State.formLeaf_keeps {s0 : State} {s : State} {r : ExchRec} {idx step : Nat} {check : Bool} (hk : Keeps s0 s) : Keeps s0 (State.formLeaf s r idx step check) := by
  unfold State.formLeaf
  repeat'
    first
    | with_reducible assumption
    | with_reducible apply State.setExch_keeps
    | with_reducible apply State.enterChunks_keeps
    | split
    | dsimp only

theorem State.settleLeaves_keeps {s0 : State} {s : State} {r : ExchRec} {step : Nat} (hk : Keeps s0 s) : Keeps s0 (State.settleLeaves s r step) := by
  unfold State.settleLeaves
  repeat'
    first
    | with_reducible assumption
    | with_reducible apply State.formLeaf_keeps
    | with_reducible refine Keeps.foldl (fun _ _ _ => ?_) ?_

theorem State.lowBroadcast_keeps {s0 : State} {s : State} {r : ExchRec} {c : Chunk} (hk : Keeps s0 s) : Keeps s0 (State.lowBroadcast s r c) := by
  unfold State.lowBroadcast
  repeat'
    first
    | with_reducible assumption
    | with_reducible apply State.sendChunk_keeps
    | with_reducible apply State.setExch_keeps
    | with_reducible refine Keeps.foldl (fun _ _ _ => ?_) ?_
    | split
    | (fail_if_no_progress (with_reducible refine Keeps.updMem (fun w => ?_) ?_))
    | with_reducible apply memPutBytes_wf

theorem State.keepE_keeps {s0 : State} {s : State} {r : ExchRec} {b : BucketRec} (hk : Keeps s0 s) : Keeps s0 (State.keepE s r b) := by
  unfold State.keepE
  repeat'
    first
    | with_reducible assumption
    | (fail_if_no_progress (with_reducible refine Keeps.updMem (fun w => ?_) ?_))
    | with_reducible apply memPutBytes_wf

theorem State.enterFactor_keeps {s0 : State} {s : State} {r : ExchRec} {b : BucketRec} {idx step elems : Nat} {kind : ChunkKind} {last : Bool} {read : List Word} (hk : Keeps s0 s) : Keeps s0 (State.enterFactor s r b idx step elems kind last read) := by
  unfold State.enterFactor
  repeat'
    first
    | with_reducible assumption
    | with_reducible apply State.keepE_keeps
    | with_reducible apply State.lowBroadcast_keeps
    | with_reducible apply State.pushSum_keeps
    | with_reducible apply State.enterChunks_keeps
    | with_reducible refine Keeps.foldl (fun _ _ _ => ?_) ?_
    | split
    | dsimp only

theorem State.lowRead_keeps {s0 : State} {s : State} {r : ExchRec} {b : BucketRec} {idx step part : Nat} {data : List (Nat × Word)} (hk : Keeps s0 s) : Keeps s0 (State.lowRead s r b idx step part data) := by
  unfold State.lowRead
  repeat'
    first
    | with_reducible assumption
    | with_reducible apply State.setExch_keeps
    | with_reducible apply State.enterFactor_keeps
    | split
    | dsimp only

theorem State.lowPost_keeps {s0 : State} {s : State} {chan : Nat} {t : TileDesc} (hk : Keeps s0 s) : Keeps s0 (State.lowPost s chan t).1 := by
  unfold State.lowPost
  repeat'
    first
    | with_reducible assumption
    | with_reducible apply State.setExch_keeps
    | split

theorem State.leafIssue_keeps {s0 : State} {s : State} {chan : Nat} {t : TileDesc} {step : Nat} (hk : Keeps s0 s) : Keeps s0 (State.leafIssue s chan t step) := by
  unfold State.leafIssue
  repeat'
    first
    | with_reducible assumption
    | with_reducible apply State.setExch_keeps
    | split

theorem State.lateData_keeps {s0 : State} {s : State} {r : ExchRec} {b : BucketRec} {l : LeafSt} (hk : Keeps s0 s) : Keeps s0 (State.lateData s r b l) := by
  unfold State.lateData
  repeat'
    first
    | with_reducible assumption
    | with_reducible apply State.setExch_keeps
    | split
    | (fail_if_no_progress (with_reducible refine Keeps.updMem (fun w => ?_) ?_))
    | with_reducible apply memPutBytes_wf

theorem State.sparseAdd_keeps {s0 : State} {s : State} {r : ExchRec} {core : Nat} {t : TileDesc} {step mb : Nat} (hk : Keeps s0 s) : Keeps s0 (State.sparseAdd s r core t step mb) := by
  unfold State.sparseAdd
  repeat'
    first
    | with_reducible assumption
    | with_reducible apply State.setExch_keeps

theorem State.putSparse_keeps {s0 : State} {s : State} {r : ExchRec} {l : SparseList} (hk : Keeps s0 s) : Keeps s0 (State.putSparse s r l) := by
  unfold State.putSparse
  repeat'
    first
    | with_reducible assumption
    | with_reducible apply State.setExch_keeps
    | with_reducible apply State.send_keeps
    | split

theorem State.enterSparse_keeps {s0 : State} {s : State} {r : ExchRec} {step : Nat} (hk : Keeps s0 s) : Keeps s0 (State.enterSparse s r step) := by
  unfold State.enterSparse
  repeat'
    first
    | with_reducible assumption
    | with_reducible apply State.setExch_keeps
    | with_reducible apply State.putSparse_keeps
    | split
    | dsimp only

theorem State.flushSparse_keeps {s0 : State} {s : State} {r : ExchRec} {step : Nat} (hk : Keeps s0 s) : Keeps s0 (State.flushSparse s r step) := by
  unfold State.flushSparse
  repeat'
    first
    | with_reducible assumption
    | with_reducible apply State.setExch_keeps
    | with_reducible apply State.enterSparse_keeps
    | split
    | dsimp only

theorem State.leafRead_keeps {s0 : State} {s : State} {core chan : Nat} {t : TileDesc} {j : EngJob} (hk : Keeps s0 s) : Keeps s0 (State.leafRead s core chan t j) := by
  unfold State.leafRead
  repeat'
    first
    | with_reducible assumption
    | with_reducible apply State.sparseAdd_keeps
    | with_reducible apply State.lowRead_keeps
    | with_reducible apply State.settleLeaves_keeps
    | with_reducible apply State.lateData_keeps
    | with_reducible apply State.setExch_keeps
    | split
    | dsimp only

end Sys2Proof.Machine
end

