-- ==== Sys2Proof/Laws/KeepsSlots.lean ====
section
/-!
SUPPORT. What the operations of Machine/Slots.lean never change: one lemma for each that answers a state.
-/

namespace Sys2Proof.Machine

theorem State.setStage_keeps {s0 : State} {s : State} {k : Nat} {x : StageSt} (hk : Keeps s0 s) : Keeps s0 (State.setStage s k x) := by
  unfold State.setStage
  repeat'
    first
    | with_reducible assumption
    | (fail_if_no_progress (with_reducible apply Keeps.upd))

theorem State.mapAcct_keeps {s0 : State} {s : State} {c : Fin 8} {f : AcctSt → AcctSt} (hk : Keeps s0 s) : Keeps s0 (State.mapAcct s c f) := by
  unfold State.mapAcct
  repeat'
    first
    | with_reducible assumption
    | split
    | (fail_if_no_progress (with_reducible apply Keeps.upd))

theorem State.acctForward_keeps {s0 : State} {s : State} {c : Fin 8} {step mb : Nat} (hk : Keeps s0 s) : Keeps s0 (State.acctForward s c step mb) := by
  unfold State.acctForward
  repeat'
    first
    | with_reducible assumption
    | (fail_if_no_progress (with_reducible apply Keeps.upd))

theorem State.countIdle_keeps {s0 : State} {s : State} (hk : Keeps s0 s) : Keeps s0 (State.countIdle s) := by
  unfold State.countIdle
  repeat'
    first
    | with_reducible assumption
    | with_reducible apply State.mapAcct_keeps
    | with_reducible apply State.countCtx_keeps
    | with_reducible refine Keeps.foldl (fun _ _ _ => ?_) ?_
    | split
    | (fail_if_no_progress (with_reducible apply Keeps.upd))

theorem State.backwardDone_keeps {s0 : State} {s : State} {k step mb layer : Nat} (hk : Keeps s0 s) : Keeps s0 (State.backwardDone s k step mb layer) := by
  unfold State.backwardDone
  repeat'
    first
    | with_reducible assumption
    | with_reducible apply State.mapAcct_keeps
    | with_reducible apply State.setStage_keeps
    | split

end Sys2Proof.Machine
end

