-- ==== Sys2Proof/Laws/KeepsEntries.lean ====
section
/-!
SUPPORT. What the operations of Machine/Entries.lean never change: one lemma for each that answers a state.
-/

namespace Sys2Proof.Machine

theorem State.flushStep_keeps {s0 : State} {s : State} {c : Fin 8} {step : Nat} (hk : Keeps s0 s) : Keeps s0 (State.flushStep s c step) := by
  unfold State.flushStep
  repeat'
    first
    | with_reducible assumption
    | with_reducible apply State.flushSparse_keeps
    | with_reducible refine Keeps.foldl (fun _ _ _ => ?_) ?_
    | split
    | dsimp only

theorem State.entryComplete_keeps {s0 : State} {s : State} {tag : EntryTag} (hk : Keeps s0 s) : Keeps s0 (State.entryComplete s tag) := by
  unfold State.entryComplete
  repeat'
    first
    | with_reducible assumption
    | with_reducible apply State.backwardDone_keeps
    | with_reducible apply State.flushStep_keeps
    | split

theorem State.entryDone_keeps {s0 : State} {s : State} {core : Nat} {tag : EntryTag} (hk : Keeps s0 s) : Keeps s0 (State.entryDone s core tag) := by
  unfold State.entryDone
  repeat'
    first
    | with_reducible assumption
    | with_reducible apply State.entryComplete_keeps
    | split
    | (fail_if_no_progress (with_reducible apply Keeps.upd))
    | dsimp only

end Sys2Proof.Machine
end

