-- ==== Sys2Proof/Laws/KeepsTransfer.lean ====
section
/-!
SUPPORT. What the operations of Machine/Transfer.lean never change: one lemma for each that answers a state.
-/

namespace Sys2Proof.Machine

theorem State.hbmWrite_keeps {s0 : State} {s : State} {g : RegionRec} {off : Nat} {b : List Byte} (hk : Keeps s0 s) : Keeps s0 (State.hbmWrite s g off b) := by
  unfold State.hbmWrite
  repeat'
    first
    | with_reducible assumption
    | (fail_if_no_progress (with_reducible refine Keeps.updMem (fun w => ?_) ?_))
    | with_reducible apply memPutBytes_wf

theorem State.dmaRow_keeps {s0 : State} {s : State} {n : Nat} {t : TileDesc} {reg : Option RegionRec} {off : Nat} {toHbm : Bool} {r : Nat} (hk : Keeps s0 s) : Keeps s0 (State.dmaRow s n t reg off toHbm r).1 := by
  unfold State.dmaRow
  repeat'
    first
    | with_reducible assumption
    | with_reducible apply State.setScr_keeps
    | with_reducible apply State.hbmWrite_keeps
    | split
    | dsimp only

theorem State.landRows_keeps {s0 : State} {s : State} {n : Nat} {t : TileDesc} {data : List Byte} (hk : Keeps s0 s) : Keeps s0 (State.landRows s n t data) := by
  unfold State.landRows
  repeat'
    first
    | with_reducible assumption
    | with_reducible apply State.setScr_keeps
    | with_reducible refine Keeps.foldl (fun _ _ _ => ?_) ?_

theorem State.setChan_keeps {s0 : State} {s : State} {c : Nat} {x : ChanSt} (hk : Keeps s0 s) : Keeps s0 (State.setChan s c x) := by
  unfold State.setChan
  repeat'
    first
    | with_reducible assumption
    | (fail_if_no_progress (with_reducible apply Keeps.upd))

end Sys2Proof.Machine
end

