-- ==== Sys2Proof/Laws/KeepsVector.lean ====
section
/-!
SUPPORT. What the operations of Machine/Vector.lean never change: one lemma for each that answers a state.
-/

namespace Sys2Proof.Machine

theorem State.vopRows_keeps {s0 : State} {s : State} {n : Nat} {k : VKind} {d : TileDesc} {v : VArgs} {rows step : Nat} {who : Fin 8 × Nat} (hk : Keeps s0 s) : Keeps s0 (State.vopRows s n k d v rows step who).1 := by
  unfold State.vopRows
  repeat'
    first
    | with_reducible assumption
    | with_reducible apply State.storeRow_keeps
    | with_reducible apply State.setScr_keeps
    | with_reducible refine Keeps.foldlFst (fun _ _ _ => ?_) ?_
    | split

end Sys2Proof.Machine
end

