-- ==== Sys2Proof/Laws/KeepsEngine.lean ====
section
/-!
SUPPORT. What the operations of Machine/Engine.lean never change: one lemma for each that answers a state.
-/

namespace Sys2Proof.Machine

theorem State.grant_keeps {s0 : State} {s : State} {core : Nat} (hk : Keeps s0 s) : Keeps s0 (State.grant s core) := by
  unfold State.grant
  repeat'
    first
    | with_reducible assumption
    | split
    | with_reducible refine setCore_ctx (by first | rfl | simp) ?_

theorem State.chargePreempt_keeps {s0 : State} {s : State} {tag : EntryTag} (hk : Keeps s0 s) : Keeps s0 (State.chargePreempt s tag) := by
  unfold State.chargePreempt
  repeat'
    first
    | with_reducible assumption
    | with_reducible apply State.acctAdd_keeps
    | with_reducible refine Keeps.foldl (fun _ _ _ => ?_) ?_
    | split

theorem State.releaseEngines_keeps {s0 : State} {s : State} {core : Nat} {c : Fin 8} {es : List (Fin 3 × Bool)} {tag : EntryTag} (hk : Keeps s0 s) : Keeps s0 (State.releaseEngines s core c es tag) := by
  unfold State.releaseEngines
  repeat'
    first
    | with_reducible assumption
    | with_reducible apply State.grant_keeps
    | with_reducible apply State.countCtx_keeps
    | with_reducible apply State.chargePreempt_keeps
    | with_reducible refine Keeps.foldl (fun _ _ _ => ?_) ?_
    | split
    | with_reducible refine setCore_ctx (by first | rfl | simp) ?_
    | dsimp only

theorem State.boundary_keeps {s0 : State} {s : State} {a : Site} {remote : Bool} (hk : Keeps s0 s) : Keeps s0 (State.boundary s a remote) := by
  unfold State.boundary
  repeat'
    first
    | with_reducible assumption
    | with_reducible apply State.releaseEngines_keeps
    | with_reducible refine setCore_ctx rfl ?_

theorem State.payMeter_keeps {s0 : State} {s : State} {st : Fin 10} {cost : Nat} (hk : Keeps s0 s) : Keeps s0 (State.payMeter s st cost) := by
  unfold State.payMeter
  repeat'
    first
    | with_reducible assumption
    | (fail_if_no_progress (with_reducible apply Keeps.updSec))

theorem State.setEngJob_keeps {s0 : State} {s : State} {core i : Nat} {j : EngJob} (hk : Keeps s0 s) : Keeps s0 (State.setEngJob s core i j) := by
  unfold State.setEngJob
  repeat'
    first
    | with_reducible assumption
    | with_reducible refine setCore_ctx rfl ?_

theorem State.dropJob_keeps {s0 : State} {s : State} {core i : Nat} (hk : Keeps s0 s) : Keeps s0 (State.dropJob s core i) := by
  unfold State.dropJob
  repeat'
    first
    | with_reducible assumption
    | with_reducible refine setCore_ctx rfl ?_

theorem State.startEffect_keeps {s0 : State} {s : State} {core : Nat} {j : EngJob} (hk : Keeps s0 s) : Keeps s0 (State.startEffect s core j).1 := by
  unfold State.startEffect
  repeat'
    first
    | with_reducible assumption
    | with_reducible apply State.mrdRows_keeps
    | with_reducible apply State.mrdpRows_keeps
    | with_reducible apply State.msavRows_keeps
    | with_reducible apply State.vopRows_keeps
    | split
    | with_reducible refine setCore_ctx (by first | rfl | simp) ?_

theorem State.startJob_keeps {s0 : State} {s : State} {core i : Nat} (h : Keeps s0 s) : Keeps s0 (State.startJob s core i) := by
  unfold State.startJob
  split
  · exact h
  · rename_i j hj
    dsimp only
    split
    · exact State.faultCtx_keeps (State.dropJob_keeps h)
    · have h1 : Keeps s0 (s.payMeter (stationOf core) (s.meterCost j)) := State.payMeter_keeps h
      generalize s.payMeter (stationOf core) (s.meterCost j) = s1 at h1 ⊢
      have h3 := State.startEffect_keeps (core := core) (j := j) h1
      generalize s1.startEffect core j = q at h3 ⊢
      obtain ⟨s3, fl, code⟩ := q
      change Keeps s0 s3 at h3
      split
      · exact State.setEngJob_keeps h3
      · exact State.faultCtx_keeps (State.dropJob_keeps h)

theorem State.pumpN_keeps {s0 : State} {n : Nat} {s : State} {core : Nat} (h : Keeps s0 s) : Keeps s0 (State.pumpN n s core) := by
  induction n generalizing s with
  | zero => exact h
  | succ n ih =>
    unfold State.pumpN
    split
    · exact ih (State.startJob_keeps h)
    · exact h

theorem State.pumpCore_keeps {s0 : State} {s : State} {core : Nat} (hk : Keeps s0 s) : Keeps s0 (State.pumpCore s core) := by
  unfold State.pumpCore
  repeat'
    first
    | with_reducible assumption
    | with_reducible apply State.grant_keeps
    | with_reducible apply State.pumpN_keeps

theorem State.pumpAllN_keeps {s0 : State} {n : Nat} {s : State} (h : Keeps s0 s) : Keeps s0 (State.pumpAllN n s) := by
  induction n generalizing s with
  | zero => exact h
  | succ n ih =>
    have h1 : Keeps s0 ((s.cores.map (·.1)).foldl State.pumpCore s) := Keeps.foldl (fun _ _ => State.pumpCore_keeps) h
    unfold State.pumpAllN
    dsimp only
    split
    · exact ih h1
    · exact h1

theorem State.pumpAll_keeps {s0 : State} {s : State} (hk : Keeps s0 s) : Keeps s0 (State.pumpAll s) := by
  unfold State.pumpAll
  repeat'
    first
    | with_reducible assumption
    | with_reducible apply State.pumpAllN_keeps

theorem State.pump_keeps {s0 : State} {s : State} {core : Nat} (hk : Keeps s0 s) : Keeps s0 (State.pump s core) := by
  unfold State.pump
  repeat'
    first
    | with_reducible assumption
    | with_reducible apply State.pumpCore_keeps
    | with_reducible apply State.pumpAll_keeps
    | split
    | dsimp only

theorem State.endEntries_keeps {s0 : State} {s : State} {a : Site} (hk : Keeps s0 s) : Keeps s0 (State.endEntries s a) := by
  unfold State.endEntries
  repeat'
    first
    | with_reducible assumption
    | with_reducible apply State.entryDone_keeps
    | with_reducible refine Keeps.foldl (fun _ _ _ => ?_) ?_
    | with_reducible refine setCtx_keeps (fun k0 k => ?_) ?_
    | exact ctxAt_ok k _

theorem State.completeAt_keeps {s0 : State} {s : State} {core i : Nat} (hk : Keeps s0 s) : Keeps s0 (State.completeAt s core i) := by
  unfold State.completeAt
  repeat'
    first
    | with_reducible assumption
    | with_reducible apply State.dropJob_keeps
    | with_reducible apply State.postFlags_keeps
    | with_reducible apply State.bump_keeps
    | with_reducible apply State.releaseEngines_keeps
    | with_reducible apply State.endEntries_keeps
    | with_reducible apply State.pump_keeps
    | split
    | with_reducible refine setCore_ctx (by first | rfl | simp) ?_

theorem State.dmaUnit_keeps {s0 : State} {s : State} {core i : Nat} (hk : Keeps s0 s) : Keeps s0 (State.dmaUnit s core i) := by
  unfold State.dmaUnit
  repeat'
    first
    | with_reducible assumption
    | with_reducible apply State.dmaRow_keeps
    | with_reducible apply State.setEngJob_keeps
    | split

theorem State.dmaRound_keeps {s0 : State} {s : State} {core : Nat} {be : Bool} (hk : Keeps s0 s) : Keeps s0 (State.dmaRound s core be) := by
  unfold State.dmaRound
  repeat'
    first
    | with_reducible assumption
    | with_reducible apply State.dmaUnit_keeps
    | with_reducible refine Keeps.foldl (fun _ _ _ => ?_) ?_
    | split

theorem State.dmaRounds_keeps {s0 : State} {s : State} {core : Nat} {be : Bool} {n : Nat} (hk : Keeps s0 s) : Keeps s0 (State.dmaRounds s core be n) := by
  unfold State.dmaRounds
  repeat'
    first
    | with_reducible assumption
    | with_reducible apply State.dmaRound_keeps
    | with_reducible refine Keeps.foldl (fun _ _ _ => ?_) ?_

theorem State.dmaMoves_keeps {s0 : State} {s : State} {core : Nat} {j : EngJob} (hk : Keeps s0 s) : Keeps s0 (State.dmaMoves s core j) := by
  unfold State.dmaMoves
  repeat'
    first
    | with_reducible assumption
    | with_reducible apply State.dmaRounds_keeps
    | split

theorem State.dmaDone_keeps {s0 : State} {s : State} {core i : Nat} {j : EngJob} (hk : Keeps s0 s) : Keeps s0 (State.dmaDone s core i j) := by
  unfold State.dmaDone
  repeat'
    first
    | with_reducible assumption
    | with_reducible apply State.dmaMoves_keeps
    | with_reducible apply State.setEngJob_keeps
    | with_reducible apply State.completeAt_keeps
    | with_reducible apply State.faultCtx_keeps
    | with_reducible apply State.pumpAll_keeps
    | split
    | dsimp only

theorem State.tookTurn_keeps {s0 : State} {s : State} {a : Site} (hk : Keeps s0 s) : Keeps s0 (State.tookTurn s a) := by
  unfold State.tookTurn
  repeat'
    first
    | with_reducible assumption
    | (fail_if_no_progress (with_reducible apply Keeps.upd))

theorem State.issue_keeps {s0 : State} {s : State} {a : Site} {p : Pred} {f : State → State} (hf : ∀ t, Keeps s0 t → Keeps s0 (f t)) (h : Keeps s0 s) :
    Keeps s0 (State.issue s a p f) := by
  unfold State.issue
  have h1 : Keeps s0 ((s.tookTurn a).setCtx a (s.ctxAt a).advance) := setCtx_keeps (fun k0 _ => ctxAt_ok (h.ok k0) a) (State.tookTurn_keeps h)
  split
  · dsimp only
    split
    · exact hf _ h1
    · exact h1
  · exact h

theorem State.issueEngine_keeps {s0 : State} {s : State} {a : Site} {p : Pred} {cnt : CntSel} {mk : CtxSt → EngOp} (hk : Keeps s0 s) : Keeps s0 (State.issueEngine s a p cnt mk) := by
  unfold State.issueEngine
  repeat'
    first
    | with_reducible assumption
    | with_reducible apply State.tookTurn_keeps
    | with_reducible apply State.faultCtx_keeps
    | with_reducible apply State.lowPost_keeps
    | with_reducible apply State.setChan_keeps
    | with_reducible apply State.leafIssue_keeps
    | with_reducible apply State.pump_keeps
    | split
    | with_reducible refine setCore_ctx rfl ?_
    | with_reducible refine setCtx_keeps (fun k0 k => ?_) ?_
    | exact ctxAt_ok k _
    | dsimp only

end Sys2Proof.Machine
end

