-- ==== Sys2Proof/Laws/KeepsExchCmds.lean ====
section
/-!
SUPPORT. What the operations of Machine/ExchCmds.lean never change: one lemma for each that answers a state.
-/

namespace Sys2Proof.Machine

theorem State.journalStraggler_keeps {s0 : State} {s : State} {job : Nat} {b : JnlBody} (hk : Keeps s0 s) : Keeps s0 (State.journalStraggler s job b) := by
  unfold State.journalStraggler
  repeat'
    first
    | with_reducible assumption
    | with_reducible apply State.journal_keeps
    | with_reducible apply State.count_keeps
    | split
    | dsimp only

end Sys2Proof.Machine
end

