-- ==== Sys2Proof/Laws/KeepsParts.lean ====
section
/-!
SUPPORT. What the operations of Machine/Parts.lean never change: one lemma for each that answers a state.
-/

namespace Sys2Proof.Machine

theorem State.loadLowRank_keeps {s0 : State} {s : State} {chans : List ExchRec} (hk : Keeps s0 s) : Keeps s0 (State.loadLowRank s chans) := by
  unfold State.loadLowRank
  repeat'
    first
    | with_reducible assumption
    | with_reducible refine Keeps.foldl (fun _ _ _ => ?_) ?_
    | (fail_if_no_progress (with_reducible refine Keeps.updMem (fun w => ?_) ?_))
    | with_reducible apply memPutBytes_wf
    | with_reducible apply memZero_wf
    | with_reducible refine foldl_wf (fun _ _ _ => ?_) _ ?_

theorem State.beginCopy_keeps {s0 : State} {s : State} {j : JobRec} {c : CkptRun} (hk : Keeps s0 s) : Keeps s0 (State.beginCopy s j c) := by
  unfold State.beginCopy
  repeat'
    first
    | with_reducible assumption
    | with_reducible apply State.setJob_keeps
    | with_reducible apply State.send_keeps
    | split
    | dsimp only

theorem State.takeCkpt_keeps {s0 : State} {s : State} {j : JobRec} (hk : Keeps s0 s) : Keeps s0 (State.takeCkpt s j) := by
  unfold State.takeCkpt
  repeat'
    first
    | with_reducible assumption
    | with_reducible apply State.setJob_keeps
    | with_reducible apply State.journal_keeps
    | with_reducible apply State.beginCopy_keeps
    | split
    | dsimp only

theorem State.commitCkpt_keeps {s0 : State} {s : State} {j : JobRec} {step : Nat} (hk : Keeps s0 s) : Keeps s0 (State.commitCkpt s j step) := by
  unfold State.commitCkpt
  repeat'
    first
    | with_reducible assumption
    | with_reducible apply State.journal_keeps
    | with_reducible apply State.setJob_keeps
    | split
    | dsimp only

theorem State.pumpExport_keeps {s0 : State} {s : State} {j : JobRec} (hk : Keeps s0 s) : Keeps s0 (State.pumpExport s j) := by
  unfold State.pumpExport
  repeat'
    first
    | with_reducible assumption
    | with_reducible apply State.sealExport_keeps
    | with_reducible apply State.sendFrames_keeps
    | with_reducible apply State.setJob_keeps
    | with_reducible apply State.sendFrame_keeps
    | split
    | dsimp only

theorem State.nextExport_keeps {s0 : State} {s : State} {j : JobRec} (hk : Keeps s0 s) : Keeps s0 (State.nextExport s j) := by
  unfold State.nextExport
  repeat'
    first
    | with_reducible assumption
    | with_reducible apply State.setJob_keeps
    | with_reducible apply State.pumpExport_keeps
    | split
    | dsimp only

theorem State.manifestDurable_keeps {s0 : State} {s : State} {m : Manifest} (hk : Keeps s0 s) : Keeps s0 (State.manifestDurable s m) := by
  unfold State.manifestDurable
  repeat'
    first
    | with_reducible assumption
    | with_reducible apply State.setJob_keeps
    | with_reducible apply State.nextExport_keeps
    | split
    | dsimp only

theorem State.endExport_keeps {s0 : State} {s : State} {j : JobRec} (hk : Keeps s0 s) : Keeps s0 (State.endExport s j) := by
  unfold State.endExport
  repeat'
    first
    | with_reducible assumption
    | with_reducible apply State.setJob_keeps
    | with_reducible apply State.nextExport_keeps
    | with_reducible apply State.beginCopy_keeps
    | split
    | dsimp only

end Sys2Proof.Machine
end

