-- ==== Sys2Proof/Laws/KeepsReady.lean ====
section
/-!
SUPPORT. What the operations of Machine/Ready.lean never change: one lemma for each that answers a state.
-/

namespace Sys2Proof.Machine

theorem State.combineUp_keeps {s0 : State} {s : State} {j : JobRec} (hk : Keeps s0 s) : Keeps s0 (State.combineUp s j) := by
  unfold State.combineUp
  repeat'
    first
    | with_reducible assumption
    | with_reducible apply State.setJob_keeps
    | with_reducible apply State.send_keeps
    | with_reducible apply State.commitCkpt_keeps
    | split
    | dsimp only

theorem State.tryReady_keeps {s0 : State} {s : State} {j : JobRec} (hk : Keeps s0 s) : Keeps s0 (State.tryReady s j) := by
  unfold State.tryReady
  repeat'
    first
    | with_reducible assumption
    | with_reducible apply State.setJob_keeps
    | with_reducible apply State.combineUp_keeps
    | split
    | dsimp only

theorem State.tryReadyCtx_keeps {s0 : State} {s : State} {c : Fin 8} (hk : Keeps s0 s) : Keeps s0 (State.tryReadyCtx s c) := by
  unfold State.tryReadyCtx
  repeat'
    first
    | with_reducible assumption
    | with_reducible apply State.tryReady_keeps
    | split

end Sys2Proof.Machine
end

