-- ==== Sys2Proof/Laws/KeepsFlags.lean ====
section
/-!
SUPPORT. What the operations of Machine/Flags.lean never change: one lemma for each that answers a state.
-/

namespace Sys2Proof.Machine

theorem State.clearFlags_keeps {s0 : State} {s : State} {c : Fin 8} {b : Word} (hk : Keeps s0 s) : Keeps s0 (State.clearFlags s c b) := by
  unfold State.clearFlags
  repeat'
    first
    | with_reducible assumption
    | (fail_if_no_progress (with_reducible apply Keeps.upd))

end Sys2Proof.Machine
end

