-- ==== Sys2Proof/Laws/KeepsScalar.lean ====
section
/-!
SUPPORT. What the operations of Machine/Scalar.lean never change: one lemma for each that answers a state.
-/

namespace Sys2Proof.Machine

theorem regOp_keeps {s0 : State} {a : Site} {p : Pred} {f : CtxSt → CtxSt} {s : State} (hf : ∀ x, x.Ok → (f x).Ok) (h : Keeps s0 s) :
    KeepsOut s0 (regOp a p f s) :=
  KeepsOut.coreOut (State.issue_keeps (fun _ h1 => setCtx_keeps (fun _ k => hf _ (ctxAt_ok k a)) h1) h)

theorem aluOp_keeps {s0 : State} {a : Site} {p : Pred} {gd ga gb : Fin 32} {imm : Word} {op : Word → Word → Word} {s : State} (h : Keeps s0 s) :
    KeepsOut s0 (aluOp a p gd ga gb imm op s) := regOp_keeps (fun _ k => CtxSt.setG_ok k) h

theorem execNop_keeps {s0 : State} {a : Site} {p : Pred} {s : State} (hk : Keeps s0 s) : KeepsOut s0 (execNop a p s) := by
  unfold execNop
  repeat'
    first
    | with_reducible assumption
    | with_reducible refine regOp_keeps (fun _ hx => ?_) ?_
    | exact hx

theorem execMovi_keeps {s0 : State} {a : Site} {p : Pred} {gd : Fin 32} {imm : Word} {s : State} (hk : Keeps s0 s) : KeepsOut s0 (execMovi a p gd imm s) := by
  unfold execMovi
  repeat'
    first
    | with_reducible assumption
    | with_reducible refine regOp_keeps (fun _ hx => ?_) ?_
    | with_reducible apply CtxSt.setG_ok

theorem execAdd_keeps {s0 : State} {a : Site} {p : Pred} {gd ga gb : Fin 32} {imm : Word} {s : State} (hk : Keeps s0 s) : KeepsOut s0 (execAdd a p gd ga gb imm s) := by
  unfold execAdd
  repeat'
    first
    | with_reducible assumption
    | with_reducible apply aluOp_keeps

theorem execSub_keeps {s0 : State} {a : Site} {p : Pred} {gd ga gb : Fin 32} {imm : Word} {s : State} (hk : Keeps s0 s) : KeepsOut s0 (execSub a p gd ga gb imm s) := by
  unfold execSub
  repeat'
    first
    | with_reducible assumption
    | with_reducible apply aluOp_keeps

theorem execMul_keeps {s0 : State} {a : Site} {p : Pred} {gd ga gb : Fin 32} {imm : Word} {s : State} (hk : Keeps s0 s) : KeepsOut s0 (execMul a p gd ga gb imm s) := by
  unfold execMul
  repeat'
    first
    | with_reducible assumption
    | with_reducible apply aluOp_keeps

theorem execAnd_keeps {s0 : State} {a : Site} {p : Pred} {gd ga gb : Fin 32} {imm : Word} {s : State} (hk : Keeps s0 s) : KeepsOut s0 (execAnd a p gd ga gb imm s) := by
  unfold execAnd
  repeat'
    first
    | with_reducible assumption
    | with_reducible apply aluOp_keeps

theorem execOr_keeps {s0 : State} {a : Site} {p : Pred} {gd ga gb : Fin 32} {imm : Word} {s : State} (hk : Keeps s0 s) : KeepsOut s0 (execOr a p gd ga gb imm s) := by
  unfold execOr
  repeat'
    first
    | with_reducible assumption
    | with_reducible apply aluOp_keeps

theorem execXor_keeps {s0 : State} {a : Site} {p : Pred} {gd ga gb : Fin 32} {imm : Word} {s : State} (hk : Keeps s0 s) : KeepsOut s0 (execXor a p gd ga gb imm s) := by
  unfold execXor
  repeat'
    first
    | with_reducible assumption
    | with_reducible apply aluOp_keeps

theorem execShl_keeps {s0 : State} {a : Site} {p : Pred} {gd ga gb : Fin 32} {imm : Word} {s : State} (hk : Keeps s0 s) : KeepsOut s0 (execShl a p gd ga gb imm s) := by
  unfold execShl
  repeat'
    first
    | with_reducible assumption
    | with_reducible apply aluOp_keeps

theorem execShr_keeps {s0 : State} {a : Site} {p : Pred} {gd ga gb : Fin 32} {imm : Word} {s : State} (hk : Keeps s0 s) : KeepsOut s0 (execShr a p gd ga gb imm s) := by
  unfold execShr
  repeat'
    first
    | with_reducible assumption
    | with_reducible apply aluOp_keeps

theorem execCmp_keeps {s0 : State} {a : Site} {p : Pred} {gd : Fin 32} {cond : CmpCond} {ga gb : Fin 32} {imm : Word} {s : State} (hk : Keeps s0 s) : KeepsOut s0 (execCmp a p gd cond ga gb imm s) := by
  unfold execCmp
  repeat'
    first
    | with_reducible assumption
    | with_reducible refine regOp_keeps (fun _ hx => ?_) ?_
    | with_reducible apply CtxSt.setP_ok

theorem execCrd_keeps {s0 : State} {a : Site} {p : Pred} {gd : Fin 32} {c : Fin 32} {s : State} (hk : Keeps s0 s) : KeepsOut s0 (execCrd a p gd c s) := by
  unfold execCrd
  repeat'
    first
    | with_reducible assumption
    | with_reducible refine regOp_keeps (fun _ hx => ?_) ?_
    | with_reducible apply CtxSt.setG_ok

theorem execCset_keeps {s0 : State} {a : Site} {p : Pred} {c : Fin 32} {gb : Fin 32} {imm : Word} {s : State} (hk : Keeps s0 s) : KeepsOut s0 (execCset a p c gb imm s) := by
  unfold execCset
  repeat'
    first
    | with_reducible assumption
    | with_reducible refine regOp_keeps (fun _ hx => ?_) ?_
    | exact hx

theorem execBr_keeps {s0 : State} {a : Site} {p : Pred} {imm : Word} {s : State} (hk : Keeps s0 s) : KeepsOut s0 (execBr a p imm s) := by
  unfold execBr
  repeat'
    first
    | with_reducible assumption
    | with_reducible refine regOp_keeps (fun _ hx => ?_) ?_
    | exact hx

theorem execLoop_keeps {s0 : State} {a : Site} {p : Pred} {ga : Fin 32} {imm : Word} {endIdx : BitVec 12} {s : State} (h : Keeps s0 s) :
    KeepsOut s0 (execLoop a p ga imm endIdx s) := by
  unfold execLoop
  refine regOp_keeps (fun x hx => ?_) h
  dsimp only
  split
  · exact hx
  · split
    · exact ⟨hx.1, by simp only [List.length_cons]; omega, hx.2.2⟩
    · exact hx

theorem execEndloop_keeps {s0 : State} {a : Site} {p : Pred} {s : State} (h : Keeps s0 s) : KeepsOut s0 (execEndloop a p s) := by
  unfold execEndloop
  refine regOp_keeps (fun x hx => ?_) h
  split
  · exact hx
  · rename_i n body r e
    have hl := hx.2.1
    rw [e, List.length_cons] at hl
    split
    · exact ⟨hx.1, by simp only; omega, hx.2.2⟩
    · exact ⟨hx.1, by simp only [List.length_cons]; omega, hx.2.2⟩

theorem execVsetl_keeps {s0 : State} {a : Site} {p : Pred} {gb : Fin 32} {imm : Word} {s : State} (hk : Keeps s0 s) : KeepsOut s0 (execVsetl a p gb imm s) := by
  unfold execVsetl
  repeat'
    first
    | with_reducible assumption
    | with_reducible refine regOp_keeps (fun _ hx => ?_) ?_
    | exact hx

theorem execBeatrd_keeps {s0 : State} {a : Site} {p : Pred} {gd : Fin 32} {s : State} (hk : Keeps s0 s) : KeepsOut s0 (execBeatrd a p gd s) := by
  unfold execBeatrd
  repeat'
    first
    | with_reducible assumption
    | with_reducible refine regOp_keeps (fun _ hx => ?_) ?_
    | with_reducible apply CtxSt.setG_ok
    | split

theorem execFlagrc_keeps {s0 : State} {a : Site} {p : Pred} {gd gb : Fin 32} {imm : Word} {s : State} (hk : Keeps s0 s) : KeepsOut s0 (execFlagrc a p gd gb imm s) := by
  unfold execFlagrc
  repeat'
    first
    | with_reducible assumption
    | with_reducible apply KeepsOut.coreOut
    | with_reducible refine State.issue_keeps (fun _ _ => ?_) ?_
    | with_reducible apply State.clearFlags_keeps
    | with_reducible refine setCtx_keeps (fun k0 k => ?_) ?_
    | with_reducible apply CtxSt.setG_ok
    | exact ctxAt_ok k _

theorem execLds_keeps {s0 : State} {a : Site} {p : Pred} {gd ga : Fin 32} {imm : Word} {s : State} (hk : Keeps s0 s) : KeepsOut s0 (execLds a p gd ga imm s) := by
  unfold execLds
  repeat'
    first
    | with_reducible assumption
    | with_reducible apply KeepsOut.coreOut
    | with_reducible refine State.issue_keeps (fun _ _ => ?_) ?_
    | with_reducible apply State.faultCtx_keeps
    | with_reducible apply State.pumpAll_keeps
    | split
    | with_reducible refine setCtx_keeps (fun k0 k => ?_) ?_
    | with_reducible apply CtxSt.setG_ok
    | exact ctxAt_ok k _
    | dsimp only

theorem execSts_keeps {s0 : State} {a : Site} {p : Pred} {ga gb : Fin 32} {imm : Word} {s : State} (hk : Keeps s0 s) : KeepsOut s0 (execSts a p ga gb imm s) := by
  unfold execSts
  repeat'
    first
    | with_reducible assumption
    | with_reducible apply KeepsOut.coreOut
    | with_reducible refine State.issue_keeps (fun _ _ => ?_) ?_
    | with_reducible apply State.faultCtx_keeps
    | with_reducible apply State.pumpAll_keeps
    | with_reducible apply State.setScr_keeps
    | split
    | dsimp only

theorem execTdld_keeps {s0 : State} {a : Site} {p : Pred} {td : Fin 64} {imm : Word} {s : State} (hk : Keeps s0 s) : KeepsOut s0 (execTdld a p td imm s) := by
  unfold execTdld
  repeat'
    first
    | with_reducible assumption
    | with_reducible refine regOp_keeps (fun _ hx => ?_) ?_
    | exact hx

theorem execTdadd_keeps {s0 : State} {a : Site} {p : Pred} {td : Fin 64} {field : TdField} {ga : Fin 32} {imm : Word} {s : State} (hk : Keeps s0 s) : KeepsOut s0 (execTdadd a p td field ga imm s) := by
  unfold execTdadd
  repeat'
    first
    | with_reducible assumption
    | with_reducible refine regOp_keeps (fun _ hx => ?_) ?_
    | exact hx

theorem execTend_keeps {s0 : State} {a : Site} {p : Pred} {s : State} (hk : Keeps s0 s) : KeepsOut s0 (execTend a p s) := by
  unfold execTend
  repeat'
    first
    | with_reducible assumption
    | with_reducible apply KeepsOut.coreOut
    | with_reducible refine State.issue_keeps (fun _ _ => ?_) ?_
    | with_reducible apply State.boundary_keeps
    | with_reducible apply State.pump_keeps

theorem execEnd_keeps {s0 : State} {a : Site} {p : Pred} {s : State} (h : Keeps s0 s) : KeepsOut s0 (execEnd a p s) := by
  unfold execEnd
  refine KeepsOut.coreOut (State.issue_keeps (fun t ht => ?_) h)
  have h1 := State.boundary_keeps (a := a) (remote := false) ht
  dsimp only
  generalize t.boundary a false = t1 at h1 ⊢
  with_reducible apply State.pump_keeps
  with_reducible apply State.endEntries_keeps
  with_reducible refine setCtx_keeps (fun _ k => ?_) h1
  exact ctxAt_ok k a

theorem State.waitOn_keeps {s0 : State} {s : State} {a : Site} {pc : BitVec 12} {w : WaitFor} (hk : Keeps s0 s) : Keeps s0 (State.waitOn s a pc w) := by
  unfold State.waitOn
  repeat'
    first
    | with_reducible assumption
    | split
    | with_reducible refine setCtx_keeps (fun k0 k => ?_) ?_
    | exact ctxAt_ok k _

theorem execWait_keeps {s0 : State} {a : Site} {p : Pred} {c : Fin 32} {gb : Fin 32} {imm : Word} {s : State} (hk : Keeps s0 s) : KeepsOut s0 (execWait a p c gb imm s) := by
  unfold execWait
  repeat'
    first
    | with_reducible assumption
    | with_reducible apply KeepsOut.coreOut
    | with_reducible refine State.issue_keeps (fun _ _ => ?_) ?_
    | with_reducible apply State.boundary_keeps
    | with_reducible apply State.pump_keeps
    | with_reducible apply State.waitOn_keeps
    | split

theorem execWaitb_keeps {s0 : State} {a : Site} {p : Pred} {ga gb : Fin 32} {imm : Word} {s : State} (hk : Keeps s0 s) : KeepsOut s0 (execWaitb a p ga gb imm s) := by
  unfold execWaitb
  repeat'
    first
    | with_reducible assumption
    | with_reducible apply KeepsOut.coreOut
    | with_reducible refine State.issue_keeps (fun _ _ => ?_) ?_
    | with_reducible apply State.boundary_keeps
    | with_reducible apply State.pump_keeps
    | with_reducible apply State.waitOn_keeps

end Sys2Proof.Machine
end

