-- ==== Sys2Proof/Laws/KeepsCoreEvents.lean ====
section
/-!
SUPPORT. What the operations of Machine/CoreEvents.lean never change: one lemma for each that answers a state.
-/

namespace Sys2Proof.Machine

theorem State.sendData_keeps {s0 : State} {s : State} {core : Nat} {j : EngJob} (hk : Keeps s0 s) : Keeps s0 (State.sendData s core j) := by
  unfold State.sendData
  repeat'
    first
    | with_reducible assumption
    | with_reducible apply State.setChan_keeps
    | with_reducible apply State.send_keeps
    | split

theorem execEngineInstrComplete_keeps {s0 : State} {core : Nat} {engine : Engine} {s : State} (hk : Keeps s0 s) : KeepsOut s0 (execEngineInstrComplete core engine s) := by
  unfold execEngineInstrComplete
  repeat'
    first
    | with_reducible assumption
    | with_reducible apply KeepsOut.coreOut
    | with_reducible apply State.completeAt_keeps
    | with_reducible apply State.leafRead_keeps
    | with_reducible apply State.tryReadyCtx_keeps
    | with_reducible apply State.pumpAll_keeps
    | with_reducible apply State.dmaDone_keeps
    | with_reducible apply State.sendData_keeps
    | split
    | dsimp only

theorem execLrecvFilled_keeps {s0 : State} {a : Site} {chan : BitVec 16} {data : List Byte} {s : State} (hk : Keeps s0 s) : KeepsOut s0 (execLrecvFilled a chan data s) := by
  unfold execLrecvFilled
  repeat'
    first
    | with_reducible assumption
    | with_reducible apply KeepsOut.coreOut
    | with_reducible apply State.setChan_keeps
    | with_reducible apply State.landRows_keeps
    | with_reducible apply State.completeAt_keeps
    | split
    | dsimp only

theorem execWaitSatisfied_keeps {s0 : State} {a : Site} {s : State} (hk : Keeps s0 s) : KeepsOut s0 (execWaitSatisfied a s) := by
  unfold execWaitSatisfied
  repeat'
    first
    | with_reducible assumption
    | with_reducible apply KeepsOut.coreOut
    | split
    | with_reducible refine setCtx_keeps (fun k0 k => ?_) ?_
    | exact ctxAt_ok k _
    | dsimp only

theorem coreWaitExpired_keeps {s0 : State} {a : Site} {s : State} (hk : Keeps s0 s) : KeepsOut s0 (coreWaitExpired a s) := by
  unfold coreWaitExpired
  repeat'
    first
    | with_reducible assumption
    | with_reducible apply KeepsOut.coreOut
    | with_reducible apply State.faultCtx_keeps
    | with_reducible apply State.pumpAll_keeps
    | split
    | dsimp only

theorem execStartQueueDequeue_keeps {s0 : State} {a : Site} {s : State} (h : Keeps s0 s) : KeepsOut s0 (execStartQueueDequeue a s) := by
  unfold execStartQueueDequeue
  refine KeepsOut.coreOut ?_
  dsimp only
  split
  · exact h
  · split
    · exact h
    · rename_i e rest eq
      have h1 : Keeps s0 (s.setCtx a { ((((s.ctxAt a).setG 1 (e.args.getD 0 0)).setG 2 (e.args.getD 1 0)).setG 3 (e.args.getD 2 0)).setG 4 (e.args.getD 3 0) with
          pc := e.entry, loops := [], queue := rest, running := true, tag := e.tag, entryNo := (s.ctxAt a).entryNo + 1 }) := by
        refine setCtx_keeps (fun _ k => ?_) h
        have hx := ctxAt_ok k a
        have hq := hx.2.2
        rw [eq, List.length_cons] at hq
        exact ⟨(CtxSt.setG_ok (CtxSt.setG_ok (CtxSt.setG_ok (CtxSt.setG_ok hx)))).1, Nat.zero_le 4, by simp only; omega⟩
      split
      · exact Keeps.upd h1
      · exact h1

theorem State.append_keeps {s0 : State} {s : State} {a : Site} {e : StartEntry} (h : Keeps s0 s) : Keeps s0 (State.append s a e) := by
  unfold State.append
  dsimp only
  split
  · exact h
  · split
    · rename_i hq
      simp only [Bool.and_eq_true, decide_eq_true_eq] at hq
      refine setCtx_keeps (fun _ k => ?_) h
      have hx := ctxAt_ok k a
      exact ⟨hx.1, hx.2.1, by have := hq.1; simp only [List.length_append, List.length_singleton, Config.startQueueMax] at this ⊢; omega⟩
    · exact Keeps.upd h

theorem execStartQueueAppendHeld_keeps {s0 : State} {a : Site} {s : State} (h : Keeps s0 s) : KeepsOut s0 (execStartQueueAppendHeld a s) := by
  unfold execStartQueueAppendHeld
  refine KeepsOut.coreOut ?_
  repeat'
    first
    | with_reducible assumption
    | with_reducible refine setCtx_keeps (fun k0 k => ?_) ?_
    | split
    | (fail_if_no_progress (with_reducible apply Keeps.upd))
    | dsimp only
  have hx := ctxAt_ok (h.ok k0) a
  exact ⟨hx.1, hx.2.1, by simp only [List.length_append, List.length_singleton]; simp only [Config.startQueueMax] at *; omega⟩

end Sys2Proof.Machine
end

