-- ==== Sys2Proof/Laws/KeepsAdders.lean ====
section
/-!
SUPPORT. What the operations of Machine/Adders.lean never change: one lemma for each that answers a state.
-/

namespace Sys2Proof.Machine

theorem execChunk_keeps {s0 : State} {m : Sent Chunk} {s : State} (hk : Keeps s0 s) : KeepsOut s0 (execChunk m s) := by
  unfold execChunk
  repeat'
    first
    | with_reducible assumption
    | with_reducible apply KeepsOut.next
    | with_reducible apply State.sendChunk_keeps
    | with_reducible apply State.faultCtx_keeps
    | with_reducible apply State.pumpAll_keeps
    | with_reducible apply State.lowBroadcast_keeps
    | with_reducible apply State.setExch_keeps
    | with_reducible apply State.compare_keeps
    | with_reducible apply State.addChunk_keeps
    | with_reducible apply State.settleLeaves_keeps
    | with_reducible apply State.tryReadyCtx_keeps
    | split
    | dsimp only

theorem execStragglerDeadline_keeps {s0 : State} {chan idx : Nat} {s : State} (hk : Keeps s0 s) : KeepsOut s0 (execStragglerDeadline chan idx s) := by
  unfold execStragglerDeadline
  repeat'
    first
    | with_reducible assumption
    | with_reducible apply KeepsOut.next
    | with_reducible apply State.faultCtx_keeps
    | with_reducible apply State.pumpAll_keeps
    | with_reducible apply State.setExch_keeps
    | with_reducible apply State.countCtx_keeps
    | with_reducible apply State.journalStraggler_keeps
    | with_reducible apply State.enterSparse_keeps
    | with_reducible apply State.lateData_keeps
    | with_reducible apply State.settleLeaves_keeps
    | with_reducible apply State.tryReadyCtx_keeps
    | split
    | dsimp only

theorem execExchTimeout_keeps {s0 : State} {chan : Nat} {s : State} (hk : Keeps s0 s) : KeepsOut s0 (execExchTimeout chan s) := by
  unfold execExchTimeout
  repeat'
    first
    | with_reducible assumption
    | with_reducible apply KeepsOut.next
    | with_reducible apply State.faultCtx_keeps
    | with_reducible apply State.pumpAll_keeps
    | split

end Sys2Proof.Machine
end

