-- ==== Sys2Proof/Laws/KeepsStem.lean ====
section
/-!
SUPPORT. What the operations of Machine/Stem.lean never change: one lemma for each that answers a state.
-/

namespace Sys2Proof.Machine

theorem State.setBuf_keeps {s0 : State} {s : State} {b : Nat} {x : BufSt} (hk : Keeps s0 s) : Keeps s0 (State.setBuf s b x) := by
  unfold State.setBuf
  repeat'
    first
    | with_reducible assumption
    | (fail_if_no_progress (with_reducible apply Keeps.upd))

theorem State.freeSlots_keeps {s0 : State} {s : State} {b n : Nat} (hk : Keeps s0 s) : Keeps s0 (State.freeSlots s b n) := by
  unfold State.freeSlots
  repeat'
    first
    | with_reducible assumption
    | with_reducible apply State.setBuf_keeps

theorem State.markStalls_keeps {s0 : State} {s : State} (hk : Keeps s0 s) : Keeps s0 (State.markStalls s) := by
  unfold State.markStalls
  repeat'
    first
    | with_reducible assumption
    | (fail_if_no_progress (with_reducible apply Keeps.upd))

theorem execStemPacketStart_keeps {s0 : State} {port : Fin 4} {s : State} (hk : Keeps s0 s) : KeepsOut s0 (execStemPacketStart port s) := by
  unfold execStemPacketStart
  repeat'
    first
    | with_reducible assumption
    | with_reducible apply KeepsOut.next
    | with_reducible apply State.setBuf_keeps
    | with_reducible apply State.setEngJob_keeps
    | with_reducible apply State.markStalls_keeps
    | split
    | (fail_if_no_progress (with_reducible apply Keeps.upd))

theorem execStemArrival_keeps {s0 : State} {buffer : Nat} {s : State} (hk : Keeps s0 s) : KeepsOut s0 (execStemArrival buffer s) := by
  unfold execStemArrival
  repeat'
    first
    | with_reducible assumption
    | with_reducible apply KeepsOut.next
    | with_reducible apply State.setScr_keeps
    | with_reducible apply State.setBuf_keeps
    | with_reducible apply State.bump_keeps
    | split

theorem execCreditReturn_keeps {s0 : State} {buffer : Nat} {s : State} (hk : Keeps s0 s) : KeepsOut s0 (execCreditReturn buffer s) := by
  unfold execCreditReturn
  repeat'
    first
    | with_reducible assumption
    | with_reducible apply KeepsOut.next
    | with_reducible apply State.markStalls_keeps
    | with_reducible apply State.setBuf_keeps
    | split

theorem State.release_keeps {s0 : State} {s : State} {a : Site} {c : Fin 16} {b : Nat} (hk : Keeps s0 s) : Keeps s0 (State.release s a c b) := by
  unfold State.release
  repeat'
    first
    | with_reducible assumption
    | with_reducible apply State.freeSlots_keeps
    | with_reducible refine Keeps.foldl (fun _ _ _ => ?_) ?_

theorem State.countStemStalls_keeps {s0 : State} {s : State} (hk : Keeps s0 s) : Keeps s0 (State.countStemStalls s) := by
  unfold State.countStemStalls
  repeat'
    first
    | with_reducible assumption
    | with_reducible apply State.markStalls_keeps
    | with_reducible apply State.count_keeps
    | with_reducible refine Keeps.foldl (fun _ _ _ => ?_) ?_
    | split
    | (fail_if_no_progress (with_reducible apply Keeps.upd))

end Sys2Proof.Machine
end

