-- ==== Sys2Proof/Laws/KeepsSamples.lean ====
section
/-!
SUPPORT. What the operations of Machine/Samples.lean never change: one lemma for each that answers a state.
-/

namespace Sys2Proof.Machine

theorem execCinc_keeps {s0 : State} {a : Site} {p : Pred} {c : Fin 32} {gb : Fin 32} {imm : Word} {s : State} (hk : Keeps s0 s) : KeepsOut s0 (execCinc a p c gb imm s) := by
  unfold execCinc
  repeat'
    first
    | with_reducible assumption
    | with_reducible apply KeepsOut.coreOut
    | with_reducible refine State.issue_keeps (fun _ _ => ?_) ?_
    | with_reducible apply State.faultCtx_keeps
    | with_reducible apply State.pumpAll_keeps
    | with_reducible apply State.bump_keeps
    | with_reducible apply State.release_keeps
    | with_reducible apply State.releaseSamples_keeps
    | split
    | dsimp only

end Sys2Proof.Machine
end

