-- ==== Sys2Proof/Laws/KeepsSched.lean ====
section
/-!
SUPPORT. What the operations of Machine/Sched.lean never change: one lemma for each that answers a state.
-/

namespace Sys2Proof.Machine

theorem State.trigger_keeps {s0 : State} {s : State} {c : Fin 8} {r : SchedRec} {args : List Word} {tag : EntryTag} (hk : Keeps s0 s) : Keeps s0 (State.trigger s c r args tag) := by
  unfold State.trigger
  repeat'
    first
    | with_reducible assumption
    | with_reducible apply State.append_keeps
    | split
    | (fail_if_no_progress (with_reducible apply Keeps.upd))

theorem State.runRecords_keeps {s0 : State} {s : State} {of : Fin 8 → Bool} (hk : Keeps s0 s) : Keeps s0 (State.runRecords s of) := by
  unfold State.runRecords
  repeat'
    first
    | with_reducible assumption
    | with_reducible apply State.trigger_keeps
    | with_reducible refine Keeps.foldl (fun _ _ _ => ?_) ?_
    | split
    | (fail_if_no_progress (with_reducible apply Keeps.upd))
    | dsimp only

theorem State.runSchedule_keeps {s0 : State} {s : State} (hk : Keeps s0 s) : Keeps s0 (State.runSchedule s) := by
  unfold State.runSchedule
  repeat'
    first
    | with_reducible assumption
    | with_reducible apply State.runRecords_keeps

theorem State.raiseEvent_keeps {s0 : State} {s : State} {c : Fin 8} {u : EventUnit} {args : List Word} {tag : EntryTag} (hk : Keeps s0 s) : Keeps s0 (State.raiseEvent s c u args tag) := by
  unfold State.raiseEvent
  repeat'
    first
    | with_reducible assumption
    | with_reducible apply State.trigger_keeps
    | with_reducible refine Keeps.foldl (fun _ _ _ => ?_) ?_
    | split
    | (fail_if_no_progress (with_reducible apply Keeps.upd))
    | dsimp only

theorem State.armCtx_keeps {s0 : State} {s : State} {c : Fin 8} (hk : Keeps s0 s) : Keeps s0 (State.armCtx s c) := by
  unfold State.armCtx
  repeat'
    first
    | with_reducible assumption
    | (fail_if_no_progress (with_reducible apply Keeps.upd))

end Sys2Proof.Machine
end

