-- ==== Sys2Proof/Laws/KeepsTableEngine.lean ====
section
/-!
SUPPORT. What the operations of Machine/TableEngine.lean never change: one lemma for each that answers a state.
-/

namespace Sys2Proof.Machine

theorem State.poolLocal_keeps {s0 : State} {s : State} {b : BagSt} {rows : List (Nat × Word)} (hk : Keeps s0 s) : Keeps s0 (State.poolLocal s b rows).1 := by
  unfold State.poolLocal
  repeat'
    first
    | with_reducible assumption
    | with_reducible apply State.count_keeps
    | with_reducible refine Keeps.foldlFst (fun _ _ _ => ?_) ?_
    | split

theorem State.finishLookup_keeps {s0 : State} {s : State} {j : LookupSt} (hk : Keeps s0 s) : Keeps s0 (State.finishLookup s j) := by
  unfold State.finishLookup
  repeat'
    first
    | with_reducible assumption
    | with_reducible apply State.scratchPut_keeps
    | with_reducible apply State.postFlags_keeps
    | with_reducible apply State.setChan_keeps
    | with_reducible apply State.bumpEntry_keeps
    | split
    | (fail_if_no_progress (with_reducible apply Keeps.upd))

theorem execLookupJob_keeps {s0 : State} {msd : Fin 6} {list : BagSrc} {bags chan statusOff doneCnt : Nat} {s : State} (hk : Keeps s0 s) : KeepsOut s0 (execLookupJob msd list bags chan statusOff doneCnt s) := by
  unfold execLookupJob
  repeat'
    first
    | with_reducible assumption
    | with_reducible apply KeepsOut.next
    | with_reducible apply State.faultCtx_keeps
    | with_reducible apply State.pumpAll_keeps
    | with_reducible apply State.payMeter_keeps
    | with_reducible apply State.poolLocal_keeps
    | with_reducible apply State.send_keeps
    | with_reducible apply State.finishLookup_keeps
    | with_reducible refine Keeps.foldlFst (fun _ _ _ => ?_) ?_
    | split
    | (fail_if_no_progress (with_reducible apply Keeps.upd))
    | dsimp only

theorem execRemoteLookup_keeps {s0 : State} {msd : Fin 6} {origin serial bag table : Nat} {pool : Pool} {rows : List (Nat × Word)} {s : State} (h : Keeps s0 s) :
    KeepsOut s0 (execRemoteLookup msd origin serial bag table pool rows s) := by
  unfold execRemoteLookup
  refine KeepsOut.next ?_
  dsimp only
  split
  · exact h
  · have h1 := State.poolLocal_keeps (b := { table, pool }) (rows := rows) (State.payMeter_keeps (st := ⟨4 + msd.val, by omega⟩) (cost := s.rowsCost table rows) h)
    generalize State.poolLocal _ _ _ = q at h1 ⊢
    obtain ⟨s1, b, r⟩ := q
    with_reducible apply State.send_keeps
    exact h1

theorem execRemotePartial_keeps {s0 : State} {serial bag dev : Nat} {p : BagPartial} {s : State} (hk : Keeps s0 s) : KeepsOut s0 (execRemotePartial serial bag dev p s) := by
  unfold execRemotePartial
  repeat'
    first
    | with_reducible assumption
    | with_reducible apply KeepsOut.next
    | with_reducible apply State.finishLookup_keeps
    | split
    | (fail_if_no_progress (with_reducible apply Keeps.upd))

end Sys2Proof.Machine
end

