-- ==== Sys2Proof/Laws/KeepsCommit.lean ====
section
/-!
SUPPORT. What the operations of Machine/Commit.lean never change: one lemma for each that answers a state.
-/

namespace Sys2Proof.Machine

theorem State.faultJob_keeps {s0 : State} {s : State} {code : Nat} {j : JobRec} {detail : List Nat} (hk : Keeps s0 s) : Keeps s0 (State.faultJob s code j detail) := by
  unfold State.faultJob
  repeat'
    first
    | with_reducible assumption
    | with_reducible apply State.faultCtx_keeps
    | with_reducible apply State.pumpAll_keeps
    | split

theorem State.mismatch_keeps {s0 : State} {s : State} {j : JobRec} {from_ mine theirs : Nat} (hk : Keeps s0 s) : Keeps s0 (State.mismatch s j from_ mine theirs) := by
  unfold State.mismatch
  repeat'
    first
    | with_reducible assumption
    | with_reducible apply State.faultJob_keeps

theorem execReady_keeps {s0 : State} {origin : Nat} {r : ReadyRec} {s : State} (hk : Keeps s0 s) : KeepsOut s0 (execReady origin r s) := by
  unfold execReady
  repeat'
    first
    | with_reducible assumption
    | with_reducible apply KeepsOut.next
    | with_reducible apply State.mismatch_keeps
    | with_reducible apply State.setJob_keeps
    | with_reducible apply State.combineUp_keeps
    | split
    | dsimp only

theorem execCommitMarker_keeps {s0 : State} {m : Marker} {s : State} (hk : Keeps s0 s) : KeepsOut s0 (execCommitMarker m s) := by
  unfold execCommitMarker
  repeat'
    first
    | with_reducible assumption
    | with_reducible apply KeepsOut.next
    | with_reducible apply State.faultJob_keeps
    | with_reducible apply State.mismatch_keeps
    | with_reducible apply State.setJob_keeps
    | with_reducible apply State.send_keeps
    | with_reducible apply State.commitCkpt_keeps
    | split
    | dsimp only

theorem execCommitTimeout_keeps {s0 : State} {job : Nat} {s : State} (hk : Keeps s0 s) : KeepsOut s0 (execCommitTimeout job s) := by
  unfold execCommitTimeout
  repeat'
    first
    | with_reducible assumption
    | with_reducible apply KeepsOut.next
    | with_reducible apply State.faultJob_keeps
    | split
    | dsimp only

theorem State.writeScales_keeps {s0 : State} {s : State} {j : JobRec} (hk : Keeps s0 s) : Keeps s0 (State.writeScales s j) := by
  unfold State.writeScales
  repeat'
    first
    | with_reducible assumption
    | with_reducible apply State.setScr_keeps
    | with_reducible refine Keeps.foldl (fun _ _ _ => ?_) ?_

theorem State.dropShadow_keeps {s0 : State} {s : State} {j : JobRec} (hk : Keeps s0 s) : Keeps s0 (State.dropShadow s j) := by
  unfold State.dropShadow
  repeat'
    first
    | with_reducible assumption
    | (fail_if_no_progress (with_reducible apply Keeps.upd))

theorem State.placeShadow_keeps {s0 : State} {s : State} {j : JobRec} (hk : Keeps s0 s) : Keeps s0 (State.placeShadow s j) := by
  unfold State.placeShadow
  repeat'
    first
    | with_reducible assumption
    | with_reducible apply State.dropShadow_keeps
    | (fail_if_no_progress (with_reducible refine Keeps.updMem (fun w => ?_) ?_))
    | with_reducible apply memPutBytes_wf
    | with_reducible refine foldl_wf (fun _ _ _ => ?_) _ ?_

theorem State.keepUndo_keeps {s0 : State} {s : State} {job : Nat} {u : JobUndo} (hk : Keeps s0 s) : Keeps s0 (State.keepUndo s job u) := by
  unfold State.keepUndo
  repeat'
    first
    | with_reducible assumption
    | (fail_if_no_progress (with_reducible apply Keeps.upd))

theorem State.writeAcct_keeps {s0 : State} {s : State} {c : Fin 8} {step : Nat} {skipped : Bool} (hk : Keeps s0 s) : Keeps s0 (State.writeAcct s c step skipped) := by
  unfold State.writeAcct
  repeat'
    first
    | with_reducible assumption
    | (fail_if_no_progress (with_reducible refine Keeps.updMem (fun w => ?_) ?_))
    | with_reducible apply memPutBytes_wf

theorem State.applyMarker_keeps {s0 : State} {s : State} {j : JobRec} {m : Marker} (hk : Keeps s0 s) : Keeps s0 (State.applyMarker s j m) := by
  unfold State.applyMarker
  repeat'
    first
    | with_reducible assumption
    | with_reducible apply State.setStage_keeps
    | with_reducible apply State.placeShadow_keeps
    | with_reducible apply State.dropShadow_keeps
    | with_reducible apply State.setExch_keeps
    | with_reducible apply State.writeAcct_keeps
    | with_reducible apply State.setJob_keeps
    | with_reducible apply State.writeScales_keeps
    | with_reducible apply State.commitSamples_keeps
    | with_reducible apply State.countCtx_keeps
    | with_reducible apply State.journal_keeps
    | with_reducible apply State.raiseEvent_keeps
    | with_reducible refine Keeps.foldl (fun _ _ _ => ?_) ?_
    | split
    | (fail_if_no_progress (with_reducible apply Keeps.upd))

theorem State.runJob_keeps {s0 : State} {s : State} {j : JobRec} (hk : Keeps s0 s) : Keeps s0 (State.runJob s j) := by
  unfold State.runJob
  repeat'
    first
    | with_reducible assumption
    | with_reducible apply State.runRecords_keeps

theorem execCommitBeat_keeps {s0 : State} {job : Nat} {s : State} (hk : Keeps s0 s) : KeepsOut s0 (execCommitBeat job s) := by
  unfold execCommitBeat
  repeat'
    first
    | with_reducible assumption
    | with_reducible apply KeepsOut.next
    | with_reducible apply State.applyMarker_keeps
    | with_reducible apply State.takeCkpt_keeps
    | with_reducible apply State.keepUndo_keeps
    | with_reducible apply State.haltCtx_keeps
    | with_reducible apply State.setJob_keeps
    | with_reducible apply State.tryReady_keeps
    | with_reducible apply State.runJob_keeps
    | with_reducible apply State.pumpAll_keeps
    | with_reducible refine Keeps.foldl (fun _ _ _ => ?_) ?_
    | split
    | dsimp only

theorem State.ckptSafe_keeps {s0 : State} {s : State} {j : JobRec} (hk : Keeps s0 s) : Keeps s0 (State.ckptSafe s j) := by
  unfold State.ckptSafe
  repeat'
    first
    | with_reducible assumption
    | with_reducible apply State.setJob_keeps
    | with_reducible apply State.tryReady_keeps
    | split
    | dsimp only

theorem execLocalCopyComplete_keeps {s0 : State} {job : Nat} {s : State} (hk : Keeps s0 s) : KeepsOut s0 (execLocalCopyComplete job s) := by
  unfold execLocalCopyComplete
  repeat'
    first
    | with_reducible assumption
    | with_reducible apply KeepsOut.next
    | with_reducible apply State.setJob_keeps
    | with_reducible apply State.ckptSafe_keeps
    | split
    | (fail_if_no_progress (with_reducible refine Keeps.updMem (fun w => ?_) ?_))
    | with_reducible apply memPutBytes_wf

theorem State.hostPart_keeps {s0 : State} {s : State} {j : JobRec} {b : Fin 4} {a role version : Nat} {part : List Byte} (hk : Keeps s0 s) : Keeps s0 (State.hostPart s j b a role version part) := by
  unfold State.hostPart
  repeat'
    first
    | with_reducible assumption
    | with_reducible apply State.setJob_keeps
    | with_reducible apply State.send_keeps
    | (fail_if_no_progress (with_reducible refine Keeps.updMem (fun w => ?_) ?_))
    | with_reducible apply memPutBytes_wf

theorem execHostedCopy_keeps {s0 : State} {job role version : Nat} {part : List Byte} {s : State} (hk : Keeps s0 s) : KeepsOut s0 (execHostedCopy job role version part s) := by
  unfold execHostedCopy
  repeat'
    first
    | with_reducible assumption
    | with_reducible apply KeepsOut.next
    | with_reducible apply State.hostPart_keeps
    | split
    | dsimp only

theorem execHostedCopyAck_keeps {s0 : State} {job version : Nat} {s : State} (hk : Keeps s0 s) : KeepsOut s0 (execHostedCopyAck job version s) := by
  unfold execHostedCopyAck
  repeat'
    first
    | with_reducible assumption
    | with_reducible apply KeepsOut.next
    | with_reducible apply State.setJob_keeps
    | with_reducible apply State.ckptSafe_keeps
    | split
    | dsimp only

theorem State.combineStart_keeps {s0 : State} {s : State} {j : JobRec} (hk : Keeps s0 s) : Keeps s0 (State.combineStart s j) := by
  unfold State.combineStart
  repeat'
    first
    | with_reducible assumption
    | with_reducible apply State.setJob_keeps
    | with_reducible apply State.send_keeps
    | split
    | dsimp only

theorem State.offerStart_keeps {s0 : State} {s : State} {j : JobRec} (hk : Keeps s0 s) : Keeps s0 (State.offerStart s j) := by
  unfold State.offerStart
  repeat'
    first
    | with_reducible assumption
    | with_reducible apply State.setJob_keeps
    | with_reducible apply State.combineStart_keeps
    | split
    | dsimp only

theorem execStartReady_keeps {s0 : State} {job origin : Nat} {s : State} (hk : Keeps s0 s) : KeepsOut s0 (execStartReady job origin s) := by
  unfold execStartReady
  repeat'
    first
    | with_reducible assumption
    | with_reducible apply KeepsOut.next
    | with_reducible apply State.setJob_keeps
    | with_reducible apply State.combineStart_keeps
    | split
    | dsimp only

theorem execStartRecord_keeps {s0 : State} {job form beat : Nat} {s : State} (hk : Keeps s0 s) : KeepsOut s0 (execStartRecord job form beat s) := by
  unfold execStartRecord
  repeat'
    first
    | with_reducible assumption
    | with_reducible apply KeepsOut.next
    | with_reducible apply State.mismatch_keeps
    | with_reducible apply State.faultJob_keeps
    | with_reducible apply State.setJob_keeps
    | with_reducible apply State.send_keeps
    | split
    | dsimp only

theorem State.startCtx_keeps {s0 : State} {s : State} {c : Fin 8} (hk : Keeps s0 s) : Keeps s0 (State.startCtx s c) := by
  unfold State.startCtx
  repeat'
    first
    | with_reducible assumption
    | with_reducible apply State.armCtx_keeps
    | with_reducible refine Keeps.updCores (fun k0 => ?_) ?_
    | (refine fun e he i => ?_; obtain ⟨e0, h0, rfl⟩ := List.mem_map.1 he; refine set_ok (k0 e0 h0) ?_ i)
    | exact k0 e0 h0 _

theorem execStartBeat_keeps {s0 : State} {job : Nat} {s : State} (hk : Keeps s0 s) : KeepsOut s0 (execStartBeat job s) := by
  unfold execStartBeat
  repeat'
    first
    | with_reducible assumption
    | with_reducible apply KeepsOut.next
    | with_reducible apply State.setJob_keeps
    | with_reducible apply State.startCtx_keeps
    | with_reducible apply State.writeScales_keeps
    | with_reducible apply State.takeCkpt_keeps
    | with_reducible apply State.keepUndo_keeps
    | with_reducible apply State.tryReady_keeps
    | with_reducible apply State.runJob_keeps
    | with_reducible apply State.pumpAll_keeps
    | with_reducible refine Keeps.foldl (fun _ _ _ => ?_) ?_
    | split
    | (fail_if_no_progress (with_reducible apply Keeps.upd))
    | dsimp only

end Sys2Proof.Machine
end

