-- ==== Sys2Proof/Laws/KeepsLoss.lean ====
section
/-!
SUPPORT. What the operations of Machine/Loss.lean never change: one lemma for each that answers a state.
-/

namespace Sys2Proof.Machine

theorem State.sendLoss_keeps {s0 : State} {s : State} {r : LossRec} {mb row : Nat} {x : LossExch} (hk : Keeps s0 s) : Keeps s0 (State.sendLoss s r mb row x) := by
  unfold State.sendLoss
  repeat'
    first
    | with_reducible assumption
    | with_reducible apply State.send_keeps

theorem State.advanceRow_keeps {s0 : State} {s : State} {r : LossRec} {j : LossJob} {i : Nat} {row : LossRowSt} (hk : Keeps s0 s) : Keeps s0 (State.advanceRow s r j i row).1 := by
  unfold State.advanceRow
  repeat'
    first
    | with_reducible assumption
    | with_reducible apply State.sendLoss_keeps
    | with_reducible refine Keeps.ofFst (by assumption) ?_
    | split
    | dsimp only

theorem State.takeExch_keeps {s0 : State} {s : State} {r : LossRec} {k row origin : Nat} {x : LossExch} (hk : Keeps s0 s) : Keeps s0 (State.takeExch s r k row origin x) := by
  unfold State.takeExch
  repeat'
    first
    | with_reducible assumption
    | with_reducible apply State.advanceRow_keeps
    | split
    | (fail_if_no_progress (with_reducible apply Keeps.upd))

theorem State.takeEarly_keeps {s0 : State} {s : State} {r : LossRec} {mb k : Nat} (hk : Keeps s0 s) : Keeps s0 (State.takeEarly s r mb k) := by
  unfold State.takeEarly
  repeat'
    first
    | with_reducible assumption
    | with_reducible apply State.takeExch_keeps
    | with_reducible refine Keeps.foldl (fun _ _ _ => ?_) ?_
    | (fail_if_no_progress (with_reducible apply Keeps.upd))

theorem State.openLoss_keeps {s0 : State} {s : State} {r : LossRec} {step mb : Nat} {rows : List (List LossSeg)} (hk : Keeps s0 s) : Keeps s0 (State.openLoss s r step mb rows) := by
  unfold State.openLoss
  repeat'
    first
    | with_reducible assumption
    | with_reducible apply State.sendLoss_keeps
    | with_reducible apply State.advanceRow_keeps
    | with_reducible apply State.setBuf_keeps
    | with_reducible apply State.takeEarly_keeps
    | with_reducible refine Keeps.foldl (fun _ _ _ => ?_) ?_
    | with_reducible refine Keeps.foldlFst (fun _ _ _ => ?_) ?_
    | split
    | (fail_if_no_progress (with_reducible apply Keeps.upd))

theorem execLossJobStart_keeps {s0 : State} {id step mb : Nat} {s : State} (hk : Keeps s0 s) : KeepsOut s0 (execLossJobStart id step mb s) := by
  unfold execLossJobStart
  repeat'
    first
    | with_reducible assumption
    | with_reducible apply KeepsOut.next
    | with_reducible apply State.faultCtx_keeps
    | with_reducible apply State.pumpAll_keeps
    | with_reducible apply State.openLoss_keeps
    | split
    | dsimp only

theorem execLossExchange_keeps {s0 : State} {id mb row origin : Nat} {x : LossExch} {s : State} (hk : Keeps s0 s) : KeepsOut s0 (execLossExchange id mb row origin x s) := by
  unfold execLossExchange
  repeat'
    first
    | with_reducible assumption
    | with_reducible apply KeepsOut.next
    | with_reducible apply State.takeExch_keeps
    | split
    | (fail_if_no_progress (with_reducible apply Keeps.upd))

theorem State.writeGrads_keeps {s0 : State} {s : State} {r : LossRec} {step i : Nat} {d : RowDone} (hk : Keeps s0 s) : Keeps s0 (State.writeGrads s r step i d).1 := by
  unfold State.writeGrads
  repeat'
    first
    | with_reducible assumption
    | with_reducible apply State.storeRow_keeps
    | with_reducible refine Keeps.foldlFst (fun _ _ _ => ?_) ?_

theorem State.completeLoss_keeps {s0 : State} {s : State} {r : LossRec} {j : LossJob} (hk : Keeps s0 s) : Keeps s0 (State.completeLoss s r j) := by
  unfold State.completeLoss
  repeat'
    first
    | with_reducible assumption
    | with_reducible apply State.writeGrads_keeps
    | with_reducible apply State.scratchPut_keeps
    | with_reducible apply State.postFlags_keeps
    | with_reducible apply State.freeSlots_keeps
    | with_reducible apply State.bump_keeps
    | with_reducible refine Keeps.foldl (fun _ _ _ => ?_) ?_
    | with_reducible refine Keeps.foldlFst (fun _ _ _ => ?_) ?_
    | split

theorem execLossJobComplete_keeps {s0 : State} {s : State} (hk : Keeps s0 s) : KeepsOut s0 (execLossJobComplete s) := by
  unfold execLossJobComplete
  repeat'
    first
    | with_reducible assumption
    | with_reducible apply KeepsOut.next
    | with_reducible apply State.completeLoss_keeps
    | with_reducible apply State.raiseEvent_keeps
    | split
    | (fail_if_no_progress (with_reducible apply Keeps.upd))

theorem State.lossExpired_keeps {s0 : State} {s : State} (hk : Keeps s0 s) : Keeps s0 (State.lossExpired s) := by
  unfold State.lossExpired
  repeat'
    first
    | with_reducible assumption
    | with_reducible apply State.faultCtx_keeps
    | with_reducible apply State.pumpAll_keeps
    | with_reducible refine Keeps.foldl (fun _ _ _ => ?_) ?_
    | split
    | dsimp only

theorem execWaitExpired_keeps {s0 : State} {at_ : Option Site} {s : State} (hk : Keeps s0 s) : KeepsOut s0 (execWaitExpired at_ s) := by
  unfold execWaitExpired
  repeat'
    first
    | with_reducible assumption
    | with_reducible apply KeepsOut.next
    | with_reducible apply coreWaitExpired_keeps
    | with_reducible apply State.lossExpired_keeps
    | split

end Sys2Proof.Machine
end

