-- ==== Sys2Proof/Laws/KeepsCellar.lean ====
section
/-!
SUPPORT. What the operations of Machine/Cellar.lean never change: one lemma for each that answers a state.
-/

namespace Sys2Proof.Machine

theorem State.copyRow_keeps {s0 : State} {s : State} {r : ServeRec} {slot : Nat} {x : ReqSt} {t i : Nat} (hk : Keeps s0 s) : Keeps s0 (State.copyRow s r slot x t i) := by
  unfold State.copyRow
  repeat'
    first
    | with_reducible assumption
    | with_reducible refine Keeps.foldl (fun _ _ _ => ?_) ?_
    | split
    | (fail_if_no_progress (with_reducible refine Keeps.updMem (fun w => ?_) ?_))
    | with_reducible apply memPutBytes_wf

theorem kvQuantize_wf {m : List Host.Cell} {a d : Nat} {f : Fmt} {v : Bool} {r : Nat} {xs : List Num} (w : Memory.wf m = true) :
    Memory.wf (kvQuantize m a d f v r xs) = true := by
  unfold kvQuantize
  exact foldl_wf (fun _ _ w1 => foldl_wf (fun _ _ w2 => putElemBits_wf w2) _ (memPut_wf w1)) _ w

theorem kvRecode_wf {src dst : List Host.Cell} {a b d : Nat} {from_ to_ : Fmt × Bool} {r : Nat} (w : Memory.wf dst = true) :
    Memory.wf (kvRecode src dst a b d from_ to_ r) = true := by
  unfold kvRecode
  refine foldl_wf (fun m v w1 => ?_) _ w
  dsimp only
  split
  · split
    · exact memPutBytes_wf (memPutBytes_wf w1)
    · exact memPutBytes_wf w1
  · exact kvQuantize_wf w1

theorem State.writePages_keeps {s0 : State} {s : State} {p : ServeRec} {x : ReqSt} {len at_ : Nat} (hk : Keeps s0 s) : Keeps s0 (State.writePages s p x len at_) := by
  unfold State.writePages
  repeat'
    first
    | with_reducible assumption
    | with_reducible apply kvRecode_wf
    | split
    | (fail_if_no_progress (with_reducible refine Keeps.updMem (fun w => ?_) ?_))
    | with_reducible apply memPutBytes_wf
    | with_reducible refine foldl_wf (fun _ _ _ => ?_) _ ?_

theorem State.beginPause_keeps {s0 : State} {s : State} {c : Fin 8} {p : ServeRec} {slot : Nat} {x : ReqSt} {at_ : Nat} (hk : Keeps s0 s) : Keeps s0 (State.beginPause s c p slot x at_) := by
  unfold State.beginPause
  repeat'
    first
    | with_reducible assumption
    | with_reducible apply State.writePages_keeps
    | with_reducible apply State.setReq_keeps
    | with_reducible apply State.raiseEvent_keeps

theorem State.finishReq_keeps {s0 : State} {s : State} {c : Fin 8} {p : ServeRec} {slot code : Nat} {rank : List Nat} (hk : Keeps s0 s) : Keeps s0 (State.finishReq s c p slot code rank) := by
  unfold State.finishReq
  repeat'
    first
    | with_reducible assumption
    | with_reducible apply State.endRequest_keeps
    | with_reducible apply State.beginPause_keeps
    | split
    | dsimp only

theorem execPauseComplete_keeps {s0 : State} {ctx : Fin 8} {slot _core _entry : Nat} {s : State} (hk : Keeps s0 s) : KeepsOut s0 (execPauseComplete ctx slot _core _entry s) := by
  unfold execPauseComplete
  repeat'
    first
    | with_reducible assumption
    | with_reducible apply KeepsOut.next
    | with_reducible apply State.endRequest_keeps
    | split
    | (fail_if_no_progress (with_reducible refine Keeps.updMem (fun w => ?_) ?_))
    | with_reducible apply memPutBytes_wf

theorem dropLater_length (t : EntryTag) (l : List StartEntry) : (dropLater t l).length ≤ l.length := by
  induction l with
  | nil => exact Nat.le_refl _
  | cons e r ih =>
    unfold dropLater
    split
    · exact Nat.succ_le_succ (List.length_filter_le _ _)
    · exact Nat.succ_le_succ ih

theorem State.cancelPause_keeps {s0 : State} {s : State} {c : Fin 8} {slot : Nat} (h : Keeps s0 s) : Keeps s0 (State.cancelPause s c slot) := by
  unfold State.cancelPause
  dsimp only
  split
  · exact h
  · refine Keeps.upd (Keeps.foldl (fun v n hv => setCtx_keeps (fun _ k => ?_) hv) h)
    have hx := ctxAt_ok k ⟨n, c⟩
    have key : ∀ (q : Bool) (l : List StartEntry) (t : EntryTag), (if q = true then dropLater t l else l.filter fun e => e.tag != t).length ≤ l.length :=
      fun q l t => by cases q; exact List.length_filter_le _ _; exact dropLater_length t l
    exact ⟨hx.1, hx.2.1, Nat.le_trans (key _ _ _) hx.2.2⟩

theorem execSummaryTtl_keeps {s0 : State} {conv : Nat} {s : State} (hk : Keeps s0 s) : KeepsOut s0 (execSummaryTtl conv s) := by
  unfold execSummaryTtl
  repeat'
    first
    | with_reducible assumption
    | with_reducible apply KeepsOut.next
    | split
    | (fail_if_no_progress (with_reducible apply Keeps.upd))
    | dsimp only

end Sys2Proof.Machine
end

