-- ==== Sys2Proof/Laws/KeepsServe.lean ====
section
/-!
SUPPORT. What the operations of Machine/Serve.lean never change: one lemma for each that answers a state.
-/

namespace Sys2Proof.Machine

theorem State.writePageList_keeps {s0 : State} {s : State} {p : ServeRec} {slot : Nat} {l : List (Nat × Nat)} (hk : Keeps s0 s) : Keeps s0 (State.writePageList s p slot l) := by
  unfold State.writePageList
  repeat'
    first
    | with_reducible assumption
    | (fail_if_no_progress (with_reducible refine Keeps.updMem (fun w => ?_) ?_))
    | with_reducible apply memPutLe_wf
    | with_reducible refine foldl_wf (fun _ _ _ => ?_) _ ?_

theorem State.composeOne_keeps {s0 : State} {s : State} {c : Fin 8} {p : ServeRec} {id slot : Nat} {budget : Nat} {items : List (Nat × Work)} (hk : Keeps s0 s) : Keeps s0 (State.composeOne s c p id slot budget items).1 := by
  unfold State.composeOne
  repeat'
    first
    | with_reducible assumption
    | with_reducible apply State.setReq_keeps
    | with_reducible apply State.countCtx_keeps
    | with_reducible apply State.writePageList_keeps
    | split
    | dsimp only

theorem State.compose_keeps {s0 : State} {s : State} {c : Fin 8} {p : ServeRec} (hk : Keeps s0 s) : Keeps s0 (State.compose s c p) := by
  unfold State.compose
  repeat'
    first
    | with_reducible assumption
    | with_reducible apply State.composeOne_keeps
    | with_reducible apply State.raiseEvent_keeps
    | with_reducible refine Keeps.foldl (fun _ _ _ => ?_) ?_
    | with_reducible refine Keeps.foldlFst (fun _ _ _ => ?_) ?_
    | split
    | (fail_if_no_progress (with_reducible apply Keeps.upd))
    | dsimp only

theorem State.expireWaiting_keeps {s0 : State} {s : State} {c : Fin 8} (hk : Keeps s0 s) : Keeps s0 (State.expireWaiting s c) := by
  unfold State.expireWaiting
  repeat'
    first
    | with_reducible assumption
    | with_reducible apply State.endRequest_keeps
    | with_reducible refine Keeps.foldl (fun _ _ _ => ?_) ?_

theorem execCompose_keeps {s0 : State} {ctx : Fin 8} {s : State} (hk : Keeps s0 s) : KeepsOut s0 (execCompose ctx s) := by
  unfold execCompose
  repeat'
    first
    | with_reducible assumption
    | with_reducible apply KeepsOut.next
    | with_reducible apply State.settleLive_keeps
    | with_reducible apply State.expireWaiting_keeps
    | with_reducible apply State.compose_keeps
    | with_reducible apply State.pumpAll_keeps
    | split
    | dsimp only

theorem State.writeDraft_keeps {s0 : State} {s : State} {p : ServeRec} {b : Nat} {ds : List Nat} (hk : Keeps s0 s) : Keeps s0 (State.writeDraft s p b ds) := by
  unfold State.writeDraft
  repeat'
    first
    | with_reducible assumption
    | with_reducible apply State.scratchPut_keeps

theorem execDraftSample_keeps {s0 : State} {ctx : Fin 8} {slot id row : Nat} {s : State} (hk : Keeps s0 s) : KeepsOut s0 (execDraftSample ctx slot id row s) := by
  unfold execDraftSample
  repeat'
    first
    | with_reducible assumption
    | with_reducible apply KeepsOut.next
    | with_reducible apply State.setReq_keeps
    | with_reducible apply State.writeDraft_keeps
    | with_reducible apply State.postFlags_keeps
    | with_reducible apply State.faultCtx_keeps
    | with_reducible apply State.pumpAll_keeps
    | with_reducible apply State.setBuf_keeps
    | with_reducible refine Keeps.foldl (fun _ _ _ => ?_) ?_
    | split
    | dsimp only

theorem execAcceptanceJob_keeps {s0 : State} {ctx : Fin 8} {slot : Nat} {s : State} (hk : Keeps s0 s) : KeepsOut s0 (execAcceptanceJob ctx slot s) := by
  unfold execAcceptanceJob
  repeat'
    first
    | with_reducible assumption
    | with_reducible apply KeepsOut.next
    | with_reducible apply State.setReq_keeps
    | with_reducible apply State.postFlags_keeps
    | with_reducible apply State.freeSlots_keeps
    | with_reducible apply State.bump_keeps
    | with_reducible apply State.raiseEvent_keeps
    | with_reducible refine Keeps.foldl (fun _ _ _ => ?_) ?_
    | split
    | (fail_if_no_progress (with_reducible apply Keeps.upd))

theorem State.writeItem_keeps {s0 : State} {s : State} {c : Fin 8} {p : ServeRec} {slot : Nat} {w : Work} {ranks : List RankScores} (hk : Keeps s0 s) : Keeps s0 (State.writeItem s c p slot w ranks).1 := by
  unfold State.writeItem
  repeat'
    first
    | with_reducible assumption
    | with_reducible apply State.setReq_keeps
    | with_reducible apply State.putRing_keeps
    | with_reducible apply State.acctAdd_keeps
    | with_reducible apply State.copyRow_keeps
    | with_reducible apply State.freeSlots_keeps
    | with_reducible refine Keeps.foldl (fun _ _ _ => ?_) ?_
    | split
    | dsimp only

theorem State.skipItem_keeps {s0 : State} {s : State} {c : Fin 8} {slot : Nat} {w : Work} {ranks : List RankScores} (hk : Keeps s0 s) : Keeps s0 (State.skipItem s c slot w ranks) := by
  unfold State.skipItem
  repeat'
    first
    | with_reducible assumption
    | with_reducible apply State.freeSlots_keeps
    | split

theorem execBatchStepEnd_keeps {s0 : State} {ctx : Fin 8} {id : Nat} {ranks : List RankScores} {s : State} (hk : Keeps s0 s) : KeepsOut s0 (execBatchStepEnd ctx id ranks s) := by
  unfold execBatchStepEnd
  repeat'
    first
    | with_reducible assumption
    | with_reducible apply KeepsOut.next
    | with_reducible apply State.skipItem_keeps
    | with_reducible apply State.writeItem_keeps
    | with_reducible apply State.endRequest_keeps
    | with_reducible apply State.finishReq_keeps
    | with_reducible refine Keeps.foldl (fun _ _ _ => ?_) ?_
    | with_reducible refine Keeps.foldlFst (fun _ _ _ => ?_) ?_
    | split
    | (fail_if_no_progress (with_reducible apply Keeps.upd))

theorem execDeadline_keeps {s0 : State} {ctx : Fin 8} {slot : Nat} {s : State} (hk : Keeps s0 s) : KeepsOut s0 (execDeadline ctx slot s) := by
  unfold execDeadline
  repeat'
    first
    | with_reducible assumption
    | with_reducible apply KeepsOut.next
    | with_reducible apply State.endRequest_keeps
    | split

theorem execRingHold_keeps {s0 : State} {ctx : Fin 8} {slot : Nat} {s : State} (hk : Keeps s0 s) : KeepsOut s0 (execRingHold ctx slot s) := by
  unfold execRingHold
  repeat'
    first
    | with_reducible assumption
    | with_reducible apply KeepsOut.next
    | with_reducible apply State.freeReq_keeps
    | split

end Sys2Proof.Machine
end

