-- ==== Sys2Proof/Laws/KeepsLanding.lean ====
section
/-!
SUPPORT. What the operations of Machine/Landing.lean never change: one lemma for each that answers a state.
-/

namespace Sys2Proof.Machine

theorem State.landSample_keeps {s0 : State} {s : State} {d : DataRec} {f : Frame} {slot key : Nat} {data : List Byte} {x : SampleSlot} (hk : Keeps s0 s) : Keeps s0 (State.landSample s d f slot key data x) := by
  unfold State.landSample
  repeat'
    first
    | with_reducible assumption
    | with_reducible apply State.scratchPut_keeps
    | with_reducible apply State.sampleWord_keeps
    | with_reducible apply State.bumpEntry_keeps
    | split
    | (fail_if_no_progress (with_reducible apply Keeps.upd))

theorem State.onSample_keeps {s0 : State} {s : State} {id : Nat} {f : Frame} {c : Fin 8} {slot sid : Nat} {data : List Byte} (hk : Keeps s0 s) : Keeps s0 (State.onSample s id f c slot sid data).1 := by
  unfold State.onSample
  repeat'
    first
    | with_reducible assumption
    | with_reducible apply State.count_keeps
    | with_reducible apply State.landSample_keeps
    | with_reducible apply State.freeSample_keeps
    | split
    | dsimp only

theorem State.validate_keeps {s0 : State} {s : State} {c : Fin 8} {p : ServeRec} {slot : Nat} {x : ReqSt} (hk : Keeps s0 s) : Keeps s0 (State.validate s c p slot x) := by
  unfold State.validate
  repeat'
    first
    | with_reducible assumption
    | with_reducible apply State.settleLive_keeps
    | with_reducible apply State.setReq_keeps
    | with_reducible apply State.endRequest_keeps
    | with_reducible apply State.reject_keeps
    | split
    | (fail_if_no_progress (with_reducible apply Keeps.upd))
    | dsimp only

theorem State.landReq_keeps {s0 : State} {s : State} {c : Fin 8} {p : ServeRec} {f : Frame} {slot : Nat} {data : List Byte} {x : ReqSt} (hk : Keeps s0 s) : Keeps s0 (State.landReq s c p f slot data x) := by
  unfold State.landReq
  repeat'
    first
    | with_reducible assumption
    | with_reducible apply State.scratchPut_keeps
    | with_reducible apply State.setReq_keeps
    | with_reducible apply State.reqWord_keeps
    | with_reducible apply State.bumpEntry_keeps
    | with_reducible apply State.validate_keeps
    | split

theorem State.onReq_keeps {s0 : State} {s : State} {id : Nat} {f : Frame} {c : Fin 8} {slot : Nat} {data : List Byte} (hk : Keeps s0 s) : Keeps s0 (State.onReq s id f c slot data).1 := by
  unfold State.onReq
  repeat'
    first
    | with_reducible assumption
    | with_reducible apply State.landReq_keeps
    | with_reducible apply State.freeReq_keeps
    | split

theorem State.onAck_keeps {s0 : State} {s : State} {id : Nat} {c : Fin 8} {slot cons : Nat} (h : Keeps s0 s) : Keeps s0 (State.onAck s id c slot cons).1 := by
  unfold State.onAck
  split
  · exact h
  · exact Keeps.iteFst h (Keeps.iteFst (State.freeReq_keeps h) (State.setReq_keeps h))

theorem State.onCancel_keeps {s0 : State} {s : State} {id : Nat} {c : Fin 8} {slot : Nat} (hk : Keeps s0 s) : Keeps s0 (State.onCancel s id c slot).1 := by
  unfold State.onCancel
  repeat'
    first
    | with_reducible assumption
    | with_reducible apply State.setReq_keeps
    | with_reducible apply State.cancelPause_keeps
    | with_reducible apply State.endRequest_keeps
    | split

theorem State.onResume_keeps {s0 : State} {s : State} {id : Nat} {c : Fin 8} {slot : Nat} (hk : Keeps s0 s) : Keeps s0 (State.onResume s id c slot).1 := by
  unfold State.onResume
  repeat'
    first
    | with_reducible assumption
    | with_reducible apply State.setReq_keeps
    | with_reducible apply State.pumpStream_keeps
    | split

theorem State.beginAdapter_keeps {s0 : State} {s : State} {a : AdapterObj} (hk : Keeps s0 s) : Keeps s0 (State.beginAdapter s a).1 := by
  unfold State.beginAdapter
  repeat'
    first
    | with_reducible assumption
    | split
    | (fail_if_no_progress (with_reducible apply Keeps.upd))
    | dsimp only

theorem State.onAdapterLoad_keeps {s0 : State} {s : State} {slot : Option Nat} {a : AdapterObj} (h : Keeps s0 s) :
    Keeps s0 (State.onAdapterLoad s slot a).1 := by
  unfold State.onAdapterLoad
  cases slot with
  | none => exact h
  | some i =>
    have h1 : Keeps s0 { s with adapters := adel s.adapters i } := Keeps.upd h
    refine Keeps.iteFst h1 (Keeps.iteFst h1 (Keeps.updMem (fun w => ?_) h1))
    dsimp only
    split
    · exact memPutBytes_wf w
    · exact w

theorem State.onAdapterRemove_keeps {s0 : State} {s : State} {ident : Nat} {teacher : Bool} (hk : Keeps s0 s) : Keeps s0 (State.onAdapterRemove s ident teacher).1 := by
  unfold State.onAdapterRemove
  repeat'
    first
    | with_reducible assumption
    | with_reducible apply State.settleLive_keeps
    | with_reducible apply State.retireAdapter_keeps
    | split
    | dsimp only

theorem State.onMaskLoad_keeps {s0 : State} {s : State} {id : Nat} {data : List Byte} (hk : Keeps s0 s) : Keeps s0 (State.onMaskLoad s id data).1 := by
  unfold State.onMaskLoad
  repeat'
    first
    | with_reducible assumption
    | split
    | (fail_if_no_progress (with_reducible apply Keeps.upd))

theorem State.onMaskRemove_keeps {s0 : State} {s : State} {id : Nat} (hk : Keeps s0 s) : Keeps s0 (State.onMaskRemove s id).1 := by
  unfold State.onMaskRemove
  repeat'
    first
    | with_reducible assumption
    | with_reducible apply State.settleRefs_keeps
    | split
    | (fail_if_no_progress (with_reducible apply Keeps.upd))

theorem State.onSummaryExport_keeps {s0 : State} {s : State} {id conv : Nat} (hk : Keeps s0 s) : Keeps s0 (State.onSummaryExport s id conv).1 := by
  unfold State.onSummaryExport
  repeat'
    first
    | with_reducible assumption
    | with_reducible apply State.sealExport_keeps
    | with_reducible apply State.sendFrames_keeps
    | split

theorem State.listSummary_keeps {s0 : State} {s : State} {data : List Byte} (h : Keeps s0 s) : Keeps s0 (State.listSummary s data).1 := by
  unfold State.listSummary
  generalize readSummary data = y
  refine Keeps.iteFst h ?_
  cases s.importPlace data.length with
  | none => exact h
  | some e => exact Keeps.iteFst h (Keeps.updMem (fun w => memPutBytes_wf w) h)

theorem State.onSummaryImport_keeps {s0 : State} {s : State} {exportId : Digest} {data : List Byte} {tags : List (BitVec 128)} (hk : Keeps s0 s) : Keeps s0 (State.onSummaryImport s exportId data tags).1 := by
  unfold State.onSummaryImport
  repeat'
    first
    | with_reducible assumption
    | with_reducible apply State.listSummary_keeps
    | split

theorem State.onSummaryDrop_keeps {s0 : State} {s : State} {conv : Nat} (hk : Keeps s0 s) : Keeps s0 (State.onSummaryDrop s conv).1 := by
  unfold State.onSummaryDrop
  repeat'
    first
    | with_reducible assumption
    | split
    | (fail_if_no_progress (with_reducible apply Keeps.upd))

end Sys2Proof.Machine
end

