-- ==== Sys2Proof/Laws/KeepsTrust.lean ====
section
/-!
SUPPORT. What the operations of Machine/Trust.lean never change: one lemma for each that answers a state.
-/

namespace Sys2Proof.Machine

theorem State.inSec_keeps {s0 : State} {s : State} {f : SecSt → SecSt} (h1 : s.sec.owners <+: (f s.sec).owners)
    (h2 : s.sec.fwSvnMin ≤ (f s.sec).fwSvnMin) (h3 : s.sec.epochs ≤ (f s.sec).epochs) (h : Keeps s0 s) : Keeps s0 (State.inSec s f) :=
  h.trans ⟨rfl, fun k => ⟨k.mem, k.cores⟩, rfl, List.prefix_refl _, h1, h2, h3⟩

theorem State.formUpper_keeps {s0 : State} {s : State} {n : Fin 2} {tree : Nat} (hk : Keeps s0 s) : Keeps s0 (State.formUpper s n tree) := by
  unfold State.formUpper
  repeat'
    first
    | with_reducible assumption
    | with_reducible refine State.inSec_keeps ?_ ?_ ?_ ?_
    | exact List.prefix_refl _
    | exact Nat.le_refl _
    | split

theorem State.sendReport_keeps {s0 : State} {s : State} {r : AttestRep} (hk : Keeps s0 s) : Keeps s0 (State.sendReport s r) := by
  unfold State.sendReport
  repeat'
    first
    | with_reducible assumption
    | with_reducible apply State.send_keeps

theorem State.signOne_keeps {s0 : State} {s : State} {r : SignReq} {q : Nat} (hk : Keeps s0 s) : Keeps s0 (State.signOne s r q) := by
  unfold State.signOne
  repeat'
    first
    | with_reducible assumption
    | with_reducible apply State.formUpper_keeps
    | with_reducible refine State.inSec_keeps ?_ ?_ ?_ ?_
    | exact List.prefix_refl _
    | exact Nat.le_refl _
    | with_reducible apply State.send_keeps
    | with_reducible apply State.sendReport_keeps
    | split
    | (fail_if_no_progress (with_reducible apply Keeps.upd))

theorem State.signRefuse_keeps {s0 : State} {s : State} {code : Nat} {r : SignReq} (hk : Keeps s0 s) : Keeps s0 (State.signRefuse s code r) := by
  unfold State.signRefuse
  repeat'
    first
    | with_reducible assumption
    | with_reducible apply State.reject_keeps
    | with_reducible apply State.send_keeps

theorem State.pumpSign_keeps {s0 : State} {n : Nat} {s : State} (h : Keeps s0 s) : Keeps s0 (State.pumpSign n s) := by
  induction n generalizing s with
  | zero => exact h
  | succ n ih =>
    unfold State.pumpSign
    repeat'
      first
      | with_reducible assumption
      | with_reducible apply ih
      | with_reducible apply State.signRefuse_keeps
      | with_reducible apply State.signOne_keeps
      | with_reducible apply State.journal_keeps
      | with_reducible refine State.inSec_keeps ?_ ?_ ?_ ?_
      | exact List.prefix_refl _
      | exact Nat.le_refl _
      | split

theorem State.signAll_keeps {s0 : State} {s : State} (hk : Keeps s0 s) : Keeps s0 (State.signAll s) := by
  unfold State.signAll
  repeat'
    first
    | with_reducible assumption
    | with_reducible apply State.pumpSign_keeps

theorem State.requestSign_keeps {s0 : State} {s : State} {busy : Bool} {r : SignReq} (hk : Keeps s0 s) : Keeps s0 (State.requestSign s busy r) := by
  unfold State.requestSign
  repeat'
    first
    | with_reducible assumption
    | with_reducible apply State.signRefuse_keeps
    | with_reducible refine State.inSec_keeps ?_ ?_ ?_ ?_
    | exact List.prefix_refl _
    | exact Nat.le_refl _
    | with_reducible apply State.signAll_keeps
    | split

theorem State.epochDurable_keeps {s0 : State} {s : State} {e : Nat} {burnOk : Bool} (hk : Keeps s0 s) : Keeps s0 (State.epochDurable s e burnOk) := by
  unfold State.epochDurable
  repeat'
    first
    | with_reducible assumption
    | with_reducible refine State.inSec_keeps ?_ ?_ ?_ ?_
    | exact List.prefix_refl _
    | exact Nat.le_refl _
    | exact Nat.le_max_left _ _
    | with_reducible apply State.signAll_keeps
    | split

theorem State.leavesDurable_keeps {s0 : State} {s : State} {q : Nat} (hk : Keeps s0 s) : Keeps s0 (State.leavesDurable s q) := by
  unfold State.leavesDurable
  repeat'
    first
    | with_reducible assumption
    | with_reducible refine State.inSec_keeps ?_ ?_ ?_ ?_
    | exact List.prefix_refl _
    | exact Nat.le_refl _
    | with_reducible apply State.signAll_keeps

theorem execAttest_keeps {s0 : State} {q : AttestReq} {reservedOk busy : Bool} {s : State} (hk : Keeps s0 s) : KeepsOut s0 (execAttest q reservedOk busy s) := by
  unfold execAttest
  repeat'
    first
    | with_reducible assumption
    | with_reducible apply KeepsOut.next
    | with_reducible apply State.reject_keeps
    | with_reducible apply State.send_keeps
    | with_reducible apply State.sendReport_keeps
    | with_reducible apply State.requestSign_keeps
    | split

theorem execOwnerClaim_keeps {s0 : State} {r : OwnerClaim} {sig : SigInfo} {reservedOk : Bool} {s : State} (hk : Keeps s0 s) : KeepsOut s0 (execOwnerClaim r sig reservedOk s) := by
  unfold execOwnerClaim
  repeat'
    first
    | with_reducible assumption
    | with_reducible apply KeepsOut.next
    | with_reducible apply State.reject_keeps
    | with_reducible apply State.send_keeps
    | with_reducible refine State.inSec_keeps ?_ ?_ ?_ ?_
    | exact Nat.le_refl _
    | (rename_i h1 _; have h2 : s.sec.owners = [] := by simpa using h1
       rw [h2]; exact List.nil_prefix)
    | split

theorem State.onOwnerTransfer_keeps {s0 : State} {s : State} {next signer : Digest} {sig : SigInfo} (hk : Keeps s0 s) : Keeps s0 (State.onOwnerTransfer s next signer sig).1 := by
  unfold State.onOwnerTransfer
  repeat'
    first
    | with_reducible assumption
    | with_reducible refine State.inSec_keeps ?_ ?_ ?_ ?_
    | exact Nat.le_refl _
    | exact List.prefix_append _ _
    | split

theorem State.onTicket_keeps {s0 : State} {s : State} {client : Nat} {key : Digest} (hk : Keeps s0 s) : Keeps s0 (State.onTicket s client key).1 := by
  unfold State.onTicket
  repeat'
    first
    | with_reducible assumption
    | with_reducible refine State.inSec_keeps ?_ ?_ ?_ ?_
    | exact List.prefix_refl _
    | exact Nat.le_refl _
    | split

theorem State.pumpExports_keeps {s0 : State} {s : State} (hk : Keeps s0 s) : Keeps s0 (State.pumpExports s) := by
  unfold State.pumpExports
  repeat'
    first
    | with_reducible assumption
    | with_reducible apply State.pumpExport_keeps
    | with_reducible refine Keeps.foldl (fun _ _ _ => ?_) ?_

theorem State.onStorageKey_keeps {s0 : State} {s : State} {key : Digest} (hk : Keeps s0 s) : Keeps s0 (State.onStorageKey s key).1 := by
  unfold State.onStorageKey
  repeat'
    first
    | with_reducible assumption
    | with_reducible refine State.inSec_keeps ?_ ?_ ?_ ?_
    | exact List.prefix_refl _
    | exact Nat.le_refl _
    | with_reducible apply State.pumpExports_keeps

theorem State.rotate_keeps {s0 : State} {s : State} {k : RegionKind} (hk : Keeps s0 s) : Keeps s0 (State.rotate s k) := by
  unfold State.rotate
  repeat'
    first
    | with_reducible assumption
    | with_reducible refine State.inSec_keeps ?_ ?_ ?_ ?_
    | exact List.prefix_refl _
    | exact Nat.le_refl _
    | split
    | (fail_if_no_progress (with_reducible refine Keeps.updMem (fun w => ?_) ?_))
    | with_reducible apply memZero_wf

theorem State.unbind_keeps {s0 : State} {s : State} (hk : Keeps s0 s) : Keeps s0 (State.unbind s) := by
  unfold State.unbind
  repeat'
    first
    | with_reducible assumption
    | with_reducible apply State.returnStations_keeps
    | with_reducible refine State.inSec_keeps ?_ ?_ ?_ ?_
    | exact List.prefix_refl _
    | exact Nat.le_refl _
    | with_reducible apply State.rotate_keeps
    | split
    | (fail_if_no_progress (with_reducible refine Keeps.updMem (fun w => ?_) ?_))
    | with_reducible apply memZero_wf
    | with_reducible refine foldl_wf (fun _ _ _ => ?_) _ ?_

theorem State.putGranule_keeps {s0 : State} {s : State} {h : Husk} {n : Nat} {plain : List Byte} (hk : Keeps s0 s) : Keeps s0 (State.putGranule s h n plain) := by
  unfold State.putGranule
  repeat'
    first
    | with_reducible assumption
    | split
    | (fail_if_no_progress (with_reducible refine Keeps.updMem (fun w => ?_) ?_))
    | with_reducible apply memPutBytes_wf
    | with_reducible apply memPut_wf
    | with_reducible refine foldl_wf (fun _ _ _ => ?_) _ ?_

theorem State.bindHusk_keeps {s0 : State} {s : State} {h : Husk} {key : Digest} {srcs : List (List HuskChunk)} (hk : Keeps s0 s) : Keeps s0 (State.bindHusk s h key srcs) := by
  unfold State.bindHusk
  repeat'
    first
    | with_reducible assumption
    | with_reducible apply State.putGranule_keeps
    | with_reducible refine State.inSec_keeps ?_ ?_ ?_ ?_
    | exact List.prefix_refl _
    | exact Nat.le_refl _
    | with_reducible apply State.journal_keeps
    | with_reducible refine Keeps.foldl (fun _ _ _ => ?_) ?_

theorem State.loadHusk_keeps {s0 : State} {s : State} {h : Husk} {peer : Bool} {srcs : List (List HuskChunk)} (hk : Keeps s0 s) : Keeps s0 (State.loadHusk s h peer srcs).1 := by
  unfold State.loadHusk
  repeat'
    first
    | with_reducible assumption
    | with_reducible refine State.inSec_keeps ?_ ?_ ?_ ?_
    | exact List.prefix_refl _
    | exact Nat.le_refl _
    | with_reducible apply State.rotate_keeps
    | with_reducible apply State.bindHusk_keeps
    | split
    | dsimp only

theorem State.onHusk_keeps {s0 : State} {s : State} {id psn : Nat} {h : Husk} (hk : Keeps s0 s) : Keeps s0 (State.onHusk s id psn h).1 := by
  unfold State.onHusk
  repeat'
    first
    | with_reducible assumption
    | with_reducible apply State.loadHusk_keeps
    | with_reducible refine State.inSec_keeps ?_ ?_ ?_ ?_
    | exact List.prefix_refl _
    | exact Nat.le_refl _
    | split

theorem State.onHuskRemove_keeps {s0 : State} {s : State} {id : Nat} {husk : Digest} (hk : Keeps s0 s) : Keeps s0 (State.onHuskRemove s id husk).1 := by
  unfold State.onHuskRemove
  repeat'
    first
    | with_reducible assumption
    | with_reducible apply State.unbind_keeps
    | split

theorem execPeerLoad_keeps {s0 : State} {dst : Option Nat} {h : Husk} {srcs : List (List HuskChunk)} {s : State} (hk : Keeps s0 s) : KeepsOut s0 (execPeerLoad dst h srcs s) := by
  unfold execPeerLoad
  repeat'
    first
    | with_reducible assumption
    | with_reducible apply KeepsOut.next
    | with_reducible apply State.reject_keeps
    | with_reducible apply State.send_keeps
    | with_reducible apply State.loadHusk_keeps
    | with_reducible refine Keeps.ofFst (by assumption) ?_
    | split

theorem State.fillStation_keeps {s0 : State} {s : State} {h : Digest} {st : Fin 10} (hk : Keeps s0 s) : Keeps s0 (State.fillStation s h st) := by
  unfold State.fillStation
  repeat'
    first
    | with_reducible assumption
    | with_reducible refine State.inSec_keeps ?_ ?_ ?_ ?_
    | exact List.prefix_refl _
    | exact Nat.le_refl _

theorem execMeterRequest_keeps {s0 : State} {st : Fin 10} {s : State} (hk : Keeps s0 s) : KeepsOut s0 (execMeterRequest st s) := by
  unfold execMeterRequest
  repeat'
    first
    | with_reducible assumption
    | with_reducible apply KeepsOut.next
    | with_reducible apply State.fillStation_keeps
    | with_reducible apply State.pumpAll_keeps
    | with_reducible refine State.inSec_keeps ?_ ?_ ?_ ?_
    | exact List.prefix_refl _
    | exact Nat.le_refl _
    | with_reducible apply State.journal_keeps
    | split
    | dsimp only

theorem State.reserveDurable_keeps {s0 : State} {s : State} {h : Digest} {total : Nat} (hk : Keeps s0 s) : Keeps s0 (State.reserveDurable s h total) := by
  unfold State.reserveDurable
  repeat'
    first
    | with_reducible assumption
    | with_reducible refine State.inSec_keeps ?_ ?_ ?_ ?_
    | exact List.prefix_refl _
    | exact Nat.le_refl _
    | with_reducible apply State.fillStation_keeps
    | with_reducible apply State.pumpAll_keeps
    | with_reducible refine Keeps.foldl (fun _ _ _ => ?_) ?_
    | split
    | dsimp only

theorem State.onMeterGrant_keeps {s0 : State} {s : State} {id : Nat} {g : Grant} (hk : Keeps s0 s) : Keeps s0 (State.onMeterGrant s id g).1 := by
  unfold State.onMeterGrant
  repeat'
    first
    | with_reducible assumption
    | with_reducible apply State.journal_keeps
    | split
    | dsimp only

theorem State.grantDurable_keeps {s0 : State} {s : State} {h : Digest} {seq limit : Nat} (hk : Keeps s0 s) : Keeps s0 (State.grantDurable s h seq limit) := by
  unfold State.grantDurable
  repeat'
    first
    | with_reducible assumption
    | with_reducible refine State.inSec_keeps ?_ ?_ ?_ ?_
    | exact List.prefix_refl _
    | exact Nat.le_refl _
    | split

end Sys2Proof.Machine
end

