-- ==== Sys2Proof/Laws/KeepsJournal.lean ====
section
/-!
SUPPORT. What the operations of Machine/Journal.lean never change: one lemma for each that answers a state.
-/

namespace Sys2Proof.Machine

theorem State.recordDurable_keeps {s0 : State} {s : State} {r : JnlRec} {burnOk : Bool} (hk : Keeps s0 s) : Keeps s0 (State.recordDurable s r burnOk) := by
  unfold State.recordDurable
  repeat'
    first
    | with_reducible assumption
    | with_reducible apply State.epochDurable_keeps
    | with_reducible apply State.leavesDurable_keeps
    | with_reducible apply State.reserveDurable_keeps
    | with_reducible apply State.grantDurable_keeps
    | with_reducible apply State.manifestDurable_keeps
    | with_reducible refine State.inSec_keeps ?_ ?_ ?_ ?_
    | exact List.prefix_refl _
    | exact Nat.le_refl _
    | split

theorem execJournalDurable_keeps {s0 : State} {burnOk : Bool} {s : State} (hk : Keeps s0 s) : KeepsOut s0 (execJournalDurable burnOk s) := by
  unfold execJournalDurable
  repeat'
    first
    | with_reducible assumption
    | with_reducible apply KeepsOut.next
    | with_reducible apply State.recordDurable_keeps
    | split
    | (fail_if_no_progress (with_reducible apply Keeps.upd))

theorem execCompaction_keeps {s0 : State} {s : State} (hk : Keeps s0 s) : KeepsOut s0 (execCompaction s) := by
  unfold execCompaction
  repeat'
    first
    | with_reducible assumption
    | with_reducible apply KeepsOut.next
    | split
    | (fail_if_no_progress (with_reducible apply Keeps.upd))
    | dsimp only

theorem execCompactionComplete_keeps {s0 : State} {s : State} (hk : Keeps s0 s) : KeepsOut s0 (execCompactionComplete s) := by
  unfold execCompactionComplete
  repeat'
    first
    | with_reducible assumption
    | with_reducible apply KeepsOut.next
    | with_reducible apply State.count_keeps
    | split
    | (fail_if_no_progress (with_reducible apply Keeps.upd))

theorem execHalfEraseComplete_keeps {s0 : State} {s : State} (hk : Keeps s0 s) : KeepsOut s0 (execHalfEraseComplete s) := by
  unfold execHalfEraseComplete
  repeat'
    first
    | with_reducible assumption
    | with_reducible apply KeepsOut.next
    | split
    | (fail_if_no_progress (with_reducible apply Keeps.upd))

theorem State.replayRec_keeps {s0 : State} {s : State} {r : JnlRec} (hk : Keeps s0 s) : Keeps s0 (State.replayRec s r) := by
  unfold State.replayRec
  repeat'
    first
    | with_reducible assumption
    | with_reducible refine State.inSec_keeps ?_ ?_ ?_ ?_
    | exact List.prefix_refl _
    | exact Nat.le_refl _
    | with_reducible apply State.setJob_keeps
    | split

theorem State.replay_keeps {s0 : State} {s : State} {torn : Bool} (hk : Keeps s0 s) : Keeps s0 (State.replay s torn).1 := by
  unfold State.replay
  repeat'
    first
    | with_reducible assumption
    | with_reducible apply State.replayRec_keeps
    | with_reducible apply State.count_keeps
    | with_reducible apply State.report_keeps
    | with_reducible refine Keeps.foldl (fun _ _ _ => ?_) ?_
    | split
    | (fail_if_no_progress (with_reducible apply Keeps.upd))
    | dsimp only

end Sys2Proof.Machine
end

