-- ==== Sys2Proof/Laws/KeepsUpdate.lean ====
section
/-!
SUPPORT. What the operations of Machine/Update.lean never change: one lemma for each that answers a state.
-/

namespace Sys2Proof.Machine

theorem State.putWeight_keeps {s0 : State} {s : State} {c : Fin 8} {base : Nat} {u : UpdRec} {step i w : Nat} (hk : Keeps s0 s) : Keeps s0 (State.putWeight s c base u step i w) := by
  unfold State.putWeight
  repeat'
    first
    | with_reducible assumption
    | with_reducible apply State.capture_keeps
    | split
    | (fail_if_no_progress (with_reducible refine Keeps.updMem (fun w => ?_) ?_))
    | with_reducible apply memPutLe_wf
    | with_reducible apply memPut_wf

theorem State.moveWeight_keeps {s0 : State} {s : State} {from_ to_ : Nat} {u : UpdRec} {i : Nat} (h : Keeps s0 s) :
    Keeps s0 (State.moveWeight s from_ to_ u i) := by
  unfold State.moveWeight
  refine Keeps.updMem (fun w => ?_) h
  split
  · exact memPutBytes_wf w
  · exact memPutBytes_wf (memPutBytes_wf w)

theorem State.putMoment_keeps {s0 : State} {s : State} {u : UpdRec} {nmom : Nat} {bank : Bool} {i n : Nat} {v : Num} (hk : Keeps s0 s) : Keeps s0 (State.putMoment s u nmom bank i n v) := by
  unfold State.putMoment
  repeat'
    first
    | with_reducible assumption
    | split
    | (fail_if_no_progress (with_reducible refine Keeps.updMem (fun w => ?_) ?_))
    | with_reducible apply memPutLe_wf

theorem State.fuuOne_keeps {s0 : State} {s : State} {r : ExchRec} {st : StageRec} {u : UpdRec} {b : BucketRec} {sum : SumSt} {cur shadow : Fin 2} {k : Nat}
    (h : Keeps s0 s) : Keeps s0 (State.fuuOne s r st u b sum cur shadow k).1 := by
  unfold State.fuuOne
  exact Keeps.iteFst (State.moveWeight_keeps h) (State.putMoment_keeps (State.putMoment_keeps (State.putWeight_keeps h)))

theorem State.markNf_keeps {s0 : State} {s : State} {c : Fin 8} {update : Bool} (hk : Keeps s0 s) : Keeps s0 (State.markNf s c update) := by
  unfold State.markNf
  repeat'
    first
    | with_reducible assumption
    | with_reducible apply State.markNfGrad_keeps
    | with_reducible apply State.setJob_keeps
    | split

theorem State.fuuBucket_keeps {s0 : State} {s : State} {r : ExchRec} {sum : SumSt} {rest : List SumSt} (hk : Keeps s0 s) : Keeps s0 (State.fuuBucket s r sum rest) := by
  unfold State.fuuBucket
  repeat'
    first
    | with_reducible assumption
    | with_reducible apply State.setStage_keeps
    | with_reducible apply State.fuuOne_keeps
    | with_reducible apply State.setExch_keeps
    | with_reducible apply State.markNf_keeps
    | with_reducible apply State.sendParam_keeps
    | with_reducible apply State.bumpEntry_keeps
    | with_reducible apply State.settleLeaves_keeps
    | with_reducible apply State.tryReadyCtx_keeps
    | with_reducible refine Keeps.foldl (fun _ _ _ => ?_) ?_
    | with_reducible refine Keeps.foldlFst (fun _ _ _ => ?_) ?_
    | split
    | dsimp only

theorem State.fuuSparse_keeps {s0 : State} {s : State} {r : ExchRec} (hk : Keeps s0 s) : Keeps s0 (State.fuuSparse s r) := by
  unfold State.fuuSparse
  repeat'
    first
    | with_reducible assumption
    | with_reducible apply State.setExch_keeps
    | with_reducible apply State.markNf_keeps
    | with_reducible apply State.tryReadyCtx_keeps
    | split
    | (fail_if_no_progress (with_reducible apply Keeps.upd))
    | dsimp only

theorem execFuuUpdate_keeps {s0 : State} {chan : Nat} {s : State} (hk : Keeps s0 s) : KeepsOut s0 (execFuuUpdate chan s) := by
  unfold execFuuUpdate
  repeat'
    first
    | with_reducible assumption
    | with_reducible apply KeepsOut.next
    | with_reducible apply State.fuuSparse_keeps
    | with_reducible apply State.fuuBucket_keeps
    | split

theorem State.restoreChunk_keeps {s0 : State} {s : State} {r : ExchRec} {st : StageRec} {u : UpdRec} {b : BucketRec} {c : ParamChunk} (hk : Keeps s0 s) : Keeps s0 (State.restoreChunk s r st u b c) := by
  unfold State.restoreChunk
  repeat'
    first
    | with_reducible assumption
    | with_reducible apply State.sendParam_keeps
    | with_reducible refine Keeps.foldl (fun _ _ _ => ?_) ?_
    | split
    | (fail_if_no_progress (with_reducible refine Keeps.updMem (fun w => ?_) ?_))
    | with_reducible apply memPutLe_wf
    | with_reducible apply memPut_wf
    | with_reducible refine foldl_wf (fun _ _ _ => ?_) _ ?_

theorem execParameterChunk_keeps {s0 : State} {m : Sent ParamChunk} {s : State} (hk : Keeps s0 s) : KeepsOut s0 (execParameterChunk m s) := by
  unfold execParameterChunk
  repeat'
    first
    | with_reducible assumption
    | with_reducible apply KeepsOut.next
    | with_reducible apply State.sendParam_keeps
    | with_reducible apply State.restoreChunk_keeps
    | with_reducible apply State.faultCtx_keeps
    | with_reducible apply State.pumpAll_keeps
    | with_reducible apply State.setStage_keeps
    | with_reducible apply State.putWeight_keeps
    | with_reducible apply State.setExch_keeps
    | with_reducible apply State.bumpEntry_keeps
    | with_reducible apply State.tryReadyCtx_keeps
    | with_reducible refine Keeps.foldl (fun _ _ _ => ?_) ?_
    | split
    | dsimp only

theorem execSparseList_keeps {s0 : State} {chan : Nat} {l : SparseList} {s : State} (hk : Keeps s0 s) : KeepsOut s0 (execSparseList chan l s) := by
  unfold execSparseList
  repeat'
    first
    | with_reducible assumption
    | with_reducible apply KeepsOut.next
    | with_reducible apply State.faultCtx_keeps
    | with_reducible apply State.pumpAll_keeps
    | with_reducible apply State.setExch_keeps
    | with_reducible apply State.enterSparse_keeps
    | split
    | dsimp only

theorem execRowShadowCopyComplete_keeps {s0 : State} {table : Nat} {s : State} (hk : Keeps s0 s) : KeepsOut s0 (execRowShadowCopyComplete table s) := by
  unfold execRowShadowCopyComplete
  repeat'
    first
    | with_reducible assumption
    | with_reducible apply KeepsOut.next
    | split
    | (fail_if_no_progress (with_reducible apply Keeps.upd))

end Sys2Proof.Machine
end

