-- ==== Sys2Proof/Laws/KeepsRestart.lean ====
section
/-!
SUPPORT. What the operations of Machine/Restart.lean never change: one lemma for each that answers a state.
-/

namespace Sys2Proof.Machine

theorem State.coordFault_keeps {s0 : State} {s : State} {j : JobRec} {f : FaultRec} (hk : Keeps s0 s) : Keeps s0 (State.coordFault s j f) := by
  unfold State.coordFault
  repeat'
    first
    | with_reducible assumption
    | with_reducible apply State.setJob_keeps
    | split
    | (fail_if_no_progress (with_reducible apply Keeps.upd))

theorem execFaultNotice_keeps {s0 : State} {from_ job attempt : Nat} {f : FaultRec} {s : State} (hk : Keeps s0 s) : KeepsOut s0 (execFaultNotice from_ job attempt f s) := by
  unfold execFaultNotice
  repeat'
    first
    | with_reducible assumption
    | with_reducible apply KeepsOut.next
    | with_reducible apply State.count_keeps
    | with_reducible apply State.haltJob_keeps
    | with_reducible apply State.setJob_keeps
    | with_reducible apply State.coordFault_keeps
    | with_reducible apply State.pumpAll_keeps
    | with_reducible apply State.send_keeps
    | with_reducible apply State.reportHalt_keeps
    | split
    | dsimp only

theorem State.stopJob_keeps {s0 : State} {s : State} {j : JobRec} {code : Nat} {lost : List Nat} {a : Assignment} (hk : Keeps s0 s) : Keeps s0 (State.stopJob s j code lost a) := by
  unfold State.stopJob
  repeat'
    first
    | with_reducible assumption
    | with_reducible apply State.setJob_keeps
    | with_reducible apply State.send_keeps
    | with_reducible apply State.report_keeps

theorem State.failRestore_keeps {s0 : State} {s : State} {j : JobRec} {code : Nat} (hk : Keeps s0 s) : Keeps s0 (State.failRestore s j code) := by
  unfold State.failRestore
  repeat'
    first
    | with_reducible assumption
    | with_reducible apply State.stopJob_keeps
    | with_reducible apply State.setJob_keeps
    | with_reducible apply State.send_keeps
    | split

theorem State.sendHosted_keeps {s0 : State} {s : State} {j : JobRec} {a : Assignment} (hk : Keeps s0 s) : Keeps s0 (State.sendHosted s j a) := by
  unfold State.sendHosted
  repeat'
    first
    | with_reducible assumption
    | with_reducible apply State.send_keeps

theorem State.takeAssign_keeps {s0 : State} {s : State} {j : JobRec} {a : Assignment} (hk : Keeps s0 s) : Keeps s0 (State.takeAssign s j a) := by
  unfold State.takeAssign
  repeat'
    first
    | with_reducible assumption
    | with_reducible apply State.setJob_keeps
    | with_reducible apply State.sendHosted_keeps
    | split
    | (fail_if_no_progress (with_reducible apply Keeps.upd))
    | dsimp only

theorem State.assignPhase_keeps {s0 : State} {s : State} {j : JobRec} {auto first : Bool} {q : RestartReq} (hk : Keeps s0 s) : Keeps s0 (State.assignPhase s j auto first q) := by
  unfold State.assignPhase
  repeat'
    first
    | with_reducible assumption
    | with_reducible apply State.setJob_keeps
    | with_reducible apply State.stopJob_keeps
    | with_reducible apply State.takeAssign_keeps
    | with_reducible apply State.send_keeps
    | split
    | dsimp only

theorem State.trySettle_keeps {s0 : State} {s : State} {j : JobRec} (hk : Keeps s0 s) : Keeps s0 (State.trySettle s j) := by
  unfold State.trySettle
  repeat'
    first
    | with_reducible assumption
    | with_reducible apply State.assignPhase_keeps
    | split
    | dsimp only

theorem execHaltedReport_keeps {s0 : State} {r : HaltedRep} {s : State} (hk : Keeps s0 s) : KeepsOut s0 (execHaltedReport r s) := by
  unfold execHaltedReport
  repeat'
    first
    | with_reducible assumption
    | with_reducible apply KeepsOut.next
    | with_reducible apply State.setJob_keeps
    | with_reducible apply State.trySettle_keeps
    | split
    | dsimp only

theorem execHaltSettle_keeps {s0 : State} {job : Nat} {m : SettleMsg} {s : State} (hk : Keeps s0 s) : KeepsOut s0 (execHaltSettle job m s) := by
  unfold execHaltSettle
  repeat'
    first
    | with_reducible assumption
    | with_reducible apply KeepsOut.next
    | with_reducible apply State.trySettle_keeps
    | with_reducible apply State.takeAssign_keeps
    | with_reducible apply State.failRestore_keeps
    | with_reducible apply State.setJob_keeps
    | split
    | dsimp only

theorem State.onRestart_keeps {s0 : State} {s : State} {job : Nat} {replay : Bool} {vEnd : Nat} {ext : Option Nat} {excl : List Exclusion} (hk : Keeps s0 s) : Keeps s0 (State.onRestart s job replay vEnd ext excl).1 := by
  unfold State.onRestart
  repeat'
    first
    | with_reducible assumption
    | with_reducible apply State.setJob_keeps
    | with_reducible apply State.assignPhase_keeps
    | split

theorem putSecs_wf {m : List Host.Cell} {l : List PartSec} {b : List Byte} (w : Memory.wf m = true) : Memory.wf (putSecs m l b).1 = true := by
  induction l generalizing m b with
  | nil => exact w
  | cons x r ih =>
    unfold putSecs
    split
    · exact w
    · exact ih (foldl_wf (fun _ _ w => memPut_wf w) _ w)

theorem State.reformCopies_keeps {s0 : State} {s : State} {j : JobRec} (hk : Keeps s0 s) : Keeps s0 (State.reformCopies s j) := by
  unfold State.reformCopies
  repeat'
    first
    | with_reducible assumption
    | with_reducible refine Keeps.foldl (fun _ _ _ => ?_) ?_
    | split
    | (fail_if_no_progress (with_reducible refine Keeps.updMem (fun w => ?_) ?_))
    | with_reducible apply memPut_wf
    | with_reducible refine foldl_wf (fun _ _ _ => ?_) _ ?_

theorem State.toSlot0_keeps {s0 : State} {s : State} {r : StageRec} (hk : Keeps s0 s) : Keeps s0 (State.toSlot0 s r) := by
  unfold State.toSlot0
  repeat'
    first
    | with_reducible assumption
    | split
    | (fail_if_no_progress (with_reducible refine Keeps.updMem (fun w => ?_) ?_))
    | with_reducible apply memPutBytes_wf

theorem State.clearUnits_keeps {s0 : State} {s : State} {c : Fin 8} (h : Keeps s0 s) : Keeps s0 (State.clearUnits s c) := by
  unfold State.clearUnits
  refine Keeps.updCores (fun k0 e he i => ?_) h
  obtain ⟨e0, h0, rfl⟩ := List.mem_map.1 he
  exact set_ok (k0 e0 h0) (CtxSt.init_ok (vl := BitVec.ofNat 8 (lanesOf e0.1)) (halted := true)) i

theorem State.clearCtx_keeps {s0 : State} {s : State} {c : Fin 8} (hk : Keeps s0 s) : Keeps s0 (State.clearCtx s c) := by
  unfold State.clearCtx
  repeat'
    first
    | with_reducible assumption
    | with_reducible apply State.clearUnits_keeps
    | with_reducible apply State.freeSample_keeps
    | with_reducible refine Keeps.foldl (fun _ _ _ => ?_) ?_
    | split
    | dsimp only

theorem State.broadcast_keeps {s0 : State} {s : State} {j : JobRec} {v : Nat} (hk : Keeps s0 s) : Keeps s0 (State.broadcast s j v) := by
  unfold State.broadcast
  repeat'
    first
    | with_reducible assumption
    | with_reducible apply State.sendParam_keeps
    | with_reducible refine Keeps.foldl (fun _ _ _ => ?_) ?_
    | split

theorem State.setStages_keeps {s0 : State} {s : State} {j : JobRec} {v : Nat} (hk : Keeps s0 s) : Keeps s0 (State.setStages s j v) := by
  unfold State.setStages
  repeat'
    first
    | with_reducible assumption
    | with_reducible apply State.setStage_keeps
    | with_reducible refine Keeps.foldl (fun _ _ _ => ?_) ?_

theorem State.clearJob_keeps {s0 : State} {s : State} {j : JobRec} (hk : Keeps s0 s) : Keeps s0 (State.clearJob s j) := by
  unfold State.clearJob
  repeat'
    first
    | with_reducible assumption
    | with_reducible apply State.clearCtx_keeps
    | with_reducible refine Keeps.foldl (fun _ _ _ => ?_) ?_

theorem State.restoreInitial_keeps {s0 : State} {s : State} {j : JobRec} (hk : Keeps s0 s) : Keeps s0 (State.restoreInitial s j) := by
  unfold State.restoreInitial
  repeat'
    first
    | with_reducible assumption
    | with_reducible apply State.toSlot0_keeps
    | with_reducible apply State.setStages_keeps
    | with_reducible apply State.loadLowRank_keeps
    | with_reducible apply State.setJob_keeps
    | with_reducible apply State.clearJob_keeps
    | with_reducible apply State.broadcast_keeps
    | with_reducible refine Keeps.foldl (fun _ _ _ => ?_) ?_

theorem State.restoreVersion_keeps {s0 : State} {s : State} {j : JobRec} {src : RestoreSrc} {v : Nat} (hk : Keeps s0 s) : Keeps s0 (State.restoreVersion s j src v).1 := by
  unfold State.restoreVersion
  repeat'
    first
    | with_reducible assumption
    | with_reducible apply State.setStages_keeps
    | with_reducible apply State.setJob_keeps
    | with_reducible apply State.countCtx_keeps
    | with_reducible apply State.journal_keeps
    | with_reducible apply State.reformCopies_keeps
    | with_reducible apply State.clearJob_keeps
    | with_reducible apply State.broadcast_keeps
    | with_reducible apply putSecs_wf
    | with_reducible refine Keeps.foldl (fun _ _ _ => ?_) ?_
    | split
    | (fail_if_no_progress (with_reducible refine Keeps.updMem (fun w => ?_) ?_))

theorem State.restore_keeps {s0 : State} {s : State} {j : JobRec} {src : RestoreSrc} {q : State × Bool} (e : State.restore s j src = some q) (h : Keeps s0 s) :
    Keeps s0 q.1 := by
  unfold State.restore at e
  split at e
  · cases e
  · split at e
    · cases e; exact State.restoreInitial_keeps h
    · split at e
      · cases e
      · cases e; exact State.restoreVersion_keeps h

theorem State.restartDone_keeps {s0 : State} {s : State} {j : JobRec} (hk : Keeps s0 s) : Keeps s0 (State.restartDone s j) := by
  unfold State.restartDone
  repeat'
    first
    | with_reducible assumption
    | with_reducible apply State.setJob_keeps
    | with_reducible apply State.report_keeps
    | split
    | dsimp only

theorem State.restoredAt_keeps {s0 : State} {s : State} {j : JobRec} {from_ : Nat} {recovery : Bool} (hk : Keeps s0 s) : Keeps s0 (State.restoredAt s j from_ recovery) := by
  unfold State.restoredAt
  repeat'
    first
    | with_reducible assumption
    | with_reducible apply State.setJob_keeps
    | with_reducible apply State.restartDone_keeps
    | split
    | dsimp only

theorem execRestoreComplete_keeps {s0 : State} {job from_ : Nat} {src : RestoreSrc} {recovery : Bool} {s : State} (h : Keeps s0 s) :
    KeepsOut s0 (execRestoreComplete job from_ src recovery s) := by
  unfold execRestoreComplete
  refine KeepsOut.next ?_
  split
  · exact h
  · dsimp only
    split
    · split
      · exact h
      · split
        · exact State.failRestore_keeps h
        · rename_i e
          have h1 := State.restore_keeps e h
          apply State.offerStart_keeps
          split
          · exact State.restoredAt_keeps h1
          · exact State.send_keeps h1
    · split
      · exact State.restoredAt_keeps h
      · exact h

theorem execRestoreTimeout_keeps {s0 : State} {job : Nat} {s : State} (hk : Keeps s0 s) : KeepsOut s0 (execRestoreTimeout job s) := by
  unfold execRestoreTimeout
  repeat'
    first
    | with_reducible assumption
    | with_reducible apply KeepsOut.next
    | with_reducible apply State.failRestore_keeps
    | split
    | dsimp only

end Sys2Proof.Machine
end

