-- ==== Sys2Proof/Laws/KeepsBoot.lean ====
section
/-!
SUPPORT. What the operations of Machine/Boot.lean never change: one lemma for each that answers a state.
-/

namespace Sys2Proof.Machine

theorem State.rejectBanks_keeps {s0 : State} {s : State} {codes : List Nat} (hk : Keeps s0 s) : Keeps s0 (State.rejectBanks s codes) := by
  unfold State.rejectBanks
  repeat'
    first
    | with_reducible assumption
    | with_reducible apply State.reject_keeps
    | with_reducible refine Keeps.foldl (fun _ _ _ => ?_) ?_
    | split

theorem State.afterReset_keeps {s0 : State} {s : State} {dev : DevState} (h : Keeps s0 s) : Keeps s0 (State.afterReset s dev) :=
  h.trans ⟨rfl, fun _ => ⟨rfl, fun _ he => nomatch he⟩, rfl, List.prefix_refl _, List.prefix_refl _, Nat.le_refl _, Nat.le_refl _⟩

theorem State.bootStop_keeps {s0 : State} {s : State} {code : Nat} (hk : Keeps s0 s) : Keeps s0 (State.bootStop s code) := by
  unfold State.bootStop
  repeat'
    first
    | with_reducible assumption
    | with_reducible apply State.report_keeps
    | (fail_if_no_progress (with_reducible apply Keeps.upd))

theorem State.masterEnum_keeps {s0 : State} {s : State} (hk : Keeps s0 s) : Keeps s0 (State.masterEnum s) := by
  unfold State.masterEnum
  repeat'
    first
    | with_reducible assumption
    | with_reducible apply State.send_keeps
    | split
    | (fail_if_no_progress (with_reducible apply Keeps.upd))

theorem State.boot_keeps {s0 : State} {s : State} {torn : Bool} (hk : Keeps s0 s) : Keeps s0 (State.boot s torn) := by
  unfold State.boot
  repeat'
    first
    | with_reducible assumption
    | with_reducible apply State.bootStop_keeps
    | with_reducible apply State.rejectBanks_keeps
    | with_reducible apply State.replay_keeps
    | with_reducible apply State.journal_keeps
    | with_reducible apply State.masterEnum_keeps
    | split
    | (fail_if_no_progress (with_reducible apply Keeps.updSec))
    | dsimp only

theorem State.internalRestart_keeps {s0 : State} {s : State} (hk : Keeps s0 s) : Keeps s0 (State.internalRestart s) := by
  unfold State.internalRestart
  repeat'
    first
    | with_reducible assumption
    | with_reducible apply State.afterReset_keeps
    | with_reducible apply State.boot_keeps
    | (fail_if_no_progress (with_reducible apply Keeps.upd))

theorem State.powerOff_keeps {s0 : State} {s : State} (hk : Keeps s0 s) : Keeps s0 (State.powerOff s) := by
  unfold State.powerOff
  repeat'
    first
    | with_reducible assumption
    | with_reducible apply State.afterReset_keeps
    | (fail_if_no_progress (with_reducible apply Keeps.upd))

theorem State.powerOn_keeps {s0 : State} {s : State} (hk : Keeps s0 s) : Keeps s0 (State.powerOn s) := by
  unfold State.powerOn
  repeat'
    first
    | with_reducible assumption
    | split
    | (fail_if_no_progress (with_reducible apply Keeps.upd))

theorem execPwrEnRise_keeps {s0 : State} {lowMs : Nat} {s : State} (hk : Keeps s0 s) : KeepsOut s0 (execPwrEnRise lowMs s) := by
  unfold execPwrEnRise
  repeat'
    first
    | with_reducible assumption
    | with_reducible apply KeepsOut.next
    | with_reducible apply State.powerOn_keeps
    | (fail_if_no_progress (with_reducible apply Keeps.upd))

theorem execPwrEnFall_keeps {s0 : State} {s : State} (hk : Keeps s0 s) : KeepsOut s0 (execPwrEnFall s) := by
  unfold execPwrEnFall
  repeat'
    first
    | with_reducible assumption
    | with_reducible apply KeepsOut.next
    | with_reducible apply State.powerOff_keeps
    | (fail_if_no_progress (with_reducible apply Keeps.upd))

theorem execVinOutOfRange_keeps {s0 : State} {s : State} (hk : Keeps s0 s) : KeepsOut s0 (execVinOutOfRange s) := by
  unfold execVinOutOfRange
  repeat'
    first
    | with_reducible assumption
    | with_reducible apply KeepsOut.next
    | with_reducible apply State.powerOff_keeps
    | (fail_if_no_progress (with_reducible apply Keeps.upd))

theorem execVinRecovery_keeps {s0 : State} {s : State} (hk : Keeps s0 s) : KeepsOut s0 (execVinRecovery s) := by
  unfold execVinRecovery
  repeat'
    first
    | with_reducible assumption
    | with_reducible apply KeepsOut.next
    | with_reducible apply State.powerOn_keeps
    | (fail_if_no_progress (with_reducible apply Keeps.upd))

theorem execResetNAssert_keeps {s0 : State} {s : State} (hk : Keeps s0 s) : KeepsOut s0 (execResetNAssert s) := by
  unfold execResetNAssert
  repeat'
    first
    | with_reducible assumption
    | with_reducible apply KeepsOut.next
    | with_reducible apply State.afterReset_keeps
    | split
    | (fail_if_no_progress (with_reducible apply Keeps.upd))

theorem execResetNRise_keeps {s0 : State} {st : Straps} {nvmPresN torn : Bool} {s : State} (hk : Keeps s0 s) : KeepsOut s0 (execResetNRise st nvmPresN torn s) := by
  unfold execResetNRise
  repeat'
    first
    | with_reducible assumption
    | with_reducible apply KeepsOut.next
    | with_reducible apply State.boot_keeps
    | split
    | (fail_if_no_progress (with_reducible apply Keeps.upd))
    | dsimp only

theorem execPwrcapNFall_keeps {s0 : State} {s : State} (hk : Keeps s0 s) : KeepsOut s0 (execPwrcapNFall s) := by
  unfold execPwrcapNFall
  repeat'
    first
    | with_reducible assumption
    | with_reducible apply KeepsOut.next
    | (fail_if_no_progress (with_reducible apply Keeps.upd))

theorem execPwrcapNRise_keeps {s0 : State} {s : State} (hk : Keeps s0 s) : KeepsOut s0 (execPwrcapNRise s) := by
  unfold execPwrcapNRise
  repeat'
    first
    | with_reducible assumption
    | with_reducible apply KeepsOut.next
    | (fail_if_no_progress (with_reducible apply Keeps.upd))

theorem execThermAlert_keeps {s0 : State} {s : State} (hk : Keeps s0 s) : KeepsOut s0 (execThermAlert s) := by
  unfold execThermAlert
  repeat'
    first
    | with_reducible assumption
    | with_reducible apply KeepsOut.next
    | split
    | (fail_if_no_progress (with_reducible apply Keeps.upd))

theorem execThermAlertRelease_keeps {s0 : State} {s : State} (hk : Keeps s0 s) : KeepsOut s0 (execThermAlertRelease s) := by
  unfold execThermAlertRelease
  repeat'
    first
    | with_reducible assumption
    | with_reducible apply KeepsOut.next
    | (fail_if_no_progress (with_reducible apply Keeps.upd))

theorem execThermalTrip_keeps {s0 : State} {idx : Nat} {s : State} (hk : Keeps s0 s) : KeepsOut s0 (execThermalTrip idx s) := by
  unfold execThermalTrip
  repeat'
    first
    | with_reducible assumption
    | with_reducible apply KeepsOut.next
    | with_reducible apply State.faultDevice_keeps
    | split
    | (fail_if_no_progress (with_reducible apply Keeps.upd))

theorem execThermalShutdown_keeps {s0 : State} {s : State} (hk : Keeps s0 s) : KeepsOut s0 (execThermalShutdown s) := by
  unfold execThermalShutdown
  repeat'
    first
    | with_reducible assumption
    | with_reducible apply KeepsOut.next
    | with_reducible apply State.powerOff_keeps
    | (fail_if_no_progress (with_reducible apply Keeps.upd))

theorem execHbmUncorrectable_keeps {s0 : State} {addr : Nat} {s : State} (hk : Keeps s0 s) : KeepsOut s0 (execHbmUncorrectable addr s) := by
  unfold execHbmUncorrectable
  repeat'
    first
    | with_reducible assumption
    | with_reducible apply KeepsOut.next
    | with_reducible apply State.faultDevice_keeps
    | split

theorem execSramUncorrectable_keeps {s0 : State} {unit : Nat} {s : State} (hk : Keeps s0 s) : KeepsOut s0 (execSramUncorrectable unit s) := by
  unfold execSramUncorrectable
  repeat'
    first
    | with_reducible assumption
    | with_reducible apply KeepsOut.next
    | with_reducible apply State.faultDevice_keeps
    | split

theorem State.loadPlan_keeps {s0 : State} {s : State} {p : Plan} {entry : Nat} (hk : Keeps s0 s) : Keeps s0 (State.loadPlan s p entry) := by
  unfold State.loadPlan
  repeat'
    first
    | with_reducible assumption
    | with_reducible apply State.loadLowRank_keeps
    | (fail_if_no_progress (with_reducible refine Keeps.updMem (fun w => ?_) ?_))
    | with_reducible apply memPutBytes_wf
    | with_reducible refine foldl_wf (fun _ _ _ => ?_) _ ?_

theorem State.dropPlan_keeps {s0 : State} {s : State} (h : Keeps s0 s) : Keeps s0 (State.dropPlan s) := by
  unfold State.dropPlan
  exact Keeps.updCores (fun _ _ he => nomatch he) h

theorem State.unloadPlan_keeps {s0 : State} {s : State} {next : Option Plan} (hk : Keeps s0 s) : Keeps s0 (State.unloadPlan s next) := by
  unfold State.unloadPlan
  repeat'
    first
    | with_reducible assumption
    | with_reducible apply State.zeroShare_keeps
    | with_reducible apply State.returnStations_keeps
    | with_reducible apply State.unbind_keeps
    | with_reducible apply State.dropPlan_keeps
    | with_reducible refine Keeps.foldl (fun _ _ _ => ?_) ?_
    | split
    | (fail_if_no_progress (with_reducible refine Keeps.updMem (fun w => ?_) ?_))
    | with_reducible apply memZero_wf

theorem State.loadInitial_keeps {s0 : State} {s : State} (hk : Keeps s0 s) : Keeps s0 (State.loadInitial s) := by
  unfold State.loadInitial
  repeat'
    first
    | with_reducible assumption
    | with_reducible apply State.reject_keeps
    | with_reducible apply State.report_keeps
    | with_reducible apply State.loadPlan_keeps
    | split

theorem State.startPhase1_keeps {s0 : State} {s : State} (hk : Keeps s0 s) : Keeps s0 (State.startPhase1 s) := by
  unfold State.startPhase1
  repeat'
    first
    | with_reducible assumption
    | with_reducible apply State.report_keeps
    | with_reducible apply State.send_keeps
    | split
    | (fail_if_no_progress (with_reducible apply Keeps.upd))

theorem execBootConfigure_keeps {s0 : State} {s : State} (hk : Keeps s0 s) : KeepsOut s0 (execBootConfigure s) := by
  unfold execBootConfigure
  repeat'
    first
    | with_reducible assumption
    | with_reducible apply KeepsOut.next
    | with_reducible apply State.rejectBanks_keeps
    | with_reducible apply State.journal_keeps
    | with_reducible apply State.loadInitial_keeps
    | with_reducible refine State.inSec_keeps ?_ ?_ ?_ ?_
    | exact List.prefix_refl _
    | exact Nat.le_refl _
    | exact Nat.le_max_left _ _
    | with_reducible apply State.startPhase1_keeps
    | split
    | (fail_if_no_progress (with_reducible apply Keeps.upd))
    | dsimp only

theorem execKeyDerivation_keeps {s0 : State} {s : State} (hk : Keeps s0 s) : KeepsOut s0 (execKeyDerivation s) := by
  unfold execKeyDerivation
  repeat'
    first
    | with_reducible assumption
    | with_reducible apply KeepsOut.next
    | with_reducible refine State.inSec_keeps ?_ ?_ ?_ ?_
    | exact List.prefix_refl _
    | exact Nat.le_refl _
    | with_reducible apply State.loadHusk_keeps
    | with_reducible apply State.reject_keeps
    | with_reducible apply State.sendFrame_keeps
    | with_reducible apply State.signAll_keeps
    | with_reducible refine Keeps.foldl (fun _ _ _ => ?_) ?_
    | split

theorem State.onImageBank_keeps {s0 : State} {s : State} {i : Image} (hk : Keeps s0 s) : Keeps s0 (State.onImageBank s i).1 := by
  unfold State.onImageBank
  repeat'
    first
    | with_reducible assumption
    | split
    | (fail_if_no_progress (with_reducible apply Keeps.upd))
    | dsimp only

theorem State.onFwBank_keeps {s0 : State} {s : State} {f : Firmware} (hk : Keeps s0 s) : Keeps s0 (State.onFwBank s f).1 := by
  unfold State.onFwBank
  repeat'
    first
    | with_reducible assumption
    | split
    | (fail_if_no_progress (with_reducible apply Keeps.upd))

theorem State.onPlanSlot_keeps {s0 : State} {s : State} {slot : Nat} {p : Plan} (hk : Keeps s0 s) : Keeps s0 (State.onPlanSlot s slot p).1 := by
  unfold State.onPlanSlot
  repeat'
    first
    | with_reducible assumption
    | split
    | (fail_if_no_progress (with_reducible apply Keeps.upd))

theorem State.writeCode_keeps {s0 : State} {s : State} {code kind : Nat} (hk : Keeps s0 s) : Keeps s0 (State.writeCode s code kind) := by
  unfold State.writeCode
  repeat'
    first
    | with_reducible assumption
    | with_reducible apply State.reject_keeps
    | with_reducible apply State.sendFrame_keeps
    | split

theorem execBankWriteComplete_keeps {s0 : State} {s : State} (hk : Keeps s0 s) : KeepsOut s0 (execBankWriteComplete s) := by
  unfold execBankWriteComplete
  repeat'
    first
    | with_reducible assumption
    | with_reducible apply KeepsOut.next
    | with_reducible apply State.writeCode_keeps
    | with_reducible apply State.internalRestart_keeps
    | split
    | (fail_if_no_progress (with_reducible apply Keeps.upd))
    | dsimp only

theorem State.changePlan_keeps {s0 : State} {s : State} {p : Plan} {k : Nat} (hk : Keeps s0 s) : Keeps s0 (State.changePlan s p k) := by
  unfold State.changePlan
  repeat'
    first
    | with_reducible assumption
    | with_reducible apply State.unloadPlan_keeps
    | with_reducible apply State.loadPlan_keeps
    | with_reducible apply State.startPhase1_keeps
    | (fail_if_no_progress (with_reducible apply Keeps.upd))

theorem State.onSwitch_keeps {s0 : State} {s : State} {entry : Nat} (hk : Keeps s0 s) : Keeps s0 (State.onSwitch s entry).1 := by
  unfold State.onSwitch
  repeat'
    first
    | with_reducible assumption
    | with_reducible apply State.changePlan_keeps
    | split
    | (fail_if_no_progress (with_reducible apply Keeps.upd))
    | dsimp only

theorem State.onDrain_keeps {s0 : State} {s : State} (hk : Keeps s0 s) : Keeps s0 (State.onDrain s).1 := by
  unfold State.onDrain
  repeat'
    first
    | with_reducible assumption
    | split
    | (fail_if_no_progress (with_reducible apply Keeps.upd))

theorem State.onRejoin_keeps {s0 : State} {s : State} (hk : Keeps s0 s) : Keeps s0 (State.onRejoin s).1 := by
  unfold State.onRejoin
  repeat'
    first
    | with_reducible assumption
    | split
    | (fail_if_no_progress (with_reducible apply Keeps.upd))

theorem State.finishDrain_keeps {s0 : State} {s : State} (hk : Keeps s0 s) : Keeps s0 (State.finishDrain s) := by
  unfold State.finishDrain
  repeat'
    first
    | with_reducible assumption
    | with_reducible apply State.endAll_keeps
    | with_reducible apply State.changePlan_keeps
    | with_reducible refine Keeps.foldl (fun _ _ _ => ?_) ?_
    | split
    | (fail_if_no_progress (with_reducible apply Keeps.upd))
    | dsimp only

theorem execDrainComplete_keeps {s0 : State} {s : State} (hk : Keeps s0 s) : KeepsOut s0 (execDrainComplete s) := by
  unfold execDrainComplete
  repeat'
    first
    | with_reducible assumption
    | with_reducible apply KeepsOut.next
    | with_reducible apply State.finishDrain_keeps
    | split

theorem execDrainTimeout_keeps {s0 : State} {s : State} (hk : Keeps s0 s) : KeepsOut s0 (execDrainTimeout s) := by
  unfold execDrainTimeout
  repeat'
    first
    | with_reducible assumption
    | with_reducible apply KeepsOut.next
    | with_reducible apply State.faultCtx_keeps
    | with_reducible apply State.finishDrain_keeps
    | with_reducible refine Keeps.foldl (fun _ _ _ => ?_) ?_
    | split
    | dsimp only

end Sys2Proof.Machine
end

