-- ==== Sys2Proof/Laws/KeepsVine.lean ====
section
/-!
SUPPORT. What the operations of Machine/Vine.lean never change: one lemma for each that answers a state.
-/

namespace Sys2Proof.Machine

theorem State.sendVine_keeps {s0 : State} {s : State} {f : VineFrame} (hk : Keeps s0 s) : Keeps s0 (State.sendVine s f) := by
  unfold State.sendVine
  repeat'
    first
    | with_reducible assumption
    | with_reducible apply State.send_keeps

theorem State.formReport_keeps {s0 : State} {s : State} {code : Nat} {v : List Nat} (hk : Keeps s0 s) : Keeps s0 (State.formReport s code v) := by
  unfold State.formReport
  repeat'
    first
    | with_reducible assumption
    | with_reducible apply State.report_keeps
    | (fail_if_no_progress (with_reducible apply Keeps.upd))

theorem State.gather_keeps {s0 : State} {s : State} (hk : Keeps s0 s) : Keeps s0 (State.gather s) := by
  unfold State.gather
  repeat'
    first
    | with_reducible assumption
    | with_reducible apply State.sendVine_keeps

theorem execEnum_keeps {s0 : State} {f : EnumIn} {s : State} (hk : Keeps s0 s) : KeepsOut s0 (execEnum f s) := by
  unfold execEnum
  repeat'
    first
    | with_reducible assumption
    | with_reducible apply KeepsOut.next
    | with_reducible apply State.formReport_keeps
    | with_reducible apply State.sendVine_keeps
    | with_reducible apply State.gather_keeps
    | split
    | (fail_if_no_progress (with_reducible apply Keeps.upd))
    | dsimp only

theorem execStrap_keeps {s0 : State} {entries : List Straps} {s : State} (hk : Keeps s0 s) : KeepsOut s0 (execStrap entries s) := by
  unfold execStrap
  repeat'
    first
    | with_reducible assumption
    | with_reducible apply KeepsOut.next
    | with_reducible apply State.formReport_keeps
    | with_reducible apply State.sendVine_keeps
    | with_reducible refine Keeps.foldl (fun _ _ _ => ?_) ?_
    | split
    | (fail_if_no_progress (with_reducible apply Keeps.upd))
    | dsimp only

theorem State.beginXfer_keeps {s0 : State} {s : State} (hk : Keeps s0 s) : Keeps s0 (State.beginXfer s) := by
  unfold State.beginXfer
  repeat'
    first
    | with_reducible assumption
    | with_reducible apply State.sendVine_keeps
    | split
    | (fail_if_no_progress (with_reducible apply Keeps.upd))
    | dsimp only

theorem execVineState_keeps {s0 : State} {entries : List Nat} {s : State} (hk : Keeps s0 s) : KeepsOut s0 (execVineState entries s) := by
  unfold execVineState
  repeat'
    first
    | with_reducible assumption
    | with_reducible apply KeepsOut.next
    | with_reducible apply State.beginXfer_keeps
    | with_reducible apply State.sendVine_keeps
    | split
    | (fail_if_no_progress (with_reducible apply Keeps.upd))

theorem execEbeat_keeps {s0 : State} {count : Nat} {s : State} (hk : Keeps s0 s) : KeepsOut s0 (execEbeat count s) := by
  unfold execEbeat
  repeat'
    first
    | with_reducible assumption
    | with_reducible apply KeepsOut.next
    | with_reducible apply State.sendVine_keeps
    | split
    | (fail_if_no_progress (with_reducible apply Keeps.upd))

theorem execXfer_keeps {s0 : State} {x : Xfer} {crc : Word} {sig : BankSig} {s : State} (hk : Keeps s0 s) : KeepsOut s0 (execXfer x crc sig s) := by
  unfold execXfer
  repeat'
    first
    | with_reducible assumption
    | with_reducible apply KeepsOut.next
    | with_reducible apply State.beginXfer_keeps
    | with_reducible apply State.sendVine_keeps
    | split
    | (fail_if_no_progress (with_reducible apply Keeps.upd))

theorem State.vineBreak_keeps {s0 : State} {s : State} {j : Nat} (hk : Keeps s0 s) : Keeps s0 (State.vineBreak s j) := by
  unfold State.vineBreak
  repeat'
    first
    | with_reducible assumption
    | with_reducible apply State.formReport_keeps
    | (fail_if_no_progress (with_reducible apply Keeps.upd))

theorem execEnumTimeout_keeps {s0 : State} {s : State} (hk : Keeps s0 s) : KeepsOut s0 (execEnumTimeout s) := by
  unfold execEnumTimeout
  repeat'
    first
    | with_reducible assumption
    | with_reducible apply KeepsOut.next
    | with_reducible apply State.vineBreak_keeps
    | with_reducible apply State.sendVine_keeps
    | split
    | (fail_if_no_progress (with_reducible apply Keeps.upd))

theorem execEnumRepeat_keeps {s0 : State} {s : State} (hk : Keeps s0 s) : KeepsOut s0 (execEnumRepeat s) := by
  unfold execEnumRepeat
  repeat'
    first
    | with_reducible assumption
    | with_reducible apply KeepsOut.next
    | with_reducible apply State.vineBreak_keeps
    | with_reducible apply State.sendVine_keeps
    | split
    | (fail_if_no_progress (with_reducible apply Keeps.upd))

theorem execPing_keeps {s0 : State} {j : Nat} {s : State} (hk : Keeps s0 s) : KeepsOut s0 (execPing j s) := by
  unfold execPing
  repeat'
    first
    | with_reducible assumption
    | with_reducible apply KeepsOut.next
    | with_reducible apply State.sendVine_keeps
    | with_reducible apply State.send_keeps
    | split

theorem execPodFaultN_keeps {s0 : State} {cycles start : Nat} {s : State} (hk : Keeps s0 s) : KeepsOut s0 (execPodFaultN cycles start s) := by
  unfold execPodFaultN
  repeat'
    first
    | with_reducible assumption
    | with_reducible apply KeepsOut.next
    | with_reducible apply State.vineBreak_keeps
    | with_reducible apply State.sendVine_keeps
    | split
    | (fail_if_no_progress (with_reducible apply Keeps.upd))
    | dsimp only

theorem execJoinableLimit_keeps {s0 : State} {s : State} (hk : Keeps s0 s) : KeepsOut s0 (execJoinableLimit s) := by
  unfold execJoinableLimit
  repeat'
    first
    | with_reducible assumption
    | with_reducible apply KeepsOut.next
    | with_reducible apply State.formReport_keeps
    | split
    | (fail_if_no_progress (with_reducible apply Keeps.upd))
    | dsimp only

end Sys2Proof.Machine
end

