-- ==== Sys2Proof/Laws/KeepsFormation.lean ====
section
/-!
SUPPORT. What the operations of Machine/Formation.lean never change: one lemma for each that answers a state.
-/

namespace Sys2Proof.Machine

theorem State.setPort_keeps {s0 : State} {s : State} {key : Nat} {x : PortSt} (hk : Keeps s0 s) : Keeps s0 (State.setPort s key x) := by
  unfold State.setPort
  repeat'
    first
    | with_reducible assumption
    | (fail_if_no_progress (with_reducible apply Keeps.upd))

theorem execHelloSend_keeps {s0 : State} {s : State} (hk : Keeps s0 s) : KeepsOut s0 (execHelloSend s) := by
  unfold execHelloSend
  repeat'
    first
    | with_reducible assumption
    | with_reducible apply KeepsOut.next
    | with_reducible apply State.send_keeps
    | split

theorem execHello_keeps {s0 : State} {port lane : Nat} {h : Hello} {s : State} (hk : Keeps s0 s) : KeepsOut s0 (execHello port lane h s) := by
  unfold execHello
  repeat'
    first
    | with_reducible assumption
    | with_reducible apply KeepsOut.next
    | with_reducible apply State.setPort_keeps
    | with_reducible apply State.send_keeps
    | with_reducible apply State.formReport_keeps
    | split
    | (fail_if_no_progress (with_reducible apply Keeps.upd))
    | dsimp only

theorem execLinkDelayProbe_keeps {s0 : State} {port lane roundTrip turnaround : Nat} {s : State} (hk : Keeps s0 s) : KeepsOut s0 (execLinkDelayProbe port lane roundTrip turnaround s) := by
  unfold execLinkDelayProbe
  repeat'
    first
    | with_reducible assumption
    | with_reducible apply KeepsOut.next
    | with_reducible apply State.setPort_keeps
    | with_reducible apply State.formReport_keeps
    | split
    | dsimp only

theorem State.endDiscovery_keeps {s0 : State} {s : State} {away : List Nat} (hk : Keeps s0 s) : Keeps s0 (State.endDiscovery s away) := by
  unfold State.endDiscovery
  repeat'
    first
    | with_reducible assumption
    | with_reducible apply State.setPort_keeps
    | with_reducible apply State.formReport_keeps
    | with_reducible refine Keeps.foldl (fun _ _ _ => ?_) ?_
    | split
    | dsimp only

theorem execLinkDown_keeps {s0 : State} {port lane : Nat} {s : State} (hk : Keeps s0 s) : KeepsOut s0 (execLinkDown port lane s) := by
  unfold execLinkDown
  repeat'
    first
    | with_reducible assumption
    | with_reducible apply KeepsOut.next
    | with_reducible apply State.setPort_keeps
    | with_reducible apply State.faultCtx_keeps
    | with_reducible apply State.pumpAll_keeps
    | with_reducible refine Keeps.foldl (fun _ _ _ => ?_) ?_
    | split
    | dsimp only

theorem State.putJoin_keeps {s0 : State} {s : State} {level i : Nat} {r : JoinRec} (hk : Keeps s0 s) : Keeps s0 (State.putJoin s level i r) := by
  unfold State.putJoin
  repeat'
    first
    | with_reducible assumption
    | (fail_if_no_progress (with_reducible apply Keeps.upd))

theorem State.rootAbsent_keeps {s0 : State} {s : State} (hk : Keeps s0 s) : Keeps s0 (State.rootAbsent s) := by
  unfold State.rootAbsent
  repeat'
    first
    | with_reducible assumption
    | with_reducible apply State.formReport_keeps

theorem State.decidePlot_keeps {s0 : State} {s : State} {t : JoinRec} (hk : Keeps s0 s) : Keeps s0 (State.decidePlot s t) := by
  unfold State.decidePlot
  repeat'
    first
    | with_reducible assumption
    | with_reducible apply State.report_keeps
    | split
    | (fail_if_no_progress (with_reducible apply Keeps.upd))
    | dsimp only

theorem State.tryPlot_keeps {s0 : State} {s : State} (hk : Keeps s0 s) : Keeps s0 (State.tryPlot s) := by
  unfold State.tryPlot
  repeat'
    first
    | with_reducible assumption
    | with_reducible apply State.rootAbsent_keeps
    | with_reducible apply State.decidePlot_keeps
    | split
    | (fail_if_no_progress (with_reducible apply Keeps.upd))
    | dsimp only

theorem State.tryRow_keeps {s0 : State} {s : State} (hk : Keeps s0 s) : Keeps s0 (State.tryRow s) := by
  unfold State.tryRow
  repeat'
    first
    | with_reducible assumption
    | with_reducible apply State.rootAbsent_keeps
    | with_reducible apply State.putJoin_keeps
    | with_reducible apply State.tryPlot_keeps
    | with_reducible apply State.send_keeps
    | split
    | (fail_if_no_progress (with_reducible apply Keeps.upd))
    | dsimp only

theorem State.tryPod_keeps {s0 : State} {s : State} (hk : Keeps s0 s) : Keeps s0 (State.tryPod s) := by
  unfold State.tryPod
  repeat'
    first
    | with_reducible assumption
    | with_reducible apply State.putJoin_keeps
    | with_reducible apply State.tryRow_keeps
    | with_reducible apply State.send_keeps
    | split
    | (fail_if_no_progress (with_reducible apply Keeps.upd))
    | dsimp only

theorem execJoinRecord_keeps {s0 : State} {r : JoinRec} {s : State} (hk : Keeps s0 s) : KeepsOut s0 (execJoinRecord r s) := by
  unfold execJoinRecord
  repeat'
    first
    | with_reducible assumption
    | with_reducible apply KeepsOut.next
    | with_reducible apply State.send_keeps
    | with_reducible apply State.report_keeps
    | with_reducible apply State.putJoin_keeps
    | with_reducible apply State.tryPod_keeps
    | with_reducible apply State.tryRow_keeps
    | with_reducible apply State.tryPlot_keeps
    | split
    | (fail_if_no_progress (with_reducible apply Keeps.upd))

theorem execFormationPhaseStart_keeps {s0 : State} {ph : PhaseStart} {s : State} (hk : Keeps s0 s) : KeepsOut s0 (execFormationPhaseStart ph s) := by
  unfold execFormationPhaseStart
  repeat'
    first
    | with_reducible assumption
    | with_reducible apply KeepsOut.next
    | with_reducible apply State.startPhase1_keeps
    | with_reducible apply State.setPort_keeps
    | with_reducible apply State.send_keeps
    | with_reducible apply State.endDiscovery_keeps
    | with_reducible apply State.putJoin_keeps
    | with_reducible apply State.tryPod_keeps
    | with_reducible refine Keeps.foldl (fun _ _ _ => ?_) ?_
    | split
    | (fail_if_no_progress (with_reducible apply Keeps.upd))
    | dsimp only

theorem execJoinTimeout_keeps {s0 : State} {s : State} (hk : Keeps s0 s) : KeepsOut s0 (execJoinTimeout s) := by
  unfold execJoinTimeout
  repeat'
    first
    | with_reducible assumption
    | with_reducible apply KeepsOut.next
    | with_reducible apply State.report_keeps
    | split
    | (fail_if_no_progress (with_reducible apply Keeps.upd))
    | dsimp only

theorem State.tryAnnounce_keeps {s0 : State} {s : State} (hk : Keeps s0 s) : Keeps s0 (State.tryAnnounce s) := by
  unfold State.tryAnnounce
  repeat'
    first
    | with_reducible assumption
    | with_reducible apply State.send_keeps
    | split
    | (fail_if_no_progress (with_reducible apply Keeps.upd))
    | dsimp only

theorem State.takeLocks_keeps {s0 : State} {s : State} {l : List Nat} (hk : Keeps s0 s) : Keeps s0 (State.takeLocks s l) := by
  unfold State.takeLocks
  repeat'
    first
    | with_reducible assumption
    | with_reducible apply State.send_keeps
    | with_reducible apply State.tryAnnounce_keeps
    | with_reducible refine Keeps.foldl (fun _ _ _ => ?_) ?_
    | split
    | (fail_if_no_progress (with_reducible apply Keeps.upd))

theorem execLockRecord_keeps {s0 : State} {devices : List Nat} {s : State} (hk : Keeps s0 s) : KeepsOut s0 (execLockRecord devices s) := by
  unfold execLockRecord
  repeat'
    first
    | with_reducible assumption
    | with_reducible apply KeepsOut.next
    | with_reducible apply State.takeLocks_keeps
    | split

theorem execAnnouncement_keeps {s0 : State} {a : Announce} {s : State} (hk : Keeps s0 s) : KeepsOut s0 (execAnnouncement a s) := by
  unfold execAnnouncement
  repeat'
    first
    | with_reducible assumption
    | with_reducible apply KeepsOut.next
    | with_reducible apply State.send_keeps
    | split
    | (fail_if_no_progress (with_reducible apply Keeps.upd))
    | dsimp only

theorem State.joinJob_keeps {s0 : State} {s : State} {j : JobRec} (hk : Keeps s0 s) : Keeps s0 (State.joinJob s j) := by
  unfold State.joinJob
  repeat'
    first
    | with_reducible assumption
    | with_reducible apply State.offerStart_keeps
    | with_reducible apply State.assignPhase_keeps
    | with_reducible apply State.setJob_keeps
    | split
    | dsimp only

theorem State.enterJoined_keeps {s0 : State} {s : State} (hk : Keeps s0 s) : Keeps s0 (State.enterJoined s) := by
  unfold State.enterJoined
  repeat'
    first
    | with_reducible assumption
    | with_reducible apply State.setPort_keeps
    | with_reducible apply State.journal_keeps
    | with_reducible apply State.joinJob_keeps
    | with_reducible refine Keeps.foldl (fun _ _ _ => ?_) ?_
    | split
    | (fail_if_no_progress (with_reducible apply Keeps.upd))

theorem execJoinBeat_keeps {s0 : State} {s : State} (hk : Keeps s0 s) : KeepsOut s0 (execJoinBeat s) := by
  unfold execJoinBeat
  repeat'
    first
    | with_reducible assumption
    | with_reducible apply KeepsOut.next
    | with_reducible apply State.enterJoined_keeps
    | split

end Sys2Proof.Machine
end

