-- ==== Sys2Proof/Laws/KeepsBeat.lean ====
section
/-!
SUPPORT. What the operations of Machine/Beat.lean never change: one lemma for each that answers a state.
-/

namespace Sys2Proof.Machine

theorem execPtpSync_keeps {s0 : State} {domain : Nat} {offset : Int} {s : State} (hk : Keeps s0 s) : KeepsOut s0 (execPtpSync domain offset s) := by
  unfold execPtpSync
  repeat'
    first
    | with_reducible assumption
    | with_reducible apply KeepsOut.next
    | split
    | (fail_if_no_progress (with_reducible apply Keeps.upd))

theorem execSourceLockLoss_keeps {s0 : State} {s : State} (hk : Keeps s0 s) : KeepsOut s0 (execSourceLockLoss s) := by
  unfold execSourceLockLoss
  repeat'
    first
    | with_reducible assumption
    | with_reducible apply KeepsOut.next
    | with_reducible apply State.count_keeps
    | split
    | (fail_if_no_progress (with_reducible apply Keeps.upd))

theorem State.sendMarkers_keeps {s0 : State} {s : State} (hk : Keeps s0 s) : Keeps s0 (State.sendMarkers s) := by
  unfold State.sendMarkers
  repeat'
    first
    | with_reducible assumption
    | with_reducible apply State.send_keeps
    | split

theorem State.startBeats_keeps {s0 : State} {s : State} {b phase : Nat} (h : Keeps s0 s) : Keeps s0 (State.startBeats s b phase) := by
  unfold State.startBeats
  have h1 : Keeps s0 (State.takeLocks { s with beat := b, phase, acquired := true, origin := s.addr, form := s.form + 1, bt := { s.bt with source := true, locked := true, depth := 0, lastPri := b, start := none }, formation := { s.formation with phase := 5 } } [s.addr]) := by
    apply State.takeLocks_keeps
    apply Keeps.upd
    exact h
  dsimp only
  split
  · exact State.sendMarkers_keeps h1
  · exact h1

theorem execSourceLock_keeps {s0 : State} {ptpNs : Nat} {s : State} (hk : Keeps s0 s) : KeepsOut s0 (execSourceLock ptpNs s) := by
  unfold execSourceLock
  repeat'
    first
    | with_reducible assumption
    | with_reducible apply KeepsOut.next
    | with_reducible apply State.report_keeps
    | with_reducible apply State.startBeats_keeps
    | split
    | (fail_if_no_progress (with_reducible apply Keeps.upd))

theorem execBeatPpsIn_keeps {s0 : State} {err : Int} {s : State} (hk : Keeps s0 s) : KeepsOut s0 (execBeatPpsIn err s) := by
  unfold execBeatPpsIn
  repeat'
    first
    | with_reducible assumption
    | with_reducible apply KeepsOut.next
    | with_reducible apply State.startBeats_keeps
    | split
    | (fail_if_no_progress (with_reducible apply Keeps.upd))
    | dsimp only

theorem State.slip_keeps {s0 : State} {s : State} {detail : List Nat} (hk : Keeps s0 s) : Keeps s0 (State.slip s detail) := by
  unfold State.slip
  repeat'
    first
    | with_reducible assumption
    | with_reducible apply State.faultDevice_keeps
    | with_reducible apply State.pumpAll_keeps

theorem State.countLock_keeps {s0 : State} {s : State} {near : Bool} (hk : Keeps s0 s) : Keeps s0 (State.countLock s near) := by
  unfold State.countLock
  repeat'
    first
    | with_reducible assumption
    | with_reducible apply State.send_keeps
    | split
    | (fail_if_no_progress (with_reducible apply Keeps.upd))
    | dsimp only

theorem State.primaryMarker_keeps {s0 : State} {s : State} {m : BeatMarker} {dev : Int} {near : Bool} (hk : Keeps s0 s) : Keeps s0 (State.primaryMarker s m dev near) := by
  unfold State.primaryMarker
  repeat'
    first
    | with_reducible assumption
    | with_reducible apply State.slip_keeps
    | with_reducible apply State.countLock_keeps
    | split
    | (fail_if_no_progress (with_reducible apply Keeps.upd))
    | dsimp only

theorem State.secondaryMarker_keeps {s0 : State} {s : State} {m : BeatMarker} {dev : Int} (hk : Keeps s0 s) : Keeps s0 (State.secondaryMarker s m dev) := by
  unfold State.secondaryMarker
  repeat'
    first
    | with_reducible assumption
    | with_reducible apply State.slip_keeps
    | split
    | (fail_if_no_progress (with_reducible apply Keeps.upd))
    | dsimp only

theorem execBeatMarker_keeps {s0 : State} {port lane : Nat} {m : BeatMarker} {frac : Fin 8} {s : State} (hk : Keeps s0 s) : KeepsOut s0 (execBeatMarker port lane m frac s) := by
  unfold execBeatMarker
  repeat'
    first
    | with_reducible assumption
    | with_reducible apply KeepsOut.next
    | with_reducible apply State.count_keeps
    | with_reducible apply State.slip_keeps
    | with_reducible apply State.primaryMarker_keeps
    | with_reducible apply State.secondaryMarker_keeps
    | split
    | (fail_if_no_progress (with_reducible apply Keeps.upd))
    | dsimp only

theorem execBeatFailover_keeps {s0 : State} {s : State} (hk : Keeps s0 s) : KeepsOut s0 (execBeatFailover s) := by
  unfold execBeatFailover
  repeat'
    first
    | with_reducible assumption
    | with_reducible apply KeepsOut.next
    | with_reducible apply State.count_keeps
    | with_reducible apply State.slip_keeps
    | split
    | (fail_if_no_progress (with_reducible apply Keeps.upd))

theorem State.countQwait_keeps {s0 : State} {s : State} (hk : Keeps s0 s) : Keeps s0 (State.countQwait s) := by
  unfold State.countQwait
  repeat'
    first
    | with_reducible assumption
    | with_reducible apply State.acctAdd_keeps
    | with_reducible refine Keeps.foldl (fun _ _ _ => ?_) ?_
    | split
    | (fail_if_no_progress (with_reducible apply Keeps.upd))

theorem State.countUnseen_keeps {s0 : State} {s : State} (hk : Keeps s0 s) : Keeps s0 (State.countUnseen s) := by
  unfold State.countUnseen
  repeat'
    first
    | with_reducible assumption
    | with_reducible apply State.count_keeps
    | with_reducible refine Keeps.foldl (fun _ _ _ => ?_) ?_

theorem State.endBeat_keeps {s0 : State} {s : State} (hk : Keeps s0 s) : Keeps s0 (State.endBeat s) := by
  unfold State.endBeat
  repeat'
    first
    | with_reducible assumption
    | with_reducible apply State.countUnseen_keeps
    | with_reducible apply State.countStemStalls_keeps
    | with_reducible apply State.countIdle_keeps
    | with_reducible apply State.countQwait_keeps
    | with_reducible apply State.settleLive_keeps
    | with_reducible apply State.count_keeps
    | split
    | dsimp only

theorem State.probeLinks_keeps {s0 : State} {s : State} (hk : Keeps s0 s) : Keeps s0 (State.probeLinks s) := by
  unfold State.probeLinks
  repeat'
    first
    | with_reducible assumption
    | with_reducible apply State.send_keeps
    | split

theorem State.checkUpstreams_keeps {s0 : State} {s : State} (hk : Keeps s0 s) : Keeps s0 (State.checkUpstreams s) := by
  unfold State.checkUpstreams
  repeat'
    first
    | with_reducible assumption
    | with_reducible apply State.slip_keeps
    | split

theorem State.nextBeat_keeps {s0 : State} {s : State} (hk : Keeps s0 s) : Keeps s0 (State.nextBeat s) := by
  unfold State.nextBeat
  repeat'
    first
    | with_reducible assumption
    | with_reducible apply State.endBeat_keeps
    | with_reducible apply State.checkUpstreams_keeps
    | with_reducible apply State.sendVine_keeps
    | with_reducible apply State.probeLinks_keeps
    | with_reducible apply State.sendMarkers_keeps
    | with_reducible apply State.runSchedule_keeps
    | with_reducible apply State.pumpAll_keeps
    | split
    | (fail_if_no_progress (with_reducible apply Keeps.upd))

theorem execBeatBoundary_keeps {s0 : State} {s : State} (hk : Keeps s0 s) : KeepsOut s0 (execBeatBoundary s) := by
  unfold execBeatBoundary
  repeat'
    first
    | with_reducible assumption
    | with_reducible apply KeepsOut.next
    | with_reducible apply State.nextBeat_keeps
    | split

theorem State.tick_keeps {s0 : State} {s : State} (hk : Keeps s0 s) : Keeps s0 (State.tick s) := by
  unfold State.tick
  repeat'
    first
    | with_reducible assumption
    | with_reducible apply State.nextBeat_keeps
    | split
    | (fail_if_no_progress (with_reducible apply Keeps.upd))

theorem execAccountingWindow_keeps {s0 : State} {s : State} (hk : Keeps s0 s) : KeepsOut s0 (execAccountingWindow s) := by
  unfold execAccountingWindow
  repeat'
    first
    | with_reducible assumption
    | with_reducible apply KeepsOut.next
    | split
    | (fail_if_no_progress (with_reducible refine Keeps.updMem (fun w => ?_) ?_))
    | with_reducible apply memZero_wf

end Sys2Proof.Machine
end

