-- ==== Sys2Proof/Laws/KeepsEngineCmds.lean ====
section
/-!
SUPPORT. What the operations of Machine/EngineCmds.lean never change: one lemma for each that answers a state.
-/

namespace Sys2Proof.Machine

theorem engOut_keeps {s0 : State} {a : Site} {p : Pred} {cnt : CntSel} {present : Bool} {mk : CtxSt → EngOp} {s : State} (hk : Keeps s0 s) : KeepsOut s0 (engOut a p cnt present mk s) := by
  unfold engOut
  repeat'
    first
    | with_reducible assumption
    | with_reducible apply KeepsOut.coreOut
    | with_reducible apply State.issueEngine_keeps
    | split

theorem execMma_keeps {s0 : State} {a : Site} {p : Pred} {tda tdb tdc : Fin 64} {set arr : Fin 2} {mode : AccMode} {cnt : CntSel} {s : State} (hk : Keeps s0 s) : KeepsOut s0 (execMma a p tda tdb tdc set arr mode cnt s) := by
  unfold execMma
  repeat'
    first
    | with_reducible assumption
    | with_reducible apply engOut_keeps

theorem execMmat_keeps {s0 : State} {a : Site} {p : Pred} {tda tdb tdc : Fin 64} {set arr : Fin 2} {mode : AccMode} {cnt : CntSel} {s : State} (hk : Keeps s0 s) : KeepsOut s0 (execMmat a p tda tdb tdc set arr mode cnt s) := by
  unfold execMmat
  repeat'
    first
    | with_reducible assumption
    | with_reducible apply engOut_keeps

theorem execMtwin_keeps {s0 : State} {a : Site} {p : Pred} {tdg tdw tdx : Fin 64} {set0 set1 : Fin 2} {acc0 acc1 : Bool} {cnt : CntSel} {s : State} (hk : Keeps s0 s) : KeepsOut s0 (execMtwin a p tdg tdw tdx set0 set1 acc0 acc1 cnt s) := by
  unfold execMtwin
  repeat'
    first
    | with_reducible assumption
    | with_reducible apply engOut_keeps

theorem execMrd_keeps {s0 : State} {a : Site} {p : Pred} {tdc : Fin 64} {set arr : Fin 2} {cnt : CntSel} {gstep : Fin 32} {s : State} (hk : Keeps s0 s) : KeepsOut s0 (execMrd a p tdc set arr cnt gstep s) := by
  unfold execMrd
  repeat'
    first
    | with_reducible assumption
    | with_reducible apply engOut_keeps

theorem execMrdp_keeps {s0 : State} {a : Site} {p : Pred} {tda tdc : Fin 64} {set arr : Fin 2} {cnt : CntSel} {_gstep : Fin 32} {s : State} (hk : Keeps s0 s) : KeepsOut s0 (execMrdp a p tda tdc set arr cnt _gstep s) := by
  unfold execMrdp
  repeat'
    first
    | with_reducible assumption
    | with_reducible apply engOut_keeps

theorem execMsav_keeps {s0 : State} {a : Site} {p : Pred} {tdc : Fin 64} {set arr : Fin 2} {cnt : CntSel} {s : State} (hk : Keeps s0 s) : KeepsOut s0 (execMsav a p tdc set arr cnt s) := by
  unfold execMsav
  repeat'
    first
    | with_reducible assumption
    | with_reducible apply engOut_keeps

theorem execDma_keeps {s0 : State} {a : Site} {p : Pred} {td : Fin 64} {gh : Fin 32} {region : Fin 16} {toHbm : Bool} {hstride : BitVec 16} {cnt : CntSel} {s : State} (hk : Keeps s0 s) : KeepsOut s0 (execDma a p td gh region toHbm hstride cnt s) := by
  unfold execDma
  repeat'
    first
    | with_reducible assumption
    | with_reducible apply engOut_keeps

theorem execLsend_keeps {s0 : State} {a : Site} {p : Pred} {td : Fin 64} {chan : BitVec 16} {cnt : CntSel} {s : State} (hk : Keeps s0 s) : KeepsOut s0 (execLsend a p td chan cnt s) := by
  unfold execLsend
  repeat'
    first
    | with_reducible assumption
    | with_reducible apply engOut_keeps

theorem execLrecv_keeps {s0 : State} {a : Site} {p : Pred} {td : Fin 64} {chan : BitVec 16} {cnt : CntSel} {s : State} (hk : Keeps s0 s) : KeepsOut s0 (execLrecv a p td chan cnt s) := by
  unfold execLrecv
  repeat'
    first
    | with_reducible assumption
    | with_reducible apply engOut_keeps

theorem execLred_keeps {s0 : State} {a : Site} {p : Pred} {td : Fin 64} {chan : BitVec 16} {cnt : CntSel} {s : State} (hk : Keeps s0 s) : KeepsOut s0 (execLred a p td chan cnt s) := by
  unfold execLred
  repeat'
    first
    | with_reducible assumption
    | with_reducible apply engOut_keeps

theorem execStsend_keeps {s0 : State} {a : Site} {p : Pred} {td : Fin 64} {buffer : BitVec 16} {cnt : CntSel} {s : State} (hk : Keeps s0 s) : KeepsOut s0 (execStsend a p td buffer cnt s) := by
  unfold execStsend
  repeat'
    first
    | with_reducible assumption
    | with_reducible apply engOut_keeps

theorem vop_keeps {s0 : State} {op : VOpc} {present : Bool} {a : Site} {p : Pred} {o : VOp} {s : State} (hk : Keeps s0 s) : KeepsOut s0 (vop op present a p o s) := by
  unfold vop
  repeat'
    first
    | with_reducible assumption
    | with_reducible apply engOut_keeps

theorem execVmov_keeps {s0 : State} {a : Site} {p : Pred} {o : VOp} {s : State} (hk : Keeps s0 s) : KeepsOut s0 (execVmov a p o s) := by
  unfold execVmov
  repeat'
    first
    | with_reducible assumption
    | with_reducible apply vop_keeps

theorem execVadd_keeps {s0 : State} {a : Site} {p : Pred} {o : VOp} {s : State} (hk : Keeps s0 s) : KeepsOut s0 (execVadd a p o s) := by
  unfold execVadd
  repeat'
    first
    | with_reducible assumption
    | with_reducible apply vop_keeps

theorem execVsub_keeps {s0 : State} {a : Site} {p : Pred} {o : VOp} {s : State} (hk : Keeps s0 s) : KeepsOut s0 (execVsub a p o s) := by
  unfold execVsub
  repeat'
    first
    | with_reducible assumption
    | with_reducible apply vop_keeps

theorem execVmul_keeps {s0 : State} {a : Site} {p : Pred} {o : VOp} {s : State} (hk : Keeps s0 s) : KeepsOut s0 (execVmul a p o s) := by
  unfold execVmul
  repeat'
    first
    | with_reducible assumption
    | with_reducible apply vop_keeps

theorem execVfma_keeps {s0 : State} {a : Site} {p : Pred} {o : VOp} {s : State} (hk : Keeps s0 s) : KeepsOut s0 (execVfma a p o s) := by
  unfold execVfma
  repeat'
    first
    | with_reducible assumption
    | with_reducible apply vop_keeps

theorem execVmin_keeps {s0 : State} {a : Site} {p : Pred} {o : VOp} {s : State} (hk : Keeps s0 s) : KeepsOut s0 (execVmin a p o s) := by
  unfold execVmin
  repeat'
    first
    | with_reducible assumption
    | with_reducible apply vop_keeps

theorem execVmax_keeps {s0 : State} {a : Site} {p : Pred} {o : VOp} {s : State} (hk : Keeps s0 s) : KeepsOut s0 (execVmax a p o s) := by
  unfold execVmax
  repeat'
    first
    | with_reducible assumption
    | with_reducible apply vop_keeps

theorem execVabs_keeps {s0 : State} {a : Site} {p : Pred} {o : VOp} {s : State} (hk : Keeps s0 s) : KeepsOut s0 (execVabs a p o s) := by
  unfold execVabs
  repeat'
    first
    | with_reducible assumption
    | with_reducible apply vop_keeps

theorem execVneg_keeps {s0 : State} {a : Site} {p : Pred} {o : VOp} {s : State} (hk : Keeps s0 s) : KeepsOut s0 (execVneg a p o s) := by
  unfold execVneg
  repeat'
    first
    | with_reducible assumption
    | with_reducible apply vop_keeps

theorem execVclt_keeps {s0 : State} {a : Site} {p : Pred} {o : VOp} {s : State} (hk : Keeps s0 s) : KeepsOut s0 (execVclt a p o s) := by
  unfold execVclt
  repeat'
    first
    | with_reducible assumption
    | with_reducible apply vop_keeps

theorem execVceq_keeps {s0 : State} {a : Site} {p : Pred} {o : VOp} {s : State} (hk : Keeps s0 s) : KeepsOut s0 (execVceq a p o s) := by
  unfold execVceq
  repeat'
    first
    | with_reducible assumption
    | with_reducible apply vop_keeps

theorem execVsel_keeps {s0 : State} {a : Site} {p : Pred} {o : VOp} {s : State} (hk : Keeps s0 s) : KeepsOut s0 (execVsel a p o s) := by
  unfold execVsel
  repeat'
    first
    | with_reducible assumption
    | with_reducible apply vop_keeps

theorem execVrint_keeps {s0 : State} {a : Site} {p : Pred} {o : VOp} {s : State} (hk : Keeps s0 s) : KeepsOut s0 (execVrint a p o s) := by
  unfold execVrint
  repeat'
    first
    | with_reducible assumption
    | with_reducible apply vop_keeps

theorem execVperm_keeps {s0 : State} {a : Site} {p : Pred} {o : VOp} {s : State} (hk : Keeps s0 s) : KeepsOut s0 (execVperm a p o s) := by
  unfold execVperm
  repeat'
    first
    | with_reducible assumption
    | with_reducible apply vop_keeps

theorem execVrcpe_keeps {s0 : State} {a : Site} {p : Pred} {o : VOp} {s : State} (hk : Keeps s0 s) : KeepsOut s0 (execVrcpe a p o s) := by
  unfold execVrcpe
  repeat'
    first
    | with_reducible assumption
    | with_reducible apply vop_keeps

theorem execVrsqe_keeps {s0 : State} {a : Site} {p : Pred} {o : VOp} {s : State} (hk : Keeps s0 s) : KeepsOut s0 (execVrsqe a p o s) := by
  unfold execVrsqe
  repeat'
    first
    | with_reducible assumption
    | with_reducible apply vop_keeps

theorem execVexp2f_keeps {s0 : State} {a : Site} {p : Pred} {o : VOp} {s : State} (hk : Keeps s0 s) : KeepsOut s0 (execVexp2f a p o s) := by
  unfold execVexp2f
  repeat'
    first
    | with_reducible assumption
    | with_reducible apply vop_keeps

theorem execVlog2f_keeps {s0 : State} {a : Site} {p : Pred} {o : VOp} {s : State} (hk : Keeps s0 s) : KeepsOut s0 (execVlog2f a p o s) := by
  unfold execVlog2f
  repeat'
    first
    | with_reducible assumption
    | with_reducible apply vop_keeps

theorem execVexp_keeps {s0 : State} {a : Site} {p : Pred} {o : VOp} {s : State} (hk : Keeps s0 s) : KeepsOut s0 (execVexp a p o s) := by
  unfold execVexp
  repeat'
    first
    | with_reducible assumption
    | with_reducible apply vop_keeps

theorem execVexp2_keeps {s0 : State} {a : Site} {p : Pred} {o : VOp} {s : State} (hk : Keeps s0 s) : KeepsOut s0 (execVexp2 a p o s) := by
  unfold execVexp2
  repeat'
    first
    | with_reducible assumption
    | with_reducible apply vop_keeps

theorem execVlog_keeps {s0 : State} {a : Site} {p : Pred} {o : VOp} {s : State} (hk : Keeps s0 s) : KeepsOut s0 (execVlog a p o s) := by
  unfold execVlog
  repeat'
    first
    | with_reducible assumption
    | with_reducible apply vop_keeps

theorem execVlog2_keeps {s0 : State} {a : Site} {p : Pred} {o : VOp} {s : State} (hk : Keeps s0 s) : KeepsOut s0 (execVlog2 a p o s) := by
  unfold execVlog2
  repeat'
    first
    | with_reducible assumption
    | with_reducible apply vop_keeps

theorem execVdiv_keeps {s0 : State} {a : Site} {p : Pred} {o : VOp} {s : State} (hk : Keeps s0 s) : KeepsOut s0 (execVdiv a p o s) := by
  unfold execVdiv
  repeat'
    first
    | with_reducible assumption
    | with_reducible apply vop_keeps

theorem execVsqrt_keeps {s0 : State} {a : Site} {p : Pred} {o : VOp} {s : State} (hk : Keeps s0 s) : KeepsOut s0 (execVsqrt a p o s) := by
  unfold execVsqrt
  repeat'
    first
    | with_reducible assumption
    | with_reducible apply vop_keeps

theorem execVrsqrt_keeps {s0 : State} {a : Site} {p : Pred} {o : VOp} {s : State} (hk : Keeps s0 s) : KeepsOut s0 (execVrsqrt a p o s) := by
  unfold execVrsqrt
  repeat'
    first
    | with_reducible assumption
    | with_reducible apply vop_keeps

theorem execVrcp_keeps {s0 : State} {a : Site} {p : Pred} {o : VOp} {s : State} (hk : Keeps s0 s) : KeepsOut s0 (execVrcp a p o s) := by
  unfold execVrcp
  repeat'
    first
    | with_reducible assumption
    | with_reducible apply vop_keeps

theorem execVsigmoid_keeps {s0 : State} {a : Site} {p : Pred} {o : VOp} {s : State} (hk : Keeps s0 s) : KeepsOut s0 (execVsigmoid a p o s) := by
  unfold execVsigmoid
  repeat'
    first
    | with_reducible assumption
    | with_reducible apply vop_keeps

theorem execVtanh_keeps {s0 : State} {a : Site} {p : Pred} {o : VOp} {s : State} (hk : Keeps s0 s) : KeepsOut s0 (execVtanh a p o s) := by
  unfold execVtanh
  repeat'
    first
    | with_reducible assumption
    | with_reducible apply vop_keeps

theorem execVsilu_keeps {s0 : State} {a : Site} {p : Pred} {o : VOp} {s : State} (hk : Keeps s0 s) : KeepsOut s0 (execVsilu a p o s) := by
  unfold execVsilu
  repeat'
    first
    | with_reducible assumption
    | with_reducible apply vop_keeps

theorem execVgelu_keeps {s0 : State} {a : Site} {p : Pred} {o : VOp} {s : State} (hk : Keeps s0 s) : KeepsOut s0 (execVgelu a p o s) := by
  unfold execVgelu
  repeat'
    first
    | with_reducible assumption
    | with_reducible apply vop_keeps

theorem execVrsum_keeps {s0 : State} {a : Site} {p : Pred} {o : VOp} {s : State} (hk : Keeps s0 s) : KeepsOut s0 (execVrsum a p o s) := by
  unfold execVrsum
  repeat'
    first
    | with_reducible assumption
    | with_reducible apply vop_keeps

theorem execVrmax_keeps {s0 : State} {a : Site} {p : Pred} {o : VOp} {s : State} (hk : Keeps s0 s) : KeepsOut s0 (execVrmax a p o s) := by
  unfold execVrmax
  repeat'
    first
    | with_reducible assumption
    | with_reducible apply vop_keeps

theorem execVsoftmax_keeps {s0 : State} {a : Site} {p : Pred} {o : VOp} {s : State} (hk : Keeps s0 s) : KeepsOut s0 (execVsoftmax a p o s) := by
  unfold execVsoftmax
  repeat'
    first
    | with_reducible assumption
    | with_reducible apply vop_keeps

theorem execVlogsoftmax_keeps {s0 : State} {a : Site} {p : Pred} {o : VOp} {s : State} (hk : Keeps s0 s) : KeepsOut s0 (execVlogsoftmax a p o s) := by
  unfold execVlogsoftmax
  repeat'
    first
    | with_reducible assumption
    | with_reducible apply vop_keeps

theorem execVrmsnorm_keeps {s0 : State} {a : Site} {p : Pred} {o : VOp} {s : State} (hk : Keeps s0 s) : KeepsOut s0 (execVrmsnorm a p o s) := by
  unfold execVrmsnorm
  repeat'
    first
    | with_reducible assumption
    | with_reducible apply vop_keeps

theorem execVlnorm_keeps {s0 : State} {a : Site} {p : Pred} {o : VOp} {s : State} (hk : Keeps s0 s) : KeepsOut s0 (execVlnorm a p o s) := by
  unfold execVlnorm
  repeat'
    first
    | with_reducible assumption
    | with_reducible apply vop_keeps

theorem execVdsigmoid_keeps {s0 : State} {a : Site} {p : Pred} {o : VOp} {s : State} (hk : Keeps s0 s) : KeepsOut s0 (execVdsigmoid a p o s) := by
  unfold execVdsigmoid
  repeat'
    first
    | with_reducible assumption
    | with_reducible apply vop_keeps

theorem execVdtanh_keeps {s0 : State} {a : Site} {p : Pred} {o : VOp} {s : State} (hk : Keeps s0 s) : KeepsOut s0 (execVdtanh a p o s) := by
  unfold execVdtanh
  repeat'
    first
    | with_reducible assumption
    | with_reducible apply vop_keeps

theorem execVdsilu_keeps {s0 : State} {a : Site} {p : Pred} {o : VOp} {s : State} (hk : Keeps s0 s) : KeepsOut s0 (execVdsilu a p o s) := by
  unfold execVdsilu
  repeat'
    first
    | with_reducible assumption
    | with_reducible apply vop_keeps

theorem execVdgelu_keeps {s0 : State} {a : Site} {p : Pred} {o : VOp} {s : State} (hk : Keeps s0 s) : KeepsOut s0 (execVdgelu a p o s) := by
  unfold execVdgelu
  repeat'
    first
    | with_reducible assumption
    | with_reducible apply vop_keeps

theorem execVdsoftmax_keeps {s0 : State} {a : Site} {p : Pred} {o : VOp} {s : State} (hk : Keeps s0 s) : KeepsOut s0 (execVdsoftmax a p o s) := by
  unfold execVdsoftmax
  repeat'
    first
    | with_reducible assumption
    | with_reducible apply vop_keeps

theorem execVdrmsnorm_keeps {s0 : State} {a : Site} {p : Pred} {o : VOp} {s : State} (hk : Keeps s0 s) : KeepsOut s0 (execVdrmsnorm a p o s) := by
  unfold execVdrmsnorm
  repeat'
    first
    | with_reducible assumption
    | with_reducible apply vop_keeps

theorem execVdlnorm_keeps {s0 : State} {a : Site} {p : Pred} {o : VOp} {s : State} (hk : Keeps s0 s) : KeepsOut s0 (execVdlnorm a p o s) := by
  unfold execVdlnorm
  repeat'
    first
    | with_reducible assumption
    | with_reducible apply vop_keeps

end Sys2Proof.Machine
end

