-- ==== Sys2Proof/Laws/KeepsRegs.lean ====
section
/-!
SUPPORT. What the operations of Machine/Regs.lean never change: one lemma for each that answers a state.
-/

namespace Sys2Proof.Machine

theorem State.refresh_keeps {s0 : State} {s : State} {meas : List Nat} (hk : Keeps s0 s) : Keeps s0 (State.refresh s meas) := by
  unfold State.refresh
  repeat'
    first
    | with_reducible assumption
    | split
    | (fail_if_no_progress (with_reducible apply Keeps.upd))

theorem State.readRegs_keeps {s0 : State} {s : State} {off count : Nat} (h : Keeps s0 s) : Keeps s0 (State.readRegs s off count).2 := by
  unfold State.readRegs
  dsimp only
  split
  · exact Keeps.upd h
  · exact h

theorem State.rejections_keeps {s0 : State} {s : State} {base n : Nat} (hk : Keeps s0 s) : Keeps s0 (State.rejections s base n) := by
  unfold State.rejections
  repeat'
    first
    | with_reducible assumption
    | (fail_if_no_progress (with_reducible apply Keeps.upd))

theorem execErrRejectNew_keeps {s0 : State} {events : Nat} {s : State} (hk : Keeps s0 s) : KeepsOut s0 (execErrRejectNew events s) := by
  unfold execErrRejectNew
  repeat'
    first
    | with_reducible assumption
    | with_reducible apply KeepsOut.next
    | with_reducible apply State.rejections_keeps
    | with_reducible apply State.sendFrame_keeps
    | split

end Sys2Proof.Machine
end

