-- ==== Sys2Proof/Laws/KeepsStudent.lean ====
section
/-!
SUPPORT. What the operations of Machine/Student.lean never change: one lemma for each that answers a state.
-/

namespace Sys2Proof.Machine

theorem State.appendAll_keeps {s0 : State} {s : State} {cores : List Nat} {c : Fin 8} {e : StartEntry} (hk : Keeps s0 s) : Keeps s0 (State.appendAll s cores c e) := by
  unfold State.appendAll
  repeat'
    first
    | with_reducible assumption
    | with_reducible apply State.append_keeps
    | with_reducible apply State.raiseEvent_keeps
    | with_reducible refine Keeps.foldl (fun _ _ _ => ?_) ?_
    | (fail_if_no_progress (with_reducible apply Keeps.upd))

theorem State.nextEntry_keeps {s0 : State} {s : State} {k : Nat} (hk : Keeps s0 s) : Keeps s0 (State.nextEntry s k) := by
  unfold State.nextEntry
  repeat'
    first
    | with_reducible assumption
    | with_reducible apply State.setStage_keeps

theorem execForwardAppend_keeps {s0 : State} {stage step mb layer : Nat} {s : State} (hk : Keeps s0 s) : KeepsOut s0 (execForwardAppend stage step mb layer s) := by
  unfold execForwardAppend
  repeat'
    first
    | with_reducible assumption
    | with_reducible apply KeepsOut.next
    | with_reducible apply State.setStage_keeps
    | with_reducible apply State.acctForward_keeps
    | with_reducible apply State.countCtx_keeps
    | with_reducible apply State.mapAcct_keeps
    | with_reducible apply State.appendAll_keeps
    | with_reducible apply State.nextEntry_keeps
    | split
    | dsimp only

theorem execBackwardAppend_keeps {s0 : State} {stage step mb layer : Nat} {s : State} (hk : Keeps s0 s) : KeepsOut s0 (execBackwardAppend stage step mb layer s) := by
  unfold execBackwardAppend
  repeat'
    first
    | with_reducible assumption
    | with_reducible apply KeepsOut.next
    | with_reducible apply State.setStage_keeps
    | with_reducible apply State.appendAll_keeps
    | with_reducible apply State.nextEntry_keeps
    | with_reducible apply State.countCtx_keeps
    | with_reducible apply State.mapAcct_keeps
    | split
    | dsimp only

theorem execReceiptStart_keeps {s0 : State} {stage : Nat} {s : State} (hk : Keeps s0 s) : KeepsOut s0 (execReceiptStart stage s) := by
  unfold execReceiptStart
  repeat'
    first
    | with_reducible assumption
    | with_reducible apply KeepsOut.next
    | with_reducible apply State.setStage_keeps
    | split

end Sys2Proof.Machine
end

