-- ==== Sys2Proof/Laws/KeepsTransport.lean ====
section
/-!
SUPPORT. What the operations of Machine/Transport.lean never change: one lemma for each that answers a state.
-/

namespace Sys2Proof.Machine

theorem State.sendAckOnly_keeps {s0 : State} {s : State} {id : Nat} (hk : Keeps s0 s) : Keeps s0 (State.sendAckOnly s id) := by
  unfold State.sendAckOnly
  repeat'
    first
    | with_reducible assumption
    | with_reducible apply State.setSession_keeps
    | with_reducible apply State.send_keeps
    | split

theorem State.checkStored_keeps {s0 : State} {s : State} (hk : Keeps s0 s) : Keeps s0 (State.checkStored s) := by
  unfold State.checkStored
  repeat'
    first
    | with_reducible assumption
    | with_reducible apply State.setJob_keeps
    | with_reducible apply State.journal_keeps
    | with_reducible apply State.endExport_keeps
    | with_reducible refine Keeps.foldl (fun _ _ _ => ?_) ?_
    | split
    | dsimp only

theorem State.takeAcks_keeps {s0 : State} {s : State} {f : Frame} (hk : Keeps s0 s) : Keeps s0 (State.takeAcks s f) := by
  unfold State.takeAcks
  repeat'
    first
    | with_reducible assumption
    | with_reducible apply State.setSession_keeps
    | with_reducible apply State.send_keeps
    | with_reducible apply State.count_keeps
    | with_reducible apply State.checkStored_keeps
    | with_reducible apply State.flushTx_keeps
    | split

theorem State.poolPfc_keeps {s0 : State} {s : State} (hk : Keeps s0 s) : Keeps s0 (State.poolPfc s) := by
  unfold State.poolPfc
  repeat'
    first
    | with_reducible assumption
    | with_reducible apply State.send_keeps
    | split
    | (fail_if_no_progress (with_reducible apply Keeps.upd))
    | dsimp only

theorem State.status_keeps {s0 : State} {s : State} {f : Frame} {b : FrameBody} {code : Nat} (hk : Keeps s0 s) : Keeps s0 (State.status s f b code) := by
  unfold State.status
  repeat'
    first
    | with_reducible assumption
    | with_reducible apply State.sendFrame_keeps

theorem State.refuse_keeps {s0 : State} {s : State} {f : Frame} {b : FrameBody} {code : Nat} {loc : Nat} (hk : Keeps s0 s) : Keeps s0 (State.refuse s f b code loc) := by
  unfold State.refuse
  repeat'
    first
    | with_reducible assumption
    | with_reducible apply State.reject_keeps
    | with_reducible apply State.status_keeps

theorem State.answer_keeps {s0 : State} {f : Frame} {b : FrameBody} {r : State × Nat} (h : Keeps s0 r.1) : Keeps s0 (State.answer f b r) := by
  unfold State.answer
  split
  · exact h
  · split
    · exact State.refuse_keeps h
    · split
      · exact State.status_keeps h
      · exact h

theorem State.onProve_keeps {s0 : State} {s : State} {f : Frame} {proof : Proof} {sig : SigInfo} (hk : Keeps s0 s) : Keeps s0 (State.onProve s f proof sig) := by
  unfold State.onProve
  repeat'
    first
    | with_reducible assumption
    | with_reducible apply State.reject_keeps
    | with_reducible apply State.sendFrame_keeps
    | with_reducible apply State.closeSession_keeps
    | with_reducible apply State.setSession_keeps
    | with_reducible apply State.pumpExports_keeps
    | with_reducible refine Keeps.foldl (fun _ _ _ => ?_) ?_
    | split
    | (fail_if_no_progress (with_reducible apply Keeps.upd))
    | dsimp only

theorem State.onCkpt_keeps {s0 : State} {s : State} {job role : Nat} {exportId : Digest} {part : List Byte} {m : Option Manifest} {tags : List (BitVec 128)} (hk : Keeps s0 s) : Keeps s0 (State.onCkpt s job role exportId part m tags).1 := by
  unfold State.onCkpt
  repeat'
    first
    | with_reducible assumption
    | with_reducible apply State.setJob_keeps
    | split
    | dsimp only

theorem State.onPfcSet_keeps {s0 : State} {s : State} {on : Bool} {prio : Nat} (hk : Keeps s0 s) : Keeps s0 (State.onPfcSet s on prio).1 := by
  unfold State.onPfcSet
  repeat'
    first
    | with_reducible assumption
    | split
    | (fail_if_no_progress (with_reducible apply Keeps.upd))

theorem State.onRead_keeps {s0 : State} {s : State} {f : Frame} {off count : Nat} {meas : List Nat} (hk : Keeps s0 s) : Keeps s0 (State.onRead s f off count meas).1 := by
  unfold State.onRead
  repeat'
    first
    | with_reducible assumption
    | with_reducible apply State.refresh_keeps
    | with_reducible apply State.readRegs_keeps
    | with_reducible apply State.sendFrame_keeps
    | split

theorem withWriter_keeps {s0 : State} {f : Frame} {r : State × Nat} (h : Keeps s0 r.1) : Keeps s0 (withWriter f r).1 := by
  unfold withWriter
  split
  · exact Keeps.upd h
  · exact h

theorem State.handle_keeps {s0 : State} {s : State} {f : Frame} {slot : Option Nat} {b : FrameBody} (hk : Keeps s0 s) : Keeps s0 (State.handle s f slot b) := by
  unfold State.handle
  repeat'
    first
    | with_reducible assumption
    | with_reducible apply State.answer_keeps
    | with_reducible apply State.onSample_keeps
    | with_reducible apply State.onReq_keeps
    | with_reducible apply State.onAck_keeps
    | with_reducible apply State.onProve_keeps
    | with_reducible apply State.status_keeps
    | with_reducible apply State.closeSession_keeps
    | with_reducible apply State.onCancel_keeps
    | with_reducible apply State.onResume_keeps
    | with_reducible apply State.onSwitch_keeps
    | with_reducible apply State.refuse_keeps
    | with_reducible apply State.onRestart_keeps
    | with_reducible apply State.onRejoin_keeps
    | with_reducible apply State.onDrain_keeps
    | with_reducible apply State.onTicket_keeps
    | with_reducible apply State.onStorageKey_keeps
    | with_reducible apply State.onPfcSet_keeps
    | with_reducible apply State.onHusk_keeps
    | with_reducible apply State.onHuskRemove_keeps
    | with_reducible apply State.onMeterGrant_keeps
    | with_reducible apply State.onAdapterLoad_keeps
    | with_reducible apply State.onAdapterRemove_keeps
    | with_reducible apply State.onMaskLoad_keeps
    | with_reducible apply State.onMaskRemove_keeps
    | with_reducible apply State.onSummaryExport_keeps
    | with_reducible apply State.onSummaryImport_keeps
    | with_reducible apply State.onSummaryDrop_keeps
    | with_reducible apply State.onOwnerTransfer_keeps
    | with_reducible apply State.onRead_keeps
    | with_reducible apply withWriter_keeps
    | with_reducible apply State.onFwBank_keeps
    | with_reducible apply State.onImageBank_keeps
    | with_reducible apply State.onPlanSlot_keeps
    | with_reducible apply State.onCkpt_keeps
    | with_reducible refine Keeps.ofFst (by assumption) ?_
    | split
    | (fail_if_no_progress (with_reducible apply Keeps.upd))

theorem State.beginObject_keeps {s0 : State} {s : State} {k : Nat} {b : FrameBody} (h : Keeps s0 s) : Keeps s0 (State.beginObject s k b).1 := by
  unfold State.beginObject
  split
  · rename_i a
    have h1 := State.beginAdapter_keeps (a := a) h
    split
    · rename_i e; rw [e] at h1; exact h1
    · rename_i e; rw [e] at h1; exact h1
  · exact h

theorem State.noteBlock_keeps {s0 : State} {s : State} {f : Frame} {x : SessionSt} {k : Nat} {b : FrameBody} {o : Nat × Nat} (hk : Keeps s0 s) :
    Keeps s0 (State.noteBlock s f x k b o) := by
  unfold State.noteBlock
  repeat'
    first
    | with_reducible assumption
    | with_reducible apply State.status_keeps
    | with_reducible apply State.setSession_keeps
    | split

theorem State.block_keeps {s0 : State} {s : State} {f : Frame} {x : SessionSt} {k : Nat} {b : FrameBody} (hk : Keeps s0 s) : Keeps s0 (State.block s f x k b) := by
  unfold State.block
  repeat'
    first
    | with_reducible assumption
    | with_reducible apply State.refuse_keeps
    | with_reducible apply State.dropObject_keeps
    | with_reducible apply State.noteBlock_keeps
    | with_reducible apply State.setSession_keeps
    | with_reducible apply State.handle_keeps
    | with_reducible apply State.beginObject_keeps
    | with_reducible refine Keeps.ofFst (by assumption) ?_
    | split
    | dsimp only

theorem State.deliverFrame_keeps {s0 : State} {s : State} {f : Frame} {b : FrameBody} (hk : Keeps s0 s) : Keeps s0 (State.deliverFrame s f b) := by
  unfold State.deliverFrame
  repeat'
    first
    | with_reducible assumption
    | with_reducible apply State.refuse_keeps
    | with_reducible apply State.block_keeps
    | with_reducible apply State.handle_keeps
    | split

theorem State.inOrder_keeps {s0 : State} {s : State} {f : Frame} {b : FrameBody} (hk : Keeps s0 s) : Keeps s0 (State.inOrder s f b) := by
  unfold State.inOrder
  repeat'
    first
    | with_reducible assumption
    | with_reducible apply State.setSession_keeps
    | with_reducible apply State.deliverFrame_keeps
    | split

theorem State.drainPool_keeps {s0 : State} {n : Nat} {s : State} {id : Nat} (h : Keeps s0 s) : Keeps s0 (State.drainPool n s id) := by
  induction n generalizing s with
  | zero => exact h
  | succ n ih =>
    unfold State.drainPool
    split
    · exact h
    · split
      · exact h
      · exact ih (State.inOrder_keeps (State.setSession_keeps h))

theorem State.afterFrame_keeps {s0 : State} {s : State} {id : Nat} (hk : Keeps s0 s) : Keeps s0 (State.afterFrame s id) := by
  unfold State.afterFrame
  repeat'
    first
    | with_reducible assumption
    | with_reducible apply State.closeSession_keeps
    | with_reducible apply State.sendAckOnly_keeps
    | split

theorem State.receive_keeps {s0 : State} {s : State} {f : Frame} {b : FrameBody} (hk : Keeps s0 s) : Keeps s0 (State.receive s f b) := by
  unfold State.receive
  repeat'
    first
    | with_reducible assumption
    | with_reducible apply State.count_keeps
    | with_reducible apply State.closeSession_keeps
    | with_reducible apply State.takeAcks_keeps
    | with_reducible apply State.sendAckOnly_keeps
    | with_reducible apply State.inOrder_keeps
    | with_reducible apply State.drainPool_keeps
    | with_reducible apply State.poolPfc_keeps
    | with_reducible apply State.afterFrame_keeps
    | with_reducible apply State.setSession_keeps
    | split
    | dsimp only

theorem State.frame_keeps {s0 : State} {s : State} {f : Frame} {b : FrameBody} (hk : Keeps s0 s) : KeepsOut s0 (State.frame s f b) := by
  unfold State.frame
  repeat'
    first
    | with_reducible assumption
    | with_reducible apply KeepsOut.next
    | with_reducible apply State.receive_keeps

theorem execSample_keeps {s0 : State} {f : Frame} {ctx slot sampleId : Nat} {data : List Byte} {s : State} (hk : Keeps s0 s) : KeepsOut s0 (execSample f ctx slot sampleId data s) := by
  unfold execSample
  repeat'
    first
    | with_reducible assumption
    | with_reducible apply State.frame_keeps

theorem execReq_keeps {s0 : State} {f : Frame} {ctx slot : Nat} {data : List Byte} {s : State} (hk : Keeps s0 s) : KeepsOut s0 (execReq f ctx slot data s) := by
  unfold execReq
  repeat'
    first
    | with_reducible assumption
    | with_reducible apply State.frame_keeps

theorem execAck_keeps {s0 : State} {f : Frame} {ctx slot cons : Nat} {s : State} (hk : Keeps s0 s) : KeepsOut s0 (execAck f ctx slot cons s) := by
  unfold execAck
  repeat'
    first
    | with_reducible assumption
    | with_reducible apply State.frame_keeps

theorem execProve_keeps {s0 : State} {f : Frame} {proof : Proof} {sig : SigInfo} {s : State} (hk : Keeps s0 s) : KeepsOut s0 (execProve f proof sig s) := by
  unfold execProve
  repeat'
    first
    | with_reducible assumption
    | with_reducible apply State.frame_keeps

theorem execClose_keeps {s0 : State} {f : Frame} {s : State} (hk : Keeps s0 s) : KeepsOut s0 (execClose f s) := by
  unfold execClose
  repeat'
    first
    | with_reducible assumption
    | with_reducible apply State.frame_keeps

theorem execCancel_keeps {s0 : State} {f : Frame} {ctx slot : Nat} {s : State} (hk : Keeps s0 s) : KeepsOut s0 (execCancel f ctx slot s) := by
  unfold execCancel
  repeat'
    first
    | with_reducible assumption
    | with_reducible apply State.frame_keeps

theorem execStreamResume_keeps {s0 : State} {f : Frame} {ctx slot : Nat} {s : State} (hk : Keeps s0 s) : KeepsOut s0 (execStreamResume f ctx slot s) := by
  unfold execStreamResume
  repeat'
    first
    | with_reducible assumption
    | with_reducible apply State.frame_keeps

theorem execSwitch_keeps {s0 : State} {f : Frame} {entry : Nat} {s : State} (hk : Keeps s0 s) : KeepsOut s0 (execSwitch f entry s) := by
  unfold execSwitch
  repeat'
    first
    | with_reducible assumption
    | with_reducible apply State.frame_keeps

theorem execRestart_keeps {s0 : State} {f : Frame} {job : Nat} {replay : Bool} {vEnd : Nat} {ext : Option Nat} {excl : List Exclusion} {s : State} (hk : Keeps s0 s) : KeepsOut s0 (execRestart f job replay vEnd ext excl s) := by
  unfold execRestart
  repeat'
    first
    | with_reducible assumption
    | with_reducible apply State.frame_keeps

theorem execRejoin_keeps {s0 : State} {f : Frame} {s : State} (hk : Keeps s0 s) : KeepsOut s0 (execRejoin f s) := by
  unfold execRejoin
  repeat'
    first
    | with_reducible assumption
    | with_reducible apply State.frame_keeps

theorem execDrain_keeps {s0 : State} {f : Frame} {s : State} (hk : Keeps s0 s) : KeepsOut s0 (execDrain f s) := by
  unfold execDrain
  repeat'
    first
    | with_reducible assumption
    | with_reducible apply State.frame_keeps

theorem execTicket_keeps {s0 : State} {f : Frame} {client : Nat} {key : Digest} {s : State} (hk : Keeps s0 s) : KeepsOut s0 (execTicket f client key s) := by
  unfold execTicket
  repeat'
    first
    | with_reducible assumption
    | with_reducible apply State.frame_keeps

theorem execStorageKey_keeps {s0 : State} {f : Frame} {key : Digest} {s : State} (hk : Keeps s0 s) : KeepsOut s0 (execStorageKey f key s) := by
  unfold execStorageKey
  repeat'
    first
    | with_reducible assumption
    | with_reducible apply State.frame_keeps

theorem execPfcSet_keeps {s0 : State} {f : Frame} {on : Bool} {prio : Nat} {s : State} (hk : Keeps s0 s) : KeepsOut s0 (execPfcSet f on prio s) := by
  unfold execPfcSet
  repeat'
    first
    | with_reducible assumption
    | with_reducible apply State.frame_keeps

theorem execHusk_keeps {s0 : State} {f : Frame} {h : Husk} {s : State} (hk : Keeps s0 s) : KeepsOut s0 (execHusk f h s) := by
  unfold execHusk
  repeat'
    first
    | with_reducible assumption
    | with_reducible apply State.frame_keeps

theorem execHuskRemove_keeps {s0 : State} {f : Frame} {id : Digest} {s : State} (hk : Keeps s0 s) : KeepsOut s0 (execHuskRemove f id s) := by
  unfold execHuskRemove
  repeat'
    first
    | with_reducible assumption
    | with_reducible apply State.frame_keeps

theorem execMeterGrant_keeps {s0 : State} {f : Frame} {g : Grant} {s : State} (hk : Keeps s0 s) : KeepsOut s0 (execMeterGrant f g s) := by
  unfold execMeterGrant
  repeat'
    first
    | with_reducible assumption
    | with_reducible apply State.frame_keeps

theorem execAdapterLoad_keeps {s0 : State} {f : Frame} {a : AdapterObj} {s : State} (hk : Keeps s0 s) : KeepsOut s0 (execAdapterLoad f a s) := by
  unfold execAdapterLoad
  repeat'
    first
    | with_reducible assumption
    | with_reducible apply State.frame_keeps

theorem execAdapterRemove_keeps {s0 : State} {f : Frame} {ident : Nat} {teacher : Bool} {s : State} (hk : Keeps s0 s) : KeepsOut s0 (execAdapterRemove f ident teacher s) := by
  unfold execAdapterRemove
  repeat'
    first
    | with_reducible assumption
    | with_reducible apply State.frame_keeps

theorem execMaskLoad_keeps {s0 : State} {f : Frame} {id : Nat} {data : List Byte} {s : State} (hk : Keeps s0 s) : KeepsOut s0 (execMaskLoad f id data s) := by
  unfold execMaskLoad
  repeat'
    first
    | with_reducible assumption
    | with_reducible apply State.frame_keeps

theorem execMaskRemove_keeps {s0 : State} {f : Frame} {id : Nat} {s : State} (hk : Keeps s0 s) : KeepsOut s0 (execMaskRemove f id s) := by
  unfold execMaskRemove
  repeat'
    first
    | with_reducible assumption
    | with_reducible apply State.frame_keeps

theorem execSummaryExport_keeps {s0 : State} {f : Frame} {conv : Nat} {s : State} (hk : Keeps s0 s) : KeepsOut s0 (execSummaryExport f conv s) := by
  unfold execSummaryExport
  repeat'
    first
    | with_reducible assumption
    | with_reducible apply State.frame_keeps

theorem execSummaryImport_keeps {s0 : State} {f : Frame} {exportId : Digest} {data : List Byte} {tags : List (BitVec 128)} {s : State} (hk : Keeps s0 s) : KeepsOut s0 (execSummaryImport f exportId data tags s) := by
  unfold execSummaryImport
  repeat'
    first
    | with_reducible assumption
    | with_reducible apply State.frame_keeps

theorem execSummaryDrop_keeps {s0 : State} {f : Frame} {conv : Nat} {s : State} (hk : Keeps s0 s) : KeepsOut s0 (execSummaryDrop f conv s) := by
  unfold execSummaryDrop
  repeat'
    first
    | with_reducible assumption
    | with_reducible apply State.frame_keeps

theorem execOwnerTransfer_keeps {s0 : State} {f : Frame} {next signer : Digest} {sig : SigInfo} {s : State} (hk : Keeps s0 s) : KeepsOut s0 (execOwnerTransfer f next signer sig s) := by
  unfold execOwnerTransfer
  repeat'
    first
    | with_reducible assumption
    | with_reducible apply State.frame_keeps

theorem execRead_keeps {s0 : State} {f : Frame} {off count : Nat} {meas : List Nat} {s : State} (hk : Keeps s0 s) : KeepsOut s0 (execRead f off count meas s) := by
  unfold execRead
  repeat'
    first
    | with_reducible assumption
    | with_reducible apply State.frame_keeps

theorem execFirmwareBank_keeps {s0 : State} {f : Frame} {fw : Firmware} {s : State} (hk : Keeps s0 s) : KeepsOut s0 (execFirmwareBank f fw s) := by
  unfold execFirmwareBank
  repeat'
    first
    | with_reducible assumption
    | with_reducible apply State.frame_keeps

theorem execImageBank_keeps {s0 : State} {f : Frame} {i : Image} {s : State} (hk : Keeps s0 s) : KeepsOut s0 (execImageBank f i s) := by
  unfold execImageBank
  repeat'
    first
    | with_reducible assumption
    | with_reducible apply State.frame_keeps

theorem execPlanSlot_keeps {s0 : State} {f : Frame} {slot : Nat} {p : Plan} {s : State} (hk : Keeps s0 s) : KeepsOut s0 (execPlanSlot f slot p s) := by
  unfold execPlanSlot
  repeat'
    first
    | with_reducible assumption
    | with_reducible apply State.frame_keeps

theorem execPlanForSwitch_keeps {s0 : State} {f : Frame} {p : Plan} {s : State} (hk : Keeps s0 s) : KeepsOut s0 (execPlanForSwitch f p s) := by
  unfold execPlanForSwitch
  repeat'
    first
    | with_reducible assumption
    | with_reducible apply State.frame_keeps

theorem execCkpt_keeps {s0 : State} {f : Frame} {job role : Nat} {exportId : Digest} {part : List Byte} {m : Option Manifest} {tags : List (BitVec 128)} {s : State} (hk : Keeps s0 s) : KeepsOut s0 (execCkpt f job role exportId part m tags s) := by
  unfold execCkpt
  repeat'
    first
    | with_reducible assumption
    | with_reducible apply State.frame_keeps

theorem execAckOnly_keeps {s0 : State} {f : Frame} {s : State} (hk : Keeps s0 s) : KeepsOut s0 (execAckOnly f s) := by
  unfold execAckOnly
  repeat'
    first
    | with_reducible assumption
    | with_reducible apply KeepsOut.next
    | with_reducible apply State.count_keeps
    | with_reducible apply State.closeSession_keeps
    | with_reducible apply State.reject_keeps
    | with_reducible apply State.sendFrame_keeps
    | with_reducible apply State.setSession_keeps
    | with_reducible apply State.takeAcks_keeps
    | split

theorem execAckOnlySend_keeps {s0 : State} {session : Nat} {s : State} (hk : Keeps s0 s) : KeepsOut s0 (execAckOnlySend session s) := by
  unfold execAckOnlySend
  repeat'
    first
    | with_reducible assumption
    | with_reducible apply KeepsOut.next
    | with_reducible apply State.sendAckOnly_keeps
    | with_reducible apply State.afterFrame_keeps
    | split

theorem execRetransmitTimeout_keeps {s0 : State} {session psn : Nat} {s : State} (hk : Keeps s0 s) : KeepsOut s0 (execRetransmitTimeout session psn s) := by
  unfold execRetransmitTimeout
  repeat'
    first
    | with_reducible assumption
    | with_reducible apply KeepsOut.next
    | with_reducible apply State.closeSession_keeps
    | with_reducible apply State.reject_keeps
    | with_reducible apply State.report_keeps
    | with_reducible apply State.setSession_keeps
    | with_reducible apply State.send_keeps
    | with_reducible apply State.count_keeps
    | split

theorem execSessionIdleTimeout_keeps {s0 : State} {session : Nat} {s : State} (hk : Keeps s0 s) : KeepsOut s0 (execSessionIdleTimeout session s) := by
  unfold execSessionIdleTimeout
  repeat'
    first
    | with_reducible assumption
    | with_reducible apply KeepsOut.next
    | with_reducible apply State.closeSession_keeps

theorem execInit_keeps {s0 : State} {authority : Authority} {client : Nat} {x : InitKeys} {kemOk reservedOk busy : Bool} {s : State} (hk : Keeps s0 s) : KeepsOut s0 (execInit authority client x kemOk reservedOk busy s) := by
  unfold execInit
  repeat'
    first
    | with_reducible assumption
    | with_reducible apply KeepsOut.next
    | with_reducible apply State.reject_keeps
    | with_reducible apply State.send_keeps
    | with_reducible apply State.requestSign_keeps
    | split

theorem State.flushAll_keeps {s0 : State} {s : State} (hk : Keeps s0 s) : Keeps s0 (State.flushAll s) := by
  unfold State.flushAll
  repeat'
    first
    | with_reducible assumption
    | with_reducible apply State.flushTx_keeps
    | with_reducible refine Keeps.foldl (fun _ _ _ => ?_) ?_

theorem execPcsSearch_keeps {s0 : State} {s : State} (hk : Keeps s0 s) : KeepsOut s0 (execPcsSearch s) := by
  unfold execPcsSearch
  repeat'
    first
    | with_reducible assumption
    | with_reducible apply KeepsOut.next
    | split
    | (fail_if_no_progress (with_reducible apply Keeps.upd))

theorem execPcsAlignmentLock_keeps {s0 : State} {s : State} (hk : Keeps s0 s) : KeepsOut s0 (execPcsAlignmentLock s) := by
  unfold execPcsAlignmentLock
  repeat'
    first
    | with_reducible assumption
    | with_reducible apply KeepsOut.next
    | with_reducible apply State.flushAll_keeps
    | split
    | (fail_if_no_progress (with_reducible apply Keeps.upd))

theorem State.portDown_keeps {s0 : State} {s : State} (hk : Keeps s0 s) : Keeps s0 (State.portDown s) := by
  unfold State.portDown
  repeat'
    first
    | with_reducible assumption
    | (fail_if_no_progress (with_reducible apply Keeps.upd))

theorem execAlignmentLoss_keeps {s0 : State} {s : State} (hk : Keeps s0 s) : KeepsOut s0 (execAlignmentLoss s) := by
  unfold execAlignmentLoss
  repeat'
    first
    | with_reducible assumption
    | with_reducible apply KeepsOut.next
    | with_reducible apply State.portDown_keeps
    | split

theorem execOsfpModuleEvent_keeps {s0 : State} {present appOk dpFault : Bool} {modState dpState : Nat} {s : State} (hk : Keeps s0 s) : KeepsOut s0 (execOsfpModuleEvent present appOk dpFault modState dpState s) := by
  unfold execOsfpModuleEvent
  repeat'
    first
    | with_reducible assumption
    | with_reducible apply KeepsOut.next
    | with_reducible apply State.portDown_keeps
    | split
    | (fail_if_no_progress (with_reducible apply Keeps.upd))
    | dsimp only

theorem execPfcFrame_keeps {s0 : State} {prio quanta : Nat} {s : State} (hk : Keeps s0 s) : KeepsOut s0 (execPfcFrame prio quanta s) := by
  unfold execPfcFrame
  repeat'
    first
    | with_reducible assumption
    | with_reducible apply KeepsOut.next
    | with_reducible apply State.flushAll_keeps
    | split
    | (fail_if_no_progress (with_reducible apply Keeps.upd))

theorem execPfcPauseExpiry_keeps {s0 : State} {s : State} (hk : Keeps s0 s) : KeepsOut s0 (execPfcPauseExpiry s) := by
  unfold execPfcPauseExpiry
  repeat'
    first
    | with_reducible assumption
    | with_reducible apply KeepsOut.next
    | with_reducible apply State.flushAll_keeps
    | split
    | (fail_if_no_progress (with_reducible apply Keeps.upd))

theorem execAddressDuplicate_keeps {s0 : State} {kind : Fin 3} {s : State} (hk : Keeps s0 s) : KeepsOut s0 (execAddressDuplicate kind s) := by
  unfold execAddressDuplicate
  repeat'
    first
    | with_reducible assumption
    | with_reducible apply KeepsOut.next
    | with_reducible apply State.reject_keeps
    | with_reducible apply State.report_keeps
    | split
    | (fail_if_no_progress (with_reducible apply Keeps.upd))

end Sys2Proof.Machine
end

