-- ==== Sys2Proof/WellFormed.lean ====
section
/-!
DEFINITION. Well-formed commands: operand values that the encodings of Tables 4-2 to 4-10 and 17-2, the verifier's static conditions (R132) and
the device's structure (R549) admit. A well-formed command need not have an effect in every state.
-/

namespace Sys2Proof

/-- The core exists (R549). -/
def Site.ok (a : Site) : Bool := decide (a.core < Config.numCores)
/-- The core is an S-core (R549). -/
def Site.sCore (a : Site) : Bool := decide (Config.numTCores ≤ a.core)
/-- END, TEND, WAIT, WAITB, LOOP and ENDLOOP are not predicated (R132). -/
def Pred.always (p : Pred) : Bool := p.pred == 0 && !p.pneg
/-- Header fields at their widths (Table 17-2). -/
def Frame.ok (f : Frame) : Bool :=
  decide (f.session < 2 ^ 32) && decide (f.psn < 2 ^ 64) && decide (f.ackPsn < 2 ^ 64) && decide (f.window < 2 ^ 16) && decide (f.length < 2 ^ 16)
    && decide (f.offset < 2 ^ 32)

/-- Whether a command's operands are ones that the manual admits. -/
def Instr.wf (i : Instr) : Bool :=
  match i with
  | .nop at_ _ => at_.ok
  | .endProg at_ p => at_.ok && p.always
  | .tend at_ p => at_.ok && p.always
  | .br at_ _ _ => at_.ok
  | .loop at_ p _ _ _ => at_.ok && p.always
  | .endloop at_ p => at_.ok && p.always
  | .movi at_ _ _ _ => at_.ok
  | .add at_ _ _ _ _ _ => at_.ok
  | .sub at_ _ _ _ _ _ => at_.ok
  | .mul at_ _ _ _ _ _ => at_.ok
  | .and at_ _ _ _ _ _ => at_.ok
  | .or at_ _ _ _ _ _ => at_.ok
  | .xor at_ _ _ _ _ _ => at_.ok
  | .shl at_ _ _ _ _ _ => at_.ok
  | .shr at_ _ _ _ _ _ => at_.ok
  | .cmp at_ _ gd _ _ _ _ => at_.ok && 1 ≤ gd.val && gd.val < 8
  | .lds at_ _ _ _ _ => at_.ok
  | .sts at_ _ _ _ _ => at_.ok
  | .cset at_ _ c _ _ => at_.ok && c.val < 16
  | .cinc at_ _ c _ _ => at_.ok && c.val < 16
  | .wait at_ p c _ _ => at_.ok && p.always && c.val < 16
  | .crd at_ _ _ c => at_.ok && c.val < 16
  | .waitb at_ p _ _ _ => at_.ok && p.always
  | .beatrd at_ _ gd => at_.ok && gd.val < 31
  | .flagrc at_ _ _ _ _ => at_.ok
  | .tdld at_ _ _ _ => at_.ok
  | .tdadd at_ _ _ _ _ _ => at_.ok
  | .mma at_ _ _ _ _ _ arr _ _ => at_.ok && (arr == 0 || at_.sCore)
  | .mmat at_ _ _ _ _ _ _ _ _ => at_.ok && at_.sCore
  | .mtwin at_ _ _ _ _ _ _ _ _ _ => at_.ok && at_.sCore
  | .mrd at_ _ _ _ arr _ gstep => at_.ok && (arr == 0 || at_.sCore) && gstep.val < 31
  | .mrdp at_ _ _ _ _ arr _ _ => at_.ok && (arr == 0 || at_.sCore)
  | .msav at_ _ _ _ arr _ => at_.ok && (arr == 0 || at_.sCore)
  | .vsetl at_ _ _ _ => at_.ok
  | .vmov at_ _ _ => at_.ok
  | .vadd at_ _ _ => at_.ok
  | .vsub at_ _ _ => at_.ok
  | .vmul at_ _ _ => at_.ok
  | .vfma at_ _ _ => at_.ok
  | .vmin at_ _ _ => at_.ok
  | .vmax at_ _ _ => at_.ok
  | .vabs at_ _ _ => at_.ok
  | .vneg at_ _ _ => at_.ok
  | .vclt at_ _ _ => at_.ok
  | .vceq at_ _ _ => at_.ok
  | .vsel at_ _ _ => at_.ok
  | .vrint at_ _ _ => at_.ok
  | .vperm at_ _ _ => at_.ok
  | .vrcpe at_ _ _ => at_.ok
  | .vrsqe at_ _ _ => at_.ok
  | .vexp2f at_ _ _ => at_.ok
  | .vlog2f at_ _ _ => at_.ok
  | .vexp at_ _ _ => at_.ok
  | .vexp2 at_ _ _ => at_.ok
  | .vlog at_ _ _ => at_.ok
  | .vlog2 at_ _ _ => at_.ok
  | .vdiv at_ _ _ => at_.ok
  | .vsqrt at_ _ _ => at_.ok
  | .vrsqrt at_ _ _ => at_.ok
  | .vrcp at_ _ _ => at_.ok
  | .vsigmoid at_ _ _ => at_.ok
  | .vtanh at_ _ _ => at_.ok
  | .vsilu at_ _ _ => at_.ok
  | .vgelu at_ _ _ => at_.ok
  | .vrsum at_ _ _ => at_.ok
  | .vrmax at_ _ _ => at_.ok
  | .vsoftmax at_ _ _ => at_.ok
  | .vlogsoftmax at_ _ _ => at_.ok
  | .vrmsnorm at_ _ _ => at_.ok
  | .vlnorm at_ _ _ => at_.ok
  | .vdsigmoid at_ _ _ => at_.ok && at_.sCore
  | .vdtanh at_ _ _ => at_.ok && at_.sCore
  | .vdsilu at_ _ _ => at_.ok && at_.sCore
  | .vdgelu at_ _ _ => at_.ok && at_.sCore
  | .vdsoftmax at_ _ _ => at_.ok && at_.sCore
  | .vdrmsnorm at_ _ _ => at_.ok && at_.sCore
  | .vdlnorm at_ _ _ => at_.ok && at_.sCore
  | .dma at_ _ _ _ _ _ _ _ => at_.ok
  | .lsend at_ _ _ _ _ => at_.ok
  | .lrecv at_ _ _ _ _ => at_.ok
  | .lred at_ _ _ _ _ => at_.ok
  | .stsend at_ _ _ _ _ => at_.ok && !at_.sCore
  | .engineInstrComplete core _ => core < Config.numCores
  | .lrecvFilled at_ _ _ => at_.ok
  | .waitSatisfied at_ => at_.ok
  | .waitExpired at_ => at_.all Site.ok
  | .startQueueDequeue at_ => at_.ok
  | .startQueueAppendHeld at_ => at_.ok
  | .beatBoundary => true
  | .beatMarker port lane _ _ => port < 16 && lane < 8
  | .beatFailover => true
  | .linkDelayProbe port lane _ _ => port < 16 && lane < 8
  | .sourceLock _ => true
  | .sourceLockLoss => true
  | .beatPpsIn _ => true
  | .ptpSync _ _ => true
  | .enum f => f.next < 256
  | .strap entries => entries.length ≤ 8
  | .ebeat count => count < 2 ^ 64
  | .vineState entries => entries.length ≤ 8
  | .ping _ => true
  | .xfer x _ _ => x.target < 256 && x.block < 2 ^ 32 && x.length ≤ 1024 && x.data.length == x.length && x.status < 256
  | .enumTimeout => true
  | .enumRepeat => true
  | .podFaultN _ _ => true
  | .hello port lane _ => port < 16 && lane < 8
  | .helloSend => true
  | .formationPhaseStart p => 1 ≤ p.phase && p.phase ≤ 5
  | .joinRecord _ => true
  | .lockRecord _ => true
  | .announcement _ => true
  | .joinBeat => true
  | .joinTimeout => true
  | .ready _ _ => true
  | .commitMarker _ => true
  | .commitTimeout _ => true
  | .commitBeat _ => true
  | .hostedCopyAck _ _ => true
  | .startReady _ _ => true
  | .startRecord _ _ _ => true
  | .startBeat _ => true
  | .chunk _ => true
  | .stragglerDeadline chan _ => chan < 2 ^ 16
  | .exchTimeout chan => chan < 2 ^ 16
  | .fuuUpdate chan => chan < 2 ^ 16
  | .parameterChunk _ => true
  | .receiptStart _ => true
  | .sparseList chan _ => chan < 2 ^ 16
  | .stemPacketStart _ => true
  | .stemArrival buffer => buffer < 2 ^ 16
  | .creditReturn buffer => buffer < 2 ^ 16
  | .lossJobStart _ _ _ => true
  | .lossExchange _ _ _ _ _ => true
  | .lossJobComplete => true
  | .acceptanceJob _ _ => true
  | .draftSample _ _ _ _ => true
  | .lookupJob _ _ _ chan _ _ => chan < 2 ^ 16
  | .remoteLookup _ _ _ _ _ _ _ => true
  | .remotePartial _ _ _ _ => true
  | .forwardAppend _ _ _ _ => true
  | .backwardAppend _ _ _ _ => true
  | .compose _ => true
  | .batchStepEnd _ _ _ => true
  | .deadline _ _ => true
  | .ringHold _ _ => true
  | .pauseComplete _ _ _ _ => true
  | .summaryTtl _ => true
  | .accountingWindow => true
  | .sample f ctx slot sampleId data => f.ok && ctx < 8 && slot < 2 ^ 29 && sampleId < 2 ^ 64 && data.length == f.length
  | .req f ctx slot data => f.ok && ctx < 8 && slot < 2 ^ 29 && data.length == f.length
  | .ack f ctx slot cons => f.ok && ctx < 8 && slot < 2 ^ 29 && cons < 2 ^ 32
  | .ackOnly f => f.ok
  | .ackOnlySend _ => true
  | .retransmitTimeout _ _ => true
  | .sessionIdleTimeout _ => true
  | .pcsSearch => true
  | .alignmentLoss => true
  | .pfcFrame prio quanta => prio < 8 && quanta < 2 ^ 16
  | .addressDuplicate _ => true
  | .init _ client _ _ _ _ => client < 2 ^ 16
  | .prove f _ _ => f.ok
  | .close f => f.ok
  | .cancel f ctx slot => f.ok && ctx < 8 && slot < 2 ^ 29
  | .streamResume f ctx slot => f.ok && ctx < 8 && slot < 2 ^ 29
  | .switch f entry => f.ok && entry < 256
  | .drainComplete => true
  | .drainTimeout => true
  | .restart f _ _ _ _ _ => f.ok
  | .rejoin f => f.ok
  | .drain f => f.ok
  | .ticket f client _ => f.ok && client < 2 ^ 16
  | .storageKey f _ => f.ok
  | .pfcSet f _ prio => f.ok && prio < 256
  | .husk f _ => f.ok
  | .peerLoad _ _ _ => true
  | .huskRemove f _ => f.ok
  | .meterGrant f _ => f.ok
  | .meterRequest _ => true
  | .adapterLoad f _ => f.ok
  | .adapterRemove f ident _ => f.ok && ident < 2 ^ 16
  | .maskLoad f id _ => f.ok && id < 2 ^ 32
  | .maskRemove f id => f.ok && id < 2 ^ 32
  | .summaryExport f conv => f.ok && conv < 2 ^ 64
  | .summaryImport f _ _ _ => f.ok
  | .summaryDrop f conv => f.ok && conv < 2 ^ 64
  | .ownerClaim _ _ _ => true
  | .ownerTransfer f _ _ _ => f.ok
  | .read f off count meas => f.ok && off < 2 ^ 32 && count < 2 ^ 16 && (meas.isEmpty || meas.length == 15)
  | .errRejectNew _ => true
  | .firmwareBank f _ => f.ok
  | .imageBank f _ => f.ok
  | .planSlot f slot _ => f.ok && slot < 2 ^ 24
  | .planForSwitch f _ => f.ok
  | .bankWriteComplete => true
  | .ckpt f _ _ _ _ _ _ => f.ok
  | .attest _ _ _ => true
  | .keyDerivation => true
  | .faultNotice _ _ _ _ => true
  | .haltedReport _ => true
  | .haltSettle _ _ => true
  | .restoreComplete _ _ _ _ => true
  | .restoreTimeout _ => true
  | .journalDurable _ => true
  | .compaction => true
  | .compactionComplete => true
  | .pwrEnRise _ => true
  | .pwrEnFall => true
  | .resetNAssert => true
  | .resetNRise _ _ _ => true
  | .bootConfigure => true
  | .vinOutOfRange => true
  | .vinRecovery => true
  | .pwrcapNFall => true
  | .pwrcapNRise => true
  | .thermAlert => true
  | .thermAlertRelease => true
  | .thermalTrip idx => idx < 28
  | .thermalShutdown => true
  | .hbmUncorrectable addr => addr < Config.hbmBytes
  | .sramUncorrectable _ => true
  | .linkDown port lane => port < 16 && lane < 8
  | .localCopyComplete _ => true
  | .hostedCopy _ _ _ _ => true
  | .rowShadowCopyComplete _ => true
  | .halfEraseComplete => true
  | .joinableLimit => true
  | .pcsAlignmentLock => true
  | .osfpModuleEvent _ _ _ _ _ => true
  | .pfcPauseExpiry => true

end Sys2Proof
end

