-- ==== Sys2Proof/Laws/PerInstr.lean ====
section
/-!
SUPPORT. Laws of the instruction as syntax, one lemma for each constructor.
-/

namespace Sys2Proof.Laws.OnCore
open Machine

/-- A well-formed sequencer instruction names a core of the device on which it exists (R106, R549). -/
def Statement (i : Instr) : Prop :=
  i.wf = true → ∀ a p, i.header = some (a, p) → a.core < Config.numCores ∧ i.present = true

/-- A command of another kind has no header. -/
theorem other {i : Instr} (h : i.header = none) : Statement i := fun _ _ _ e => nomatch h.symm.trans e

theorem onSite {a : Site} (h : a.ok = true) : a.core < Config.numCores := of_decide_eq_true h

theorem arrOk {n : Nat} {k : Fin 2} (h : (k == 0 || decide (Config.numTCores ≤ n)) = true) : (isSCore n || k == 0) = true := by
  rw [Bool.or_comm]; exact h

theorem nop (at_ : Site) (p : Pred) : Statement (.nop at_ p) := fun h _ _ e => by
  cases e; exact ⟨onSite h, rfl⟩
theorem endProg (at_ : Site) (p : Pred) : Statement (.endProg at_ p) := fun h _ _ e => by
  cases e; exact ⟨onSite (Bool.and_eq_true_iff.mp h).1, rfl⟩
theorem tend (at_ : Site) (p : Pred) : Statement (.tend at_ p) := fun h _ _ e => by
  cases e; exact ⟨onSite (Bool.and_eq_true_iff.mp h).1, rfl⟩
theorem br (at_ : Site) (p : Pred) (imm : Word) : Statement (.br at_ p imm) := fun h _ _ e => by
  cases e; exact ⟨onSite h, rfl⟩
theorem loop (at_ : Site) (p : Pred) (ga : Fin 32) (imm : Word) (endIdx : BitVec 12) : Statement (.loop at_ p ga imm endIdx) := fun h _ _ e => by
  cases e; exact ⟨onSite (Bool.and_eq_true_iff.mp h).1, rfl⟩
theorem endloop (at_ : Site) (p : Pred) : Statement (.endloop at_ p) := fun h _ _ e => by
  cases e; exact ⟨onSite (Bool.and_eq_true_iff.mp h).1, rfl⟩
theorem movi (at_ : Site) (p : Pred) (gd : Fin 32) (imm : Word) : Statement (.movi at_ p gd imm) := fun h _ _ e => by
  cases e; exact ⟨onSite h, rfl⟩
theorem add (at_ : Site) (p : Pred) (gd ga gb : Fin 32) (imm : Word) : Statement (.add at_ p gd ga gb imm) := fun h _ _ e => by
  cases e; exact ⟨onSite h, rfl⟩
theorem sub (at_ : Site) (p : Pred) (gd ga gb : Fin 32) (imm : Word) : Statement (.sub at_ p gd ga gb imm) := fun h _ _ e => by
  cases e; exact ⟨onSite h, rfl⟩
theorem mul (at_ : Site) (p : Pred) (gd ga gb : Fin 32) (imm : Word) : Statement (.mul at_ p gd ga gb imm) := fun h _ _ e => by
  cases e; exact ⟨onSite h, rfl⟩
theorem and (at_ : Site) (p : Pred) (gd ga gb : Fin 32) (imm : Word) : Statement (.and at_ p gd ga gb imm) := fun h _ _ e => by
  cases e; exact ⟨onSite h, rfl⟩
theorem or (at_ : Site) (p : Pred) (gd ga gb : Fin 32) (imm : Word) : Statement (.or at_ p gd ga gb imm) := fun h _ _ e => by
  cases e; exact ⟨onSite h, rfl⟩
theorem xor (at_ : Site) (p : Pred) (gd ga gb : Fin 32) (imm : Word) : Statement (.xor at_ p gd ga gb imm) := fun h _ _ e => by
  cases e; exact ⟨onSite h, rfl⟩
theorem shl (at_ : Site) (p : Pred) (gd ga gb : Fin 32) (imm : Word) : Statement (.shl at_ p gd ga gb imm) := fun h _ _ e => by
  cases e; exact ⟨onSite h, rfl⟩
theorem shr (at_ : Site) (p : Pred) (gd ga gb : Fin 32) (imm : Word) : Statement (.shr at_ p gd ga gb imm) := fun h _ _ e => by
  cases e; exact ⟨onSite h, rfl⟩
theorem cmp (at_ : Site) (p : Pred) (gd : Fin 32) (cond : CmpCond) (ga gb : Fin 32) (imm : Word) : Statement (.cmp at_ p gd cond ga gb imm) := fun h _ _ e => by
  cases e; exact ⟨onSite (Bool.and_eq_true_iff.mp (Bool.and_eq_true_iff.mp h).1).1, rfl⟩
theorem lds (at_ : Site) (p : Pred) (gd ga : Fin 32) (imm : Word) : Statement (.lds at_ p gd ga imm) := fun h _ _ e => by
  cases e; exact ⟨onSite h, rfl⟩
theorem sts (at_ : Site) (p : Pred) (ga gb : Fin 32) (imm : Word) : Statement (.sts at_ p ga gb imm) := fun h _ _ e => by
  cases e; exact ⟨onSite h, rfl⟩
theorem cset (at_ : Site) (p : Pred) (c : Fin 32) (gb : Fin 32) (imm : Word) : Statement (.cset at_ p c gb imm) := fun h _ _ e => by
  cases e; exact ⟨onSite (Bool.and_eq_true_iff.mp h).1, rfl⟩
theorem cinc (at_ : Site) (p : Pred) (c : Fin 32) (gb : Fin 32) (imm : Word) : Statement (.cinc at_ p c gb imm) := fun h _ _ e => by
  cases e; exact ⟨onSite (Bool.and_eq_true_iff.mp h).1, rfl⟩
theorem wait (at_ : Site) (p : Pred) (c : Fin 32) (gb : Fin 32) (imm : Word) : Statement (.wait at_ p c gb imm) := fun h _ _ e => by
  cases e; exact ⟨onSite (Bool.and_eq_true_iff.mp (Bool.and_eq_true_iff.mp h).1).1, rfl⟩
theorem crd (at_ : Site) (p : Pred) (gd : Fin 32) (c : Fin 32) : Statement (.crd at_ p gd c) := fun h _ _ e => by
  cases e; exact ⟨onSite (Bool.and_eq_true_iff.mp h).1, rfl⟩
theorem waitb (at_ : Site) (p : Pred) (ga gb : Fin 32) (imm : Word) : Statement (.waitb at_ p ga gb imm) := fun h _ _ e => by
  cases e; exact ⟨onSite (Bool.and_eq_true_iff.mp h).1, rfl⟩
theorem beatrd (at_ : Site) (p : Pred) (gd : Fin 32) : Statement (.beatrd at_ p gd) := fun h _ _ e => by
  cases e; exact ⟨onSite (Bool.and_eq_true_iff.mp h).1, rfl⟩
theorem flagrc (at_ : Site) (p : Pred) (gd gb : Fin 32) (imm : Word) : Statement (.flagrc at_ p gd gb imm) := fun h _ _ e => by
  cases e; exact ⟨onSite h, rfl⟩
theorem tdld (at_ : Site) (p : Pred) (td : Fin 64) (imm : Word) : Statement (.tdld at_ p td imm) := fun h _ _ e => by
  cases e; exact ⟨onSite h, rfl⟩
theorem tdadd (at_ : Site) (p : Pred) (td : Fin 64) (field : TdField) (ga : Fin 32) (imm : Word) : Statement (.tdadd at_ p td field ga imm) := fun h _ _ e => by
  cases e; exact ⟨onSite h, rfl⟩
theorem mma (at_ : Site) (p : Pred) (tda tdb tdc : Fin 64) (set arr : Fin 2) (mode : AccMode) (cnt : CntSel) : Statement (.mma at_ p tda tdb tdc set arr mode cnt) := fun h _ _ e => by
  cases e; exact ⟨onSite (Bool.and_eq_true_iff.mp h).1, arrOk (Bool.and_eq_true_iff.mp h).2⟩
theorem mmat (at_ : Site) (p : Pred) (tda tdb tdc : Fin 64) (set arr : Fin 2) (mode : AccMode) (cnt : CntSel) : Statement (.mmat at_ p tda tdb tdc set arr mode cnt) := fun h _ _ e => by
  cases e; exact ⟨onSite (Bool.and_eq_true_iff.mp h).1, (Bool.and_eq_true_iff.mp h).2⟩
theorem mtwin (at_ : Site) (p : Pred) (tdg tdw tdx : Fin 64) (set0 set1 : Fin 2) (acc0 acc1 : Bool) (cnt : CntSel) : Statement (.mtwin at_ p tdg tdw tdx set0 set1 acc0 acc1 cnt) := fun h _ _ e => by
  cases e; exact ⟨onSite (Bool.and_eq_true_iff.mp h).1, (Bool.and_eq_true_iff.mp h).2⟩
theorem mrd (at_ : Site) (p : Pred) (tdc : Fin 64) (set arr : Fin 2) (cnt : CntSel) (gstep : Fin 32) : Statement (.mrd at_ p tdc set arr cnt gstep) := fun h _ _ e => by
  cases e; exact ⟨onSite (Bool.and_eq_true_iff.mp (Bool.and_eq_true_iff.mp h).1).1, arrOk (Bool.and_eq_true_iff.mp (Bool.and_eq_true_iff.mp h).1).2⟩
theorem mrdp (at_ : Site) (p : Pred) (tda tdc : Fin 64) (set arr : Fin 2) (cnt : CntSel) (gstep : Fin 32) : Statement (.mrdp at_ p tda tdc set arr cnt gstep) := fun h _ _ e => by
  cases e; exact ⟨onSite (Bool.and_eq_true_iff.mp h).1, arrOk (Bool.and_eq_true_iff.mp h).2⟩
theorem msav (at_ : Site) (p : Pred) (tdc : Fin 64) (set arr : Fin 2) (cnt : CntSel) : Statement (.msav at_ p tdc set arr cnt) := fun h _ _ e => by
  cases e; exact ⟨onSite (Bool.and_eq_true_iff.mp h).1, arrOk (Bool.and_eq_true_iff.mp h).2⟩
theorem vsetl (at_ : Site) (p : Pred) (gb : Fin 32) (imm : Word) : Statement (.vsetl at_ p gb imm) := fun h _ _ e => by
  cases e; exact ⟨onSite h, rfl⟩
theorem vmov (at_ : Site) (p : Pred) (o : VOp) : Statement (.vmov at_ p o) := fun h _ _ e => by
  cases e; exact ⟨onSite h, rfl⟩
theorem vadd (at_ : Site) (p : Pred) (o : VOp) : Statement (.vadd at_ p o) := fun h _ _ e => by
  cases e; exact ⟨onSite h, rfl⟩
theorem vsub (at_ : Site) (p : Pred) (o : VOp) : Statement (.vsub at_ p o) := fun h _ _ e => by
  cases e; exact ⟨onSite h, rfl⟩
theorem vmul (at_ : Site) (p : Pred) (o : VOp) : Statement (.vmul at_ p o) := fun h _ _ e => by
  cases e; exact ⟨onSite h, rfl⟩
theorem vfma (at_ : Site) (p : Pred) (o : VOp) : Statement (.vfma at_ p o) := fun h _ _ e => by
  cases e; exact ⟨onSite h, rfl⟩
theorem vmin (at_ : Site) (p : Pred) (o : VOp) : Statement (.vmin at_ p o) := fun h _ _ e => by
  cases e; exact ⟨onSite h, rfl⟩
theorem vmax (at_ : Site) (p : Pred) (o : VOp) : Statement (.vmax at_ p o) := fun h _ _ e => by
  cases e; exact ⟨onSite h, rfl⟩
theorem vabs (at_ : Site) (p : Pred) (o : VOp) : Statement (.vabs at_ p o) := fun h _ _ e => by
  cases e; exact ⟨onSite h, rfl⟩
theorem vneg (at_ : Site) (p : Pred) (o : VOp) : Statement (.vneg at_ p o) := fun h _ _ e => by
  cases e; exact ⟨onSite h, rfl⟩
theorem vclt (at_ : Site) (p : Pred) (o : VOp) : Statement (.vclt at_ p o) := fun h _ _ e => by
  cases e; exact ⟨onSite h, rfl⟩
theorem vceq (at_ : Site) (p : Pred) (o : VOp) : Statement (.vceq at_ p o) := fun h _ _ e => by
  cases e; exact ⟨onSite h, rfl⟩
theorem vsel (at_ : Site) (p : Pred) (o : VOp) : Statement (.vsel at_ p o) := fun h _ _ e => by
  cases e; exact ⟨onSite h, rfl⟩
theorem vrint (at_ : Site) (p : Pred) (o : VOp) : Statement (.vrint at_ p o) := fun h _ _ e => by
  cases e; exact ⟨onSite h, rfl⟩
theorem vperm (at_ : Site) (p : Pred) (o : VOp) : Statement (.vperm at_ p o) := fun h _ _ e => by
  cases e; exact ⟨onSite h, rfl⟩
theorem vrcpe (at_ : Site) (p : Pred) (o : VOp) : Statement (.vrcpe at_ p o) := fun h _ _ e => by
  cases e; exact ⟨onSite h, rfl⟩
theorem vrsqe (at_ : Site) (p : Pred) (o : VOp) : Statement (.vrsqe at_ p o) := fun h _ _ e => by
  cases e; exact ⟨onSite h, rfl⟩
theorem vexp2f (at_ : Site) (p : Pred) (o : VOp) : Statement (.vexp2f at_ p o) := fun h _ _ e => by
  cases e; exact ⟨onSite h, rfl⟩
theorem vlog2f (at_ : Site) (p : Pred) (o : VOp) : Statement (.vlog2f at_ p o) := fun h _ _ e => by
  cases e; exact ⟨onSite h, rfl⟩
theorem vexp (at_ : Site) (p : Pred) (o : VOp) : Statement (.vexp at_ p o) := fun h _ _ e => by
  cases e; exact ⟨onSite h, rfl⟩
theorem vexp2 (at_ : Site) (p : Pred) (o : VOp) : Statement (.vexp2 at_ p o) := fun h _ _ e => by
  cases e; exact ⟨onSite h, rfl⟩
theorem vlog (at_ : Site) (p : Pred) (o : VOp) : Statement (.vlog at_ p o) := fun h _ _ e => by
  cases e; exact ⟨onSite h, rfl⟩
theorem vlog2 (at_ : Site) (p : Pred) (o : VOp) : Statement (.vlog2 at_ p o) := fun h _ _ e => by
  cases e; exact ⟨onSite h, rfl⟩
theorem vdiv (at_ : Site) (p : Pred) (o : VOp) : Statement (.vdiv at_ p o) := fun h _ _ e => by
  cases e; exact ⟨onSite h, rfl⟩
theorem vsqrt (at_ : Site) (p : Pred) (o : VOp) : Statement (.vsqrt at_ p o) := fun h _ _ e => by
  cases e; exact ⟨onSite h, rfl⟩
theorem vrsqrt (at_ : Site) (p : Pred) (o : VOp) : Statement (.vrsqrt at_ p o) := fun h _ _ e => by
  cases e; exact ⟨onSite h, rfl⟩
theorem vrcp (at_ : Site) (p : Pred) (o : VOp) : Statement (.vrcp at_ p o) := fun h _ _ e => by
  cases e; exact ⟨onSite h, rfl⟩
theorem vsigmoid (at_ : Site) (p : Pred) (o : VOp) : Statement (.vsigmoid at_ p o) := fun h _ _ e => by
  cases e; exact ⟨onSite h, rfl⟩
theorem vtanh (at_ : Site) (p : Pred) (o : VOp) : Statement (.vtanh at_ p o) := fun h _ _ e => by
  cases e; exact ⟨onSite h, rfl⟩
theorem vsilu (at_ : Site) (p : Pred) (o : VOp) : Statement (.vsilu at_ p o) := fun h _ _ e => by
  cases e; exact ⟨onSite h, rfl⟩
theorem vgelu (at_ : Site) (p : Pred) (o : VOp) : Statement (.vgelu at_ p o) := fun h _ _ e => by
  cases e; exact ⟨onSite h, rfl⟩
theorem vrsum (at_ : Site) (p : Pred) (o : VOp) : Statement (.vrsum at_ p o) := fun h _ _ e => by
  cases e; exact ⟨onSite h, rfl⟩
theorem vrmax (at_ : Site) (p : Pred) (o : VOp) : Statement (.vrmax at_ p o) := fun h _ _ e => by
  cases e; exact ⟨onSite h, rfl⟩
theorem vsoftmax (at_ : Site) (p : Pred) (o : VOp) : Statement (.vsoftmax at_ p o) := fun h _ _ e => by
  cases e; exact ⟨onSite h, rfl⟩
theorem vlogsoftmax (at_ : Site) (p : Pred) (o : VOp) : Statement (.vlogsoftmax at_ p o) := fun h _ _ e => by
  cases e; exact ⟨onSite h, rfl⟩
theorem vrmsnorm (at_ : Site) (p : Pred) (o : VOp) : Statement (.vrmsnorm at_ p o) := fun h _ _ e => by
  cases e; exact ⟨onSite h, rfl⟩
theorem vlnorm (at_ : Site) (p : Pred) (o : VOp) : Statement (.vlnorm at_ p o) := fun h _ _ e => by
  cases e; exact ⟨onSite h, rfl⟩
theorem vdsigmoid (at_ : Site) (p : Pred) (o : VOp) : Statement (.vdsigmoid at_ p o) := fun h _ _ e => by
  cases e; exact ⟨onSite (Bool.and_eq_true_iff.mp h).1, (Bool.and_eq_true_iff.mp h).2⟩
theorem vdtanh (at_ : Site) (p : Pred) (o : VOp) : Statement (.vdtanh at_ p o) := fun h _ _ e => by
  cases e; exact ⟨onSite (Bool.and_eq_true_iff.mp h).1, (Bool.and_eq_true_iff.mp h).2⟩
theorem vdsilu (at_ : Site) (p : Pred) (o : VOp) : Statement (.vdsilu at_ p o) := fun h _ _ e => by
  cases e; exact ⟨onSite (Bool.and_eq_true_iff.mp h).1, (Bool.and_eq_true_iff.mp h).2⟩
theorem vdgelu (at_ : Site) (p : Pred) (o : VOp) : Statement (.vdgelu at_ p o) := fun h _ _ e => by
  cases e; exact ⟨onSite (Bool.and_eq_true_iff.mp h).1, (Bool.and_eq_true_iff.mp h).2⟩
theorem vdsoftmax (at_ : Site) (p : Pred) (o : VOp) : Statement (.vdsoftmax at_ p o) := fun h _ _ e => by
  cases e; exact ⟨onSite (Bool.and_eq_true_iff.mp h).1, (Bool.and_eq_true_iff.mp h).2⟩
theorem vdrmsnorm (at_ : Site) (p : Pred) (o : VOp) : Statement (.vdrmsnorm at_ p o) := fun h _ _ e => by
  cases e; exact ⟨onSite (Bool.and_eq_true_iff.mp h).1, (Bool.and_eq_true_iff.mp h).2⟩
theorem vdlnorm (at_ : Site) (p : Pred) (o : VOp) : Statement (.vdlnorm at_ p o) := fun h _ _ e => by
  cases e; exact ⟨onSite (Bool.and_eq_true_iff.mp h).1, (Bool.and_eq_true_iff.mp h).2⟩
theorem dma (at_ : Site) (p : Pred) (td : Fin 64) (gh : Fin 32) (region : Fin 16) (toHbm : Bool) (hstride : BitVec 16) (cnt : CntSel) : Statement (.dma at_ p td gh region toHbm hstride cnt) := fun h _ _ e => by
  cases e; exact ⟨onSite h, rfl⟩
theorem lsend (at_ : Site) (p : Pred) (td : Fin 64) (chan : BitVec 16) (cnt : CntSel) : Statement (.lsend at_ p td chan cnt) := fun h _ _ e => by
  cases e; exact ⟨onSite h, rfl⟩
theorem lrecv (at_ : Site) (p : Pred) (td : Fin 64) (chan : BitVec 16) (cnt : CntSel) : Statement (.lrecv at_ p td chan cnt) := fun h _ _ e => by
  cases e; exact ⟨onSite h, rfl⟩
theorem lred (at_ : Site) (p : Pred) (td : Fin 64) (chan : BitVec 16) (cnt : CntSel) : Statement (.lred at_ p td chan cnt) := fun h _ _ e => by
  cases e; exact ⟨onSite h, rfl⟩
theorem stsend (at_ : Site) (p : Pred) (td : Fin 64) (buffer : BitVec 16) (cnt : CntSel) : Statement (.stsend at_ p td buffer cnt) := fun h _ _ e => by
  cases e; exact ⟨onSite (Bool.and_eq_true_iff.mp h).1, (Bool.and_eq_true_iff.mp h).2⟩
theorem engineInstrComplete (core : Nat) (engine : Engine) : Statement (.engineInstrComplete core engine) := other rfl
theorem lrecvFilled (at_ : Site) (chan : BitVec 16) (data : List Byte) : Statement (.lrecvFilled at_ chan data) := other rfl
theorem waitSatisfied (at_ : Site) : Statement (.waitSatisfied at_) := other rfl
theorem waitExpired (at_ : Option Site) : Statement (.waitExpired at_) := other rfl
theorem startQueueDequeue (at_ : Site) : Statement (.startQueueDequeue at_) := other rfl
theorem startQueueAppendHeld (at_ : Site) : Statement (.startQueueAppendHeld at_) := other rfl
theorem beatBoundary : Statement .beatBoundary := other rfl
theorem beatMarker (port lane : Nat) (m : BeatMarker) (frac : Fin 8) : Statement (.beatMarker port lane m frac) := other rfl
theorem beatFailover : Statement .beatFailover := other rfl
theorem linkDelayProbe (port lane roundTrip turnaround : Nat) : Statement (.linkDelayProbe port lane roundTrip turnaround) := other rfl
theorem sourceLock (ptpNs : Nat) : Statement (.sourceLock ptpNs) := other rfl
theorem sourceLockLoss : Statement .sourceLockLoss := other rfl
theorem beatPpsIn (err : Int) : Statement (.beatPpsIn err) := other rfl
theorem ptpSync (domain : Nat) (offset : Int) : Statement (.ptpSync domain offset) := other rfl
theorem enum (f : EnumIn) : Statement (.enum f) := other rfl
theorem strap (entries : List Straps) : Statement (.strap entries) := other rfl
theorem ebeat (count : Nat) : Statement (.ebeat count) := other rfl
theorem vineState (entries : List Nat) : Statement (.vineState entries) := other rfl
theorem ping (j : Nat) : Statement (.ping j) := other rfl
theorem xfer (x : Xfer) (crc : Word) (sig : BankSig) : Statement (.xfer x crc sig) := other rfl
theorem enumTimeout : Statement .enumTimeout := other rfl
theorem enumRepeat : Statement .enumRepeat := other rfl
theorem podFaultN (cycles start : Nat) : Statement (.podFaultN cycles start) := other rfl
theorem hello (port lane : Nat) (h : Hello) : Statement (.hello port lane h) := other rfl
theorem helloSend : Statement .helloSend := other rfl
theorem formationPhaseStart (p : PhaseStart) : Statement (.formationPhaseStart p) := other rfl
theorem joinRecord (r : JoinRec) : Statement (.joinRecord r) := other rfl
theorem lockRecord (devices : List Nat) : Statement (.lockRecord devices) := other rfl
theorem announcement (a : Announce) : Statement (.announcement a) := other rfl
theorem joinBeat : Statement .joinBeat := other rfl
theorem joinTimeout : Statement .joinTimeout := other rfl
theorem ready (origin : Nat) (r : ReadyRec) : Statement (.ready origin r) := other rfl
theorem commitMarker (m : Marker) : Statement (.commitMarker m) := other rfl
theorem commitTimeout (job : Nat) : Statement (.commitTimeout job) := other rfl
theorem commitBeat (job : Nat) : Statement (.commitBeat job) := other rfl
theorem hostedCopyAck (job version : Nat) : Statement (.hostedCopyAck job version) := other rfl
theorem startReady (job origin : Nat) : Statement (.startReady job origin) := other rfl
theorem startRecord (job form beat : Nat) : Statement (.startRecord job form beat) := other rfl
theorem startBeat (job : Nat) : Statement (.startBeat job) := other rfl
theorem chunk (m : Sent Chunk) : Statement (.chunk m) := other rfl
theorem stragglerDeadline (chan idx : Nat) : Statement (.stragglerDeadline chan idx) := other rfl
theorem exchTimeout (chan : Nat) : Statement (.exchTimeout chan) := other rfl
theorem fuuUpdate (chan : Nat) : Statement (.fuuUpdate chan) := other rfl
theorem parameterChunk (m : Sent ParamChunk) : Statement (.parameterChunk m) := other rfl
theorem receiptStart (stage : Nat) : Statement (.receiptStart stage) := other rfl
theorem sparseList (chan : Nat) (l : SparseList) : Statement (.sparseList chan l) := other rfl
theorem stemPacketStart (port : Fin 4) : Statement (.stemPacketStart port) := other rfl
theorem stemArrival (buffer : Nat) : Statement (.stemArrival buffer) := other rfl
theorem creditReturn (buffer : Nat) : Statement (.creditReturn buffer) := other rfl
theorem lossJobStart (id step mb : Nat) : Statement (.lossJobStart id step mb) := other rfl
theorem lossExchange (id mb row origin : Nat) (x : LossExch) : Statement (.lossExchange id mb row origin x) := other rfl
theorem lossJobComplete : Statement .lossJobComplete := other rfl
theorem acceptanceJob (ctx : Fin 8) (slot : Nat) : Statement (.acceptanceJob ctx slot) := other rfl
theorem draftSample (ctx : Fin 8) (slot id row : Nat) : Statement (.draftSample ctx slot id row) := other rfl
theorem lookupJob (msd : Fin 6) (list : BagSrc) (bags chan statusOff doneCnt : Nat) : Statement (.lookupJob msd list bags chan statusOff doneCnt) := other rfl
theorem remoteLookup (msd : Fin 6) (origin serial bag table : Nat) (pool : Pool) (rows : List (Nat × Word)) : Statement (.remoteLookup msd origin serial bag table pool rows) := other rfl
theorem remotePartial (serial bag dev : Nat) (p : BagPartial) : Statement (.remotePartial serial bag dev p) := other rfl
theorem forwardAppend (stage step mb layer : Nat) : Statement (.forwardAppend stage step mb layer) := other rfl
theorem backwardAppend (stage step mb layer : Nat) : Statement (.backwardAppend stage step mb layer) := other rfl
theorem compose (ctx : Fin 8) : Statement (.compose ctx) := other rfl
theorem batchStepEnd (ctx : Fin 8) (id : Nat) (ranks : List RankScores) : Statement (.batchStepEnd ctx id ranks) := other rfl
theorem deadline (ctx : Fin 8) (slot : Nat) : Statement (.deadline ctx slot) := other rfl
theorem ringHold (ctx : Fin 8) (slot : Nat) : Statement (.ringHold ctx slot) := other rfl
theorem pauseComplete (ctx : Fin 8) (slot core entry : Nat) : Statement (.pauseComplete ctx slot core entry) := other rfl
theorem summaryTtl (conv : Nat) : Statement (.summaryTtl conv) := other rfl
theorem accountingWindow : Statement .accountingWindow := other rfl
theorem sample (f : Frame) (ctx slot sampleId : Nat) (data : List Byte) : Statement (.sample f ctx slot sampleId data) := other rfl
theorem req (f : Frame) (ctx slot : Nat) (data : List Byte) : Statement (.req f ctx slot data) := other rfl
theorem ack (f : Frame) (ctx slot cons : Nat) : Statement (.ack f ctx slot cons) := other rfl
theorem ackOnly (f : Frame) : Statement (.ackOnly f) := other rfl
theorem ackOnlySend (session : Nat) : Statement (.ackOnlySend session) := other rfl
theorem retransmitTimeout (session psn : Nat) : Statement (.retransmitTimeout session psn) := other rfl
theorem sessionIdleTimeout (session : Nat) : Statement (.sessionIdleTimeout session) := other rfl
theorem pcsSearch : Statement .pcsSearch := other rfl
theorem alignmentLoss : Statement .alignmentLoss := other rfl
theorem pfcFrame (prio quanta : Nat) : Statement (.pfcFrame prio quanta) := other rfl
theorem addressDuplicate (kind : Fin 3) : Statement (.addressDuplicate kind) := other rfl
theorem init (authority : Authority) (client : Nat) (x : InitKeys) (kemOk reservedOk busy : Bool) : Statement (.init authority client x kemOk reservedOk busy) := other rfl
theorem prove (f : Frame) (proof : Proof) (sig : SigInfo) : Statement (.prove f proof sig) := other rfl
theorem close (f : Frame) : Statement (.close f) := other rfl
theorem cancel (f : Frame) (ctx slot : Nat) : Statement (.cancel f ctx slot) := other rfl
theorem streamResume (f : Frame) (ctx slot : Nat) : Statement (.streamResume f ctx slot) := other rfl
theorem switch (f : Frame) (entry : Nat) : Statement (.switch f entry) := other rfl
theorem drainComplete : Statement .drainComplete := other rfl
theorem drainTimeout : Statement .drainTimeout := other rfl
theorem restart (f : Frame) (job : Nat) (replay : Bool) (vEnd : Nat) (ext : Option Nat) (excl : List Exclusion) : Statement (.restart f job replay vEnd ext excl) := other rfl
theorem rejoin (f : Frame) : Statement (.rejoin f) := other rfl
theorem drain (f : Frame) : Statement (.drain f) := other rfl
theorem ticket (f : Frame) (client : Nat) (key : Digest) : Statement (.ticket f client key) := other rfl
theorem storageKey (f : Frame) (key : Digest) : Statement (.storageKey f key) := other rfl
theorem pfcSet (f : Frame) (on : Bool) (prio : Nat) : Statement (.pfcSet f on prio) := other rfl
theorem husk (f : Frame) (h : Husk) : Statement (.husk f h) := other rfl
theorem peerLoad (dst : Option Nat) (h : Husk) (srcs : List (List HuskChunk)) : Statement (.peerLoad dst h srcs) := other rfl
theorem huskRemove (f : Frame) (id : Digest) : Statement (.huskRemove f id) := other rfl
theorem meterGrant (f : Frame) (g : Grant) : Statement (.meterGrant f g) := other rfl
theorem meterRequest (st : Fin 10) : Statement (.meterRequest st) := other rfl
theorem adapterLoad (f : Frame) (a : AdapterObj) : Statement (.adapterLoad f a) := other rfl
theorem adapterRemove (f : Frame) (ident : Nat) (teacher : Bool) : Statement (.adapterRemove f ident teacher) := other rfl
theorem maskLoad (f : Frame) (id : Nat) (data : List Byte) : Statement (.maskLoad f id data) := other rfl
theorem maskRemove (f : Frame) (id : Nat) : Statement (.maskRemove f id) := other rfl
theorem summaryExport (f : Frame) (conv : Nat) : Statement (.summaryExport f conv) := other rfl
theorem summaryImport (f : Frame) (exportId : Digest) (data : List Byte) (tags : List (BitVec 128)) : Statement (.summaryImport f exportId data tags) := other rfl
theorem summaryDrop (f : Frame) (conv : Nat) : Statement (.summaryDrop f conv) := other rfl
theorem ownerClaim (r : OwnerClaim) (sig : SigInfo) (reservedOk : Bool) : Statement (.ownerClaim r sig reservedOk) := other rfl
theorem ownerTransfer (f : Frame) (next signer : Digest) (sig : SigInfo) : Statement (.ownerTransfer f next signer sig) := other rfl
theorem read (f : Frame) (off count : Nat) (meas : List Nat) : Statement (.read f off count meas) := other rfl
theorem errRejectNew (events : Nat) : Statement (.errRejectNew events) := other rfl
theorem firmwareBank (f : Frame) (fw : Firmware) : Statement (.firmwareBank f fw) := other rfl
theorem imageBank (f : Frame) (i : Image) : Statement (.imageBank f i) := other rfl
theorem planSlot (f : Frame) (slot : Nat) (p : Plan) : Statement (.planSlot f slot p) := other rfl
theorem planForSwitch (f : Frame) (p : Plan) : Statement (.planForSwitch f p) := other rfl
theorem bankWriteComplete : Statement .bankWriteComplete := other rfl
theorem ckpt (f : Frame) (job role : Nat) (exportId : Digest) (part : List Byte) (m : Option Manifest) (tags : List (BitVec 128)) : Statement (.ckpt f job role exportId part m tags) := other rfl
theorem attest (q : AttestReq) (reservedOk busy : Bool) : Statement (.attest q reservedOk busy) := other rfl
theorem keyDerivation : Statement .keyDerivation := other rfl
theorem faultNotice (from_ job attempt : Nat) (f : FaultRec) : Statement (.faultNotice from_ job attempt f) := other rfl
theorem haltedReport (r : HaltedRep) : Statement (.haltedReport r) := other rfl
theorem haltSettle (job : Nat) (m : SettleMsg) : Statement (.haltSettle job m) := other rfl
theorem restoreComplete (job from_ : Nat) (src : RestoreSrc) (recovery : Bool) : Statement (.restoreComplete job from_ src recovery) := other rfl
theorem restoreTimeout (job : Nat) : Statement (.restoreTimeout job) := other rfl
theorem journalDurable (burnOk : Bool) : Statement (.journalDurable burnOk) := other rfl
theorem compaction : Statement .compaction := other rfl
theorem compactionComplete : Statement .compactionComplete := other rfl
theorem pwrEnRise (lowMs : Nat) : Statement (.pwrEnRise lowMs) := other rfl
theorem pwrEnFall : Statement .pwrEnFall := other rfl
theorem resetNAssert : Statement .resetNAssert := other rfl
theorem resetNRise (st : Straps) (nvmPresN torn : Bool) : Statement (.resetNRise st nvmPresN torn) := other rfl
theorem bootConfigure : Statement .bootConfigure := other rfl
theorem vinOutOfRange : Statement .vinOutOfRange := other rfl
theorem vinRecovery : Statement .vinRecovery := other rfl
theorem pwrcapNFall : Statement .pwrcapNFall := other rfl
theorem pwrcapNRise : Statement .pwrcapNRise := other rfl
theorem thermAlert : Statement .thermAlert := other rfl
theorem thermAlertRelease : Statement .thermAlertRelease := other rfl
theorem thermalTrip (idx : Nat) : Statement (.thermalTrip idx) := other rfl
theorem thermalShutdown : Statement .thermalShutdown := other rfl
theorem hbmUncorrectable (addr : Nat) : Statement (.hbmUncorrectable addr) := other rfl
theorem sramUncorrectable (unit : Nat) : Statement (.sramUncorrectable unit) := other rfl
theorem linkDown (port lane : Nat) : Statement (.linkDown port lane) := other rfl
theorem localCopyComplete (job : Nat) : Statement (.localCopyComplete job) := other rfl
theorem hostedCopy (job role version : Nat) (part : List Byte) : Statement (.hostedCopy job role version part) := other rfl
theorem rowShadowCopyComplete (table : Nat) : Statement (.rowShadowCopyComplete table) := other rfl
theorem halfEraseComplete : Statement .halfEraseComplete := other rfl
theorem joinableLimit : Statement .joinableLimit := other rfl
theorem pcsAlignmentLock : Statement .pcsAlignmentLock := other rfl
theorem osfpModuleEvent (present appOk dpFault : Bool) (modState dpState : Nat) : Statement (.osfpModuleEvent present appOk dpFault modState dpState) := other rfl
theorem pfcPauseExpiry : Statement .pfcPauseExpiry := other rfl

end Sys2Proof.Laws.OnCore
end

