-- ==== Sys2Proof/Laws/Sealing.lean ====
section
/-!
SUPPORT. What is sealed opens again under the same key, nonce and additional data (R437, R451).
-/

namespace Sys2Proof.Machine

@[simp] theorem gcmCrypt_length (key : Digest) (nonce l : List Byte) : (gcmCrypt key nonce l).length = l.length := by simp [gcmCrypt]

/-- Encryption and decryption are one operation. -/
@[simp] theorem gcmCrypt_gcmCrypt (key : Digest) (nonce l : List Byte) : gcmCrypt key nonce (gcmCrypt key nonce l) = l := by
  apply List.ext_getElem (by simp)
  intro i h1 h2
  simp [gcmCrypt, BitVec.xor_assoc]

/-- A sealed block opens with its tag. -/
@[simp] theorem gcmOpen_gcmSeal (key : Digest) (nonce aad l : List Byte) :
    gcmOpen key nonce aad (gcmSeal key nonce aad l).1 (gcmSeal key nonce aad l).2 = some l := by simp [gcmOpen, gcmSeal]

/-- An export of one block opens with the tag of that block. -/
theorem openExport_one {base exportId : Digest} {label l : List Byte} (h : 0 < l.length) (k : l.length ≤ 8192) :
    let x := gcmSeal (exportKey base exportId label) (natBe 12 0) [] l
    openExport base exportId label x.1 [x.2] = some l := by
  intro x
  have n : x.1.length = l.length := by simp [x, gcmSeal]
  have e : blocksOf 8192 x.1 = [x.1] := by
    have : (x.1.length + 8192 - 1) / 8192 = 1 := by omega
    rw [blocksOf, this]
    simp [List.range_succ, List.take_of_length_le (show x.1.length ≤ 8192 by omega)]
  have o : gcmOpen (exportKey base exportId label) (natBe 12 0) [] x.1 x.2 = some l := gcmOpen_gcmSeal ..
  simp [openExport, e, o]

/-- One whose tags are not one for each block does not open. -/
theorem openExport_short {base exportId : Digest} {label l : List Byte} {tags : List (BitVec 128)} (h : (blocksOf 8192 l).length ≠ tags.length) :
    openExport base exportId label l tags = none := by simp [openExport, h]

end Sys2Proof.Machine
end

