-- ==== Sys2Proof/Machine/Moe.lean ====
section
/-!
DEFINITION. The routing step of a teacher mixture-of-experts layer, the capacity of its experts, dispatch and combination (R172 to R174). A
layer's programs perform it with the operations of the cores; no command of its own starts it (log entry 89).
-/

namespace Sys2Proof.Machine

/-- The two modes of route_select. -/
inductive RouteMode where
  | probFirst | logitFirst
deriving DecidableEq, Repr

/-- Inserting a selection by ascending expert index. -/
def insExpert (x : Nat × Num) : List (Nat × Num) → List (Nat × Num)
  | [] => [x]
  | y :: r => if x.1 < y.1 then x :: y :: r else y :: insExpert x r

/-- route_select (R172): the experts of a token in ascending index with their gate weights, or none for a NaN token. -/
def routeSelect (canon : Bool) (g : List Num) (r : Nat) (mode : RouteMode) (renorm : Bool) : Option (List (Nat × Num)) :=
  if g.any Num.isNan then none
  else
    let soft (l : List Num) : List Num := (softmaxRow canon false .one (l.map fun x => (x, true))).ys
    let key := match mode with
      | .probFirst => soft g
      | .logitFirst => g
    let sel := (((sortDesc (key.zipIdx.map fun (v, e) => (e, v))).take r).foldr insExpert [])
    match mode with
    | .probFirst =>
      if renorm then
        let s := (laneTreeSum (sel.map fun e => (e.2, true))).getD (.zero false)
        some (sel.map fun e => (e.1, divV canon e.2 s))
      else some sel
    | .logitFirst => some ((sel.map (·.1)).zip (soft (sel.map (·.2))))

/-- An assignment of a token to an expert: its gate weight, and its row in the expert's buffer, none when it was dropped (R173). -/
structure Assigned where
  expert : Nat
  weight : Num
  row : Option Nat
deriving DecidableEq, Repr

/-- One token's assignments are offered; `full` is the rows that each expert has taken. -/
def offerToken (cap : Nat) (full : List (Nat × Nat)) : List (Nat × Num) → List (Nat × Nat) × List Assigned
  | [] => (full, [])
  | (e, w) :: rest =>
    let n := (aget full e).getD 0
    let (full1, row) := if n < cap then (aput full e (n + 1), some n) else (full, none)
    let (full2, l) := offerToken cap full1 rest
    (full2, ⟨e, w, row⟩ :: l)

/-- The assignments of a source's micro-batch, tokens in ascending position (R173). -/
def offerAll (cap : Nat) (full : List (Nat × Nat)) : List (List (Nat × Num)) → List (List Assigned)
  | [] => []
  | t :: rest =>
    let (full1, l) := offerToken cap full t
    l :: offerAll cap full1 rest

/-- Assignments that found their expert full. -/
def dropped (l : List (List Assigned)) : Nat := (l.flatMap fun t => t.filter fun a => a.row.isNone).length

/-- The buffer of an expert for one source (R174): C rows, of which those beyond the source's count hold +0. -/
def dispatchBuffer (cap width expert : Nat) (tokens : List (List Num)) (l : List (List Assigned)) : List (List Num) :=
  (List.range cap).map fun i =>
    ((tokens.zip l).findSome? fun (x, t) => if t.any fun a => a.expert == expert && a.row == some i then some x else none).getD
      (List.replicate width (.zero false))

/-- The layer output of a token (R174): VFMA in ascending expert index over the assignments that were not dropped, from +0. `out` gives an
expert's output row. -/
def combineToken (width : Nat) (out : Nat → Nat → List Num) (t : List Assigned) : List Num :=
  t.foldl (fun y a => match a.row with
    | none => y
    | some i => (y.zip (out a.expert i)).map fun (v, o) => decode .fp32 (roundRne .fp32 (vFma a.weight o v).1).bits) (List.replicate width (.zero false))

/-- A NaN token's layer output is the canonical NaN in every element (R172). -/
def nanToken (width : Nat) : List Num := List.replicate width .nan

/-- Dropped assignments are counted in CNT_MOE_DROP (R173). -/
def State.countDrops (s : State) (l : List (List Assigned)) : State := s.count cntMoeDrop (dropped l)

end Sys2Proof.Machine
end

