-- ==== Sys2Proof/Machine/Pins.lean ====
section
/-!
DEFINITION. The module's output contacts: their levels in every state (R529, Table 19-8) and the contacts of the high-speed lanes (R523).
-/

namespace Sys2Proof.Machine

/-- The outputs of Table 19-8; `plTx` names a port, `ethTx` a lane, of which 400GBASE-R uses 0 to 3 (R545). -/
inductive Pin where
  | modPrsN
  | pwrGood
  | thermAlertN
  | podFaultN
  | vineDo
  | vineCk
  | plTx (port : Fin 16)
  | ethTx (lane : Fin 8)
  | osfp
  | nvm
deriving DecidableEq, Repr

/-- What a contact carries: a level, an open drain released, high impedance, a squelched pair, or a signal that is driven. -/
inductive Level where
  | low
  | high
  | released
  | highZ
  | squelched
  | driven
deriving DecidableEq, Repr

/-- The level of an output (Table 19-8). Between Vine frames VINE_DO is low (R536), and between its pulses POD_FAULT_N is released (R538); the
frames and pulses themselves are what the device sends. -/
def State.level (s : State) (p : Pin) : Level :=
  let off : Bool := s.dev == .off
  match p with
  | .modPrsN => .low
  | .pwrGood => if !off && s.pwr.good then .high else .low
  | .thermAlertN => if s.powered && s.pwr.alert then .low else .released
  | .podFaultN => .released
  | .vineDo => if off then .highZ else .low
  | .vineCk => if s.powered && s.straps.rootSel && !s.vine.stopped then .driven else .highZ
  | .plTx n => if off then .highZ else if s.powered && (s.portLanes n.val).any (fun x => x.st != 0) then .driven else .squelched
  | .ethTx l => if off then .highZ else if s.powered && s.eth.moduleOk && !(s.eth.mode400 && decide (4 ≤ l.val)) then .driven else .squelched
  | .osfp => if s.powered && s.dev != .boot && s.dev != .hold then .driven else .highZ
  | .nvm => if s.powered && s.nvm.fitted then .driven else .highZ

/-- The connector (J1 to J4) and contact of signal i, from 1 to 6, of lane l of Pliolo port p (R523). -/
def plContact (p : Fin 16) (l : Fin 8) (i : Nat) : Nat × Nat := (1 + p.val / 4, 48 * (p.val % 4) + 6 * l.val + i)

/-- The contact of J5 of signal i, from 1 to 6, of lane l of the Ethernet port (R523). -/
def ethContact (l : Fin 8) (i : Nat) : Nat := 6 * l.val + i

end Sys2Proof.Machine
end

