-- ==== Sys2Proof/Machine/Wire.lean ====
section
/-!
DEFINITION. Byte forms of what travels: Umyan headers in network order, nonces and control bodies, output-ring records, exchange chunks, beat markers,
join records and the port's addresses (R12, R270, R277, R315, R365, R386, R486 to R488, R499, R501). The commands carry the fields that these forms hold (log entry 98).
-/

namespace Sys2Proof.Machine

/-! ## The Umyan header (Table 17-2) -/

/-- The header's fields; `zero` stands for the reserved bytes 3 and 44 to 47. -/
structure UmyanHdr where
  version : BitVec 8 := 1
  cls : BitVec 8
  flags : BitVec 8
  rsv : BitVec 8 := 0
  session : BitVec 32
  psn : BitVec 64
  ackPsn : BitVec 64
  ackMap : BitVec 64
  length : BitVec 16
  window : BitVec 16
  target : BitVec 32
  offset : BitVec 32
  rsvEnd : BitVec 32 := 0
deriving DecidableEq, Repr

/-- The 48 bytes of a header, in network order. -/
def hdrBytes (h : UmyanHdr) : List Byte :=
  natBe 1 h.version.toNat ++ natBe 1 h.cls.toNat ++ natBe 1 h.flags.toNat ++ natBe 1 h.rsv.toNat ++ natBe 4 h.session.toNat ++ natBe 8 h.psn.toNat
    ++ natBe 8 h.ackPsn.toNat ++ natBe 8 h.ackMap.toNat ++ natBe 2 h.length.toNat ++ natBe 2 h.window.toNat ++ natBe 4 h.target.toNat
    ++ natBe 4 h.offset.toNat ++ natBe 4 h.rsvEnd.toNat

/-- The header that the first 48 bytes of a datagram spell. -/
def readHdr (b : List Byte) : Option UmyanHdr :=
  let g (n o : Nat) : BitVec (8 * n) := BitVec.ofNat (8 * n) (beField b o n)
  if b.length < 48 then none
  else some { version := g 1 0, cls := g 1 1, flags := g 1 2, rsv := g 1 3, session := g 4 4, psn := g 8 8, ackPsn := g 8 16, ackMap := g 8 24
              length := g 2 32, window := g 2 34, target := g 4 36, offset := g 4 40, rsvEnd := g 4 44 }

/-- No reserved field is nonzero and CLASS is one of Table 17-3 (R488). DESIGN CHOICE (log entry 102): a VERSION other than 0x01, for which the manual
names no outcome, counts as a nonzero reserved field. -/
def UmyanHdr.reservedOk (h : UmyanHdr) : Bool :=
  h.version == 1 && decide (1 ≤ h.cls.toNat) && decide (h.cls.toNat ≤ 9) && h.flags.toNat / 4 == 0 && h.rsv == 0 && h.rsvEnd == 0

/-- Subtypes that Table 17-5 and R503 give to frames towards the device. -/
def subtypesIn : List Nat :=
  [1, 3, 5, 0x10, 0x11, 0x20, 0x21, 0x22, 0x23, 0x24, 0x25, 0x26, 0x30, 0x31, 0x32, 0x40, 0x41, 0x42, 0x43, 0x44, 0x45, 0x46, 0x50, 0x51]
def UmyanHdr.subtypeOk (h : UmyanHdr) : Bool :=
  if h.cls = 5 then subtypesIn.contains h.target.toNat else if h.cls = 6 then h.target == 2 else true

/-- The fields of a data frame's command, from its header and the outcome of its tag. -/
def UmyanHdr.frame (h : UmyanHdr) (tagOk : Bool) : Frame :=
  { session := h.session.toNat, psn := h.psn.toNat, ackPsn := h.ackPsn.toNat, ackMap := h.ackMap, window := h.window.toNat, last := h.flags.getLsbD 1
    length := h.length.toNat, offset := h.offset.toNat, tagOk, reservedOk := h.reservedOk, subtypeOk := h.subtypeOk }

/-- The nonce of a sealed frame: DIR, SPACE, two zero bytes and PSN (R488). -/
def nonce (fromDevice ackOnly : Bool) (psn : Nat) : List Byte :=
  [if fromDevice then 1 else 0, if ackOnly then 1 else 0, 0, 0] ++ natBe 8 psn

/-- Whether a datagram is sealed: any but ATTEST frames, and CTRL frames outside a session (R487). -/
def UmyanHdr.sealed (h : UmyanHdr) : Bool := !(h.cls == 9 || (h.cls == 5 && h.session == 0))

/-- The fields and the payload of a sealed datagram that arrives: `tagOk` is whether its tag verifies under the session's key, with the whole header as
additional data (R487, R488). -/
def State.readFrame (s : State) (b : List Byte) : Option (Frame × List Byte) :=
  (readHdr b).map fun h =>
    let key := ((s.session h.session.toNat).map SessionSt.keyIn).getD 0
    let n := h.length.toNat
    let l := gcmOpen key (nonce false (h.flags.getLsbD 0) h.psn.toNat) (b.take 48) ((b.drop 48).take n) (BitVec.ofNat 128 (beField b (48 + n) 16))
    (h.frame ((s.session h.session.toNat).isSome && l.isSome), l.getD [])

/-- The datagram of a frame that the device sends on a session: header, sealed payload, tag. -/
def State.sealFrame (s : State) (h : UmyanHdr) (payload : List Byte) : List Byte :=
  let key := ((s.session h.session.toNat).map SessionSt.keyOut).getD 0
  let x := gcmSeal key (nonce true (h.flags.getLsbD 0) h.psn.toNat) (hdrBytes h) payload
  hdrBytes h ++ x.1 ++ natBe 16 x.2.toNat

/-- The tag control word of the 802.1Q tag that every frame carries while PFC is on: the priority, VID 0 (R485). -/
def State.vlanTag (s : State) : Option (BitVec 16) := s.eth.pfc.map fun p => BitVec.ofNat 16 (p % 8 * 2 ^ 13)

/-- Bytes of a frame's UDP payload: header, payload, and the tag of a sealed frame. -/
def UmyanHdr.bytes (h : UmyanHdr) : Nat := 48 + h.length.toNat + if h.sealed then 16 else 0

/-! ## Join records (R386, Table 13-11) -/

/-- The 64 bytes of a join record, in network order. -/
def joinBytes (r : JoinRec) : List Byte :=
  natBe 4 r.address ++ natBe 4 r.devices ++ natBe 4 r.excluded ++ natBe 4 r.firstBad ++ digestBytes r.digest ++ natBe 8 r.beatHwm ++ natBe 2 r.code
    ++ List.replicate 6 0

/-! ## Frames that the device sends -/

/-- CLASS, TARGET and OFFSET of a frame from the device (Table 17-3). -/
def outPlace : FrameOut → Nat × Nat × Nat
  | .status .. => (5, 6, 0)
  | .opened _ => (5, 4, 0)
  | .stream t i _ => (3, t, i)
  | .report _ => (6, 1, 0)
  | .values _ => (6, 2, 0)
  | .ckpt r b .. => (8, r, b)
  | .manifest _ => (8, 0, 0)
  | .summary b .. => (5, 0x45, b)

/-- The bytes of an output-ring record (Table 11-7). -/
def ringBytes (r : RingRec) : List Byte :=
  natLe 1 r.type ++ natLe 1 r.flags ++ natLe 2 r.code ++ natLe 4 r.pos ++ natLe 4 r.value ++ natLe 4 r.aux

/-- The body of a report (R503): status code, reporting address, and the detail record where the manual lays it out. -/
def reportPayload (r : Report) : List Byte :=
  natBe 2 r.code ++ natBe 4 r.addr ++ match r.detail with
    | .join j => joinBytes j
    | .fault f => faultBytes f
    | _ => []

/-- The payload of the frames whose body this chapter lays out: the STATUS notice of Table 17-5, OPEN, STREAM, the values of a READ, and the blocks of an
object. -/
def outPayload : FrameOut → Option (List Byte)
  | .status c code t p => some (natBe 1 c ++ [0] ++ natBe 2 code ++ natBe 4 t ++ natBe 8 p)
  | .opened code => some (natBe 2 code)
  | .stream _ _ l => some (l.flatMap ringBytes)
  | .values v => some (v.flatMap (natBe 4))
  | .ckpt _ _ _ data _ => some data
  | .summary _ _ data _ => some data
  | .report r => some (reportPayload r)
  | .manifest m => some (manifestBytes m)

/-- The header of a data frame that a session sends (R487, R494): every frame acknowledges. -/
def State.outHdr (s : State) (id psn : Nat) (w : FrameOut) (length : Nat) (last : Bool) : UmyanHdr :=
  let x := (s.session id).getD {}
  let (c, t, o) := outPlace w
  { cls := BitVec.ofNat 8 c, flags := if last then 2 else 0, session := BitVec.ofNat 32 id, psn := BitVec.ofNat 64 psn, ackPsn := BitVec.ofNat 64 x.rx
    ackMap := x.ackMap, length := BitVec.ofNat 16 length, window := BitVec.ofNat 16 rxWindow, target := BitVec.ofNat 32 t, offset := BitVec.ofNat 32 o }

/-- The header of an ACK_ONLY frame (R494). -/
def ackOnlyHdr (id psn ack : Nat) (m : DWord) : UmyanHdr :=
  { cls := 4, flags := 1, session := BitVec.ofNat 32 id, psn := BitVec.ofNat 64 psn, ackPsn := BitVec.ofNat 64 ack, ackMap := m, length := 0
    window := BitVec.ofNat 16 rxWindow, target := 0xFFFFFFFF, offset := 0 }

/-! ## Control bodies (Table 17-5, R499) -/

/-- The body of a frame without an object that its payload spells; none where this chapter gives it no bytes or they are too few. -/
def readBody (cls target : Nat) (b : List Byte) : Option FrameBody :=
  let ctx := target / 2 ^ 29
  let slot := target % 2 ^ 29
  let g (o n : Nat) : Nat := beField b o n
  let need (n : Nat) (x : FrameBody) : Option FrameBody := if b.length < n then none else some x
  match cls with
  | 1 => some (.sample ctx slot (leField b 0 8) b)
  | 2 => some (.req ctx slot b)
  | 4 => need 4 (.ack ctx slot (g 0 4))
  | 5 => match target with
    | 0x05 => some .close
    | 0x10 => need 8 (.cancel (g 0 1) (g 4 4))
    | 0x11 => need 8 (.resume (g 0 1) (g 4 4))
    | 0x20 => need 1 (.switch (g 0 1))
    | 0x22 => some .rejoin
    | 0x23 => some .drain
    | 0x24 => need 36 (.ticket (g 0 2) (BitVec.ofNat 256 (g 4 32)))
    | 0x25 => need 32 (.storageKey (BitVec.ofNat 256 (g 0 32)))
    | 0x26 => need 2 (.pfcSet (g 0 1 == 1) (g 1 1))
    | 0x31 => need 32 (.huskRemove (BitVec.ofNat 256 (g 0 32)))
    | 0x42 => need 4 (.maskLoad (g 0 4) (b.drop 4))
    | 0x43 => need 4 (.maskRemove (g 0 4))
    | 0x44 => need 8 (.summaryExport (g 0 8))
    | 0x46 => need 8 (.summaryDrop (g 0 8))
    | _ => none
  | _ => none

/-! ## Exchange chunks (R270, Tables 10-3, 10-5) -/

def kindCode : ChunkKind → Nat
  | .gradient => 1 | .parameters => 2 | .lowP => 3 | .lowR => 4 | .lowPhQ => 5

/-- The 32 bytes of a chunk header, little-endian. -/
def chunkHdr (chan kind flags idx step count chunk elems : Nat) : List Byte :=
  natLe 2 chan ++ natLe 1 kind ++ natLe 1 flags ++ natLe 2 idx ++ natLe 2 0 ++ natLe 8 step ++ natLe 4 count ++ natLe 4 chunk ++ natLe 4 elems ++ natLe 4 0

/-- An exact element (Table 10-5). -/
def exactBytes (e : ExactEl) : List Byte :=
  natLe 40 (e.acc % 2 ^ 320).toNat ++ natLe 1 (e.nan.toNat + 2 * e.pinf.toNat + 4 * e.ninf.toNat + 8 * e.negz.toNat) ++ List.replicate 7 0

def payloadBytes : Payload → List Byte
  | .fp32 w => w.flatMap fun v => natLe 4 v.toNat
  | .exact e => e.flatMap exactBytes
  | .none => []

/-- Padding with zeros to a multiple of 128 bytes (R270). -/
def pad128 (b : List Byte) : List Byte := b ++ List.replicate ((128 - b.length % 128) % 128) 0

/-- FLAGS of a chunk. -/
def chunkFlags (c : Chunk) : Nat :=
  c.nonfinite.toNat + 2 * c.check.toNat + 4 * c.carry.toNat + 8 * (match c.payload with | .exact _ => 1 | _ => 0)

def chunkBytes (c : Chunk) : List Byte :=
  chunkHdr c.chan (kindCode c.kind) (chunkFlags c) c.idx c.step c.count c.chunk c.elems ++ pad128 (payloadBytes c.payload)

/-- A parameter chunk (R279): KIND 0x02, BF16 elements, and the version in STEP. -/
def paramBytes (c : ParamChunk) : List Byte :=
  chunkHdr c.chan 2 0 c.idx c.version 0 (c.off / 2048) c.elems ++ pad128 (c.vals.flatMap fun v => natLe 2 v.toNat)

/-! ## Beat markers (R365, Table 13-4) -/

/-- The 32 bytes of a beat marker, in network order. -/
def markerBytes (m : BeatMarker) : List Byte :=
  natBe 1 1 ++ natBe 1 (m.secondary.toNat + 2 * m.altRoot.toNat + 4 * m.refLost.toNat) ++ natBe 1 m.depth ++ natBe 1 m.periodCode ++ natBe 4 m.origin
    ++ natBe 8 m.beat ++ natBe 4 m.form ++ natBe 4 m.sender ++ List.replicate 8 0

/-! ## The port's addresses (R486) -/

/-- The MAC address: 0x02, then bytes 0 to 4 of DEVICE_ID. -/
def State.macAddr (s : State) : List Byte := 0x02 :: (digestBytes s.deviceId).take 5
/-- The IPv6 interface identifier: bytes 0 to 7 of DEVICE_ID with bit 1 of byte 0 cleared. -/
def State.interfaceId (s : State) : List Byte :=
  match (digestBytes s.deviceId).take 8 with
  | [] => []
  | b :: r => (b &&& 0xFD) :: r
/-- The port's IP addresses: link-local, under IPV6_PREFIX, and IPv4; none where the image or the state gives none, or where it is a duplicate. -/
def State.ipAddr (s : State) (kind : Fin 3) : Option (List Byte) :=
  if !s.addressFormed kind || s.eth.dup.contains kind.val then none
  else match kind with
    | 0 => some ([0xFE, 0x80] ++ List.replicate 6 0 ++ s.interfaceId)
    | 1 => some (natBe 8 s.img.ipv6Prefix.toNat ++ s.interfaceId)
    | 2 => some (natBe 4 (s.img.ipv4Base.toNat + s.addr))

end Sys2Proof.Machine
end

