-- ==== Sys2Proof/Tests/Holds.lean ====
section
/-!
SUPPORT. How the tests evaluate a decidable statement.
-/

namespace Sys2Proof.Tests

/-- A statement that the kernel evaluates to true. -/
theorem holdsNow {p : Prop} [Decidable p] (h : decide p = true := by decide +kernel) : p := of_decide_eq_true h

end Sys2Proof.Tests
end

