-- ==== Sys2Proof/Tests/WitnessCore.lean ====
section
/-!
SUPPORT. Witnesses: for each statement with hypotheses about cores and their engines, concrete states and operands that meet them, clause by clause.
-/

namespace Sys2Proof.Tests
open Machine

set_option Elab.async false

/-- A T-core, an S-core, and context slot 0 on each. -/
def tSite : Site := ⟨0, 0⟩
def sSite : Site := ⟨9216, 0⟩
/-- p0, which reads 1: as it stands, and inverted. -/
def always : Pred := ⟨0, false⟩
def never : Pred := ⟨0, true⟩

/-- A context with a program in progress. -/
def runCtx : CtxSt := { running := true, vl := 64, g := (Vector.replicate 32 0).set 1 5 }

/-- Context 0 of both cores runs a program, with this context state. -/
def runWith (x : CtxSt) : State := (State.reset.setCtx tSite x).setCtx sSite x
def run : State := runWith runCtx

/-- A plan in which context 0 owns 64 KiB of every scratchpad. -/
def ctx0 : CtxRec := { ctx := 0, kind := .training, be := false, partner := 0, waitLimit := 8, tSpBase := 0, tSpSize := 65536, sSpBase := 0, sSpSize := 65536, tImBase := 0, tImSize := 16, sImBase := 0, sImSize := 16, remote := [] }
def plan0 : Plan := { contexts := [ctx0] }
def runPlan : State := { run with plan := some plan0 }

theorem issues_of {s : State} {a : Site} {p : Pred} (h : (decide (a.core < Config.numCores) && (s.ctxAt a).running && (s.ctxAt a).wait.isNone
    && !(s.ctxAt a).halted && s.hasTurn a && ((s.ctxAt a).preg p.pred != p.pneg)) = true) : Issues s a p := by
  simp only [Bool.and_eq_true, decide_eq_true_eq, Option.isNone_iff_eq_none, Bool.not_eq_true'] at h
  exact ⟨⟨h.1.1.1.1.1, h.1.1.1.1.2, h.1.1.1.2, h.1.1.2, h.1.2⟩, h.2⟩

theorem accepts_of {s : State} {a : Site} {op : EngOp} (h : (!(s.core a.core).holds a.ctx (srcRanges op) (dstRanges op)
    && decide ((s.core a.core).incomplete a.ctx < 16) && (s.rangeCode a (srcRanges op) (dstRanges op)).isNone && !op.overlaps) = true) :
    s.accepts a op := by
  simp only [Bool.and_eq_true, decide_eq_true_eq, Option.isNone_iff_eq_none, Bool.not_eq_true'] at h
  exact ⟨h.1.1.1, h.1.1.2, h.1.2, h.2⟩

theorem run_issues : Issues run tSite always ∧ Issues run sSite always := ⟨issues_of holdsNow, issues_of holdsNow⟩
theorem runPlan_issues : Issues runPlan tSite always ∧ Issues runPlan sSite always := ⟨issues_of holdsNow, issues_of holdsNow⟩

theorem witness_StepRunsTheFrontCommand : ({ run with pending := [.nop tSite always] } : State).pending = .nop tSite always :: [] ∧
    run.pending = [] := ⟨rfl, rfl⟩

theorem witness_EveryStepKeepsOk : State.reset.Ok ∧ ∃ t, step { State.reset with pending := [.nop tSite always] } = .next t :=
  ⟨⟨rfl, fun _ h => absurd h List.not_mem_nil⟩, _, rfl⟩

theorem witness_NothingIsUndone : ∃ t, exec (.movi tSite always 3 7) run = .next t := ⟨_, rfl⟩

/-- Scalar and branch results: all clauses but those of LOOP and ENDLOOP need only that the instruction issues. -/
theorem witness_ScalarAndBranchResults :
    let one := runWith { runCtx with loops := [(1, 4)] }
    let two := runWith { runCtx with loops := [(2, 4)] }
    Issues run tSite always ∧ (run.ctxAt tSite).greg 0 + 0 = 0 ∧ (run.ctxAt tSite).greg 1 + 0 ≠ 0 ∧ (run.ctxAt tSite).loops.length < 4 ∧
    Issues one tSite always ∧ (one.ctxAt tSite).loops = [(1, 4)] ∧ Issues two tSite always ∧ (two.ctxAt tSite).loops = [(2, 4)] :=
  ⟨run_issues.1, holdsNow, holdsNow, holdsNow, issues_of holdsNow, holdsNow,
    issues_of holdsNow, holdsNow⟩

theorem witness_CompareAndRegisterWrites : Issues run tSite always := run_issues.1

theorem witness_UnexecutedOnlyAdvances :
    (Instr.mmat sSite never 0 0 0 0 0 .empty ⟨0, false⟩).header = some (sSite, never) ∧
    (Instr.mmat sSite never 0 0 0 0 0 .empty ⟨0, false⟩).present = true ∧ CanIssue run sSite ∧
    ((run.ctxAt sSite).preg never.pred != never.pneg) = false := ⟨rfl, holdsNow, run_issues.2.toCanIssue, holdsNow⟩

/-- Idle after reset, with a wait, halted, with context 0 of the same core before it; and a core that the device does not have. -/
theorem witness_WaitingContextIssuesNothing :
    let nops : ProgRec := ⟨0, [0], [0], 0, []⟩
    let two : State := { run.setCtx ⟨0, 1⟩ runCtx with plan := some { plan0 with programs := [nops] } }
    (Instr.nop tSite always).header = some (tSite, always) ∧ tSite.core < Config.numCores ∧ (State.reset.ctxAt tSite).running = false ∧
    ((runWith { runCtx with wait := some ⟨.beat 9, 0⟩ }).ctxAt tSite).wait ≠ none ∧ ((runWith { runCtx with halted := true }).ctxAt tSite).halted = true ∧
    (Instr.nop ⟨0, 1⟩ always).header = some (⟨0, 1⟩, always) ∧ two.hasTurn ⟨0, 1⟩ = false ∧
    (Instr.nop ⟨10368, 0⟩ always).header = some (⟨10368, 0⟩, always) ∧ Config.numCores ≤ 10368 :=
  ⟨rfl, holdsNow, holdsNow, holdsNow, holdsNow, rfl, holdsNow, rfl, holdsNow⟩

theorem witness_RegisterFrames : (∃ t, exec (.add tSite always 3 1 2 7) run = .next t) ∧ (∃ t, exec (.cmp tSite always 3 .eq 1 2 7) run = .next t) ∧
    (∃ t, exec (.nop tSite always) run = .next t) := ⟨⟨_, rfl⟩, ⟨_, rfl⟩, ⟨_, rfl⟩⟩

/-- A buffer released by counter 2 of the S-core with one slot occupied; a sample table released by counter 4; counter 5 is REMOTE; an exchange channel
bound to counter 6. -/
def relPlan : Plan where
  contexts := [{ ctx0 with remote := [5] }]
  landings := [⟨0, 0, 0, 64, 2, 0, 0, .program, 0, 1, 2, 0⟩]
  data := [⟨0, false, 7, 4, 128, 0, 0, 4, 0, 8⟩]
  counters := [⟨7, sSite, 4⟩, ⟨8, sSite, 6⟩]
  exch := [⟨3, false, 0, 0, 0, 0, 8, [], [], 0⟩]
def relRun (x : CtxSt) : State := { runWith x with plan := some relPlan, bufs := [(0, { sent := 1, arrived := 1 })] }

/-- The increments and targets 0 and 1 on counters that are 0; waits since beat 0 for the target 0 or 1, or for beat 9, with a limit of 8 beats; at beat 9 no action of the beat is due, or a start is. -/
theorem witness_CounterAndWaitResults :
    let s := relRun runCtx
    let c (v : Word) (k : Fin 16) (n : Nat) : State := { relRun { runCtx with wait := some ⟨.counter k v, 0⟩ } with beat := n }
    let b (n : Nat) : State := { relRun { runCtx with wait := some ⟨.beat 9, 0⟩ } with beat := n }
    Issues s sSite always ∧
    (s.overRelease sSite 2 1 = false ∧ s.relBinding sSite 2 = none ∧ s.overRelease sSite 2 2 = true ∧ s.releasedBy sSite 3 = [] ∧
      s.relBinding sSite 3 = none ∧ s.isRemote 0 3 = false ∧ ((s.ctxAt sSite).c[(3 : Fin 16)] - 0).toNat < 2 ^ 31 ∧
      2 ^ 31 ≤ ((s.ctxAt sSite).c[(3 : Fin 16)] - 1).toNat ∧ s.isRemote 0 5 = true) ∧
    (let u := ((s.issued sSite).boundary sSite true).pump sSite.core
     ((u.ctxAt sSite).c[(5 : Fin 16)] - 0).toNat < 2 ^ 31 ∧ 2 ^ 31 ≤ ((u.ctxAt sSite).c[(5 : Fin 16)] - 1).toNat) ∧
    sSite.core < Config.numCores ∧
    (((c 0 3 8).ctxAt sSite).wait = some ⟨.counter 3 0, 0⟩ ∧ ((c 0 3 8).ctxAt sSite).c[(3 : Fin 16)] - 0 = 0 ∧
      ((c 1 3 8).ctxAt sSite).wait = some ⟨.counter 3 1, 0⟩ ∧ 2 ^ 31 ≤ (((c 1 3 8).ctxAt sSite).c[(3 : Fin 16)] - 1).toNat ∧
      (c 1 3 8).exchBound sSite 3 = false ∧ ((c 1 6 8).ctxAt sSite).wait = some ⟨.counter 6 1, 0⟩ ∧ (c 1 6 8).exchBound sSite 6 = true) ∧
    (∀ n, ((b n).ctxAt sSite).wait = some ⟨.beat 9, 0⟩ ∧ (b n).ctxRec 0 = some { ctx0 with remote := [5] } ∧
      (c 1 3 n).ctxRec 0 = some { ctx0 with remote := [5] } ∧ (c 1 3 n).beat = n) ∧
    ((0 + ctx0.waitLimit ≤ (b 8).beat ∧ (b 8).beat < 9) ∧ (b 7).beat < 0 + ctx0.waitLimit ∧ 9 ≤ (b 9).beat) ∧
    ((b 9).actionDue 0 = false ∧
      ({ b 9 with plan := some { relPlan with jobs := [⟨1, 1, 0, 0, 0, 0, 0, 0, [], [], []⟩] }, jobs := [(1, { st := .starting, startBeat := some 9 })] } : State).actionDue
        0 = true) :=
  ⟨issues_of holdsNow, holdsNow, holdsNow, holdsNow, holdsNow, fun _ => ⟨rfl, rfl, rfl, rfl⟩, holdsNow, holdsNow⟩

/-- An incomplete instruction of context 0 that writes the first 16 bytes. -/
def heldJob : EngJob := { ctx := 0, engines := [.vector], op := .msav {} 0 0, phase := .queued, cnt := ⟨0, false⟩, srcs := [(0, 16)], dsts := [(0, 16)] }
def runHeld : State := runPlan.addJob 0 heldJob

/-- The words at 0, 65,532 (the last of the share) and 65,536 (the first past it). -/
theorem witness_ScratchpadResults :
    Issues runPlan tSite always ∧ Issues runHeld tSite always ∧ ((runPlan.ctxAt tSite).greg 0 + 65532 &&& 0xFFFFFFFC#32).toNat = 65532 ∧
    (runPlan.core 0).holds 0 [(65532, 65536)] [] = false ∧ runPlan.rangeCode tSite [(65532, 65536)] [] = none ∧
    (runPlan.core 0).holds 0 [] [(65532, 65536)] = false ∧ runPlan.rangeCode tSite [] [(65532, 65536)] = none ∧
    (runHeld.core 0).holds 0 [(0, 4)] [] = true ∧ (runHeld.core 0).holds 0 [] [(0, 4)] = true ∧
    (runPlan.core 0).holds 0 [(65536, 65540)] [] = false ∧ runPlan.rangeCode tSite [(65536, 65540)] [] = some 0x6001 ∧
    (runPlan.core 0).holds 0 [] [(65536, 65540)] = false ∧ runPlan.rangeCode tSite [] [(65536, 65540)] = some 0x6001 :=
  ⟨runPlan_issues.1, issues_of holdsNow, holdsNow, holdsNow, holdsNow, holdsNow, holdsNow,
    holdsNow, holdsNow, holdsNow, holdsNow, holdsNow, holdsNow⟩

theorem witness_StoreFrame : Issues runPlan tSite always ∧ ((runPlan.ctxAt tSite).greg 0 + 65532 &&& 0xFFFFFFFC#32).toNat = 65532 ∧
    (runPlan.core 0).holds 0 [] [(65532, 65536)] = false ∧ runPlan.rangeCode tSite [] [(65532, 65536)] = none ∧
    ∃ t, exec (.sts tSite always 0 1 65532) runPlan = .next t :=
  ⟨runPlan_issues.1, holdsNow, holdsNow, holdsNow, _, rfl⟩

theorem witness_SpecialRegisterResults : Issues run tSite always ∧ (30 : Fin 32).val + 1 < 32 ∧ (run.ctxAt tSite).greg 0 + 0 = 0 ∧
    (run.ctxAt tSite).greg 1 + 0 ≠ 0 := ⟨run_issues.1, by decide, holdsNow, holdsNow⟩

/-- The WAITB target g1 × 2^32 + g0 + 0 = 5 × 2^32 is ahead of beat 0; the target 0 has come. Entries are held for the context, behind one of another
context, with an empty queue and with a full one. -/
theorem witness_ProgramBoundaryResults :
    let e : StartEntry := ⟨3, [1, 2, 3, 4], .plain⟩
    let idle := runWith { runCtx with running := false, queue := [e] }
    let halt := runWith { runCtx with running := false, queue := [e], halted := true }
    let held : State := { run with heldEntries := [(sSite, e), (tSite, e)] }
    let full : State := { runWith { runCtx with queue := List.replicate 16 e } with heldEntries := [(tSite, e)] }
    let u := ((run.issued tSite).boundary tSite true).pump tSite.core
    Issues run tSite always ∧
    (((run.ctxAt tSite).greg 0).toNat * 2 ^ 32 + ((run.ctxAt tSite).greg 0).toNat + (0 : Word).toNat ≤ u.beat ∧
      u.beat < ((run.ctxAt tSite).greg 1).toNat * 2 ^ 32 + ((run.ctxAt tSite).greg 0).toNat + (0 : Word).toNat ∧
      (run.core tSite.core).jobs = [] ∧ (run.ctxAt tSite).tag = .plain ∧ (run.ctxAt tSite).ending = [] ∧ u.beat = run.beat) ∧
    (tSite.core < Config.numCores ∧ (idle.ctxAt tSite).running = false ∧ (idle.ctxAt tSite).halted = false ∧ (idle.ctxAt tSite).queue = [e] ∧
      (run.ctxAt tSite).running = true ∧ (halt.ctxAt tSite).halted = true ∧ (State.reset.ctxAt tSite).queue = []) ∧
    held.heldEntries = [(sSite, e)] ++ (tSite, e) :: [] ∧ (∀ h ∈ [(sSite, e)], h.1 ≠ tSite) ∧ (held.ctxAt tSite).queue.length < 16 ∧
    full.heldEntries = [] ++ (tSite, e) :: [] ∧ 16 ≤ (full.ctxAt tSite).queue.length :=
  ⟨run_issues.1, holdsNow, holdsNow, rfl, holdsNow, holdsNow, rfl, holdsNow⟩


/-! ## Engines -/

/-- An operation of each kind on descriptors of one element; the ranges lie in the share of context 0. -/
theorem witness_EngineIssue :
    let t : TileDesc := {}
    Issues runPlan sSite always ∧ Issues runPlan tSite always ∧ (isSCore sSite.core = true ∨ (1 : Fin 2) = 0) ∧ (isSCore tSite.core = true ∨ (0 : Fin 2) = 0) ∧
    isSCore sSite.core = true ∧ isSCore tSite.core = false ∧
    runPlan.accepts sSite (.mma false t t t 0 1 .empty) ∧ runPlan.accepts sSite (.mrd t 0 1 0) ∧ runPlan.accepts sSite (.mrdp t t 0 1) ∧
    runPlan.accepts sSite (.msav t 0 1) ∧ runPlan.accepts sSite (.mma true t t t 0 1 .empty) ∧ runPlan.accepts sSite (.mtwin t t t 0 0 false false) ∧
    runPlan.accepts tSite (.stsend t 0) ∧ runPlan.accepts tSite (.dma t 640 0 false 0) ∧ runPlan.accepts tSite (.lsend t 0) ∧
    runPlan.accepts tSite (.lrecv t 0) ∧ runPlan.accepts tSite (.lred t 0) :=
  ⟨runPlan_issues.2, runPlan_issues.1, holdsNow, holdsNow, holdsNow, holdsNow,
    accepts_of holdsNow, accepts_of holdsNow, accepts_of holdsNow, accepts_of holdsNow,
    accepts_of holdsNow, accepts_of holdsNow, accepts_of holdsNow, accepts_of holdsNow,
    accepts_of holdsNow, accepts_of holdsNow, accepts_of holdsNow⟩

/-- Every operation code, from D = element at 0 with A the element at 4. -/
theorem witness_VectorIssue : Issues runPlan sSite always ∧ isSCore sSite.core = true ∧
    ∀ code ∈ [(0x00 : VOpc), 0x01, 0x02, 0x03, 0x04, 0x05, 0x06, 0x07, 0x08, 0x09, 0x0A, 0x0B, 0x0C, 0x28, 0x10, 0x11, 0x12, 0x13, 0x18, 0x19, 0x1A,
      0x1B, 0x1C, 0x1D, 0x1E, 0x1F, 0x20, 0x21, 0x22, 0x23, 0x30, 0x31, 0x34, 0x35, 0x36, 0x37, 0x38, 0x39, 0x3A, 0x3B, 0x3C, 0x3D, 0x3E],
      runPlan.accepts sSite (.vop code .none {} { base := 4 } {} 0 false 0 0 64) := by
  refine ⟨runPlan_issues.2, holdsNow, ?_⟩
  have h : ([(0x00 : VOpc), 0x01, 0x02, 0x03, 0x04, 0x05, 0x06, 0x07, 0x08, 0x09, 0x0A, 0x0B, 0x0C, 0x28, 0x10, 0x11, 0x12, 0x13, 0x18, 0x19, 0x1A,
      0x1B, 0x1C, 0x1D, 0x1E, 0x1F, 0x20, 0x21, 0x22, 0x23, 0x30, 0x31, 0x34, 0x35, 0x36, 0x37, 0x38, 0x39, 0x3A, 0x3B, 0x3C, 0x3D, 0x3E].all fun code =>
      let op : EngOp := .vop code .none {} { base := 4 } {} 0 false 0 0 64
      !(runPlan.core sSite.core).holds sSite.ctx (srcRanges op) (dstRanges op) && decide ((runPlan.core sSite.core).incomplete sSite.ctx < 16)
        && (runPlan.rangeCode sSite (srcRanges op) (dstRanges op)).isNone && !op.overlaps) = true := holdsNow
  exact fun code hc => accepts_of (List.all_eq_true.mp h code hc)

/-- A held issue, one behind 16 incomplete instructions, one outside the share, and a VOP whose destination begins inside its source. -/
theorem witness_HeldIssue :
    let full := (List.range 16).foldl (fun (s : State) _ => s.addJob 0 { heldJob with srcs := [], dsts := [] }) runPlan
    let out : EngOp := .msav { base := 65536 } 0 0
    let lap : EngOp := .vop 0x00 .none { base := 1 } {} {} 0 false 0 0 64
    Issues runHeld tSite always ∧ (runHeld.core 0).holds 0 (srcRanges (.msav {} 0 0)) (dstRanges (.msav {} 0 0)) = true ∧
    Issues full tSite always ∧ 16 ≤ (full.core 0).incomplete 0 ∧ Issues runPlan tSite always ∧
    ((runPlan.core 0).holds 0 (srcRanges out) (dstRanges out) = false ∧ (runPlan.core 0).incomplete 0 < 16 ∧
      runPlan.rangeCode tSite (srcRanges out) (dstRanges out) = some 0x6001) ∧
    ((runPlan.core 0).holds 0 (srcRanges lap) (dstRanges lap) = false ∧ (runPlan.core 0).incomplete 0 < 16 ∧
      runPlan.rangeCode tSite (srcRanges lap) (dstRanges lap) = none ∧ lap.overlaps = true) :=
  ⟨issues_of holdsNow, holdsNow, issues_of holdsNow, holdsNow, runPlan_issues.1, holdsNow, holdsNow⟩

/-- A queued instruction of context 0 alone on a core. -/
def lone (op : EngOp) : EngJob := { ctx := 0, engines := enginesOf 0 op, op, phase := .queued, cnt := ⟨0, true⟩ }
def queued (n : Nat) (op : EngOp) : State := runPlan.addJob n (lone op)

/-- An operation of each kind alone on a core; a record of class 3 at address 0. -/
theorem witness_EngineStart :
    let t : TileDesc := {}
    let mma (md : AccMode) : EngOp := .mma false t t t 0 0 md
    let v (s : State) (n : Nat) (op : EngOp) : State := s.setCore n ((lone op).owns.foldl (fun q e => q.setOwn e 0) (s.core n))
    let bad : State := { queued 0 (mma .raw) with mem := [(scrAddr 0 80, 0x60)] }
    (∀ op ∈ [mma .empty, .mtwin t t t 0 0 false false, .mrd t 0 0 0, .mrdp t t 0 0, .msav t 0 0, .vop 0x00 .none t t t 0 false 0 0 64,
        .dma t 0 1 true 0, .lsend t 0, .lred t 0, .stsend t 0],
      ((queued 9216 op).core 9216).jobs = [lone op] ∧ (lone op).phase = .queued ∧ (queued 9216 op).pwr.trip = false ∧
      (queued 9216 op).meterCost (lone op) = 0 ∧
      ∀ e ∈ (lone op).owns, ((queued 9216 op).core 9216).own[e] = none ∨ ((queued 9216 op).core 9216).own[e] = some 0) ∧
    (∃ x, (v (queued 9216 (mma .empty)) 9216 (mma .empty)).mmaSet 9216 0 false t t t 0 0 .empty = some x) ∧ (∃ k, vkind 0x00 = some k) ∧
    ((bad.core 0).jobs = [lone (mma .raw)] ∧ bad.pwr.trip = false ∧ bad.meterCost (lone (mma .raw)) = 0 ∧
      (v bad 0 (mma .raw)).mmaSet 0 0 false t t t 0 0 .raw = none) :=
  ⟨holdsNow, ⟨_, rfl⟩, ⟨_, rfl⟩, holdsNow⟩

/-- A started vector operation alone on core 0, which counts in c0; a posted LRECV of context 0 on channel 3, whose sender is elsewhere; and behind
another job, a started LRED, a started VOP, and an LSEND whose receiver on this device has posted nothing. A started DMA alone, inside its region and
outside. -/
theorem witness_EngineCompletion :
    let j : EngJob := { lone (.vop 0x00 .none {} {} {} 0 false 0 0 64) with phase := .started, fl := 1 }
    let s := runPlan.addJob 0 j
    let r : EngJob := { lone (.lrecv {} 3) with phase := .started }
    let ch : ChanRec := { chan := 3, sender := none, receiver := some tSite, route := .pliolo }
    let u : State := { runPlan.addJob 0 r with plan := some { plan0 with channels := [ch] } }
    let on (k : EngJob) : State := { (runPlan.addJob 0 heldJob).addJob 0 k with plan := some { plan0 with channels := [{ ch with sender := some sSite }] } }
    let x : EngJob := { lone (.lred {} 3) with phase := .started }
    let y : EngJob := { lone (.lsend {} 3) with phase := .started }
    let z : EngJob := { lone (.dma {} 0 1 true 0) with phase := .started, left := 1 }
    let d (r : List RegionRec) : State := { runPlan.addJob 0 z with plan := some { plan0 with regions := r } }
    let moved (s : State) : State × Bool := (List.range 1).foldl (fun (q : State × Bool) r =>
      let z := q.1.dmaRow 0 {} (q.1.region 1) (0 + r * 0 * 32) true r
      (z.1, q.2 && z.2)) (s, true)
    (0 < Config.numCores ∧ (s.core 0).jobs = [j] ∧ j.phase = .started ∧ j.engines.contains .vector = true ∧ j.op.isSend = false ∧ j.release = [] ∧
      ((s.core 0).ctx[j.ctx]).ending = [] ∧ (runPlan.core 0).jobs = []) ∧
    ((u.core 0).jobs = [r] ∧ r.ctx = tSite.ctx ∧ r.op = .lrecv {} (3 : BitVec 16).toNat ∧ r.release = [] ∧ r.fl = 0 ∧ (u.ctxAt tSite).ending = [] ∧
      u.chanRec (3 : BitVec 16).toNat = some ch ∧ chanLocal ch = false ∧ (u.chanSt (3 : BitVec 16).toNat).inFlight = []) ∧
    (∀ k ∈ [(x, Engine.link 0), (j, .vector)], ((on k.1).core 0).jobs.findIdx? (fun j => j.phase == .started && j.engines.contains k.2) = some 1 ∧
      ((on k.1).core 0).jobs[1]? = some k.1 ∧ (on k.1).canComplete k.1 = true) ∧ x.op = .lred {} 3 ∧
    (∀ td ch, j.op ≠ .lred td ch) ∧ (∀ td off region toHbm hs, j.op ≠ .dma td off region toHbm hs) ∧
    (((on y).core 0).jobs.findIdx? (fun j => j.phase == .started && j.engines.contains (.link 0)) = some 1 ∧ (on y).canComplete y = false) ∧
    (∀ q : List RegionRec, ((d q).core 0).jobs = [z]) ∧ (z.phase = .started ∧ z.engines.contains (.dma 0) = true ∧ z.left = ({} : TileDesc).rows ∧ z.bad = false) ∧
    (moved (d [⟨1, .scratch, 0, 4096, 0, false, []⟩])).2 = true ∧ (moved (d [])).2 = false :=
  ⟨holdsNow, holdsNow, holdsNow, rfl, nofun, nofun, holdsNow, fun _ => rfl, holdsNow, holdsNow, holdsNow⟩

/-! ## The Stem, the Loss Stage and the Table Engine -/

def recipe0 : Recipe := { buffer := 0, kind := .full, vfmt := 0, invT := 0x3F800000, k := 0, width := 1 }
def land0 (k : ConsKind) : LandRec := { buffer := 0, score := 0, base := 0, slotSize := 64, slots := 2, producer := 0, pctx := 0, ckind := k, cctx := 0, arrive := 1, release := 2, joint := 0 }
def stemPlan (k : ConsKind) : Plan := { plan0 with recipes := [recipe0], landings := [land0 k] }

theorem witness_StemResults :
    let td : TileDesc := { lrow := 1 }
    let j : EngJob := { lone (.stsend td 0) with phase := .started, left := 1 }
    let s : State := { runPlan.addJob 0 j with plan := some (stemPlan .loss) }
    let a : State := { s with bufs := [(0, { sent := 1, flight := [[7]] })] }
    run.stemPick 0 = none ∧ s.stemPick 0 = some (0, 0, j) ∧ j.op = .stsend td 0 ∧ s.recipe 0 = some recipe0 ∧
    a.landRec 0 = some (land0 .loss) ∧ (a.buf 0).flight = [[7]] ∧
    (({ s with bufs := [(0, { freed := 1 })] } : State).buf 0).returned < (({ s with bufs := [(0, { freed := 1 })] } : State).buf 0).freed ∧
    (s.buf 0).freed ≤ (s.buf 0).returned :=
  ⟨holdsNow, holdsNow, rfl, holdsNow, holdsNow, holdsNow, holdsNow, holdsNow⟩

/-- Counter 2 releases the buffer: one slot of two occupied, with b = 1 and b = 2. Counter 4 releases the oldest sample of one complete. -/
theorem witness_ReleaseByCinc :
    let s := relRun runCtx
    let d : State := { s with samples := [(sampleKey 0 2, ⟨1, 9, 128, some 0⟩)] }
    Issues s sSite always ∧ Issues d sSite always ∧
    (s.releasedBy sSite (subCounter 2) = relPlan.landings ∧ (∀ l ∈ relPlan.landings, ((s.ctxAt sSite).greg 0 + 1).toNat ≤ (s.buf l.buffer).occupied) ∧
      s.relBinding sSite 2 = none ∧ ∀ l ∈ relPlan.landings, (s.buf l.buffer).occupied < ((s.ctxAt sSite).greg 0 + 2).toNat) ∧
    d.releasedBy sSite (subCounter 4) = [] ∧ d.relBinding sSite 4 = relPlan.data.head? ∧ (2, ⟨1, 9, 128, some 0⟩) ∈ (d.doneSamples 0).take 1 :=
  ⟨issues_of holdsNow, issues_of holdsNow, holdsNow, holdsNow⟩

def lossRec0 : LossRec := { id := 9, kind := .output, gfmt := 0, aKl := 0x3F800000, aCe := 0, invT := 0x3F800000, invN := 0x3F800000, rows := 1, labels := 0, vocab := 1, group := [0, 5], segs := [⟨0, 0, 0, 0⟩], ctx := 0, resultOff := 0, doneCnt := 3 }
def lossProg : ProgRec := { ctx := 0, cores := [9216], words := [], poolBase := 0, pool := [{ lrow := 1 }] }
def lossPlan : Plan := { stemPlan .loss with losses := [lossRec0], programs := [lossProg] }

/-- A slot whose packet stands at row 0, one whose packet is of another row, none, and eight open jobs; a BE job behind an LC job that could open; an
open job that waits for device 5 since beat 0; a record before its job, and one of each exchange. -/
theorem witness_LossStageResults :
    let s : State := { run with plan := some lossPlan }
    let here : State := { s with bufs := [(0, { sent := 1, arrived := 1 })] }
    let other : State := { here with mem := memPut [] (scrAddr 9216 8) 1 }
    let be : State := { here with plan := some { lossPlan with contexts := [ctx0, { ctx0 with ctx := 1, be := true }],
                                                               losses := [lossRec0, { lossRec0 with id := 8, ctx := 1 }] } }
    let row : LossRowSt := { segs := [] }
    let j : LossJob := { id := 9, step := 0, mb := 0, lam := .one, since := 0, rows := [row] }
    let full : State := { here with loss := List.replicate 8 j }
    let wait (n : Nat) : State := { s with loss := [j], beat := n }
    let r1 : LossRec := { lossRec0 with kind := .hiddenMse }
    let done : State := { s with plan := some { lossPlan with losses := [r1] }, loss := [j] }
    (here.lossRec 9 = some lossRec0 ∧ here.loss.length < 8 ∧ here.isBE lossRec0.ctx = false ∧
      (∀ g ∈ lossRec0.segs, (here.buf g.buffer).taken + lossRec0.rows ≤ (here.buf g.buffer).arrived)) ∧
    (∃ segs : List (List LossSeg), (List.range lossRec0.rows).map (fun i => here.lossRow lossRec0 i) = segs.map some) ∧
    (other.lossRec 9 = some lossRec0 ∧ other.loss.length < 8 ∧ other.isBE lossRec0.ctx = false ∧
      (∀ g ∈ lossRec0.segs, (other.buf g.buffer).taken + lossRec0.rows ≤ (other.buf g.buffer).arrived) ∧
      none ∈ (List.range lossRec0.rows).map (fun i => other.lossRow lossRec0 i)) ∧
    (s.lossRec 9 = some lossRec0 ∧ ¬ (∀ g ∈ lossRec0.segs, (s.buf g.buffer).taken + lossRec0.rows ≤ (s.buf g.buffer).arrived) ∧
      full.lossRec 9 = some lossRec0 ∧ ¬ full.loss.length < 8) ∧
    (be.lossRec 8 = some { lossRec0 with id := 8, ctx := 1 } ∧ be.isBE 1 = true ∧ be.lcLossWaits = true) ∧
    (5 ∈ s.lossGroup lossRec0 ∧ s.loss.findIdx? (fun j => j.id == 9 && j.mb == 0) = none ∧ (wait 7).lossRec 9 = some lossRec0 ∧
      5 ∈ (wait 7).lossGroup lossRec0 ∧ (wait 7).loss.findIdx? (fun j => j.id == 9 && j.mb == 0) = some 0 ∧ (wait 7).loss[0]? = some j ∧
      j.rows[0]? = some row) ∧
    (done.lossHeads.find? fun e => e.2.2.kind != .accept && e.2.1.rows.all fun row => done.rowReady e.2.2 row) = some (0, j, r1) ∧
    ((wait 8).lossLate = [(j, lossRec0)] ∧ (wait 7).lossLate = []) := by
  refine ⟨holdsNow, ⟨[((State.lossRow { run with plan := some lossPlan, bufs := [(0, { sent := 1, arrived := 1 })] } lossRec0 0).getD [])], holdsNow⟩,
    holdsNow, holdsNow, holdsNow, holdsNow, holdsNow, holdsNow⟩

/-- One empty bag of a teacher table of two rows, on an MSD without units: its record stands at the start of a scratch region, and at its end (its list
then leaves the region). A table under copy, and a station of 0 for two rows of a teacher context, with the meter exhausted or not. -/
theorem witness_LookupResults :
    let p : Plan := { plan0 with tables := [{ table := 4, d := 1, fmt := 0, rows := 2, teacher := true }],
                                 shards := [{ table := 4, row0 := 0, nrows := 2, off := 0, msd := 0 }],
                                 regions := [⟨0, .scratch, 0, 4096, 0, false, []⟩, ⟨1, .table, 8192, 4096, 0, false, []⟩] }
    let s : State := { run with plan := some p, mem := [(0, 4)] }
    let copy : State := { s with shadowCopy := [4] }
    let bill (x : Bool) : State :=
      { run with plan := some { p with contexts := [{ ctx0 with kind := .teacher }] }, mem := [(0, 4), (8, 2)]
                 sec := { run.sec with meters := [(11, { exhausted := x })], husk := some 11 } }
    let lists (s : State) (o : Nat) := (s.bagStarts (.scratch o) 1).map fun e => (e.1, s.bagList e.2 e.1)
    let bags (s : State) (o : Nat) := (lists s o).flatMap fun e => e.2
    let teacher (s : State) : Bool := ((s.ctxRec (s.lookupCtx 0)).map CtxRec.kind) == some .teacher
    let cost (s : State) : Nat := ((bags s 0).map fun e => if e.1.bad then 0 else s.rowsCost e.1.table e.2 (teacher s)).foldl (· + ·) 0
    let clear (s : State) (o : Nat) : Prop := ∀ e ∈ bags s o, e.1.table ∉ s.shadowCopy
    let inside (s : State) (o : Nat) : Prop := ∀ e ∈ lists s o, s.inScratch e.1 (bagsBytes e.2) = true
    let b : BagSt := { table := 4, owing := [5] }
    let j : LookupSt := ⟨0, 0, 0, 0, 0, [b]⟩
    let w : State := { s with lookups := [j] }
    (clear s 0 ∧ inside s 0 ∧ cost s ≤ s.sec.station[(4 : Fin 10)]) ∧ ¬ clear copy 0 ∧ (clear s 32 ∧ ¬ inside s 32) ∧
    (∀ x ∈ [true, false], clear (bill x) 0 ∧ inside (bill x) 0 ∧ (bill x).sec.station[(4 : Fin 10)] < cost (bill x) ∧ (bill x).sec.exhausted = x) ∧
    (4 ∉ s.shadowCopy ∧ s.rowsCost 4 [] ≤ s.sec.station[(4 : Fin 10)] ∧ Pool.sum ≠ .max ∧ 4 ∈ copy.shadowCopy ∧
      (bill true).sec.station[(4 : Fin 10)] < (bill true).rowsCost 4 [(1, 0)]) ∧
    (w.lookups.find? (fun j => j.serial == 0) = some j ∧ j.bags[0]? = some b ∧ 5 ∈ b.owing ∧ 6 ∉ b.owing) ∧
    ((∀ c ∈ ({ j with bags := [{ b with owing := [] }] } : LookupSt).bags, c.owing = []) ∧ s.inScratch (s.scratchAt j.statusOff) 1 = true) ∧
    (b ∈ j.bags ∧ b.owing ≠ []) ∧ (({ b with bad := true } : BagSt).bad = true ∧ b.bad = false ∧ b.valid = 0) :=
  ⟨holdsNow, holdsNow, holdsNow, holdsNow, holdsNow, holdsNow, holdsNow, holdsNow, holdsNow⟩

/-! ## The student's schedule -/

def stage0 : StageRec := { stage := 2, unitCode := 0, intBase := 0, intUnits := 4, rcBase := 16384, rcSize := 4096, slotOff := 0, slotBytes := 128, ctx := 0, cores := [9216] }
def layer0 : LayerRec := { layer := 7, stage := 2, recompute := true, units := 1, fwdEntry := 1, bwdEntry := 2, boundOff := 0, boundSize := 0 }
def stagePlan : Plan := { plan0 with stages := [stage0], layers := [layer0], order := [⟨2, true, 7, 0⟩, ⟨2, false, 7, 0⟩] }

/-- Both entries of a step of one layer, stashed or recomputed; micro-batch 0 is bound to slot 1, or can be bound to slot 0, or cannot yet: the slot of
its step is not there, or micro-batch q - 64 is still bound. -/
theorem witness_StudentScheduleResults :
    let x : StageSt := { bound := [(0, 1)] }
    let on (x : StageSt) (l : LayerRec) : State := { run with plan := some { stagePlan with layers := [l] }, dev := .run, stages := [(2, x)] }
    let s := on x layer0
    let kept := on x { layer0 with recompute := false }
    let new := on {} layer0
    let v : LiveRec := ⟨0, 7, some 3, 1, false, false⟩
    let b (r : Option Nat) : State := on { x with live := [{ v with run := r }], pos := 1 } layer0
    let halt := s.setCtx sSite { runCtx with halted := true }
    let w (y : StageSt) : State := on { y with waiting := some 5 } layer0
    ((∀ t ∈ [s, kept, new], t.stageRec 2 = some stage0 ∧ t.ctxHalted stage0.cores stage0.ctx = false ∧ t.entryDue stage0 true 7 0 = true) ∧
      (∀ t ∈ [s, new], (t.stageLayers 2).find? (fun l => l.layer == 7) = some layer0) ∧ layer0.recompute = true ∧
      (kept.stageLayers 2).find? (fun l => l.layer == 7) = some { layer0 with recompute := false }) ∧
    ((s.stage 2).boundSlot (s.seqNo 0 0) = some 1 ∧ (new.stage 2).boundSlot (new.seqNo 0 0) = none ∧ new.firstFwd 2 0 7 = true ∧
      new.seqNo 0 0 < 64 ∧ (new.stage 2).slotAt .current 0 = some 0) ∧
    ((new.stage 2).boundSlot (new.seqNo 1 0) = none ∧ (new.stage 2).slotAt .current 1 = none ∧ new.firstFwd 2 0 6 = false ∧
      64 ≤ s.seqNo 64 0 ∧ (s.stage 2).boundSlot (s.seqNo 64 0) = none ∧ (s.stage 2).boundSlot (s.seqNo 64 0 - 64) ≠ none) ∧
    (∀ r ∈ [some 3, none], (b r).stageRec 2 = some stage0 ∧ (b r).ctxHalted stage0.cores stage0.ctx = false ∧
      (b r).entryDue stage0 false 7 0 = true ∧ ((b r).stageLayers 2).find? (fun l => l.layer == 7) = some layer0 ∧
      ((b r).stage 2).boundSlot ((b r).seqNo 0 0) = some 1 ∧
      ((b r).stage 2).live.find? (fun v => v.q == (b r).seqNo 0 0 && v.layer == 7) = some { v with run := r }) ∧
    (s.entryDue stage0 false 7 0 = false ∧ (b none).entryDue stage0 true 7 0 = false ∧ halt.stageRec 2 = some stage0 ∧
      halt.ctxHalted stage0.cores stage0.ctx = true) ∧
    ((s.stage 2).waiting = none ∧ (∀ y ∈ [x, x.setSlot 1 ⟨.shadow, 5⟩, x.setSlot 1 ⟨.shadow, 4⟩], ((w y).stage 2).waiting = some 5) ∧
      ((w (x.setSlot 1 ⟨.shadow, 5⟩)).stage 2).slotAt .shadow 5 = some 1 ∧
      ((w x).stage 2).slotAt .shadow 5 = none ∧ ((w x).stage 2).slotIn .shadow = none ∧ ((w x).stage 2).slotIn .free = some 1 ∧
      ((w (x.setSlot 1 ⟨.shadow, 4⟩)).stage 2).slotAt .shadow 5 = none ∧ ((w (x.setSlot 1 ⟨.shadow, 4⟩)).stage 2).slotIn .shadow ≠ none) :=
  ⟨holdsNow, holdsNow, holdsNow, holdsNow, holdsNow, holdsNow⟩

end Sys2Proof.Tests
end

