-- ==== Sys2Proof/Tests/WitnessDevice.lean ====
section
/-!
SUPPORT. Witnesses: for each statement with hypotheses about the whole device, concrete states and operands that meet them, clause by clause.
-/

namespace Sys2Proof.Tests
open Machine

set_option Elab.async false

/-! ## The beat, the Vine and formation -/

/-- The state right after reset, as an operand of record updates. -/
def base : State := State.reset

/-- A device that runs; the acting Plot Root in it; a device in phase 4 or 5 of formation. -/
def running : State := { base with dev := .run, addrValid := true, imgApplied := true }
def root : State := { running with formation := { plotRoot := true } }
def forming (n : Nat) : State := { base with dev := .configured, addrValid := true, imgApplied := true, formation := { phase := n } }

/-- A Root by pulses and by PTP, in phase 4 and joined, waiting for the pulse of its start or not; a joining device below device 8, before and after
its first marker, with markers of its own count, of another count, and one 100 ns off; position 0 below device 0 with its secondary upstream 9; a device
of a plan at the begin of a window and after it. -/
theorem witness_BeatResults :
    let src (s : State) (n : Nat) : State := { s with img := { s.img with beat := { source := n } }, bt := { s.bt with ppsRun := 8, ptpRun := 16, source := true } }
    let start : State := { forming 4 with formation := { phase := 4, plotRoot := true, total := some ⟨0, 1, 0, 0, 0, 7, 0⟩ } }
    let waits : State := { src start 1 with bt := { (src start 1).bt with start := some 9 } }
    let joins : State := { forming 5 with addr := 9, origin := 8 }
    let on (s : State) : State := { s with addr := 9, origin := 8, acquired := true, beat := 100, form := 1 }
    let m : BeatMarker := ⟨false, false, false, 0, 2, 8, 100, 1, 8⟩
    let far (s : State) : State := { s with phase := 100 }
    let alt : State := { running with addr := 8, origin := 0, acquired := true, img := { base.img with n := 2, p := 2 } }
    let wild (s : State) (m : BeatMarker) : Prop := let d := (s.portSt 56).delay
      8 * s.period < 4 * (s.deviation m.beat d 0).natAbs ∨ (m.beat : Int) ≠ s.ownCount d 0
    let other (s : State) (m : BeatMarker) : Prop := m.periodCode ≠ s.img.beat.periodCode ∨ m.form ≠ s.form ∨ m.origin % 2 ^ 17 ≠ s.origin
    let fails (n : Nat) : State := { running with addr := 9, origin := 8, beat := 123, bt := { lastSec := some n } }
    let win (b : Nat) : State := { running with plan := some {}, beat := b }
    base.powered = true ∧ (root.rootsBeat = true ∧ (src root 1).rootsBeat = true ∧ (src root 1).img.beat.source = 1 ∧ (src root 2).img.beat.source = 2) ∧
    (waits.rootsBeat = true ∧ waits.img.beat.source = 1 ∧ waits.bt.start = some 9 ∧ waits.formation.phase = 4 ∧ (src root 1).bt.start = none) ∧
    (start.rootsBeat = true ∧ start.sourceReady = true ∧ start.formed = false ∧ start.formation.phase = 4 ∧
      start.formation.total = some ⟨0, 1, 0, 0, 0, 7, 0⟩ ∧ startCount start.img.beat.source start.period 7 0 = some (1 + 2 ^ 24)) ∧
    ((src start 1).rootsBeat = true ∧ (src start 1).sourceReady = true ∧ startCount 1 (src start 1).period 7 0 = some (1 + 2 ^ 24) ∧
      (startCount 2 (src start 2).period 7 (2 ^ 60)).isSome = true) ∧
    ((src start 2).rootsBeat = true ∧ (src start 2).sourceReady = true ∧ startCount 2 (src start 2).period 7 0 = none ∧ root.formed = true ∧
      root.sourceReady = true) ∧
    ((src root 1).formed = true ∧ (src root 1).bt.source = true ∧ (src root 1).img.beat.source ≠ 0 ∧ (src start 1).rootsBeat = true ∧
      (src start 1).bt.source = true ∧ (src start 1).formed = false) ∧
    (joins.onBeat = true ∧ joins.isOrigin = false ∧ joins.acquired = false ∧ joins.primaryUp (m.origin % 2 ^ 17) = some m.sender ∧ m.secondary = false ∧
      beatKey joins.img (m.origin % 2 ^ 17) joins.addr = some (7 * 8 + 0) ∧ m.periodCode = joins.img.beat.periodCode) ∧
    (∀ s ∈ [on running, on (forming 5)], s.onBeat = true ∧ s.isOrigin = false ∧ s.acquired = true ∧ s.primaryUp s.origin = some m.sender ∧
      beatKey s.img s.origin s.addr = some 56 ∧ wild s { m with beat := 102 } ∧ other s { m with periodCode := 3 } ∧ ¬ (wild s m ∨ other s m) ∧
      (s.deviation m.beat 0 0).natAbs ≤ 400 ∧ ¬ (wild (far s) m ∨ other (far s) m) ∧ ¬ ((far s).deviation m.beat 0 0).natAbs ≤ 400) ∧
    ((on running).formed = true ∧ (on (forming 5)).formed = false) ∧
    (alt.onBeat = true ∧ alt.isOrigin = false ∧ alt.acquired = true ∧ alt.primaryUp alt.origin ≠ some 9 ∧ alt.secondaryUp = some 9 ∧
      alt.secondaryKey alt.pos = some (meshKey 0 1) ∧ alt.secondaryUp ≠ some 10 ∧ alt.primaryUp alt.origin ≠ some 10) ∧
    ((∀ n ∈ [59, 60], (fails n).formed = true ∧ (fails n).isOrigin = false ∧ (fails n).bt.secondary = false ∧
      (fails n).recent (fails n).bt.lastPri = false) ∧ (fails 60).secondaryAlive = true ∧ (fails 59).secondaryAlive = false) ∧
    (∀ b, ∃ p, (win b).plan = some p ∧ p.acct.beats = 1024 ∧ (win b).beat = b) :=
  ⟨holdsNow, holdsNow, holdsNow, holdsNow, holdsNow, holdsNow, holdsNow, holdsNow, holdsNow, holdsNow, holdsNow, holdsNow, fun _ => ⟨_, rfl, rfl, rfl⟩⟩

/-- A device of the Vine without position, with position 3, as master, and as a second master. -/
def onVine (a : Nat) (valid sel : Bool) : State := { base with dev := .hold, addr := a, addrValid := valid, straps := { rootSel := sel } }

/-- A device without position and one at position 3; a master before and after its image, with its ENUM out and not; a master without its clock. -/
theorem witness_VineResults :
    let no := onVine 0 false false
    let third := onVine 3 true false
    let m (out : Bool) : State := { onVine 0 true true with vine := { enumOut := out } }
    let ready : State := { m true with dev := .configured, imgApplied := true, img := { base.img with n := 4 } }
    let ended : State := { m false with vine := { stopped := true } }
    (base.vineUp = false ∧ ∀ s ∈ [no, third, m true, m false, ready, ended], s.vineUp = true) ∧
    (no.straps.rootSel = false ∧ no.addrValid = false ∧ 7 ≤ 7 ∧ 7 < 8 ∧ third.straps.rootSel = false ∧ third.addrValid = true ∧
      3 = third.pos ∧ 4 ≠ third.pos) ∧
    ((m true).isMaster = true ∧ (m true).vine.enumOut = true ∧ (m true).masterReady = false ∧ ready.isMaster = true ∧ ready.vine.enumOut = true ∧
      ready.masterReady = true ∧ 4 = ready.img.n ∧ 3 ≠ ready.img.n ∧ (m false).isMaster = true ∧ (m false).vine.enumOut = false) ∧
    (ended.isMaster = false ∧ ended.straps.rootSel = true ∧ third.isMaster = false) ∧
    ((m false).formation.closed = false ∧ ({ m false with formation := { closed := true } } : State).formation.closed = true) ∧
    (third.acquired = false ∧ ({ third with acquired := true } : State).acquired = true ∧ ({ third with acquired := true } : State).isMaster = false ∧
      ({ third with acquired := true } : State).vineUp = true) := ⟨holdsNow, holdsNow, holdsNow, holdsNow, holdsNow, holdsNow⟩

/-- A master with ENUM out, with nothing out, asking position 1 of a pod of three and of two, and with a break; position 3; answers of 80 and 81
cycles; a master at the joinability limit that knows position 1 only, and one that knows position 0. -/
theorem witness_VineBreakResults :
    let m := onVine 0 true true
    let v (v : VineSt) : State := { m with vine := v }
    let asks (n : Nat) : State := { v { ping := some 1 } with imgApplied := true, img := { m.img with n } }
    let third := onVine 3 true false
    let limit (l : List Nat) : State := { m with imgApplied := true, formation := { joinable := l } }
    (∀ s ∈ [v { enumOut := true }, v {}, v { brk := some 1 }, asks 2, asks 3, limit [1], limit [0]], s.vineUp = true ∧ s.isMaster = true) ∧
    ((v { enumOut := true }).vine.ping = none ∧ (v { enumOut := true }).vine.enumOut = true ∧ (v {}).vine.enumOut = false ∧
      (v { brk := some 1 }).vine.ping = none ∧ (v { brk := some 1 }).vine.brk ≠ none ∧ (v {}).vine.brk = none ∧ (v {}).vine.ping = none) ∧
    ((asks 3).vine.ping = some 1 ∧ (asks 3).imgApplied = true ∧ (48 ≤ 80 ∧ 80 ≤ 80 ∧ 16 ≤ 16) ∧ 1 + 1 < (asks 3).img.n ∧ (asks 2).vine.ping = some 1 ∧
      (asks 2).img.n ≤ 1 + 1 ∧ ¬ (48 ≤ 81 ∧ 81 ≤ 80 ∧ 16 ≤ 16) ∧ 200 ≤ 200 ∧ 199 < 200) ∧
    (third.vineUp = true ∧ third.isMaster = false ∧ third.addrValid = true ∧ third.pos = 3 ∧ third.pos ≠ 4) ∧
    ((∀ l ∈ [[1], [0]], (limit l).imgApplied = true ∧ (limit l).formation.closed = false) ∧ 0 ∉ (limit [1]).formation.joinable ∧ (limit [1]).img.n < 2 ∧
      ¬ 0 ∉ (limit [0]).formation.joinable ∧ m.imgApplied = false) := ⟨holdsNow, holdsNow, holdsNow, holdsNow, holdsNow⟩

/-- Position 3 in SAFE with an owner key, and without; its next block is 1. A master that has sent block 4 of position 3, the 16th time and before. -/
theorem witness_BankTransferResults :
    let third : State := { onVine 3 true false with vine := { rxNext := 1 } }
    let takes : State := { third with dev := .safe, sec := { third.sec with owners := [1] } }
    let fw : State := { third with dev := .boot, bootCode := 0x1021 }
    let x (b : Nat) (last image : Bool) : Xfer := { image, last, target := 3, block := b, length := 0, status := 0 }
    let m (n : Nat) : State := { onVine 0 true true with vine := { tx := some (true, 3, 4, n) } }
    (third.vineUp = true ∧ third.isMaster = false ∧ { x 1 false true with target := 4 }.target ≠ third.pos ∧ third.takesBank (x 1 false true) = false) ∧
    (∀ e ∈ [(takes, true), (fw, false)], e.1.vineUp = true ∧ e.1.isMaster = false ∧ e.1.addrValid = true ∧ (x 1 false e.2).target = e.1.pos ∧
      e.1.takesBank (x 1 false e.2) = true ∧ (x 2 false e.2).block ≠ e.1.vine.rxNext ∧ (x 1 true e.2).block = e.1.vine.rxNext) ∧
    (0 : Word) ≠ crc32 (xferBytes (x 1 false true)) ∧ (x 0 false true).block = 0 ∧ ((onVine 0 true true).vine.tx = none ∧ (onVine 0 true true).vineUp = true ∧ (onVine 0 true true).isMaster = true) ∧
    (∀ n ∈ [15, 16], (m n).vineUp = true ∧ (m n).isMaster = true ∧ (m n).vine.tx = some (true, 3, 4, n)) ∧ 15 < 16 ∧
    ((x 4 true true).image = true ∧ (x 4 true true).target = 3 ∧ (x 4 true true).block = 4 ∧ (x 4 true true).status ≠ 1 ∧
      { x 4 true true with status := 1 }.last = true ∧ ¬ (x 3 true true).block = 4) :=
  ⟨holdsNow, holdsNow, holdsNow, holdsNow, holdsNow, holdsNow, holdsNow, holdsNow⟩

/-- Port 0 of position 0 in a pod of two, whose neighbour is position 1: unverified, verified, miswired, down; 62 and 63 probes taken, the best a round
trip of 900, or far beyond the limit; and on a joined device with a job of device 1. -/
theorem witness_DiscoveryResults :
    let d : State := { forming 2 with img := { base.img with n := 2 } }
    let st (n : Nat) : State := { d with ports := [(0, { st := n })] }
    let ver (k n : Nat) : State := { d with ports := [(0, { st := k, best := some (900, 0), probes := n })] }
    let far (k : Nat) : State := { d with ports := [(0, { st := k, best := some (2000, 0), probes := 63 })] }
    let h : Hello := ⟨1, 0, 0, true, 0⟩
    let j : JobRec := ⟨1, 1, 0, 0, 4, 8, 4096, 0, [(0, 1), (1, 0)], [(1, 0)], []⟩
    let up (l : List JobRec) : State := { running with img := { base.img with n := 2 }, ports := [(0, { st := 2 })], plan := some { jobs := l }, jobs := [(1, { st := .running })] }
    (d.formation.phase = 2 ∧ d.dev = .configured ∧ running.formation.phase ≠ 2) ∧
    (0 * 8 + 0 ∈ requiredPorts d.img d.addr ∧ d.addrValid = true ∧ d.dev = .configured ∧ 2 ≤ d.formation.phase ∧ 1 ∉ requiredPorts d.img d.addr) ∧
    ((neighbour d.img d.addr 0 = (h.addr, h.port, h.lane) ∧ neighbour d.img d.addr 0 ≠ (2, h.port, h.lane)) ∧ ((st 1).portSt 0).st ≠ 2 ∧
      ((st 1).portSt 0).st ≠ 6 ∧ ((st 1).portSt 0).st ≠ 3 ∧ ((st 2).portSt 0).st = 2 ∧ ((st 6).portSt 0).st = 6 ∧ ((st 3).portSt 0).st = 3) ∧
    (h.addr / 8 = d.addr / 8 ∧ h.joinable = true ∧ d.formation.closed = false ∧ posOf h.addr ∉ d.formation.joinable) ∧
    (((ver 2 62).portSt 0).st = 2 ∧ ((ver 2 62).portSt 0).best = some (900, 0) ∧ ((ver 2 62).portSt 0).probes < 63 ∧
      ((ver 6 63).portSt 0).st = 6 ∧ 63 ≤ ((ver 6 63).portSt 0).probes ∧ (240 - 0) / 2 ≤ 8 * delayLimit 0 ∧ 8 * delayLimit 0 < (242 - 0) / 2) ∧
    (∀ k ∈ [2, 6], ((far k).portSt 0).st = k ∧ ((far k).portSt 0).best = some (2000, 0) ∧ 63 ≤ ((far k).portSt 0).probes) ∧
    ((up []).formed = true ∧ ((up []).portSt 0).st = 2 ∧ ((up []).plan.map Plan.jobs).getD [] = [] ∧ ((st 1).portSt 0).st ≠ 2) ∧
    ((up [j]).formed = true ∧ ((up [j]).portSt 0).st = 2 ∧ ((up [j]).plan.map Plan.jobs) = some [j] ∧
      ((up [j]).setPort 0 { st := 5 }).jobOver j 0 (neighbour (up [j]).img (up [j]).addr 0).1 = true ∧ ((up [j]).jobSt 1).st ≠ .halted ∧ jobCtxs j = [0]) :=
  ⟨holdsNow, holdsNow, holdsNow, holdsNow, holdsNow, holdsNow, holdsNow, holdsNow⟩

/-- Every phase, alone and not; a master whose ring is counted and one whose ring is not; the Pod Root and another position; records of the pod, of the
row and of another row; a joined Root that has accepted device 9, and a joined device below it. -/
theorem witness_FormationResults :
    let ph (n : Nat) (alone : Bool) : State := { forming n with formation := { phase := n, alone } }
    let m (n : Nat) : State := { forming 1 with straps := { rootSel := true }, vine := { count := some n } }
    let second : State := { forming 2 with addr := 1, img := { base.img with n := 2 } }
    let r4 : State := { forming 4 with formation := { phase := 4, plotRoot := true } }
    let f5 : State := { forming 5 with bt := { locked := true } }
    let bad : State := { f5 with img := { base.img with n := 2 }, ports := [(0, { st := 3 })] }
    let acc : State := { root with formation := { plotRoot := true, accepted := [9] } }
    let r : JoinRec := ⟨0, 1, 0, 0, root.ownDigest, 0, 0⟩
    let a : Announce := ⟨1, [], 1, 0, none⟩
    let j : State := { forming 5 with formation := { phase := 5, joinBeat := some 0 } }
    running.dev ≠ .configured ∧ (∀ n ∈ [0, 1, 2, 3, 4, 5], (forming n).dev = .configured ∧ (forming n).addrValid = true ∧ (forming n).formation.phase = n ∧
      (forming n).formation.alone = false ∧ (forming n).formation.joinBeat = none ∧ (forming n).formation.plotRoot = false) ∧
    ((ph 1 true).formation.phase = 1 ∧ (ph 1 true).formation.alone = true ∧ (m 1).isMaster = true ∧ (m 1).vine.brk = none ∧
      (m 1).vine.count = some (m 1).img.n ∧ (m 2).isMaster = true ∧ (m 2).vine.count ≠ some (m 2).img.n ∧ (forming 1).isMaster = false) ∧
    ((ph 2 true).formation.alone = true ∧ second.formation.phase = 2 ∧ second.dev = .configured ∧
      (let s2 : State := { second.endDiscovery [] with formation := { (second.endDiscovery []).formation with phase := 3 } }
       s2.pos ≠ s2.podRootPos) ∧
      (let s2 : State := { (forming 2).endDiscovery [] with formation := { ((forming 2).endDiscovery []).formation with phase := 3 } }
       s2.pos = s2.podRootPos) ∧ (ph 3 true).formation.alone = true) ∧
    (r4.dev = .configured ∧ r4.formation.phase = 4 ∧ r4.formation.plotRoot = true ∧ r4.formation.joinBeat = none ∧ f5.bt.locked = true ∧
      (forming 5).bt.locked = false) ∧
    ((forming 1).formed = false ∧ (forming 1).dev = .configured ∧ (forming 1).formation.phase ≠ 0 ∧ r.address / 8 = (forming 1).addr / 8 ∧
      8 / 8 ≠ (forming 1).addr / 8 ∧ rowNo 8 = rowNo (forming 1).addr ∧ rowNo 128 ≠ rowNo (forming 1).addr) ∧
    (running.formed = true ∧ running.isOrigin = false ∧ root.formed = true ∧ root.isOrigin = true ∧ r.digest = root.ownDigest ∧ r.code = 0 ∧
      { r with code := 0x5020 }.code ≠ 0 ∧ { r with digest := root.ownDigest + 1 }.digest ≠ root.ownDigest ∧ r.address ∉ root.formation.accepted) ∧
    (({ r4 with acquired := true } : State).isOrigin = true ∧ ({ f5 with acquired := true } : State).isOrigin = false ∧ f5.dev = .configured) ∧
    (acc.formed = true ∧ acc.isOrigin = true ∧ 9 ∈ acc.formation.accepted ∧ 8 ∉ acc.formation.accepted) ∧
    ({ a with only := some 9 }.only = some 9 ∧ 9 ≠ running.addr) ∧
    (a.only = none ∧ { a with only := some 0 }.only = some f5.addr ∧ f5.dev = .configured ∧ f5.formation.phase = 5 ∧ f5.bt.locked = true ∧
      f5.formation.joinBeat = none ∧ f5.miswired = false ∧ f5.beat < a.joinBeat ∧ { a with joinBeat := 0 }.joinBeat ≤ f5.beat ∧ bad.miswired = true) ∧
    (j.dev = .configured ∧ j.formation.joinBeat = some j.beat ∧ j.plan = none ∧ j.ports = [] ∧ (forming 5).formation.joinBeat ≠ some (forming 5).beat) :=
  ⟨holdsNow, holdsNow, holdsNow, holdsNow, holdsNow, holdsNow, ⟨holdsNow, holdsNow, holdsNow, holdsNow, rfl, rfl, holdsNow, by simp, holdsNow⟩,
    holdsNow, holdsNow,
    holdsNow, holdsNow, holdsNow⟩

/-! ## Steps, commits and checkpoints -/

/-- Job 1 of contexts 0 and 1 on device 0, whose partner is device 8, with a tree in which device 0 is the root and device 8 its child. -/
def job1 : JobRec := { job := 1, ctxMask := 3, extEvery := 0, ckptEvery := 0, haltSettle := 4, restoreLimit := 8, bankBytes := 4096, restartMax := 0, members := [(0, 1), (8, 0)], tree := [(8, 0)], spares := [] }
def jobPlan : Plan := { jobs := [job1] }
def inJob (t : JobSt) : State := { running with plan := some jobPlan, jobs := [(1, t)] }
def marker1 (c : Bool) (b : Nat) : Marker := ⟨1, 0, 1, c, false, false, b, []⟩

theorem witness_CommitTreeResults :
    let s := inJob { st := .running }
    let r (n v : Nat) : ReadyRec := ⟨1, n, v, 1, false, false, []⟩
    let w := inJob { st := .running, firstReady := some 0 }
    s.jobRec 1 = some job1 ∧ (s.jobSt 1).st = .running ∧ 8 ∈ s.treeChildren job1 ∧ (s.jobSt 1).readySent = false ∧
    ((r 0 1).job = 1 ∧ (r 0 1).step = (s.jobSt 1).step ∧ (r 0 1).version = (s.jobSt 1).step + 1 ∧ (r 1 1).step ≠ (s.jobSt 1).step ∧
      (r 0 2).version ≠ (s.jobSt 1).step + 1) ∧
    ((s.jobSt 1).marker = none ∧ s.beat < (marker1 true 1).commitBeat ∧ (marker1 true 1).job = 1 ∧ (marker1 true 1).step = (s.jobSt 1).step ∧
      (marker1 true 1).version = (s.jobSt 1).step + 1 ∧ (marker1 true 0).commitBeat ≤ s.beat ∧ { marker1 true 1 with step := 1 }.step ≠ (s.jobSt 1).step ∧
      s.jobStages job1 = [] ∧ { marker1 true 1 with version := 2 }.version ≠ (s.jobSt 1).step + 1) ∧
    (w.jobRec 1 = some job1 ∧ (w.jobSt 1).firstReady = some 0 ∧ (w.jobSt 1).st = .running ∧ (w.jobSt 1).marker = none ∧ w.treeParent job1 = none ∧
      w.isMember job1 = true ∧ w.beat < 0 + w.policyRec.commitLimit ∧ 0 + w.policyRec.commitLimit ≤ ({ w with beat := 1 } : State).beat) := holdsNow

theorem witness_CommitBeatResults :
    let s (c : Bool) (b : Nat) := inJob { st := .running, marker := some (marker1 c b) }
    let drain : State := { s true 0 with dev := .drain }
    let halted := inJob { st := .halted, marker := some (marker1 true 0) }
    (∀ e ∈ [(true, 0), (false, 0), (true, 1)], (s e.1 e.2).jobRec 1 = some job1 ∧ ((s e.1 e.2).jobSt 1).marker = some (marker1 e.1 e.2) ∧
      ((s e.1 e.2).jobSt 1).st = .running ∧ (marker1 e.1 e.2).commit = e.1) ∧
    ((marker1 true 0).commitBeat = (s true 0).beat ∧ (marker1 true 1).commitBeat ≠ (s true 1).beat ∧ job1.ckptEvery = 0 ∧
      ((s true 0).applyMarker job1 (marker1 true 0)).dev ≠ .drain ∧ ((s false 0).applyMarker job1 (marker1 false 0)).dev ≠ .drain) ∧
    (drain.jobRec 1 = some job1 ∧ (drain.jobSt 1).marker = some (marker1 true 0) ∧ (drain.applyMarker job1 (marker1 true 0)).dev = .drain) ∧
    (halted.jobRec 1 = some job1 ∧ (halted.jobSt 1).marker = some (marker1 true 0) ∧ (halted.jobSt 1).st ≠ .running) :=
  ⟨holdsNow, holdsNow, holdsNow, holdsNow⟩

theorem witness_LossScaleRule :
    let g (n : Nat) : State := { base with plan := some { policy := { growth := n } } }
    let r : ReadyRec := ⟨1, 0, 1, 1, true, false, []⟩
    let alone : JobRec := { job1 with members := [(0, 0)], tree := [] }
    let s : State := { inJob { st := .running, ready := [(0, r)] } with plan := some { jobs := [alone] } }
    (marker1 true 0).commit = true ∧ ({} : JobSt).growth + 1 ≠ (g 0).policyRec.growth ∧ ({} : JobSt).growth + 1 = (g 1).policyRec.growth ∧
    (marker1 false 0).commit = false ∧ (g 0).policyRec.minE = (g 0).policyRec.maxE ∧ ({} : JobSt).e = (g 0).policyRec.minE ∧
    (s.jobSt alone.job).readySent = false ∧ aget (s.jobSt alone.job).ready s.addr = some r ∧ s.treeParent alone = none ∧ s.treeChildren alone = [] :=
  holdsNow

/-- A part of 96 bytes of version 4 with its digest in place. -/
def part4 : List Byte :=
  let head : List Byte := natBe 16 4 ++ List.replicate 48 0
  head ++ digestBytes (Config.sha256 (head ++ List.replicate 32 0 ++ []))

theorem part4_intact : partIntact part4 4 none = true := by
  have go (a : List Byte) (k : a.length = 64) (hv : beNat ((a.drop 8).take 8) = 4) :
      partIntact (a ++ digestBytes (Config.sha256 (a ++ List.replicate 32 0 ++ []))) 4 none = true := by
    generalize hs : Config.sha256 (a ++ List.replicate 32 0 ++ []) = s
    have l : (digestBytes s).length = 32 := by simp [digestBytes, natBe]
    have e1 : ((a ++ digestBytes s).drop 8).take 8 = (a.drop 8).take 8 := by
      rw [List.drop_append_of_le_length (by omega), List.take_append_of_le_length (by simp; omega)]
    have e2 : ((a ++ digestBytes s).drop 64).take 32 = digestBytes s := by rw [← k, List.drop_left, ← l, List.take_length]
    have e3 : (a ++ digestBytes s).take 64 = a := by rw [← k, List.take_left]
    have e4 : (a ++ digestBytes s).drop 96 = [] := by simp [k, l]
    simp only [partIntact, digestAt, beField, e1, e2, e3, e4, hv, beNat_digestBytes, hs, List.length_append, k, l, Option.all_none]
    simp
  exact go _ (by simp [natBe]) rfl

/-- A copy under way, one whose local bank is written, one that waits for an export, none, and a job that does not run. A hosted part with its digest in
place, and one too short. -/
theorem witness_CheckpointResults :
    let c : CkptRun := { version := 1, bank := 0 }
    let s (k : Option CkptRun) := inJob { st := .running, ckpt := k }
    (∀ k ∈ [some c, some { c with localDone := true }, some { c with waiting := true }, none],
      (s k).jobRec 1 = some job1 ∧ ((s k).jobSt 1).ckpt = k ∧ ((s k).jobSt 1).st = .running) ∧
    (c.waiting = false ∧ c.localDone = false ∧ c.version ≠ 2) ∧
    (job1.members[1]? = some (8, 0) ∧ job1.members[0]?.map (·.1) = some (s none).addr) ∧ ((inJob {}).jobRec 1 = some job1 ∧ ((inJob {}).jobSt 1).st ≠ .running) ∧
    (partIntact part4 4 none = true ∧ partIntact [] 4 none = false) := ⟨holdsNow, holdsNow, holdsNow, holdsNow, part4_intact, rfl⟩

theorem witness_StartResults :
    let s := inJob { st := .starting }
    let held := inJob { st := .starting, startReady := [8] }
    let b (started : Bool) := inJob { st := .starting, startBeat := some 0, started }
    (s.jobRec 1 = some job1 ∧ 8 ∈ s.treeChildren job1 ∧ 8 ∉ (s.jobSt 1).startReady ∧ (s.jobSt 1).st ≠ .running ∧ 9 ∉ s.treeChildren job1 ∧
      held.jobRec 1 = some job1 ∧ 8 ∈ (held.jobSt 1).startReady) ∧
    ((s.jobSt 1).st = .starting ∧ (s.jobSt 1).startBeat = none ∧ 0 = s.form ∧ s.beat < 1 ∧ 1 ≠ s.form ∧ 0 ≤ s.beat ∧ (s.jobSt 1).startBeat ≠ some s.beat) ∧
    (∀ x ∈ [true, false], (b x).jobRec 1 = some job1 ∧ ((b x).jobSt 1).st = .starting ∧ ((b x).jobSt 1).startBeat = some (b x).beat ∧ (b x).dev ≠ .drain ∧
      ((b x).jobSt 1).started = x ∧ ((b x).jobSt 1).substituted = false) := ⟨holdsNow, holdsNow, holdsNow⟩

/-! ## Exchange and update -/

/-- A channel of devices 0 and 8 whose owner is device 8 or 0, with one bucket of four elements of tensor 3. -/
def exch0 (owner : Nat) (sparse : Bool) : ExchRec := { chan := 6, sparse, owner, sumOff := 0, sumSize := 64, carryOff := 0, recvCnt := 0, buckets := [{ tensorId := 3, cols := 0, elem0 := 0, elems := 4, rank := 0, lrOff := 0 }], members := [0, 8], ctx := 0 }
def exchPlan (owner : Nat) (sparse : Bool) : Plan := { jobPlan with exch := [exch0 owner sparse] }
def exchAt (owner : Nat) (sparse : Bool) (straggler : Nat) : State := { inJob { st := .running } with plan := some (exchPlan owner sparse), img := { base.img with exch := { straggler, checkShift := 8 } } }
def chunk0 (idx step : Nat) : Chunk := ⟨6, .gradient, false, false, false, idx, step, 1, 0, 4, 8, 0, .fp32 [0, 0, 0, 0]⟩

/-- A gradient chunk in its turn, of a bucket that is none, of another step with credit, and without credit (a second bucket, or a job halted); a final
check copy; factors broadcast for the step after. Before the deadline, and at it under every policy, dense and sparse, the data there or not. -/
theorem witness_ExchangeResults :
    let r := exch0 8 false
    let s := exchAt 8 false 0
    let c := chunk0 0 0
    let fin : Chunk := { c with check := true, bit := 17 }
    let f (n : Nat) : Chunk := { c with kind := .lowPhQ, step := n }
    let r3 : ExchRec := { exch0 0 false with buckets := List.replicate 3 { tensorId := 3, cols := 0, elem0 := 0, elems := 4, rank := 0, lrOff := 0 } }
    let busy : State := { exchAt 0 false 0 with plan := some { jobPlan with exch := [r3] }, exch := [(6, { next := 2 })] }
    let late (sp : Bool) (n : Nat) : State := { exchAt 8 sp n with beat := 65536 }
    let full : State := { late false 1 with exch := [(6, { leafs := [{ idx := 0, step := 0, issued := 4, data := [(0, 1), (1, 1), (2, 1), (3, 1)] }] })] }
    let kept : State := { late false 1 with exch := [(6, { leafs := [{ idx := 0, step := 0, entry := some 5 }] })] }
    9 ≠ s.addr ∧ (s.exchRec c.chan = some r ∧ (s.jobRunning r.ctx = true ∧ c.kind ≠ .parameters ∧ c.idx < r.buckets.length) ∧
      ¬ (chunk0 1 0).idx < r.buckets.length ∧ c.kind ≠ .lowPhQ ∧ (f 1).kind = .lowPhQ ∧ (f 1).step = s.exchStep r + 1 ∧ (f 0).step ≠ s.exchStep r + 1) ∧
    (s.credit r (s.exchStep r) c.idx c.check = true ∧ c.step = s.exchStep r ∧ (chunk0 0 1).step ≠ s.exchStep r ∧
      fin.check = true ∧ s.lastBit r fin ≤ fin.bit ∧ fin.step = s.exchStep r ∧ c.check = false) ∧
    (busy.exchRec c.chan = some r3 ∧ busy.jobRunning 0 = true ∧ (chunk0 2 0).idx < r3.buckets.length ∧
      busy.credit r3 (busy.exchStep r3) (chunk0 2 0).idx (chunk0 2 0).check = false) ∧
    (s.addr ∈ r.members ∧ r.buckets[0]? = (exch0 8 false).buckets.head? ∧ s.beat < s.deadline r ∧
      (∀ e ∈ [(false, 0), (false, 1), (false, 2), (true, 1)], let t := late e.1 e.2; let r := exch0 8 e.1
        t.exchRec 6 = some r ∧ t.jobRunning r.ctx = true ∧ t.deadline r ≤ t.beat ∧ ((t.exchSt 6).leaf 0 (t.exchStep r)).entry = none ∧
        ((t.exchSt 6).leaf 0 (t.exchStep r)).late = false ∧ t.policy r 0 (t.exchStep r) = e.2 ∧ r.sparse = e.1) ∧
      ((full.exchSt 6).leaf 0 0).data.length = 4 ∧ full.policy r 0 0 = 1 ∧ ((kept.exchSt 6).leaf 0 0).entry = some 5 ∧ 5 < kept.deadline r ∧
      kept.replayExcluded r 0 0 = false) ∧
    (s.deadline r + s.img.exch.exchLimit = 1114112 ∧ s.exchPending r = true ∧ s.beat < 1114112 ∧
      ({ s with beat := 1114112 } : State).deadline r + s.img.exch.exchLimit ≤ 1114112 ∧ ({ s with beat := 1114112 } : State).exchPending r = true) :=
  ⟨holdsNow, holdsNow, holdsNow, holdsNow, holdsNow, holdsNow⟩

def upd0 : UpdRec := { tensorId := 3, prog := 0, wdesc := 1, copy := 0, hist := 0, elems := 4, wOff := 0, copyOff := 0, momOff := 0, momStride := 0, sparse := false, stage := 2, cols := 0 }
def stage1 : StageRec := { stage := 2, unitCode := 0, intBase := 0, intUnits := 4, rcBase := 16384, rcSize := 4096, slotOff := 0, slotBytes := 128, ctx := 0, cores := [9216] }

/-- The owner with a sum and without, dense and sparse; a range of the next version (the last one or not) at a stage with a slot and without, of a
version after it, for a restoring job and for a halted one; lists of the step, of the step after, with and without room, and a second one. -/
theorem witness_UpdateResults :
    let of (t : JobSt) (o : Nat) (sp : Bool) : State := { exchAt o sp 0 with plan := some { exchPlan o sp with updates := [upd0], stages := [stage1] }, jobs := [(1, t)] }
    let s (o : Nat) (sp : Bool) : State := of { st := .running } o sp
    let c (v n : Nat) : ParamChunk := { chan := 6, idx := 0, version := v, off := 0, vals := List.replicate n 0, elems := 4 }
    let full : State := { s 8 false with stages := [(2, { slots := #v[{ ph := .current }, { ph := .retiring }] })] }
    let l (n src : Nat) : SparseList := { step := n, source := src, nonfinite := false, rows := [] }
    let two : State := { s 0 true with exch := [(6, { lists := [l 0 8] })] }
    let x1 : StageSt := { slots := #v[{ ph := .current }, ⟨.shadow, 1⟩] }
    let got (n : Nat) : State :=
      let s1 := (c 1 n).vals.zipIdx.foldl (fun (t : State) e =>
        t.putWeight stage1.ctx (s 8 false |>.slotAddr stage1 1) upd0 0 (weightIndex upd0 ⟨3, 0, 0, 4, 0, 0, []⟩ (0 + e.2)) e.1.toNat) ((s 8 false).setStage 2 x1)
      let s2 := s1.setExch 6 { s1.exchSt 6 with got := aput (s1.exchSt 6).got 0 ((aget (s1.exchSt 6).got 0).getD 0 + (c 1 n).vals.length) }
      (s2.routeChildren (exch0 8 false)).foldl (fun (t : State) d => t.sendParam d (c 1 n)) s2
    let sum : State := { s 0 false with exch := [(6, { sums := [⟨0, 0, 2, false⟩] })] }
    (∀ t ∈ [sum, s 0 false], t.exchRec 6 = some (exch0 0 false) ∧ t.jobRunning 0 = true ∧ (exch0 0 false).owner = t.addr ∧ (exch0 0 false).sparse = false) ∧
    ((sum.exchSt 6).sums = [⟨0, 0, 2, false⟩] ∧ ((s 0 false).exchSt 6).sums = [] ∧ (exch0 8 false).owner ≠ (s 8 false).addr ∧ 9 ≠ (s 8 false).addr) ∧
    (∀ t ∈ [s 8 false, full, of { st := .restoring } 8 false, of { st := .halted } 8 false], t.exchRec 6 = some (exch0 8 false) ∧ (c 1 4).chan = 6 ∧
      (exch0 8 false).buckets[(c 1 4).idx]? = some ⟨3, 0, 0, 4, 0, 0, []⟩ ∧ t.updRec 3 = some upd0 ∧ t.stageRec upd0.stage = some stage1) ∧
    ((s 8 false).jobRunning 0 = true ∧ ((s 8 false).ctxJob 0).st = .running ∧ ((of { st := .restoring } 8 false).ctxJob 0).st = .restoring ∧
      (of { st := .halted } 8 false).jobRunning 0 = false ∧ ((of { st := .halted } 8 false).ctxJob 0).st = .halted ∧
      (c 2 4).version ≠ (s 8 false).exchStep (exch0 8 false) + 1 ∧ (c 1 4).version = (s 8 false).exchStep (exch0 8 false) + 1 ∧
      (full.stage upd0.stage).shadowFor 1 = none) ∧
    ((s 8 false).stage upd0.stage).shadowFor 1 = some (x1, 1) ∧
    (∀ e ∈ (exch0 8 false).buckets.zipIdx, e.1.elems ≤ (aget ((got 4).exchSt 6).got e.2).getD 0) ∧
    ¬ (∀ e ∈ (exch0 8 false).buckets.zipIdx, e.1.elems ≤ (aget ((got 3).exchSt 6).got e.2).getD 0) ∧
    ((s 0 true).exchRec 6 = some (exch0 0 true) ∧ (s 0 true).jobRunning 0 = true ∧ (exch0 0 true).owner = (s 0 true).addr ∧ (exch0 0 true).sparse = true ∧
      (∀ y ∈ ((s 0 true).exchSt 6).lists, y.source ≠ (l 0 0).source ∨ y.step ≠ (l 0 0).step) ∧ (l 0 0).step = (s 0 true).exchStep (exch0 0 true) ∧
      (l 1 0).step ≠ (s 0 true).exchStep (exch0 0 true) ∧ (s 0 true).sparseRoom (exch0 0 true) (l 0 0) = true ∧
      (s 0 true).sparseRoom (exch0 0 true) (l 0 8) = false) ∧
    (two.exchRec 6 = some (exch0 0 true) ∧ ∃ y ∈ (two.exchSt 6).lists, y.source = (l 0 8).source ∧ y.step = (l 0 8).step) ∧
    (3 ∈ ({ s 0 true with shadowCopy := [3] } : State).shadowCopy ∧ 3 ∉ (s 0 true).shadowCopy) :=
  ⟨holdsNow, holdsNow, holdsNow, holdsNow, holdsNow, holdsNow, holdsNow, holdsNow, holdsNow, holdsNow⟩

end Sys2Proof.Tests
end

