-- ==== Sys2Proof/Tests/Slice0.lean ====
section
/-!
SUPPORT. The well-formedness smoke test, and small tests of single steps. Expected values are worked by hand from the rules that each test names.
-/

namespace Sys2Proof.Tests
open Machine

set_option Elab.async false

/-! ## Well-formedness: an ill-formed term for each check -/

def badSite : Site := ⟨10368, 0⟩
def p3 : Pred := ⟨3, false⟩
def vop0 : VOp := ⟨.none, 0, 0, 0, 0, ⟨0, false⟩, 0⟩
def frame0 : Frame := ⟨1, 1, 0, 0, 1, true, 4, 0, true, true, true⟩

theorem test_wf_core : (Instr.nop badSite always).wf = false ∧ (Instr.nop ⟨10367, 0⟩ always).wf = true := holdsNow
theorem test_wf_predicate : (Instr.endProg tSite p3).wf = false ∧ (Instr.wait tSite never 0 0 0).wf = false ∧ (Instr.nop tSite p3).wf = true := holdsNow
theorem test_wf_cmp : (Instr.cmp tSite always 0 .eq 0 0 0).wf = false ∧ (Instr.cmp tSite always 8 .eq 0 0 0).wf = false ∧
    (Instr.cmp tSite always 7 .eq 0 0 0).wf = true := holdsNow
theorem test_wf_counter : (Instr.cset tSite always 16 0 0).wf = false ∧ (Instr.cinc tSite always 16 0 0).wf = false ∧
    (Instr.wait tSite always 16 0 0).wf = false ∧ (Instr.crd tSite always 0 16).wf = false := holdsNow
theorem test_wf_pair : (Instr.beatrd tSite always 31).wf = false ∧ (Instr.mrd tSite always 0 0 0 ⟨0, false⟩ 31).wf = false := holdsNow
theorem test_wf_array : (Instr.mma tSite always 0 0 0 0 1 .empty ⟨0, false⟩).wf = false ∧ (Instr.mrd tSite always 0 0 1 ⟨0, false⟩ 0).wf = false ∧
    (Instr.mrdp tSite always 0 0 0 1 ⟨0, false⟩ 0).wf = false ∧ (Instr.msav tSite always 0 0 1 ⟨0, false⟩).wf = false ∧
    (Instr.mma sSite always 0 0 0 0 1 .empty ⟨0, false⟩).wf = true := holdsNow
theorem test_wf_coreType : (Instr.mmat tSite always 0 0 0 0 0 .empty ⟨0, false⟩).wf = false ∧
    (Instr.mtwin tSite always 0 0 0 0 0 true true ⟨0, false⟩).wf = false ∧ (Instr.vdtanh tSite always vop0).wf = false ∧
    (Instr.stsend sSite always 0 0 ⟨0, false⟩).wf = false := holdsNow
theorem test_wf_events : (Instr.engineInstrComplete 10368 .vector).wf = false ∧ (Instr.waitExpired (some badSite)).wf = false ∧
    (Instr.waitExpired none).wf = true := holdsNow
theorem test_wf_port : (Instr.hello 16 0 ⟨0, 0, 0, true, 0⟩).wf = false ∧ (Instr.hello 0 8 ⟨0, 0, 0, true, 0⟩).wf = false ∧
    (Instr.linkDown 16 0).wf = false ∧ (Instr.linkDelayProbe 15 8 0 0).wf = false ∧ (Instr.linkDown 15 7).wf = true := holdsNow
theorem test_wf_vine : (Instr.enum ⟨256, true⟩).wf = false ∧ (Instr.strap (List.replicate 9 {})).wf = false ∧ (Instr.vineState (List.replicate 9 0)).wf = false ∧
    (Instr.ebeat (2 ^ 64)).wf = false ∧ (Instr.formationPhaseStart ⟨0, []⟩).wf = false ∧ (Instr.formationPhaseStart ⟨6, []⟩).wf = false ∧
    (Instr.xfer ⟨false, true, 0, 0, 4, 0, [0]⟩ 0 ⟨⟨[], true⟩, 0⟩).wf = false := holdsNow
theorem test_wf_channel : (Instr.fuuUpdate 65536).wf = false ∧ (Instr.stragglerDeadline 65536 0).wf = false ∧ (Instr.stemArrival 65536).wf = false ∧
    (Instr.lookupJob 0 (.scratch 0) 0 65536 0 0).wf = false := holdsNow
theorem test_wf_frame : (Instr.close { frame0 with session := 2 ^ 32 }).wf = false ∧ (Instr.close { frame0 with psn := 2 ^ 64 }).wf = false ∧
    (Instr.close { frame0 with ackPsn := 2 ^ 64 }).wf = false ∧ (Instr.close { frame0 with window := 2 ^ 16 }).wf = false ∧
    (Instr.close { frame0 with length := 2 ^ 16 }).wf = false ∧ (Instr.close { frame0 with offset := 2 ^ 32 }).wf = false ∧
    (Instr.close frame0).wf = true := holdsNow
theorem test_wf_sample : (Instr.sample frame0 8 0 0 [0, 0, 0, 0]).wf = false ∧ (Instr.sample frame0 0 (2 ^ 29) 0 [0, 0, 0, 0]).wf = false ∧
    (Instr.sample frame0 0 0 (2 ^ 64) [0, 0, 0, 0]).wf = false ∧ (Instr.req frame0 0 0 [0]).wf = false ∧ (Instr.ack frame0 0 0 (2 ^ 32)).wf = false ∧
    (Instr.sample frame0 0 0 0 [0, 0, 0, 0]).wf = true := holdsNow
theorem test_wf_control : (Instr.switch frame0 256).wf = false ∧ (Instr.ticket frame0 (2 ^ 16) 0).wf = false ∧ (Instr.pfcSet frame0 true 256).wf = false ∧
    (Instr.adapterRemove frame0 (2 ^ 16) false).wf = false ∧ (Instr.maskRemove frame0 (2 ^ 32)).wf = false ∧ (Instr.summaryDrop frame0 (2 ^ 64)).wf = false ∧
    (Instr.read frame0 (2 ^ 32) 1 []).wf = false ∧ (Instr.read frame0 0 (2 ^ 16) []).wf = false ∧ (Instr.read frame0 0 1 [0]).wf = false ∧
    (Instr.planSlot frame0 (2 ^ 24) {}).wf = false := holdsNow
theorem test_wf_outside : (Instr.pfcFrame 8 0).wf = false ∧ (Instr.pfcFrame 0 (2 ^ 16)).wf = false ∧ (Instr.init .client (2 ^ 16) ⟨0, 0, []⟩ true true false).wf = false ∧
    (Instr.thermalTrip 28).wf = false ∧ (Instr.hbmUncorrectable (432 * 10 ^ 9)).wf = false := holdsNow

/-! ## One step: scalar instructions (R106 to R108, R126) -/

/-- The next state of a command, for tests. -/
def after (i : Instr) (s : State) : State := match exec i s with
  | .next t => t
  | _ => State.reset
/-- g3 of context 0 on core 0 after a command. -/
def g3 (i : Instr) (s : State) : Word := ((after i s).ctxAt tSite).greg 3

theorem test_add_wraps : g3 (.add tSite always 3 1 0 0xFFFFFFFF) run = 4 := holdsNow
theorem test_sub_wraps : g3 (.sub tSite always 3 1 0 7) run = 0xFFFFFFFE := holdsNow
theorem test_mul_wraps : g3 (.mul tSite always 3 1 0 0x40000000) run = 0x40000000 := holdsNow
theorem test_and : g3 (.and tSite always 3 1 0 6) run = 4 := holdsNow
theorem test_or : g3 (.or tSite always 3 1 0 6) run = 7 := holdsNow
theorem test_xor : g3 (.xor tSite always 3 1 0 6) run = 3 := holdsNow
theorem test_shl_takes_five_bits : g3 (.shl tSite always 3 1 0 33) run = 10 := holdsNow
theorem test_shr_is_logical : g3 (.shr tSite always 3 1 0 1) run = 2 := holdsNow
theorem test_movi_keeps_g0 : ((after (.movi tSite always 0 9) run).ctxAt tSite).greg 0 = 0 ∧ ((after (.movi tSite always 0 9) run).ctxAt tSite).pc = 1 :=
  holdsNow
theorem test_nop_advances : ((after (.nop tSite always) run).ctxAt tSite).pc = 1 := holdsNow
theorem test_br_takes_twelve_bits : ((after (.br tSite always 0x1FFE) run).ctxAt tSite).pc = 0xFFE := holdsNow
theorem test_loop_of_zero_skips : ((after (.loop tSite always 0 0 9) run).ctxAt tSite).pc = 10 := holdsNow
theorem test_endloop_goes_back : ((after (.endloop tSite always) (runWith { runCtx with pc := 9, loops := [(2, 4)] })).ctxAt tSite).pc = 4 := holdsNow
theorem test_cmp_signed : ((after (.cmp tSite always 2 .lts 1 0 0xFFFFFFFF) run).ctxAt tSite).preg 2 = false := holdsNow
theorem test_cmp_unsigned : ((after (.cmp tSite always 2 .ltu 1 0 0xFFFFFFFF) run).ctxAt tSite).preg 2 = true := holdsNow
theorem test_unpredicated_advances : g3 (.movi tSite never 3 7) run = 0 ∧ ((after (.movi tSite never 3 7) run).ctxAt tSite).pc = 1 := holdsNow
theorem test_sts_clears_low_bits : ((after (.sts tSite always 0 1 3) runPlan).scr 0 0 8) = [5, 0, 0, 0, 0, 0, 0, 0] := holdsNow
theorem test_lds_is_little_endian : g3 (.lds tSite always 3 0 4) { runPlan with mem := memPutBytes [] (scrAddr 0 4) [1, 2, 3, 4] } = 0x04030201 :=
  holdsNow
theorem test_wait_passes_below_half : ((after (.wait tSite always 0 0 0x80000001) run).ctxAt tSite).wait = none := holdsNow
theorem test_wait_blocks_at_half : ((after (.wait tSite always 0 0 0x80000000) run).ctxAt tSite).wait = some ⟨.counter 0 0x80000000, 0⟩ := holdsNow
theorem test_cset : ((after (.cset tSite always 15 1 2) run).ctxAt tSite).c[(15 : Fin 16)] = 7 := holdsNow
theorem test_cinc_wraps : ((after (.cinc tSite always 0 0 1) (runWith { runCtx with c := Vector.replicate 16 0xFFFFFFFF })).ctxAt tSite).c[(0 : Fin 16)] = 0 :=
  holdsNow
theorem test_crd : g3 (.crd tSite always 3 2) (runWith { runCtx with c := Vector.replicate 16 6 }) = 6 := holdsNow
theorem test_beatrd_pair : g3 (.beatrd tSite always 2) { run with beat := 0x300000004 } = 3 := holdsNow
theorem test_flagrc_clears : g3 (.flagrc tSite always 3 0 1) { run with flags := Vector.replicate 8 3 } = 3 ∧
    (after (.flagrc tSite always 3 0 1) { run with flags := Vector.replicate 8 3 }).flags[(0 : Fin 8)] = 2 := holdsNow
theorem test_vsetl_limits : ((after (.vsetl tSite always 0 200) run).ctxAt tSite).vl = 64 ∧ ((after (.vsetl sSite always 0 0) run).ctxAt sSite).vl = 128 :=
  holdsNow
theorem test_tdadd_base : (((after (.tdadd tSite always 4 .base 1 3) run).ctxAt tSite).td[(4 : Fin 64)]).base = 8 := holdsNow
theorem test_absent_core_faults : exec (.nop badSite always) run = .fault (.noSuchAddress 10368) := rfl

/-! ## Instruction words, one of each format, from the bits of Tables 4-2 to 4-10 and 5-1 -/

theorem test_word_formatS : decodeWord tSite 0 0x1151844000000005 = some (.add tSite ⟨2, true⟩ 3 1 2 5) ∧
    decodeWord tSite 0 0x19027FC4FFFFFFFF = some (.cmp tSite always 4 .lts 31 30 0xFFFFFFFF) := holdsNow
theorem test_word_formatT : decodeWord tSite 0 0x310FD30000000007 = some (.tdadd tSite always 63 .indexBase 9 7) := holdsNow
theorem test_word_formatM : decodeWord tSite 0 0x4000420EBE000000 = some (.mma tSite always 1 2 3 1 0 .addend ⟨15, true⟩) ∧
    decodeWord tSite 0 0x4400400D09C00000 = some (.mrdp tSite always 1 3 0 1 ⟨2, false⟩ 28) := holdsNow
theorem test_word_formatW : decodeWord sSite 0 0x4200420EBE000000 = some (.mtwin sSite always 1 2 3 1 0 true false ⟨15, true⟩) := holdsNow
theorem test_word_formatV : decodeWord tSite 0 0x5008110518F1ABCD = some (.vadd tSite always ⟨.reg, 4, 5, 6, 7, ⟨8, true⟩, 0xABCD⟩) := holdsNow
theorem test_word_formatD : decodeWord tSite 0 0x60004474FFFF8000 = some (.dma tSite always 1 2 3 true 0xFFFF ⟨4, true⟩) := holdsNow
theorem test_word_formatL : decodeWord tSite 0 0x72007FFF92000000 = some (.lred tSite always 1 0xFFFE ⟨4, true⟩) := holdsNow
/-- A reserved opcode, a reserved field, a reserved condition and a reserved operation code. -/
theorem test_word_reserved : decodeWord tSite 0 0x0600000000000000 = none ∧ decodeWord tSite 0 0x7200000000000001 = none ∧
    decodeWord tSite 0 0x1900000600000000 = none ∧ decodeWord tSite 0 0x5000D00000000000 = none := holdsNow

/-! ## Numbers (R47, R49, R57 to R61, R81, Tables 2-1, 2-2) -/

theorem test_decode_e4m3 : decode .e4m3 0x7E = .fin 448 ∧ decode .e4m3 0x7F = .nan := holdsNow
theorem test_decode_e5m2 : decode .e5m2 0x7B = .fin 57344 ∧ decode .e5m2 0xFC = .inf true := holdsNow
theorem test_decode_small : decode .e2m1 0x7 = .fin 6 ∧ decode .e2m3 0x1F = .fin (15 / 2) ∧ decode .e3m2 0x1F = .fin 28 := holdsNow
theorem test_decode_int8 : decode .int8 0x80 = .fin (-128) ∧ decode .int8 0 = .zero false := holdsNow
theorem test_decode_subnormal : decode .fp16 0x0001 = .fin (1 / 16777216) := holdsNow
theorem test_round_ties_to_even : (roundRne .e2m1 (.fin (5 / 2))).bits = 0x4 ∧ (roundRne .e2m1 (.fin (7 / 2))).bits = 0x6 := holdsNow
theorem test_round_fp32 : (roundRne .fp32 (.fin (1 + 1 / 16777216))).bits = 0x3F800000 := holdsNow
/-- 2^100 + 1 − 2^100 is 1: a narrow chain is exact. -/
theorem test_narrow_is_exact :
    (readOut (blockSum .narrow emptyEl [(.fin (2 ^ 100), .one), (.one, .one), (.fin (2 ^ 100), .fin (-1))])).1 = .fin 1 := holdsNow
theorem test_inf_minus_inf : (readOut (blockSum .narrow emptyEl [(.inf false, .one), (.inf true, .one)])) = (.nan, flInvalid) := holdsNow

/-! ## The device -/

theorem test_step_empty : step State.reset = .next { State.reset with phase := 1 } := rfl
theorem test_beat_counts : (after .beatBoundary { base with beat := 2 ^ 64 - 1, phase := 5 }).beat = 0 ∧
    (after .beatBoundary { base with beat := 7, phase := 5 }).phase = 0 := holdsNow
theorem test_enum_gives_position : (after (.enum ⟨3, false⟩) (onVine 0 false false)).addr = 3 ∧
    (after (.enum ⟨3, false⟩) (onVine 0 false false)).out.getLast? = some (.vine (.enum 4)) := holdsNow
theorem test_pwrEnFall_is_off : (after .pwrEnFall State.reset).dev = .off ∧ (after .pwrEnFall State.reset).pwr.good = false := holdsNow
theorem test_boot_holds : (after (.resetNRise {} false false) { State.reset with dev := .reset }).dev = .hold := holdsNow
theorem test_boot_without_nvm : (after (.resetNRise {} true false) { State.reset with dev := .reset }).dev = .boot ∧
    (after (.resetNRise {} true false) { State.reset with dev := .reset }).bootCode = 0x1040 := holdsNow
theorem test_unowned_is_safe : (after .bootConfigure { base with dev := .hold, addrValid := true }).dev = .safe := holdsNow
theorem test_trip_faults : (after (.thermalTrip 3) running).dev = .halt ∧ ((after (.thermalTrip 3) running).err.first.map FaultRec.code) = some 0x6103 :=
  holdsNow
theorem test_credit_returns_once : ((after (.creditReturn 0) { base with bufs := [(0, { freed := 1 })] }).buf 0).returned = 1 ∧
    ((after (.creditReturn 0) { base with bufs := [(0, { freed := 1, returned := 1 })] }).buf 0).returned = 1 := holdsNow
theorem test_engineInstrComplete_counts :
    let s := runPlan.addJob 0 { lone (.vop 0x00 .none {} {} {} 0 false 0 0 64) with phase := .started, fl := 1 }
    ((after (.engineInstrComplete 0 .vector) s).ctxAt tSite).c[(0 : Fin 16)] = 1 ∧ (after (.engineInstrComplete 0 .vector) s).flags[(0 : Fin 8)] = 1 :=
  holdsNow
/-- VMOV of an FP32 1 from byte 4 to byte 0 starts at once on an idle core. -/
theorem test_vmov_moves :
    let x : CtxSt := { runCtx with td := runCtx.td.set 1 { base := 4 } }
    let s : State := { runWith x with plan := some plan0, mem := memPutBytes [] (scrAddr 0 4) [0, 0, 0x80, 0x3F] }
    ((after (.vmov tSite always ⟨.none, 0, 1, 0, 0, ⟨0, false⟩, 0⟩) s).scr 0 0 4) = [0, 0, 0x80, 0x3F] := holdsNow
theorem test_commit_advances_the_step :
    ((after (.commitBeat 1) (inJob { st := .running, marker := some (marker1 true 0) })).jobSt 1).step = 1 := holdsNow
theorem test_errRejectNew_saturates : (after (.errRejectNew 0x12345) base).err.rejectNew = 0xFFFF ∧ (after (.errRejectNew 0x12345) base).err.rejectTotal = 0x12345 :=
  holdsNow

end Sys2Proof.Tests
end

