-- ==== Sys2Proof/Tests/WitnessFrames.lean ====
section
/-!
SUPPORT. Witnesses: for each statement with hypotheses about frames, the port, the Trust Block and the journal, concrete states and operands
that meet them, clause by clause.
-/

namespace Sys2Proof.Tests
open Machine

set_option Elab.async false

/-! ## Frames -/

/-- The first data frame of session 1, whole and in order; the session as it stands, and with that frame taken. -/
def fr : Frame := ⟨1, 1, 0, 0, 1, true, 64, 0, true, true, true⟩
def sess (a : Authority) : SessionSt := { opened := true, authority := a }
def seen (a : Authority) : SessionSt := { sess a with rx := 1, owed := 1 }
/-- A device in state d whose port is up and which holds session 1. -/
def link (d : DevState) (a : Authority) : State :=
  { State.reset with dev := d, addrValid := true, imgApplied := true, eth := { up := true }, sessions := [(1, sess a)] }

theorem arrives_of {s : State} {f : Frame} {x : SessionSt} (h : (s.eth.up && s.powered && (s.session f.session).isSome && f.tagOk
    && decide (f.psn < 2 ^ 48) && decide ((s.taken f).session f.session = some x) && decide (x.rx = f.psn) && f.reservedOk
    && decide (f.length ≤ 8192)) = true) : Arrives s f x := by
  simp only [Bool.and_eq_true, decide_eq_true_eq] at h
  obtain ⟨⟨⟨⟨⟨⟨⟨⟨h1, h2⟩, h3⟩, h4⟩, h5⟩, h6⟩, h7⟩, h8⟩, h9⟩ := h
  exact ⟨h1, h2, h3, h4, h5, h6, h7, h8, h9⟩

theorem delivers_of {s : State} {f : Frame} {b : FrameBody} {x : SessionSt} (h : (s.eth.up && s.powered && (s.session f.session).isSome && f.tagOk
    && decide (f.psn < 2 ^ 48) && decide ((s.taken f).session f.session = some x) && decide (x.rx = f.psn) && f.reservedOk
    && decide (f.length ≤ 8192)) = true)
    (g : (x.opened && (s.taken f).dev.accepts b && f.subtypeOk && b.permitted x.authority && x.obj.isNone && decide (f.offset = 0) && f.last) = true) :
    Delivers s f b x := by
  simp only [Bool.and_eq_true, decide_eq_true_eq, Option.isNone_iff_eq_none] at g
  obtain ⟨⟨⟨⟨⟨⟨g1, g2⟩, g3⟩, g4⟩, g5⟩, g6⟩, g7⟩ := g
  exact ⟨arrives_of h, g1, g2, g3, g4, fun _ => ⟨g5, g6, g7⟩⟩

/-- A device with a sample table of context 1 and a request table of context 2. -/
def data1 : DataRec := { ctx := 1, relCommit := true, relCnt := 0, slots := 4, slotBytes := 64, tableOff := 0, statusOff := 8, spm := 1, sampleBase := 0, arriveCnt := 0 }
def serve2 : ServeRec := { ctx := 2, slots := 4, slotBytes := 256, stepTokens := 8, chunk := 8, inflight := 1, sinkPages := 0, recentPages := 0, maxRingLog2 := 8, maxContext := 1024, psetBytes := 4096, npset := 4, summaryTtl := 16, ringHold := 8, verdictMax := 1, summaryBytes := 65536, reqOff := 64, statusOff := 16, vocab := 16, draftBase := 32, slotCnt := 0 }
def clientPlan : Plan := { data := [data1], serve := [serve2] }
def client (samples : List (Nat × SampleSlot)) (reqs : List (Nat × ReqSt)) : State :=
  { link .run .client with plan := some clientPlan, samples, reqs }

/-- The bytes of a request that breaks no rule of R299 (a pair request that drafts one token, ring of 2^6), from offset 4 of the slot. -/
def goodReq : List Byte := natLe 2 0 ++ [1, 0, 0, 1, 1, 0] ++ natLe 4 0 ++ natLe 4 0 ++ natLe 4 0x3F800000 ++ natLe 8 0 ++ natLe 8 0 ++ natLe 8 0
  ++ natLe 2 0xFFFF ++ natLe 2 0xFFFF ++ natLe 4 1 ++ natLe 4 0xFFFFFFFF ++ natLe 4 1 ++ [6] ++ List.replicate 31 0 ++ natLe 4 3

/-- A sample slot free and half written; a request slot free and claimed; a request that breaks no rule, an empty one and one
of another client; requests ENDING, in DECODE in a
batch step and in none, before and at their deadline, and PAUSING with a CANCEL and without. -/
theorem witness_ClientFrames :
    let zeros : List Byte := List.replicate 64 0
    let other : List Byte := List.replicate 64 9
    let slot0 : SampleSlot := { session := 1, id := 1, written := 0 }
    let half := client [(sampleKey 1 1, slot0)] []
    let cl : ReqSt := { session := some 1 }
    let claimed := client [] [(reqKey 2 1, cl)]
    let q (ph : ReqPhase) (n : Option Nat) (p : Nat) : ReqSt := { ph, session := some 1, inStep := n, prod := p, cons := 0 }
    let due (n : Nat) : ReqSt := { q .decode none 64 with r := { deadline := n } }
    let u (x : ReqSt) : State := { client [] [(reqKey 2 1, x)] with beat := 9 }
    let bad := client [] []
    let good : State := { bad with mem := memPutBytes [] (bad.scratchAt serve2.reqOff + 1 * serve2.slotBytes + 4) goodReq }
    (Delivers bad fr (.sample 1 1 1 zeros) (seen .client) ∧ (bad.taken fr).dataRec 1 = some data1 ∧ 1 < data1.slots ∧
      aget (bad.taken fr).samples (sampleKey 1 1) = none ∧ fr.offset = 0 ∧ (((bad.taken fr).jobOf 1).map fun j => ((bad.taken fr).jobSt j.job).sampleFirst).getD 0 ≤ 1 ∧
      zeros.length ≤ data1.slotBytes ∧ data1.sampleBase ≤ 1 ∧ (1 - data1.sampleBase) % data1.slots = 1) ∧
    (Delivers half fr (.sample 1 1 1 zeros) (seen .client) ∧ (half.taken fr).dataRec 1 = some data1 ∧ aget (half.taken fr).samples (sampleKey 1 1) = some slot0 ∧
      slot0.done = none ∧ slot0.session = fr.session ∧ fr.offset = slot0.written ∧ fr.offset + zeros.length ≤ data1.slotBytes) ∧
    (Delivers bad fr (.req 2 1 zeros) (seen .client) ∧ (bad.taken fr).serveRec 2 = some serve2 ∧ 1 < serve2.slots ∧ (bad.taken fr).req 2 1 = none ∧
      fr.offset + zeros.length ≤ serve2.slotBytes ∧ (bad.taken fr).foreignClient serve2 fr 1 (seen .client).client zeros = false ∧
      (bad.taken fr).foreignSummary serve2 fr 1 (seen .client).client zeros = false) ∧
    (Delivers bad fr (.req 2 1 other) (seen .client) ∧ (bad.taken fr).foreignClient serve2 fr 1 (seen .client).client other = true ∧
      fr.offset + other.length ≤ serve2.slotBytes) ∧
    (Delivers claimed fr (.req 2 1 zeros) (seen .client) ∧ (claimed.taken fr).serveRec 2 = some serve2 ∧ (claimed.taken fr).req 2 1 = some cl ∧ cl.ph = .claimed ∧
      cl.session = some fr.session ∧ fr.offset = cl.written ∧ (claimed.taken fr).foreignClient serve2 fr 1 (seen .client).client zeros = false ∧
      (claimed.taken fr).foreignSummary serve2 fr 1 (seen .client).client zeros = false) ∧
    (good.settleLive.requestCodes serve2 (good.readRequest (good.scratchAt serve2.reqOff + 1 * serve2.slotBytes)) = [] ∧
      bad.settleLive.requestCodes serve2 (bad.readRequest (bad.scratchAt serve2.reqOff + 1 * serve2.slotBytes)) ≠ []) ∧
    (∀ x ∈ [q .ending none 1, q .decode none 64, q .decode (some 7) 1, q .pausing none 1, due 9, due 10], ((u x).taken fr).req 2 1 = some x ∧ x.ph ≠ .claimed ∧
      x.client = (seen .client).client) ∧
    (Delivers (u (q .ending none 1)) fr (.ack 2 1 1) (seen .client) ∧ Delivers (u (q .decode none 64)) fr (.ack 2 1 64) (seen .client) ∧
      (1 < 2 ^ 32 ∧ ringDist 0 1 ≤ 2 ^ (q .ending none 1).r.ringLog2 ∧ ringDist 1 1 = 0 ∧ ringDist 0 64 ≤ 2 ^ (q .decode none 64).r.ringLog2 ∧
        ringDist 64 64 ≤ 2 ^ 6 ∧ (q .decode none 64).ph ≠ .ending)) ∧
    (Delivers (u (q .decode (some 7) 1)) fr (.cancel 2 1) (seen .client) ∧ Delivers (u (q .decode none 64)) fr (.cancel 2 1) (seen .client) ∧
      Delivers (u (due 9)) fr (.cancel 2 1) (seen .client) ∧ Delivers (u (due 10)) fr (.cancel 2 1) (seen .client) ∧
      Delivers (u (q .pausing none 1)) fr (.cancel 2 1) (seen .client) ∧ Delivers (u (q .ending none 1)) fr (.cancel 2 1) (seen .client) ∧
      Delivers (u (q .decode none 64)) fr (.resume 2 1) (seen .client)) ∧
    ((q .decode (some 7) 1).ph.active = true ∧ (q .decode (some 7) 1).inStep.isSome = true ∧ (q .decode none 64).ph.active = true ∧
      (q .decode none 64).inStep = none ∧ (q .decode none 64).r.deadline = 0 ∧ (due 9).r.deadline ≠ 0 ∧ (due 9).r.deadline ≤ ((u (due 9)).taken fr).beat ∧
      ((u (due 10)).taken fr).beat < (due 10).r.deadline ∧ (q .ending none 1).ph ≠ .pausing ∧ (q .ending none 1).ph.active = false) :=
  ⟨⟨delivers_of holdsNow holdsNow, holdsNow⟩, ⟨delivers_of holdsNow holdsNow, holdsNow⟩, ⟨delivers_of holdsNow holdsNow, holdsNow⟩,
    ⟨delivers_of holdsNow holdsNow, holdsNow⟩, ⟨delivers_of holdsNow holdsNow, holdsNow⟩, holdsNow, holdsNow, ⟨delivers_of holdsNow holdsNow, delivers_of holdsNow holdsNow, holdsNow⟩,
    ⟨delivers_of holdsNow holdsNow, delivers_of holdsNow holdsNow, delivers_of holdsNow holdsNow, delivers_of holdsNow holdsNow,
      delivers_of holdsNow holdsNow, delivers_of holdsNow holdsNow, delivers_of holdsNow holdsNow⟩, holdsNow⟩

/-- Job 1 of context 0 on device 0 alone. -/
def soloJob : JobRec := { job := 1, ctxMask := 1, extEvery := 0, ckptEvery := 0, haltSettle := 4, restoreLimit := 8, bankBytes := 4096, restartMax := 0, members := [(0, 0)], tree := [], spares := [] }
def op (d : DevState) : State := link d .operator

/-- A device in which session 1 has been accepted for an authority and a key, and the session with its first frame taken. -/
def proving (a : Authority) (key : Digest) : State :=
  { link .run a with sessions := [(1, { authority := a, key })], sec := { (link .run a).sec with tickets := [(0, 5)], owners := [key] } }
def asking (a : Authority) (key : Digest) : SessionSt := { authority := a, key, rx := 1, owed := 1 }

theorem proving_arrives (a : Authority) (key : Digest) : Arrives (proving a key) fr (asking a key) :=
  ⟨rfl, rfl, rfl, rfl, by decide, rfl, rfl, rfl, by decide⟩

/-- Each control command in a state that accepts it. A plan held for SWITCH and one of the library; the coordinator of a job in every state, settled and
not, a member without units, and another device; a full ticket list, with the client in it and without; owners that may be followed and 16 of them;
PROVE of a client and of the operator, and one that fails. -/
theorem witness_ControlFrames :
    let p : Plan := {}
    let good : SigInfo := ⟨[(5, 8)], true⟩
    let given (d : DevState) : State := { op d with planRx := some p }
    let job (st : JobState) (n b : Nat) : State :=
      { op .run with plan := some { jobs := [soloJob] }, jobs := [(1, { st, coord := { since := some 0 } })], origin := n, beat := b }
    let spent : State := { job .halted 0 4 with sec := { (job .halted 0 4).sec with husk := some 3, meters := [(3, { exhausted := true })] } }
    let lib : State := { op .run with img := { (op .run).img with directory := [⟨3, 0, 0⟩] }, nvm := { (op .run).nvm with plans := [(3, p)] } }
    let full : State := { op .run with sec := { (op .run).sec with tickets := (List.range 4096).map fun i => (i, 0) } }
    let own (n : Nat) : State := { op .safe with sec := { (op .safe).sec with owners := List.replicate n 7 } }
    let key := Config.sha256 []
    let mac := Config.hmac (digestBytes 5) (digestBytes 0)
    (Delivers (op .run) fr .close (seen .operator) ∧ Delivers (op .run) fr .drain (seen .operator) ∧ ((op .run).taken fr).dev = .run ∧
      Delivers (op .drain) fr .drain (seen .operator) ∧ ((op .drain).taken fr).dev ≠ .run ∧ Delivers (op .halt) fr .rejoin (seen .operator)) ∧
    (Delivers (op .run) fr (.ticket 1 2) (seen .operator) ∧ ((op .run).taken fr).sec.tickets.length < 4096 ∧
      Delivers full fr (.ticket 4096 2) (seen .operator) ∧ (4096 ≤ (full.taken fr).sec.tickets.length ∧ aget (full.taken fr).sec.tickets 4096 = none) ∧
      Delivers full fr (.ticket 4095 2) (seen .operator) ∧ (aget (full.taken fr).sec.tickets 4095).isSome = true) ∧
    (Delivers (op .run) fr (.storageKey 2) (seen .operator) ∧ 7 ≤ 7 ∧ Delivers (op .run) fr (.pfcSet true 7) (seen .operator) ∧
      Delivers (op .run) fr (.pfcSet false 7) (seen .operator)) ∧
    (Delivers (own 1) fr (.ownerTransfer 2 7 good) (seen .operator) ∧ Delivers (own 16) fr (.ownerTransfer 2 7 good) (seen .operator) ∧
      Delivers (own 1) fr (.ownerTransfer 2 8 good) (seen .operator) ∧ Delivers (own 1) fr (.ownerTransfer 2 7 ⟨[], false⟩) (seen .operator) ∧
      (good.valid = true ∧ (⟨[], false⟩ : SigInfo).valid = false ∧ (∀ n ∈ [1, 16], ((own n).taken fr).sec.owners ≠ [] ∧ 7 = ((own n).taken fr).sec.owner) ∧
        ((own 1).taken fr).sec.owners.length < 16 ∧ 16 ≤ ((own 16).taken fr).sec.owners.length ∧ 8 ≠ ((own 1).taken fr).sec.owner)) ∧
    (Delivers (given .run) fr (.switch 0xFF) (seen .operator) ∧ Delivers (given .configured) fr (.switch 0xFF) (seen .operator) ∧
      ∀ d ∈ [DevState.run, .configured], ((given d).taken fr).switch = none ∧ ((given d).taken fr).planRx = some p ∧
        verifyPlan p ((given d).taken fr).img (((given d).taken fr).verifyEnv true) = none ∧ ((given d).taken fr).dev = d) ∧
    (Delivers lib fr (.switch 0) (seen .operator) ∧ (lib.taken fr).libraryPlan 0 = .ok p) ∧
    ((∀ st n b, Delivers (job st n b) fr (.restart 1 false 0 none []) (seen .operator)) ∧ Delivers spent fr (.restart 1 false 0 none []) (seen .operator) ∧
      ((spent.taken fr).jobRec 1 = some soloJob ∧ (spent.taken fr).sec.exhausted = true ∧ (spent.taken fr).isMember soloJob = true) ∧
      (∀ st ∈ [JobState.stopped, .halted, .none, .running], let u := (job st 0 4).taken fr
        u.jobRec 1 = some soloJob ∧ u.sec.exhausted = false ∧ u.origin = u.addr ∧ u.jobView soloJob = st ∧ u.settled soloJob = true) ∧
      (((job .halted 0 3).taken fr).settled soloJob = false ∧ ((job .halted 9 4).taken fr).jobRec 1 = some soloJob ∧
        ((job .halted 9 4).taken fr).sec.exhausted = false ∧ ((job .halted 9 4).taken fr).origin ≠ ((job .halted 9 4).taken fr).addr)) ∧
    (Delivers (op .run) fr (.read 0xFC00 256 []) (seen .operator) ∧ 0xFC00 % 4 = 0 ∧ 0 < 256 ∧ 256 ≤ 256 ∧ 0xFC00 + 4 * 256 ≤ 0x10000) ∧
    (Arrives (proving .client 7) fr (asking .client 7) ∧ Arrives (proving .operator key) fr (asking .operator key) ∧ fr.offset = 0 ∧ fr.last = true ∧
      (asking .client 7).opened = false ∧ (asking .client 7).obj = none ∧ ((proving .client 7).taken fr).proofCode (asking .client 7) ⟨[], mac⟩ good = 0 ∧
      (asking .operator key).opened = false ∧ (asking .operator key).obj = none ∧
      ((proving .operator key).taken fr).proofCode (asking .operator key) ⟨[], 0⟩ good = 0 ∧
      ((proving .operator key).taken fr).proofCode (asking .operator key) ⟨[], 0⟩ ⟨[], false⟩ ≠ 0) := by
  have ok (key : Digest) : ((proving .operator key).taken fr).sec.owners = [key] := rfl
  have tk : aget ((proving .client 7).taken fr).sec.tickets (asking .client 7).client = some 5 := rfl
  refine ⟨⟨delivers_of holdsNow holdsNow, delivers_of holdsNow holdsNow, holdsNow, delivers_of holdsNow holdsNow, holdsNow, delivers_of holdsNow holdsNow⟩,
    ⟨delivers_of holdsNow holdsNow, holdsNow, delivers_of holdsNow holdsNow, holdsNow, delivers_of holdsNow holdsNow, holdsNow⟩,
    ⟨delivers_of holdsNow holdsNow, holdsNow, delivers_of holdsNow holdsNow, delivers_of holdsNow holdsNow⟩,
    ⟨delivers_of holdsNow holdsNow, delivers_of holdsNow holdsNow, delivers_of holdsNow holdsNow, delivers_of holdsNow holdsNow, holdsNow⟩,
    ⟨delivers_of holdsNow holdsNow, delivers_of holdsNow holdsNow, holdsNow⟩, ⟨delivers_of holdsNow holdsNow, rfl⟩,
    ⟨fun st n b => ⟨⟨rfl, rfl, rfl, rfl, by decide, rfl, rfl, rfl, by decide⟩, rfl, rfl, rfl, rfl, nofun⟩, delivers_of holdsNow holdsNow, holdsNow,
      holdsNow, holdsNow⟩, ⟨delivers_of holdsNow holdsNow, holdsNow⟩,
    ⟨proving_arrives _ _, proving_arrives _ _, rfl, rfl, rfl, rfl, ?_, rfl, rfl, ?_, ?_⟩⟩
  · have a : (asking .client 7).authority = .client := rfl
    simp only [State.proofCode, a, tk]; simp [asking]
  · simp [State.proofCode, asking, SecSt.owner, ok, SigInfo.valid]
  · simp [State.proofCode, asking, SigInfo.valid]

/-- A Husk of one granule and one recipient. -/
def husk0 : Husk :=
  { header := natBe 4 0x4855534B ++ natBe 2 1 ++ natBe 2 0 ++ natBe 32 11 ++ natBe 32 12 ++ natBe 4 0x1F ++ natBe 4 0 ++ natBe 8 100 ++ natBe 8 4096
      ++ natBe 4 1 ++ natBe 4 1 ++ List.replicate 152 0
    signature := [], recipTable := List.replicate 1640 0
    tensorTable := natBe 4 1 ++ natBe 4 0x01000000 ++ natBe 8 0 ++ natBe 8 4096 ++ natBe 8 0
    chunks := [⟨0, [], 0⟩], sig := ⟨[(5, 8)], true⟩ }
def adapter0 : AdapterObj := { ident := 3, version := 2, rank := 16, teacher := false }
/-- A mask of 16 tokens that allows token 1, and its bytes. -/
def mask0 : MaskObj := { automaton := false, vocab := 16, start := 0, states := [], bitmaps := [[1]] }
def maskBytes : List Byte := natLe 4 1 ++ natLe 4 16 ++ natLe 4 0 ++ natLe 4 1 ++ natLe 4 0 ++ natLe 4 32 ++ natLe 4 0 ++ natLe 4 32 ++ [2] ++ List.replicate 31 0
def summary0 : Summary := { conv := 3, length := 1, lastToken := 5, sink := 0, recent := 0, adapter := 0xFFFF, adapterVer := 0, keptBeat := 0, planDigest := 0, digest := 0, bytes := 64 }
/-- The bytes of the summary of conversation 8, of length 0, with its digest in place. -/
def sumFrame : List Byte := natLe 8 8 ++ List.replicate 64 0 ++ digestBytes (Config.sha256 []) ++ List.replicate 920 0

theorem sumFrame_digest : (readSummary sumFrame).digest = sumDigest sumFrame (pageSets (readSummary sumFrame).length) := by
  have go (a d : List Byte) (h : a.length = 72) (k : d.length = 32) : ((a ++ d ++ List.replicate 920 0).drop 72).take 32 = d ∧
      (a ++ d ++ List.replicate 920 0).drop 1024 = [] := by
    rw [List.append_assoc, ← h, List.drop_left, ← k, List.take_left]
    exact ⟨rfl, List.drop_of_length_le (by simp only [List.length_append, List.length_replicate]; omega)⟩
  have k : (digestBytes (Config.sha256 [])).length = 32 := by simp [digestBytes, natBe]
  have h : (natLe 8 8 ++ List.replicate 64 0 : List Byte).length = 72 := by simp
  obtain ⟨e1, e2⟩ := go _ _ h k
  have n : (readSummary sumFrame).length = 0 := holdsNow
  have e2 : sumFrame.drop 1024 = [] := e2
  rw [n, sumDigest, show sumHead (pageSets 0) = 1024 from rfl, e2]
  simp only [readSummary, pageSets, sumFrame, e1, beNat_digestBytes]
  rfl

/-- A device that has bound the Husk, with every object that can be removed. -/
def bound : State :=
  let s := op .run
  { s with
    deviceId := 0
    plan := some { serve := [serve2], huskDigest := 13, jobs := [soloJob], adapterAreas := [⟨2, false, 16, 0, 0, 4096⟩], regions := [⟨0, .teacher, 0, 8192, 0, false, []⟩] }
    img := { s.img with licensorKeys := [12], exportPolicy := 0x1F }
    sec := { s.sec with keys := true, husk := some 11, huskObj := some husk0, policy := 0x1F, licensor := 12
                        meters := [(11, { limit := 100, licensor := 12 })], storageKey := some 1, contentKey := some 2 }
    adapters := [(1, ⟨.live, 5, 1, false, 16, false⟩)], adapterHigh := [(6, 1)], masks := [(4, mask0)], summaries := [(3, summary0)] }

theorem bound_imgRun : (bound.taken fr).imgRun = none := holdsNow

theorem sumFrame_length : sumFrame.length = 1024 := by
  have n : (digestBytes (Config.sha256 [])).length = 32 := by simp [digestBytes, natBe]
  simp only [sumFrame, List.length_append, List.length_replicate, natLe_length, n]

theorem bound_opens : let x := gcmSeal (exportKey 2 9 (bound.taken fr).summaryLabel) (natBe 12 0) [] sumFrame
    ((bound.taken fr).sec.contentKey.bind fun k => openExport k 9 (bound.taken fr).summaryLabel x.1 [x.2]) = some sumFrame := by
  have k : (bound.taken fr).sec.contentKey = some 2 := rfl
  have h := sumFrame_length
  generalize (bound.taken fr).summaryLabel = label
  generalize sumFrame = l at h ⊢
  intro x
  rw [k, Option.bind_some]
  exact openExport_one (by omega) (by omega)

/-- Each object in a device that takes it: a Husk with one bound and with none, with keys and without, removals of what is held and of what is not, masks
in use and not, exports that open and that do not, for a halted job and for a running one. -/
theorem witness_ObjectFrames :
    let unkeyed : State := { bound with sec := { bound.sec with keys := false } }
    let unbound : State := { bound with sec := { bound.sec with husk := none } }
    let freeing : State := { bound with maskFree := [4] }
    let runs : State := { bound with jobs := [(1, { st := .running })] }
    let g : Grant := ⟨11, 0, 1, 100, 12, ⟨[(5, 8)], true⟩, true⟩
    let u := bound.taken fr
    let im : Image := ⟨[], [], [], ⟨[], false⟩⟩
    let x := gcmSeal (exportKey 2 9 u.summaryLabel) (natBe 12 0) [] sumFrame
    let y := gcmSeal (exportKey ((u.ckptBase soloJob).getD 0) 9 (ckptLabel soloJob)) (natBe 12 0) [] [1]
    (Delivers bound fr (.husk husk0) (seen .operator) ∧ (u.sec.keys = true ∧ u.sec.husk ≠ none) ∧
      Delivers unbound fr (.husk husk0) (seen .operator) ∧ ((unbound.taken fr).sec.keys = true ∧ (unbound.taken fr).sec.husk = none) ∧
      Delivers unkeyed fr (.husk husk0) (seen .operator) ∧ (unkeyed.taken fr).sec.keys = false) ∧
    (Delivers bound fr (.huskRemove 11) (seen .operator) ∧ ((seen .operator).authority ≠ .licensor ∧ u.sec.husk = some 11) ∧
      Delivers bound fr (.huskRemove 10) (seen .operator) ∧ u.sec.husk ≠ some 10) ∧
    (Delivers bound fr (.meterGrant g) (seen .operator) ∧ (seen .operator).authority ≠ .licensor ∧ g.sig.valid = true ∧ g.reservedOk = true ∧
      g.deviceId = u.deviceId ∧ aget u.sec.meters g.huskId.toNat = some { limit := 100, licensor := 12 } ∧ g.signer = 12 ∧ 0 < g.seq ∧ 100 ≤ g.limit) ∧
    (Delivers bound fr (.adapterLoad adapter0) (seen .operator) ∧ adapter0.rank = 16 ∧
      ((u.adapterSlots adapter0.teacher adapter0.rank).find? fun e => (aget u.adapters e.1).isNone) = some (0, 0, 4096) ∧
      aget u.adapterHigh (adapterKey adapter0.ident adapter0.teacher) = some 1 ∧ 1 < adapter0.version ∧ adapter0.teacher = false) ∧
    (Delivers bound fr (.adapterRemove 5 false) (seen .operator) ∧ u.settleLive.liveAdapter 5 false = some 1) ∧
    (Delivers bound fr (.maskLoad 9 maskBytes) (seen .operator) ∧ (aget u.masks 9 = none ∧ parseMask maskBytes = some mask0 ∧ mask0.ok serve2.vocab = true) ∧
      Delivers bound fr (.maskRemove 4) (seen .operator) ∧ (aget u.masks 4 = some mask0 ∧ 4 ∉ u.maskFree) ∧
      Delivers freeing fr (.maskRemove 4) (seen .operator) ∧ 4 ∈ (freeing.taken fr).maskFree) ∧
    (aget u.summaries 3 = some summary0 ∧ Delivers bound fr (.summaryExport 3) (seen .operator) ∧ u.exportBit 1 = true ∧
      Delivers bound fr (.summaryDrop 3) (seen .operator)) ∧
    (Delivers bound fr (.summaryImport 9 x.1 [x.2]) (seen .operator) ∧
      (u.sec.contentKey.bind fun k => openExport k 9 u.summaryLabel x.1 [x.2]) = some sumFrame ∧
      (aget u.summaries (readSummary sumFrame).conv.toNat = none ∧ u.importPlace 1024 = some (2, 0)) ∧ sumFrame.length = 1024 ∧
      u.plan.map Plan.digest = some (readSummary sumFrame).planDigest ∧
      (readSummary sumFrame).digest = sumDigest sumFrame (pageSets (readSummary sumFrame).length)) ∧
    (Delivers bound fr (.summaryImport 9 [] [0]) (seen .operator) ∧
      (u.sec.contentKey.bind fun k => openExport k 9 u.summaryLabel [] [0]) = none) ∧
    (u.nvm.write = none ∧ Delivers bound fr (.fwBank shippedFirmware) (seen .operator) ∧ Delivers bound fr (.imageBank im) (seen .operator) ∧
      (∀ b j, u.imgRun = some b → u.nvm.img[b] = some j → j.seq.toNat < im.seq.toNat) ∧
      Delivers bound fr (.planSlot 15 {}) (seen .operator) ∧ (15 ≤ 15 ∧ ∀ e ∈ u.img.directory, e.slot ≠ 15) ∧
      Delivers bound fr (.planForSwitch {}) (seen .operator)) ∧
    (Delivers bound fr (.ckpt 1 0 9 y.1 none [y.2]) (seen .operator) ∧ Delivers runs fr (.ckpt 1 0 9 y.1 none [y.2]) (seen .operator) ∧
      Delivers bound fr (.ckpt 1 0 9 [] none [0]) (seen .operator) ∧
      (u.jobRec 1 = some soloJob ∧ u.roleOf soloJob = some 0 ∧ (u.jobSt 1).st ≠ .running ∧ ((runs.taken fr).jobSt 1).st = .running) ∧
      ((u.ckptBase soloJob).bind fun k => openExport k 9 (ckptLabel soloJob) y.1 [y.2]) = some [1] ∧
      ((u.ckptBase soloJob).bind fun k => openExport k 9 (ckptLabel soloJob) [] [0]) = none) := by
  have ck : ((bound.taken fr).ckptBase soloJob).isSome = true := holdsNow
  obtain ⟨k, hk⟩ := Option.isSome_iff_exists.mp ck
  refine ⟨⟨delivers_of holdsNow holdsNow, holdsNow, delivers_of holdsNow holdsNow, holdsNow, delivers_of holdsNow holdsNow, holdsNow⟩,
    ⟨delivers_of holdsNow holdsNow, holdsNow, delivers_of holdsNow holdsNow, holdsNow⟩, ⟨delivers_of holdsNow holdsNow, holdsNow⟩,
    ⟨delivers_of holdsNow holdsNow, holdsNow⟩, ⟨delivers_of holdsNow holdsNow, holdsNow⟩,
    ⟨delivers_of holdsNow holdsNow, holdsNow, delivers_of holdsNow holdsNow, holdsNow, delivers_of holdsNow holdsNow, holdsNow⟩,
    ⟨holdsNow, delivers_of holdsNow holdsNow, holdsNow, delivers_of holdsNow holdsNow⟩,
    ⟨delivers_of holdsNow holdsNow, bound_opens, holdsNow, sumFrame_length, rfl, sumFrame_digest⟩, ⟨delivers_of holdsNow holdsNow, rfl⟩,
    ⟨holdsNow, delivers_of holdsNow holdsNow, delivers_of holdsNow holdsNow,
      fun b _ h => absurd ((bound_imgRun).symm.trans h) (Option.some_ne_none b).symm, delivers_of holdsNow holdsNow, holdsNow,
      delivers_of holdsNow holdsNow⟩,
    ⟨delivers_of holdsNow holdsNow, delivers_of holdsNow holdsNow, delivers_of holdsNow holdsNow, holdsNow, ?_, ?_⟩⟩
  · rw [hk]; exact openExport_one (by simp) (by simp)
  · rw [hk]; exact openExport_short (base := k) (exportId := 9) (label := ckptLabel soloJob) (l := []) (tags := [0]) (by simp [blocksOf])

/-- A SWITCH of a client, a control subtype that is none, and a request in HALT. -/
theorem witness_RefusedFramesChangeNothing :
    let none_ : Frame := { fr with subtypeOk := false }
    ((Instr.switch fr 3).frame = some (fr, .switch 3) ∧ Arrives (link .run .client) fr (seen .client) ∧ (seen .client).opened = true ∧
      (FrameBody.switch 3).permitted (seen .client).authority = false) ∧
    ((Instr.switch none_ 3).frame = some (none_, .switch 3) ∧ Arrives (link .run .client) none_ (seen .client) ∧ none_.subtypeOk = false) ∧
    ((Instr.req fr 2 1 []).frame = some (fr, .req 2 1 []) ∧ Arrives (link .halt .client) fr (seen .client) ∧
      ((link .halt .client).taken fr).dev.accepts (.req 2 1 []) = false) :=
  ⟨⟨rfl, arrives_of holdsNow, holdsNow⟩, ⟨rfl, arrives_of holdsNow, rfl⟩, ⟨rfl, arrives_of holdsNow, holdsNow⟩⟩

/-- A session with an object under way or with none, and a frame of a mask or of an adapter on it that passes every check. -/
def within1 (o : Option (Nat × Nat)) : State := { link .run .operator with sessions := [(1, { sess .operator with obj := o })] }
def seenObj (o : Option (Nat × Nat)) : SessionSt := { seen .operator with obj := o }
def blockFrame (offset length : Nat) (last : Bool) : Frame := { fr with offset, length, last }
def Comes (o : Option (Nat × Nat)) (f : Frame) (i : Instr) (b : FrameBody) (k : Nat) : Prop :=
  i.frame = some (f, b) ∧ Arrives (within1 o) f (seenObj o) ∧ (seenObj o).opened = true ∧ ((within1 o).taken f).dev.accepts b = true ∧
    f.subtypeOk = true ∧ b.permitted (seenObj o).authority = true ∧ b.kind = some k ∧ k ≠ 10

/-- Blocks of a mask: while a Husk is under way, out of place, short, in place and LAST; a first block out of place, short and whole; the first of an
adapter. -/
theorem witness_ObjectBlocks :
    let comes (o : Option (Nat × Nat)) (offset length : Nat) (last : Bool) : Prop :=
      Comes o (blockFrame offset length last) (.maskLoad (blockFrame offset length last) 9 []) (.maskLoad 9 []) 7
    (comes (some (5, 1)) 1 8192 false ∧ 5 % 16 ≠ 7) ∧
    (comes (some (7, 1)) 0 8192 false ∧ 7 % 16 = 7 ∧ comes (some (7, 1)) 2 8192 true ∧ comes (some (7, 1)) 1 8191 false) ∧
    comes (some (7, 1)) 1 8192 false ∧ (comes (some (7, 1)) 1 0 true ∧ comes (some (7, 1)) 1 8192 true) ∧
    (comes none 1 8192 false ∧ comes none 0 8191 false) ∧ comes none 0 8192 false ∧
    Comes none (blockFrame 0 8192 false) (.adapterLoad (blockFrame 0 8192 false) adapter0) (.adapterLoad adapter0) 6 := by
  have m (o : Option (Nat × Nat)) (offset length : Nat) (last : Bool) (h : length ≤ 8192) :
      Comes o (blockFrame offset length last) (.maskLoad (blockFrame offset length last) 9 []) (.maskLoad 9 []) 7 :=
    ⟨rfl, ⟨rfl, rfl, rfl, rfl, (by decide : 1 < 2 ^ 48), rfl, rfl, rfl, h⟩, rfl, rfl, rfl, rfl, rfl, by decide⟩
  exact ⟨⟨m _ _ _ _ (by decide), by decide⟩, ⟨m _ _ _ _ (by decide), rfl, m _ _ _ _ (by decide), m _ _ _ _ (by decide)⟩, m _ _ _ _ (by decide),
    ⟨m _ _ _ _ (by decide), m _ _ _ _ (by decide)⟩, ⟨m _ _ _ _ (by decide), m _ _ _ _ (by decide)⟩, m _ _ _ _ (by decide),
    ⟨rfl, ⟨rfl, rfl, rfl, rfl, by decide, rfl, rfl, rfl, by decide⟩, rfl, rfl, rfl, rfl, rfl, by decide⟩⟩

/-! ## The port -/

/-- ACK_ONLY frames new and old, malformed, of no session and beyond the PSN range; a session that owes an acknowledgement, at the end of its PSNs and
before, with a frame sent 15 and 16 times again, the port up, paused and down; a full session table; a port of each kind; an operator that reads. -/
theorem witness_PortResults :
    let s := link .run .operator
    let x := sess .operator
    let y (r n : Nat) : SessionSt := { x with owed := 1, tx := [⟨1, .opened 0, true, r, false⟩], txNext := n }
    let u (r n : Nat) : State := { s with sessions := [(1, y r n)] }
    let down : State := { s with eth := {} }
    let full : State := { s with sessions := (List.range Config.maxSessions).map fun i => (i, x) }
    let pfc : State := { s with eth := { up := true, pfc := some 3, paused := true } }
    let dup : State := { s with eth := { up := true, dup := [0] } }
    (s.eth.up = true ∧ s.powered = true ∧ s.session fr.session = some x ∧ fr.tagOk = true ∧ fr.psn < 2 ^ 48 ∧ x.aoRx < fr.psn ∧ fr.malformed = false ∧
      { fr with reservedOk := false }.malformed = true ∧ 2 ^ 48 ≤ { fr with psn := 2 ^ 48 }.psn ∧ { fr with tagOk := false }.tagOk = false ∧
      ({ s with sessions := [(1, { x with aoRx := 1 })] } : State).session 1 = some { x with aoRx := 1 } ∧ fr.psn ≤ ({ x with aoRx := 1 } : SessionSt).aoRx) ∧
    (x.owed = 0 ∧ (∀ e ∈ [(15, 2), (16, 2), (15, 2 ^ 48)], (u e.1 e.2).session 1 = some (y e.1 e.2) ∧ 0 < (y e.1 e.2).owed ∧ (u e.1 e.2).eth.up = true ∧
        (u e.1 e.2).eth.paused = false ∧ ((y e.1 e.2).tx.find? fun t => t.psn == 1 && t.sent) = some ⟨1, .opened 0, true, e.1, false⟩) ∧
      (y 15 2).txNext < 2 ^ 48 ∧ (y 15 2).aoTx + 1 < 2 ^ 48 ∧ 2 ^ 48 ≤ (y 15 (2 ^ 48)).txNext ∧ 15 < 16 ∧ 16 ≤ 16 ∧
      (x.tx.find? fun t => t.psn == 1 && t.sent) = none ∧ ({ u 15 2 with eth := {} } : State).eth.up = false) ∧
    (¬ Config.maxSessions ≤ s.sessions.length + (s.sec.waiting.filter SignReq.isAccept).length ∧
      Config.maxSessions ≤ full.sessions.length + (full.sec.waiting.filter SignReq.isAccept).length ∧ full.eth.up = true ∧ full.powered = true) ∧
    (down.powered = true ∧ down.eth.moduleOk = true ∧ down.eth.up = false ∧ pfc.eth.up = true ∧ pfc.eth.pfc = some 3 ∧
      pfc.eth.pfc ≠ some 4 ∧ pfc.eth.paused = true ∧ s.addressFormed 0 = true ∧ (0 : Fin 3).val ∉ s.eth.dup ∧ 0 ∈ dup.eth.dup ∧
      State.reset.addressFormed 1 = false ∧ s.reader = some 1 ∧ State.reset.reader = none) := ⟨holdsNow, holdsNow, holdsNow, holdsNow⟩

/-! ## The Trust Block and the journal -/

/-- A report kept, and none; no leaf left, the rate limit, no keys; a reserved leaf; owners and challenges; a Husk that is bound or not, permitted or not;
a meter with units, asked, with a reservation to make, and with none left; keys at boot and later. -/
theorem witness_TrustResults :
    let s := link .run .operator
    let rep : AttestRep := { flags := 0, nonce := 5, fwDigest := 0, fwVersion := 0, fwSvn := 0, fwSvnMin := 0, imageSvn := 0, imageDigest := 0, owner := 0, joinDigest := 0, husk := 0, spent := 0, reserved := 0, limit := 0, grantSeq := 0, address := 0, state := 0, beat := 0, leaf := 0, challenge := 0 }
    let kept : State := { s with sec := { s.sec with reports := [rep] } }
    let out : State := { s with sec := { s.sec with epochs := epochMax } }
    let leaf : State := { s with sec := { s.sec with keys := true, epoch := some 0, leafEnd := 1 } }
    let sig (v : Bool) : SigInfo := ⟨[(5, 8)], v⟩
    let none_ : State := { bound with sec := { bound.sec with husk := none, huskObj := none } }
    let safe (o : List Digest) : State := { link .safe .operator with sec := { s.sec with owners := o, challenge := 9 } }
    let m (pool reserved : Nat) (asked : Option Nat) : MeterSt := { pool, reserved, limit := 100, asked }
    let meter (pool reserved : Nat) (asked : Option Nat) : State := { bound with sec := { bound.sec with meters := [(11, m pool reserved asked)] } }
    let shut : State := { bound with img := { bound.img with exportPolicy := 0 } }
    (kept.dev ≠ .off ∧ kept.dev ≠ .reset ∧ (kept.sec.reports.find? fun r => r.nonce == 5 && r.husk == 0) = some rep) ∧
    (out.sec.leafExhausted = true ∧ s.sec.leafExhausted = false ∧ s.sec.waiting.length < 1024 ∧ s.sec.keys = false) ∧
    (leaf.dev ≠ .off ∧ leaf.dev ≠ .reset ∧ (leaf.sec.reports.find? fun r => r.nonce == 5 && r.husk == 0) = none ∧ leaf.sec.waiting = [] ∧ leaf.sec.keys = true ∧
      leaf.sec.epochAsked = false ∧ leaf.sec.leafAsked = false ∧ leaf.sec.epoch = some 0 ∧ leaf.sec.nextLeaf < leaf.sec.leafEnd ∧ leaf.sec.nextLeaf < (0 + 1) * 2 ^ 30) ∧
    ((safe []).dev ∉ [DevState.off, .reset, .boot, .hold, .halt] ∧ (safe []).sec.owners = [] ∧ 9 = (safe []).sec.challenge ∧ (safe [1]).sec.owners ≠ [] ∧
      (safe [1]).dev ∉ [DevState.off, .reset, .boot, .hold, .halt] ∧ 8 ≠ (safe []).sec.challenge ∧ (sig true).valid = true ∧ (sig false).valid = false) ∧
    (bound.sec.huskObj = some husk0 ∧ bound.sec.husk = some husk0.huskId ∧ bound.exportBit 3 = true ∧ shut.sec.husk = some husk0.huskId ∧
      shut.exportBit 3 = false ∧ s.sec.husk ≠ some husk0.huskId ∧ none_.sec.huskObj = none) ∧
    (husk0.policy.getLsbD 3 = true ∧ none_.img.exportPolicy.getLsbD 3 = true ∧ none_.sec.husk = none ∧ shut.img.exportPolicy.getLsbD 3 = false) ∧
    (s.sec.husk = none ∧ ∀ e ∈ [(1, 0, none), (0, 99, some 1), (0, 99, none), (0, 100, none)], (meter e.1 e.2.1 e.2.2).sec.husk = some 11 ∧
      (meter e.1 e.2.1 e.2.2).sec.exhausted = false ∧ aget (meter e.1 e.2.1 e.2.2).sec.meters (11 : Digest).toNat = some (m e.1 e.2.1 e.2.2)) ∧
    (0 < (m 1 0 none).pool ∧ (m 0 99 (some 1)).asked.isSome = true ∧ (m 0 99 none).pool = 0 ∧ (m 0 99 none).asked = none ∧
      (m 0 99 none).reserved < (m 0 99 none).limit ∧ (m 0 100 none).limit ≤ (m 0 100 none).reserved) ∧
    (({ s with fwRun := some 0 } : State).fwRun ≠ none ∧ s.sec.keys = false ∧ s.fwRun = none) :=
  ⟨holdsNow, holdsNow, holdsNow, holdsNow, holdsNow, holdsNow, holdsNow, holdsNow, holdsNow⟩

theorem witness_JournalResults :
    let s := State.reset
    let r (b : JnlBody) : JnlRec := ⟨1, 0, b⟩
    let j (b : JnlBody) : State := { s with jnl := { s.jnl with half := #v[{ erased := false, complete := true }, {}], queue := [r b] } }
    let torn : State := { j .beatMark with jnl := { (j .beatMark).jnl with torn := true } }
    let comp : State := { torn with jnl := { torn.jnl with compact := some 0 } }
    (∀ b ∈ [JnlBody.leafReserve 64, .epochOpen 0, .svnMin 2], (j b).jnl.queue = r b :: [] ∧ (j b).jnl.torn = false ∧ (j b).jnl.act.complete = true ∧
      (j b).jnl.act.fill + (r b).size ≤ 8 * 2 ^ 20 ∧ (r b).body = b) ∧
    (s.jnl.queue = [] ∧ s.jnl.compact = none) ∧
    (torn.jnl.compact = none ∧ torn.jnl.act.complete = true ∧ (torn.jnl.half[torn.jnl.other]).erased = true ∧ torn.jnl.torn = true ∧
      comp.jnl.compact = some 0 ∧ comp.jnl.compact ≠ none) := ⟨holdsNow, holdsNow, holdsNow⟩

end Sys2Proof.Tests
end

