-- ==== Sys2Proof/Tests/WitnessService.lean ====
section
/-!
SUPPORT. Witnesses: for each statement with hypotheses about serving, restarts, power, boot, faults and numbers, concrete states and operands
that meet them, clause by clause.
-/

namespace Sys2Proof.Tests
open Machine

set_option Elab.async false

/-! ## Serving -/

def serve0 : ServeRec := { ctx := 2, slots := 4, slotBytes := 256, stepTokens := 8, chunk := 8, inflight := 1, sinkPages := 0, recentPages := 0, maxRingLog2 := 8, maxContext := 1024, psetBytes := 4096, npset := 4, summaryTtl := 16, ringHold := 8, verdictMax := 1, summaryBytes := 65536, reqOff := 0, statusOff := 16, vocab := 1, draftBase := 32, slotCnt := 0 }
/-- An acceptance record of one column, whose student row stands at scratchpad byte 0 of the first S-core. -/
def accept0 : LossRec := { id := 9, kind := .accept, gfmt := 0, aKl := 0, aCe := 0, invT := 0x3F800000, invN := 0x3F800000, rows := 2, labels := 0, vocab := 1, group := [], segs := [⟨0, 0, 0, 0⟩], ctx := 2, resultOff := 0, doneCnt := 3 }
def acceptProg : ProgRec := { ctx := 2, cores := [9216], words := [], poolBase := 0, pool := [{ lrow := 1 }] }
def servePlan : Plan where
  serve := [serve0]
  losses := [accept0]
  programs := [acceptProg]
  recipes := [{ buffer := 0, kind := .full, vfmt := 0, invT := 0x3F800000, k := 0, width := 1 }]
  landings := [⟨0, 0, 4096, 64, 2, 0, 0, .accept, 2, 1, 2, 0⟩]

/-- A device that serves context 2, with a request in slot 1. -/
def serving (x : ReqSt) (m : List Host.Cell := []) : State :=
  { State.reset with dev := .run, addrValid := true, imgApplied := true, plan := some servePlan, reqs := [(reqKey 2 1, x)], mem := m }
def req0 : ReqSt := { ph := .decode, toks := [5], inStep := some 7, r := { draft := 2, accept := 2 } }
def step7 : BatchSt := ⟨7, 2, [(1, .round)]⟩

/-- A pair request, a student-alone and a teacher-alone one in a batch step, over a student row of 0, of -inf and of NaN; a pair request whose draft is
full, or ended; an open acceptance job; and a device in DRAIN. -/
theorem witness_ServingResults :
    let on (x : ReqSt) (row : List Byte) : State :=
      { serving x (memPutBytes [] (scrAddr 9216 0) row) with batches := [step7], bufs := [(0, { sent := 1, arrived := 1 })] }
    let s := on req0 [0, 0, 0, 0]
    let inf := on req0 [0, 0, 0x80, 0xFF]
    let nan := on req0 [0, 0, 0xC0, 0x7F]
    let model (n : Nat) : ReqSt := { req0 with r := { model := n, accept := 2 } }
    let row (z : Machine.Num) : LossRowSt := { segs := [{ col0 := 0, z := [z], t := .full [z], status := 0 }] }
    let j : LossJob := { id := 9, step := 0, mb := 0, lam := .one, since := 0, rows := [row (.zero false), row (.zero false)] }
    let acc : State := { s with loss := [j] }
    let drain : State := { serving req0 with dev := .drain }
    let from_ (u : State) (t : Nat) := sampleRow true (decode .fp32 0) 0 t 0 (maskRow none 0 (u.studentRow accept0 0))
    let near (s : State) := s.settleLive.expireWaiting 2
    let flying (s : State) := ((near s).batches.filter fun b => b.ctx == 2).length
    ((serving req0).serveRec 2 = some serve0 ∧ (near (serving req0)).ctxRuns 2 = true ∧ (near (serving req0)).dev ≠ .drain ∧
      flying (serving req0) < serve0.inflight ∧ drain.serveRec 2 = some serve0 ∧ (near drain).dev = .drain ∧ ¬ flying s < serve0.inflight) ∧
    (∀ x ∈ [req0, model 1, model 2, { req0 with draftStop := true }, { req0 with drafts := [0, 0] }], (on x []).req 2 1 = some x ∧
      (on x []).lossRec 9 = some accept0 ∧ x.round = none ∧ accept0.ctx = 2 ∧ accept0.kind = .accept ∧ x.inStep = some 7 ∧
      ((on x []).batches.find? fun q => q.id == 7) = some step7 ∧ step7.items.contains (1, .round) = true) ∧
    (req0.r.model = 0 ∧ req0.draftStop = false ∧ req0.drafts.length < req0.r.draft ∧ req0.r.draft ≤ [0, 0].length ∧ s.maskOf req0 = none ∧
      req0.sigma ≠ maskAccept ∧ req0.r.accept = 2 ∧ req0.r.invT = 0 ∧ req0.r.seed = 0) ∧
    (from_ s (req0.committed + req0.drafts.length) = .tok 0 ∧ from_ inf (req0.committed + req0.drafts.length) = .empty ∧
      from_ nan (req0.committed + req0.drafts.length) = .nonfinite) ∧
    ((model 1).r.model = 1 ∧ from_ s (model 1).committed = .tok 0 ∧ from_ inf (model 1).committed = .empty ∧ from_ nan (model 1).committed = .nonfinite) ∧
    (∀ g ∈ accept0.segs, (s.buf g.buffer).taken < (s.buf g.buffer).arrived) ∧ (∃ segs, s.lossRow accept0 0 = some segs) ∧
    (acc.req 2 1 = some req0 ∧ (acc.lossHeads.find? fun (_, _, r) => r.kind == .accept && r.ctx == 2) = some (0, j, accept0) ∧
      req0.inStep.isSome = true ∧ req0.round = none ∧ req0.r.kind = 1) :=
  ⟨holdsNow, holdsNow, holdsNow, holdsNow, holdsNow, holdsNow, Option.isSome_iff_exists.mp holdsNow, holdsNow⟩

/-- A request that holds page set 3 keeps it over a composition; a queued one of two pages takes the free ones. -/
theorem witness_ComposeWithinBudget :
    let s := serving { req0 with inStep := none, sets := [(0, 3)] }
    let q := serving { req0 with inStep := none }
    (((s.compose 2 serve0).req 2 1).any fun y => y.sets.contains (0, 3)) = true ∧
    (((q.compose 2 serve0).req 2 1).any fun y => y.sets.any fun e => (q.freeSets 2 serve0).contains e.2) = true := holdsNow

/-- A teacher row in which element 1 is the largest: as the draft, and after another draft. -/
theorem witness_GreedyEmitsTheTeachersTokens :
    let y : List (Machine.Num × Bool) := [(.zero false, true), (.one, true)]
    (acceptFrom true .one 0 0 [1] [[]] [y, y]).1[0]? = some (1, fDrafted) ∧ (acceptFrom true .one 0 0 [0] [[]] [y, y]).1[0]? = some (1, fCorrection) :=
  holdsNow

/-- A batch step of one request that has decided its round, with a deadline that has come, a cancel, and neither; one whose round is undecided. A
request in no batch step at its deadline beat, and before. A pause that is open, cancelled, complete, and complete with its conversation listed. -/
theorem witness_RequestEndResults :
    let done : ReqSt := { req0 with round := some { toks := [(4, 0)] } }
    let t (d : Nat) (c : Bool) : ReqSt := { done with r := { done.r with deadline := d }, cancel := c }
    let w (x : ReqSt) : State := { serving x with batches := [step7], beat := 9 }
    let free : ReqSt := { req0 with inStep := none, r := { req0.r with deadline := 9 } }
    let e : ReqSt := { req0 with ph := .ending, inStep := none, termBeat := some 1 }
    let sm : Summary := { ctx := 2, conv := 3, length := 1, lastToken := 5, sink := 0, recent := 0, adapter := 0xFFFF, adapterVer := 0, keptBeat := 0, planDigest := 0, digest := 0, bytes := 64 }
    let p (c : Bool) : ReqSt := { req0 with ph := .pausing, inStep := none, cancel := c, saved := some sm, r := { req0.r with conv := 3 } }
    let u (b : Nat) : State := { serving (p false) with summaries := [(3, sm)], beat := b }
    ((w req0).serveRec 2 = some serve0 ∧ ((w req0).batches.find? fun b => b.id == 7 && b.ctx == 2) = some step7 ∧ (w req0).batchDone step7 = false) ∧
    (∀ x ∈ [t 9 false, t 10 true, t 10 false, t 0 false], (w x).serveRec 2 = some serve0 ∧ ((w x).batches.find? fun b => b.id == 7 && b.ctx == 2) = some step7 ∧
      step7.items = [(1, .round)] ∧ ((w x).batchDone step7 = true ∧ (w x).ranksDone step7 [] = true) ∧ (w x).req 2 1 = some x) ∧
    ((t 9 false).r.deadline ≠ 0 ∧ (t 9 false).r.deadline ≤ (w (t 9 false)).beat ∧ (w (t 10 true)).beat < (t 10 true).r.deadline ∧ (t 10 true).cancel = true ∧
      (w (t 10 false)).beat < (t 10 false).r.deadline ∧ (t 10 false).cancel = false ∧ (t 0 false).r.deadline = 0) ∧
    ((w free).req 2 1 = some free ∧ free.ph.active = true ∧ free.inStep = none ∧ free.r.deadline ≠ 0 ∧ free.r.deadline ≤ (w free).beat ∧
      ({ w free with beat := 8 } : State).beat < free.r.deadline) ∧
    ((w e).req 2 1 = some e ∧ (w e).serveRec 2 = some serve0 ∧ e.termBeat = some 1 ∧ e.ph = .ending ∧ 1 + serve0.ringHold ≤ (w e).beat ∧
      ({ w e with beat := 8 } : State).beat < 1 + serve0.ringHold) ∧
    (({ w (p false) with openEntries := [(.pause 2 1, [1])] } : State).pauseOpen 2 1 = true ∧
      (∀ c ∈ [true, false], (w (p c)).req 2 1 = some (p c) ∧ (p c).ph = .pausing ∧ (w (p c)).pauseOpen 2 1 = false ∧ (p c).cancel = c) ∧
      (p false).saved = some sm ∧ aget (w (p false)).summaries 3 = none ∧ (p false).r.conv = 3 ∧ aget (u 16).summaries 3 ≠ none ∧
      (u 16).req 2 1 = some (p false) ∧ (u 16).pauseOpen 2 1 = false) ∧
    (∀ n ∈ [15, 16], aget (u n).summaries 3 = some sm ∧ (u n).serveRec sm.ctx = some serve0) ∧ (serve0.summaryTtl ≠ 0 ∧
      sm.keptBeat + serve0.summaryTtl ≤ (u 16).beat ∧ (u 15).beat < sm.keptBeat + serve0.summaryTtl) :=
  ⟨holdsNow, holdsNow, holdsNow, holdsNow, holdsNow, holdsNow, holdsNow, holdsNow⟩

/-! ## Restarts -/

/-- Job 1 of context 0 on device 0 and its partner 8, whose tree joins them. -/
def rjob : JobRec := { job := 1, ctxMask := 1, extEvery := 0, ckptEvery := 0, haltSettle := 4, restoreLimit := 8, bankBytes := 4096, restartMax := 0, members := [(0, 1), (8, 0)], tree := [(8, 0)], spares := [] }
def withJob (t : JobSt) (origin : Nat := 0) : State :=
  { State.reset with dev := .run, addrValid := true, imgApplied := true, plan := some { jobs := [rjob] }, jobs := [(1, t)], origin }

/-- A member and coordinator in every state of a restart, a member whose coordinator is another device, and a device that is no member; a job whose
attempt has begun in this beat. The halt phase over and not, with a RESTART that waits, with an automatic restart, and without. A good part, one too
short, and none for a restart from the initial values; a plan whose Husk is not loaded. -/
theorem witness_RestartResults :
    let s := withJob { st := .running, attempt := 1 }
    let again := withJob { st := .halted, attempt := 1, notified := true }
    let begun : State := { withJob { st := .running, attempt := 2 } with undos := [(1, { beat := 0, job := { st := .starting, attempt := 1 } })] }
    let out : State := { withJob { attempt := 1 } with addr := 5, origin := 5 }
    let rep (n : Nat) : HaltedRep := ⟨1, n, 8, [], [], some 1⟩
    let held := withJob { st := .halted, attempt := 1, coord := { reports := [rep 1] } }
    let a (v : Option Nat) : Assignment := { attempt := 1, version := v, subst := [], external := false }
    let ended (q : Option RestartReq) (auto : Nat) (beat : Nat) : State :=
      { withJob { st := .halted, attempt := 1, coord := { since := some 0, request := q } } with img := { State.reset.img with autoRestart := auto }, beat }
    let member (n : Nat) := withJob { st := .halted, attempt := n } 8
    let restoring (v : Option Nat) := withJob { st := .restoring, attempt := 1, assign := some (a v), coord := { restoreSince := some 0 } }
    let bare : State := { restoring none with plan := some { jobs := [rjob], regions := [⟨1, .teacher, 0, 4096, 0, false, []⟩] } }
    let full : RestoreSrc := { part := some part4 }
    let bad : RestoreSrc := { part := some [] }
    let map (t : State) (x : RestoreSrc) := (t.knownManifest rjob x 4).map Manifest.mapDigest
    (∀ t ∈ [s, again, begun, out, held, ended none 1 4, member 1, restoring none, restoring (some 4), bare], t.jobRec 1 = some rjob) ∧
    (s.isMember rjob = true ∧ (s.jobSt 1).notified = false ∧ again.isMember rjob = true ∧ (again.jobSt 1).notified = true ∧ 2 ≠ (s.jobSt 1).attempt ∧
      s.justStarted 1 2 = false ∧ out.isMember rjob = false ∧ begun.isMember rjob = true ∧ begun.justStarted 1 1 = true ∧ (begun.jobSt 1).notified = false) ∧
    ((rep 1).job = 1 ∧ s.origin = s.addr ∧ (∃ m ∈ rjob.members, m.1 = (rep 1).address) ∧ (rep 1).attempt = (s.jobSt 1).attempt ∧
      s.reported rjob (rep 1).address = false ∧ (rep 0).attempt < (s.jobSt 1).attempt ∧ held.origin = held.addr ∧
      held.reported rjob (rep 1).address = true ∧ (held.jobSt 1).coord.restoreSince = none) ∧
    (out.origin = out.addr ∧ (rep 2).job = 1 ∧ (out.jobSt 1).attempt < (rep 2).attempt ∧ out.isMember rjob = false ∧ out.reported rjob 8 = false) ∧
    (∀ e ∈ [(some ({} : RestartReq), 0), (none, 1), (none, 0)], let t := ended e.1 e.2 4
      t.origin = t.addr ∧ (t.jobSt 1).coord.since = some 0 ∧ (t.jobSt 1).coord.restoreSince = none ∧ t.jobView rjob = .halted ∧ t.settled rjob = true ∧
      (t.jobSt 1).coord.request = e.1 ∧ t.img.autoRestart = e.2) ∧ (ended none 1 3).settled rjob = false ∧
    ((member 1).origin ≠ (member 1).addr ∧ ((member 1).jobSt 1).st ≠ .running ∧ (member 1).isMember rjob = true ∧ (a none).attempt = ((member 1).jobSt 1).attempt ∧
      (a none).attempt ≠ ((member 2).jobSt 1).attempt ∧ (a none).subst = []) ∧ ((member 1).plan ≠ none) ∧
    (∀ v ∈ [none, some 4], ((restoring v).jobSt 1).st = .restoring ∧ (restoring v).isMember rjob = true ∧ (restoring v).lacksHusk = false ∧
      ((restoring v).jobSt 1).extern = none ∧ ((restoring v).jobSt 1).assign = some (a v) ∧ (a v).version = v) ∧ bare.lacksHusk = true ∧
    (partIntact ((restoring (some 4)).restorePart rjob full 4) 4 (map (restoring (some 4)) full) = true) ∧
    (partIntact ((restoring (some 4)).restorePart rjob bad 4) 4 (map (restoring (some 4)) bad) = false) ∧
    (8 ≠ s.addr ∧ (restoring none).origin = (restoring none).addr ∧ ((restoring none).jobSt 1).coord.restoreSince = some 0 ∧
      ((ended none 1 4).jobSt 1).coord.restoreSince = none ∧
      0 + rjob.restoreLimit ≤ ({ restoring none with beat := 8 } : State).beat ∧ ({ restoring none with beat := 7 } : State).beat < 0 + rjob.restoreLimit) :=
  ⟨holdsNow, holdsNow, holdsNow, holdsNow, holdsNow, holdsNow, holdsNow, nofun, holdsNow, holdsNow, part4_intact, rfl, holdsNow⟩

/-! ## Power and boot -/

/-- OFF with power enabled, after a thermal shutdown, and without input; RESET; BOOT before it has begun; a powered device. -/
theorem witness_PowerResults :
    let off (vin shut : Bool) : State := { State.reset with dev := .off, pwr := { en := true, good := false, vin, shut } }
    let rst : State := { State.reset with dev := .reset }
    ((off true false).dev = .off ∧ (off true false).pwr.vin = true ∧ (off true false).pwr.shut = false ∧ (off true true).pwr.vin = true ∧ 100 ≤ 100 ∧
      (off true true).pwr.shut = true ∧ 99 < 100 ∧ (off false false).pwr.vin = false ∧ rst.dev ≠ .off) ∧
    ((off true false).pwr.en = true ∧ ({ off true false with pwr := { en := false } } : State).pwr.en = false) ∧
    (Instr.pwrEnFall = .pwrEnFall ∧ Instr.vinOutOfRange = .vinOutOfRange ∧ Instr.thermalShutdown = .thermalShutdown) ∧
    (rst.pwr.good = true ∧ rst.dev = .reset ∧ State.reset.pwr.good = true ∧ State.reset.dev = .boot ∧ State.reset.fwRun = none ∧ State.reset.bootCode = 0 ∧
      (off true true).pwr.good = false) ∧ (State.reset.powered = true ∧ rst.powered = false) := holdsNow

/-- An image without records: its header of Table 16-5, and a valid signature. -/
def image0 : Image :=
  { header := natBe 4 0x454C494D ++ natBe 2 1 ++ natBe 2 0 ++ natBe 8 1 ++ natBe 4 0 ++ natBe 4 96 ++ natBe 8 0 ++ natBe 32 77 ++ List.replicate 32 0
    body := [], signature := [], sig := ⟨[(5, 8)], true⟩ }
/-- A firmware bank of SEQ 2. -/
def firmware2 : Firmware := { shippedFirmware with header := natBe 4 0x454C4657 ++ natBe 4 1 ++ natBe 8 2 ++ natBe 4 0 ++ natBe 4 64 ++ List.replicate 40 0 }

/-- NVMs that are missing, silent, of another kind or size, and without firmware; two banks of firmware; HOLD without an owner, and with a valid image;
each bank write, at rest and in BOOT or SAFE; drains with and without a plan to switch to, at their limit and before. -/
theorem witness_BootResults :
    let s := State.reset
    let n (v : NvmSt) : State := { s with nvm := v }
    let none_ := n { s.nvm with fw := Vector.replicate 2 none }
    let two := n { s.nvm with fw := #v[some shippedFirmware, some firmware2] }
    let hold : State := { s with dev := .hold, addrValid := true }
    let owned : State := { hold with sec := { hold.sec with owners := [77] }, nvm := { s.nvm with img := #v[some image0, none] } }
    let w (d : DevState) (x : NvmWrite) : State := { hold with dev := d, sec := owned.sec, nvm := { owned.nvm with write := some x } }
    let i (d : DevState) : State := { w d (.image 1 image0) with nvm := { (w d (.image 1 image0)).nvm with img := owned.nvm.img.set 1 (some image0), write := none } }
    let d (b : Nat) : State := { s with dev := .drain, beat := b, drainSince := 1, switch := some ({ acct := { drainLimit := 4 } }, 0) }
    ((n { s.nvm with fitted := false }).nvm.fitted = false ∧ (n { s.nvm with answers := false }).nvm.fitted = true ∧
      (n { s.nvm with answers := false }).nvm.answers = false ∧ (n { s.nvm with supported := false }).nvm.supported = false ∧ (64 ≠ 128 ∧ 64 ≠ 256)) ∧
    (none_.nvm.fitted = true ∧ none_.nvm.answers = true ∧ none_.nvm.supported = true ∧ none_.nvm.mib = 128 ∧ none_.pickFirmware = none) ∧
    (s.nvm.fitted = true ∧ s.nvm.answers = true ∧ s.nvm.supported = true ∧ s.nvm.mib = 128 ∧ s.pickFirmware = some 0 ∧ two.pickFirmware = some 1) ∧
    (hold.dev = .hold ∧ hold.addrValid = true ∧ hold.sec.owners = [] ∧ s.dev ≠ .hold ∧
      ({ hold with sec := owned.sec } : State).sec.owners ≠ [] ∧ ({ hold with sec := owned.sec } : State).nvm.img.toList = [none, none]) ∧
    (owned.dev = .hold ∧ owned.addrValid = true ∧ owned.sec.owners ≠ [] ∧ owned.nvm.img[(0 : Fin 2)] = some image0 ∧ owned.imageCodes image0 = []) ∧
    (∀ k, owned.nvm.img[(1 : Fin 2)] ≠ some k) ∧
    (s.nvm.write = none ∧ (w .configured (.plan 3 {})).nvm.write = some (.plan 3 {}) ∧ (w .configured (.firmware 1 shippedFirmware)).nvm.write = some (.firmware 1 shippedFirmware) ∧
      (w .configured (.firmware 1 shippedFirmware)).dev ≠ .boot ∧ (w .boot (.firmware 1 shippedFirmware)).dev = .boot) ∧
    ((w .configured (.image 1 image0)).nvm.write = some (.image 1 image0) ∧ (w .configured (.image 1 image0)).dev ≠ .safe ∧
      (w .safe (.image 1 image0)).dev = .safe ∧ (minCode ((i .safe).imageCodes image0)).getD 0 = 0) ∧
    ((d 5).dev = .drain ∧ (d 5).drained = true ∧ ({ d 5 with jobs := [(1, { st := .running })] } : State).drained = false ∧ s.dev ≠ .drain) ∧
    ((d 5).switch = some ({ acct := { drainLimit := 4 } }, 0) ∧ (d 5).drainSince + 4 ≤ (d 5).beat ∧ (d 4).beat < (d 4).drainSince + 4 ∧
      ({ d 5 with switch := none } : State).drainSince + 1 ≤ ({ d 5 with switch := none } : State).beat) :=
  ⟨holdsNow, holdsNow, holdsNow, holdsNow, holdsNow, nofun, holdsNow, holdsNow, holdsNow, holdsNow⟩

/-! ## Faults and numbers -/

theorem witness_FaultsHaltAndAreRecorded : (withJob { st := .running }).jobOf 0 = some rjob := holdsNow

/-- −0 in FP32; an infinity of FP8 E5M2. -/
theorem witness_SpecialValuesWritten : decode .fp32 0x80000000 = .zero true ∧ Fmt.fp32 ≠ .int8 ∧ Fmt.fp32 ≠ .e8m0 ∧ Fmt.e5m2.hasInf = true := holdsNow

/-- A block-scaled tile of FP8 E5M2 with its scale byte at 32: scale 0xFF, and scale 127 over 1, 0, infinity and NaN. -/
theorem witness_BlockScaledElements :
    let t : TileDesc := { fmtd := 0x14, scaleBase := 32, scaleStride := 1, stride := 1 }
    let s (b sc : Byte) : State := { State.reset with mem := memPut (memPut [] (scrAddr 0 0) b) (scrAddr 0 32) sc }
    let bits (b : Byte) := elemBits (s b 127).mem (scrAddr 0 (t.base.toNat + 0 * t.stride.toNat)) t.fmt 0
    let sc (v : Byte) := (memGet (s 0 v).mem (scrAddr 0 (t.scaleBase.toNat + 0 * t.scaleStride.toNat + 0 / 32))).toNat
    fmtdBlk t.fmtd = true ∧ sc 0xFF = 0xFF ∧ sc 127 ≠ 0xFF ∧ decode t.fmt (bits 0x3C) = .fin 1 ∧ decode t.fmt (bits 0) = .zero false ∧
    decode t.fmt (bits 0x7C) = .inf false ∧ decode t.fmt (bits 0x7F) = .nan := holdsNow

theorem witness_NarrowSumsInAnyOrder : [(Machine.Num.one, Machine.Num.one), (.inf true, .one)].Perm [(.inf true, .one), (.one, .one)] := List.Perm.swap _ _ _

theorem witness_FunctionsOfNan : VFun.exp = .exp ∧ VFun.exp2 = .exp2 ∧ VFun.log = .log ∧ VFun.log2 = .log2 ∧ VFun.rcp = .rcp ∧ NatOp.add ≠ .sel ∧ Machine.Num.nan = .nan := by
  decide

end Sys2Proof.Tests
end

namespace Sys2Proof.Machine

/-! ## Rejections (R19, Table 18-5) -/

section
variable (s : State) (code cls loc : Nat)

/-- The error record is the only field that a rejection writes. -/
theorem State.reject_restore_err : { s.reject code cls loc with err := s.err } = s := rfl

/-- ERR_LAST_CODE holds the code in its lower half and the class above it. -/
theorem State.rejErr_lastCode_toNat :
    (s.rejErr code cls loc).lastCode.toNat = code % 2 ^ 16 + cls % 256 * 2 ^ 16 := by
  have hfits : code % 2 ^ 16 + cls % 256 * 2 ^ 16 < 2 ^ 32 := by omega
  exact (BitVec.toNat_ofNat ..).trans (Nat.mod_eq_of_lt hfits)

/-- ERR_REJECT_NEW counts by one and stays at its greatest value. -/
theorem State.rejErr_rejectNew_toNat :
    (s.rejErr code cls loc).rejectNew.toNat = min 0xFFFF (s.err.rejectNew.toNat + 1) := by
  simp only [State.rejErr]
  split
  case isTrue hfull => rw [hfull]; decide
  case isFalse hroom =>
    have hlt : s.err.rejectNew.toNat < 0xFFFF := by bv_omega
    bv_omega

end

/-- Settles O56: State.reject writes the error record of State.rejErr and no other field. -/
theorem rejectionsOnlyRecord : Obligations.RejectionsOnlyRecord := by
  unfold Obligations.RejectionsOnlyRecord
  intro s code cls loc
  refine ⟨s.reject_restore_err code cls loc, ?_, ?_, ?_, ?_, ?_, ?_⟩ <;> rw [State.reject_err]
  · exact s.rejErr_lastCode_toNat code cls loc
  · rfl
  · exact s.rejErr_rejectNew_toNat code cls loc
  all_goals rfl

/-! ## ACK_ONLY (R488, R490, R494) -/

section
variable {s : State} {f : Frame} {x : SessionSt}

theorem execAckOnly_unauthenticated (hup : s.eth.up = true) (hpow : s.powered = true)
    (h : s.session f.session = none ∨ f.tagOk = false) : execAckOnly f s = .next (s.count cntEthAuth) := by
  unfold execAckOnly
  cases hses : s.session f.session with
  | none => simp [hup, hpow]
  | some x =>
    have htag : f.tagOk = false := h.resolve_left (by simp [hses])
    simp [hup, hpow, htag]

/-- An authentic ACK_ONLY frame on a port that is up is judged by its PSN and its header. -/
theorem execAckOnly_authentic (hup : s.eth.up = true) (hpow : s.powered = true) (hses : s.session f.session = some x)
    (htag : f.tagOk = true) :
    execAckOnly f s = .next (
      if 2 ^ 48 ≤ f.psn then s.closeSession f.session
      else if f.psn ≤ x.aoRx then s
      else if f.malformed then (s.reject 0x2001 4).sendFrame f.session (.status 4 0x2001 0xFFFFFFFF f.psn)
      else (s.setSession f.session { x with aoRx := f.psn }).takeAcks f) := by
  simp only [execAckOnly, hup, hpow, hses, htag, Bool.not_true, Bool.or_self, Bool.false_eq_true, if_false]

end

/-! ## Acknowledgements that leave (R490, R494) -/

section
variable {s : State} {n : Nat} {x : SessionSt}

theorem execAckOnlySend_nothing_owed (hses : s.session n = some x) (howed : x.owed = 0) : execAckOnlySend n s = .next s := by
  simp only [execAckOnlySend, hses, howed, if_true]

/-- A session in which nothing is owed closes after a frame when one of its numbers is spent, and otherwise stays as it is. -/
theorem State.afterFrame_nothing_owed (hses : s.session n = some x) (howed : x.owed = 0) :
    s.afterFrame n = if 2 ^ 48 ≤ x.txNext ∨ 2 ^ 48 ≤ x.aoTx then s.closeSession n else s := by
  simp [State.afterFrame, hses, howed]

/-- On an open port the acknowledgement of a session leaves, with nothing owed after it. -/
theorem State.sendAckOnly_port_open (hses : s.session n = some x) (hup : s.eth.up = true) (hpau : s.eth.paused = false) :
    s.sendAckOnly n =
      (s.setSession n { x with aoTx := x.aoTx + 1, owed := 0 }).send [.ackOnly n (x.aoTx + 1) x.rx x.ackMap] := by
  simp [State.sendAckOnly, hses, hup, hpau]

@[simp] theorem State.session_send (m : List Out) : (s.send m).session n = s.session n := rfl

/-- An owed acknowledgement leaves, and the session closes when one of its numbers is spent by it. -/
theorem execAckOnlySend_owed (hses : s.session n = some x) (howed : 0 < x.owed) (hup : s.eth.up = true) (hpau : s.eth.paused = false) :
    let t := (s.setSession n { x with aoTx := x.aoTx + 1, owed := 0 }).send [.ackOnly n (x.aoTx + 1) x.rx x.ackMap]
    execAckOnlySend n s = .next (if 2 ^ 48 ≤ x.txNext ∨ 2 ^ 48 ≤ x.aoTx + 1 then t.closeSession n else t) := by
  intro t
  have hsent : t.session n = some { x with aoTx := x.aoTx + 1, owed := 0 } := by
    rw [State.session_send, session_setSession]
  simp only [execAckOnlySend, hses, if_neg howed.ne', State.sendAckOnly_port_open hses hup hpau]
  rw [State.afterFrame_nothing_owed hsent rfl]

/-! ## The retransmission timer (R492) -/

theorem execRetransmitTimeout_not_waiting {psn : Nat} (hses : s.session n = some x)
    (htx : (x.tx.find? fun t => t.psn == psn && t.sent) = none) : execRetransmitTimeout n psn s = .next s := by
  simp only [execRetransmitTimeout, hses, htx]

/-- A frame that still waits for its acknowledgement goes again where the port is open, up to sixteen times. -/
theorem execRetransmitTimeout_waiting {psn : Nat} {t : TxFrame} (hses : s.session n = some x)
    (htx : (x.tx.find? fun t => t.psn == psn && t.sent) = some t) :
    execRetransmitTimeout n psn s = .next (
      if 16 ≤ t.retx then ((s.closeSession n).reject 0x2013).report 0x2013 .none
      else if !s.eth.up || s.eth.paused then s
      else ((s.setSession n { x with tx := x.tx.map fun u => if u.psn = psn then { u with retx := u.retx + 1 } else u }).send
        [.frame n psn t.what]).count cntEthRetx) := by
  simp only [execRetransmitTimeout, hses, htx]

end

/-! ## INIT (R489, R490) -/

/-- On a port that is up INIT is judged by its reserved field, the session table and its KEM, in this order. -/
theorem execInit_port_up {s : State} (hup : s.eth.up = true) (hpow : s.powered = true) (a : Authority) (client : Nat) (k : InitKeys)
    (kem reserved busy : Bool) :
    execInit a client k kem reserved busy s = .next (
      if reserved = false then (s.reject 0x2001 5).send [.plainStatus 0x2001]
      else if Config.maxSessions ≤ s.sessions.length + (s.sec.waiting.filter SignReq.isAccept).length then
        (s.reject 0x2010 5).send [.plainStatus 0x2010]
      else if kem = false then (s.reject 0x2012 5).send [.plainStatus 0x2012]
      else s.requestSign busy (.accept a client k.key (initPayload a client k))) := by
  simp only [execInit, hup, hpow, Bool.not_true, Bool.or_self, Bool.false_eq_true, if_false, Bool.not_eq_true']

/-! ## The port (R482, R483, R485, R486) -/

section
variable {s : State}

theorem execPcsSearch_searching (hpow : s.powered = true) (hmod : s.eth.moduleOk = true) (hup : s.eth.up = false) :
    execPcsSearch s = .next { s with eth := { s.eth with mode400 := !s.eth.mode400 } } := by
  simp [execPcsSearch, hpow, hmod, hup]

theorem execPcsAlignmentLock_searching (hpow : s.powered = true) (hmod : s.eth.moduleOk = true) (hup : s.eth.up = false) :
    execPcsAlignmentLock s = .next ({ s with eth := { s.eth with up := true } } : State).flushAll := by
  simp [execPcsAlignmentLock, hpow, hmod, hup]

/-- Without power, without a usable module, or with the port up, no search is under way. -/
theorem not_searching (h : s.powered = false ∨ s.eth.moduleOk = false ∨ s.eth.up = true) :
    (s.eth.up || !s.eth.moduleOk || !s.powered) = true := by
  rcases h with h | h | h <;> simp [h]

theorem execPcsSearch_not_searching (h : s.powered = false ∨ s.eth.moduleOk = false ∨ s.eth.up = true) :
    execPcsSearch s = .next s := by
  rw [execPcsSearch, if_pos (not_searching h)]

theorem execPcsAlignmentLock_not_searching (h : s.powered = false ∨ s.eth.moduleOk = false ∨ s.eth.up = true) :
    execPcsAlignmentLock s = .next s := by
  rw [execPcsAlignmentLock, if_pos (not_searching h)]

theorem execAlignmentLoss_up (hup : s.eth.up = true) : execAlignmentLoss s = .next s.portDown := by
  rw [execAlignmentLoss, if_pos hup]

theorem execAlignmentLoss_down (hup : s.eth.up = false) : execAlignmentLoss s = .next s := by
  simp [execAlignmentLoss, hup]

/-- A module without an Application or with a fault is no usable module, and takes the port down. -/
theorem execOsfpModuleEvent_powered (hpow : s.powered = true) (present app fault : Bool) (m d : Nat) :
    let e : EthSt :=
      { s.eth with present := present, dpFault := fault, modState := m % 8, dpState := d % 16, moduleOk := present && app && !fault }
    execOsfpModuleEvent present app fault m d s =
      .next { s with eth := if present && app && !fault then e else { e with up := false, mode400 := false, paused := false } } := by
  simp only [execOsfpModuleEvent, hpow, Bool.not_true, Bool.false_eq_true, if_false]
  cases present && app && !fault <;> rfl

theorem execPfcFrame_in_use {prio : Nat} (quanta : Nat) (hup : s.eth.up = true) (hprio : s.eth.pfc = some prio) :
    execPfcFrame prio quanta s = .next ({ s with eth := { s.eth with paused := quanta != 0 } } : State).flushAll := by
  simp [execPfcFrame, hup, hprio]

theorem execPfcFrame_not_in_use {prio : Nat} (quanta : Nat) (h : s.eth.up = false ∨ s.eth.pfc ≠ some prio) :
    execPfcFrame prio quanta s = .next s := by
  rcases h with hup | hprio
  · simp [execPfcFrame, hup]
  · simp [execPfcFrame, hprio]

theorem execPfcPauseExpiry_paused (hpau : s.eth.paused = true) :
    execPfcPauseExpiry s = .next ({ s with eth := { s.eth with paused := false } } : State).flushAll := by
  rw [execPfcPauseExpiry, if_pos hpau]

theorem execAddressDuplicate_in_use {kind : Fin 3} (hform : s.addressFormed kind = true) (hnew : kind.val ∉ s.eth.dup) :
    execAddressDuplicate kind s =
      .next ((({ s with eth := { s.eth with dup := s.eth.dup ++ [kind.val] } } : State).reject 0x2003).report 0x2003 (.info [kind.val])) := by
  simp [execAddressDuplicate, hform, hnew]

theorem execAddressDuplicate_not_in_use {kind : Fin 3} (h : s.addressFormed kind = false ∨ kind.val ∈ s.eth.dup) :
    execAddressDuplicate kind s = .next s := by
  rcases h with hform | hdup
  · simp [execAddressDuplicate, hform]
  · simp [execAddressDuplicate, hdup]

/-! ## ERR_REJECT_NEW (R17, R517) -/

theorem execErrRejectNew_read {id : Nat} (n : Nat) (h : s.reader = some id) :
    execErrRejectNew n s = .next ((s.rejections 0 n).sendFrame id (.values [s.err.rejectNew.toNat])) := by
  simp only [execErrRejectNew, h]

theorem execErrRejectNew_no_reader (n : Nat) (h : s.reader = none) :
    execErrRejectNew n s = .next (s.rejections s.err.rejectNew.toNat n) := by
  simp only [execErrRejectNew, h]

end

/-- Settles O47: each clause is the case of its command's meaning that the clause's premises select. -/
theorem portResults : Obligations.PortResults := by
  unfold Obligations.PortResults
  refine ⟨fun s f hup hpow => ⟨execAckOnly_unauthenticated hup hpow, fun x hses htag => ?ackOnly⟩,
    fun s n psn x hses => ⟨execAckOnlySend_nothing_owed hses, fun howed hup hpau => ?ackOnlySend,
      execRetransmitTimeout_not_waiting hses, fun t htx => ?retransmit, rfl⟩,
    fun s a client k kem reserved busy hup hpow => ?init,
    fun s => ⟨fun hpow hmod hup => ⟨execPcsSearch_searching hpow hmod hup, execPcsAlignmentLock_searching hpow hmod hup⟩,
      fun h => ⟨execPcsSearch_not_searching h, execPcsAlignmentLock_not_searching h⟩, execAlignmentLoss_up, execAlignmentLoss_down⟩,
    fun s present app fault m d hpow => execOsfpModuleEvent_powered hpow present app fault m d,
    fun s prio quanta => ⟨execPfcFrame_in_use quanta, execPfcFrame_not_in_use quanta⟩,
    fun s => execPfcPauseExpiry_paused,
    fun s kind => ⟨execAddressDuplicate_in_use, execAddressDuplicate_not_in_use⟩,
    fun s n => ⟨fun id hread => ?read, execErrRejectNew_no_reader n⟩⟩
  case ackOnly =>
    have hexec : exec (.ackOnly f) s = _ := execAckOnly_authentic hup hpow hses htag
    rw [hexec]
    refine ⟨fun hspent => ?_, fun hroom hold => ?_, fun hroom hnew hform => ?_, fun hroom hnew hbad => ?_⟩
    · rw [if_pos hspent]
    · rw [if_neg hroom.not_ge, if_pos hold]
    · rw [if_neg hroom.not_ge, if_neg hnew.not_ge, hform, if_neg Bool.false_ne_true]
    · rw [if_neg hroom.not_ge, if_neg hnew.not_ge, if_pos hbad]
  case ackOnlySend =>
    have hexec : exec (.ackOnlySend n) s = _ := execAckOnlySend_owed hses howed hup hpau
    rw [hexec]
    exact ⟨fun htx hao => by rw [if_neg (by omega)], fun hspent => by rw [if_pos hspent]⟩
  case retransmit =>
    have hexec : exec (.retransmitTimeout n psn) s = _ := execRetransmitTimeout_waiting hses htx
    rw [hexec]
    refine ⟨fun hlost => ?_, fun hleft hshut => ?_, fun hleft hup hpau => ?_⟩
    · rw [if_pos hlost]
    · rw [if_neg hleft.not_ge, if_pos (by simpa using hshut)]
    · rw [if_neg hleft.not_ge, if_neg (by simp [hup, hpau])]
  case init =>
    have hexec : exec (.init a client k kem reserved busy) s = _ := execInit_port_up hup hpow a client k kem reserved busy
    dsimp only
    rw [hexec]
    refine ⟨fun hres => ?_, fun hres hfull => ?_, fun hres hroom hkem => ?_, fun hres hroom hkem => ?_⟩
    · rw [if_pos hres]
    · rw [if_neg (by simp [hres]), if_pos hfull]
    · rw [if_neg (by simp [hres]), if_neg hroom, if_pos hkem]
    · rw [if_neg (by simp [hres]), if_neg hroom, if_neg (by simp [hkem])]
  case read =>
    have hexec : exec (.errRejectNew n) s = _ := execErrRejectNew_read n hread
    rw [hexec, State.rejections, Nat.zero_add]

end Sys2Proof.Machine

namespace Sys2Proof.Machine

/-! ## Completion of the only instruction of a core (R102, R103, R128) -/

/-- Storing what a map already holds at a key changes nothing. -/
theorem aput_of_aget {α : Type} {l : List (Nat × α)} {a : Nat} {v : α} (h : aget l a = some v) : aput l a v = l := by
  induction l with
  | nil => cases h
  | cons e r ih =>
    obtain ⟨k, w⟩ := e
    simp only [aget] at h
    by_cases hk : a = k
    · rw [if_pos hk, Option.some.injEq] at h
      simp only [aput, hk, h, if_true]
    · by_cases hlt : a < k
      · simp [hk, hlt] at h
      · rw [if_neg hk, if_neg hlt] at h
        simp only [aput, if_neg hk, if_neg hlt, ih h]

@[simp] theorem CoreSt.emptied_jobs (k : CoreSt) (o : EngOp) : (k.emptied o).jobs = k.jobs := by cases o <;> rfl

/-- Which sets an operation empties does not depend on the queue. -/
theorem CoreSt.emptied_acc_setJobs (k : CoreSt) (l : List EngJob) (o : EngOp) :
    (({ k with jobs := l } : CoreSt).emptied o).acc = (k.emptied o).acc := by cases o <;> rfl

theorem CoreSt.contenders_no_jobs {k : CoreSt} (h : k.jobs = []) : k.contenders = [] := by
  simp [CoreSt.contenders, h]

@[simp] theorem State.haltedSince_self (s : State) : s.haltedSince s = false := by
  simp [State.haltedSince]

section
variable {s : State} {n : Nat}

/-- A core with an instruction in its queue is listed, so writing it back changes nothing. -/
theorem State.setCore_core_of_jobs (h : (s.core n).jobs ≠ []) : s.setCore n (s.core n) = s := by
  have hlisted : aget s.cores n = some (s.core n) := by
    unfold State.core at h ⊢
    cases hget : aget s.cores n with
    | none => exact absurd rfl (hget ▸ h)
    | some k => rfl
  rw [State.setCore, aput_of_aget hlisted]

/-- With an empty queue no engine passes and nothing starts. -/
theorem State.pump_no_jobs (h : (s.core n).jobs = []) : s.pump n = s := by
  have hgrant : s.grant n = s := by simp [State.grant, CoreSt.contenders_no_jobs h]
  have hcore : s.pumpCore n = s := by rw [State.pumpCore, hgrant, h]; rfl
  simp [State.pump, hcore]

@[simp] theorem State.releaseEngines_nil (c : Fin 8) (tag : EntryTag) : s.releaseEngines n c [] tag = s := rfl

theorem State.endEntries_no_ending {a : Site} (h : (s.ctxAt a).ending = []) : s.endEntries a = s.setCtx a (s.ctxAt a) := by
  have hctx : (s.core a.core).ctx[a.ctx] = s.ctxAt a := rfl
  simp only [State.endEntries, hctx, h, List.filter_nil, List.foldl_nil]
  rw [← h]

end

/-- A context after the completion of an instruction: the counter that the instruction names has taken its increment. -/
def CtxSt.counted (x : CtxSt) (cnt : CntSel) : CtxSt := if cnt.en then x.addC cnt.cnt 1 else x

@[simp] theorem CtxSt.counted_ending (x : CtxSt) (cnt : CntSel) : (x.counted cnt).ending = x.ending := by
  unfold CtxSt.counted; split <;> rfl

theorem CtxSt.counted_c (x : CtxSt) (cnt : CntSel) (c : Fin 16) :
    (x.counted cnt).c[c] = if cnt.en = true ∧ c = cnt.cnt then x.c[c] + 1 else x.c[c] := by
  unfold CtxSt.counted CtxSt.addC
  cases cnt.en with
  | false => simp
  | true =>
    by_cases hc : c = cnt.cnt
    · subst hc; simp
    · have hv : cnt.cnt.val ≠ c.val := fun e => hc (Fin.ext e.symm)
      simp [hc, Vector.getElem_set_ne _ _ hv]

/-- What the completion of the only incomplete instruction of core n leaves (R102, R115, R128). -/
structure CompletesOnly (s : State) (n : Nat) (j : EngJob) (t : State) : Prop where
  jobs : (t.core n).jobs = []
  flags : t.flags = s.flags.set j.ctx (s.flags[j.ctx] ||| j.fl)
  acc : (t.core n).acc = ((s.core n).emptied j.op).acc
  mem : t.mem = s.mem
  counters : ∀ c : Fin 16, (t.ctxAt ⟨n, j.ctx⟩).c[c] =
    if j.cnt.en = true ∧ c = j.cnt.cnt then (s.ctxAt ⟨n, j.ctx⟩).c[c] + 1 else (s.ctxAt ⟨n, j.ctx⟩).c[c]

section
variable {s : State} {n : Nat} {j : EngJob}

/-- The only incomplete instruction of a core, no release bound to it and its entry still open, completes: its flags, its sets and its counter. -/
theorem State.completeAt_only (hjobs : (s.core n).jobs = [j]) (hrel : j.release = []) (hend : (s.ctxAt ⟨n, j.ctx⟩).ending = []) :
    s.completeAt n 0 =
      let s2 := ((s.dropJob n 0).postFlags j.ctx j.fl).setCore n (({ s.core n with jobs := [] } : CoreSt).emptied j.op)
      s2.setCtx ⟨n, j.ctx⟩ ((s.ctxAt ⟨n, j.ctx⟩).counted j.cnt) := by
  have hdrop : ((s.dropJob n 0).postFlags j.ctx j.fl).core n = { s.core n with jobs := [] } := by
    change (s.dropJob n 0).core n = _
    simp [State.dropJob, hjobs]
  simp only [State.completeAt, hjobs, List.getElem?_cons_zero, hrel, State.releaseEngines_nil, hdrop]
  generalize hs2 : ((s.dropJob n 0).postFlags j.ctx j.fl).setCore n (({ s.core n with jobs := [] } : CoreSt).emptied j.op) = s2
  have hctx : s2.ctxAt ⟨n, j.ctx⟩ = s.ctxAt ⟨n, j.ctx⟩ := by simp [← hs2, State.ctxAt]
  have hempty : (s2.core n).jobs = [] := by simp [← hs2]
  have hcount : (if j.cnt.en = true then s2.bump ⟨n, j.ctx⟩ j.cnt.cnt 1 else s2).endEntries ⟨n, j.ctx⟩ =
      s2.setCtx ⟨n, j.ctx⟩ ((s.ctxAt ⟨n, j.ctx⟩).counted j.cnt) := by
    cases hen : j.cnt.en with
    | false =>
      simp only [CtxSt.counted, hen, Bool.false_eq_true, if_false]
      rw [State.endEntries_no_ending (hctx ▸ hend), hctx]
    | true =>
      simp only [CtxSt.counted, hen, if_true, State.bump, hctx]
      rw [State.endEntries_no_ending (by rw [State.ctxAt_setCtx]; exact hend), State.ctxAt_setCtx, State.setCtx_setCtx]
  rw [hcount, State.pump_no_jobs (by rw [State.jobs_setCtx, hempty])]

theorem State.completeAt_completesOnly (hjobs : (s.core n).jobs = [j]) (hrel : j.release = [])
    (hend : (s.ctxAt ⟨n, j.ctx⟩).ending = []) : CompletesOnly s n j (s.completeAt n 0) := by
  rw [State.completeAt_only hjobs hrel hend]
  refine ⟨?jobs, rfl, ?acc, rfl, fun c => ?counters⟩
  case jobs => simp
  case acc => simp [CoreSt.emptied_acc_setJobs]
  case counters => rw [State.ctxAt_setCtx, CtxSt.counted_c]

end

/-! ## ENGINE_INSTR_COMPLETE and LRECV_FILLED (R103, R118, R119) -/

section
variable {s : State} {n : Nat} {e : Engine} {j : EngJob}

/-- The oldest started instruction of an engine completes as its operation says, when it can. -/
theorem execEngineInstrComplete_oldest {i : Nat} (hn : n < Config.numCores)
    (hfind : (s.core n).jobs.findIdx? (fun j => j.phase == .started && j.engines.contains e) = some i)
    (hget : (s.core n).jobs[i]? = some j) :
    execEngineInstrComplete n e s = .next (
      if s.canComplete j then
        match j.op with
        | .lred td ch => (((s.completeAt n i).leafRead n ch td j).tryReadyCtx j.ctx).pumpAll
        | .dma .. => s.dmaDone n i j
        | _ => (s.sendData n j).completeAt n i
      else s) := by
  simp only [execEngineInstrComplete, hfind, hget]
  exact coreOut_next _ hn

/-- A started instruction alone on its core is the oldest one of each engine that it uses. -/
theorem findIdx?_started_only (hjobs : (s.core n).jobs = [j]) (hst : j.phase = .started) (he : j.engines.contains e = true) :
    (s.core n).jobs.findIdx? (fun j => j.phase == .started && j.engines.contains e) = some 0 := by
  have he' : e ∈ j.engines := by simpa using he
  simp [hjobs, hst, he', List.findIdx?_cons]

/-- An instruction of an array or of the vector engine can always complete, and hands nothing over. -/
theorem execEngineInstrComplete_compute (hn : n < Config.numCores) (hjobs : (s.core n).jobs = [j]) (hst : j.phase = .started)
    (he : j.engines.contains e = true) (hsend : j.op.isSend = false) (hdma : ∀ td off region toHbm hs, j.op ≠ .dma td off region toHbm hs) :
    execEngineInstrComplete n e s = .next (s.completeAt n 0) := by
  rw [execEngineInstrComplete_oldest hn (findIdx?_started_only hjobs hst he) (by rw [hjobs]; rfl)]
  cases hop : j.op
  case dma => exact absurd hop (hdma _ _ _ _ _)
  case lsend | lrecv | lred | stsend => simp [hop, EngOp.isSend] at hsend
  all_goals simp [State.canComplete, State.sendData, hop]

theorem execLrecvFilled_no_jobs {a : Site} (ch : BitVec 16) (data : List Byte) (hn : a.core < Config.numCores) (hjobs : (s.core a.core).jobs = []) :
    execLrecvFilled a ch data s = .next s := by
  simp only [execLrecvFilled, hjobs, List.findIdx?_nil]
  exact coreOut_next _ hn

/-- Data over the link lands in the only posted range of the core. -/
theorem execLrecvFilled_link {a : Site} {ch : BitVec 16} {data : List Byte} {td : TileDesc} {r : ChanRec} (hn : a.core < Config.numCores)
    (hjobs : (s.core a.core).jobs = [j]) (hctx : j.ctx = a.ctx) (hop : j.op = .lrecv td ch.toNat) (hrec : s.chanRec ch.toNat = some r)
    (hloc : chanLocal r = false) (hfly : (s.chanSt ch.toNat).inFlight = []) :
    execLrecvFilled a ch data s = .next ((s.landRows a.core td data).completeAt a.core 0) := by
  simp only [execLrecvFilled, hjobs, List.findIdx?_cons, hctx, hop, beq_self_eq_true, Bool.and_self, if_true, List.getElem?_cons_zero,
    Option.map_some, hrec, hloc, hfly, List.isEmpty_nil, Bool.not_true, Bool.or_self, Bool.false_eq_true, if_false]
  exact coreOut_next _ hn

/-- Landing writes memory only. -/
theorem State.landRows_mem_only (n : Nat) (td : TileDesc) (data : List Byte) : ∃ m, s.landRows n td data = { s with mem := m } := by
  unfold State.landRows
  generalize List.range td.rows = rows
  induction rows generalizing s with
  | nil => exact ⟨s.mem, rfl⟩
  | cons r rows ih =>
    obtain ⟨m, hm⟩ := ih (s := s.setScr n (td.base.toNat + r * td.stride.toNat) ((data.drop (r * td.rowBytes)).take td.rowBytes))
    exact ⟨m, hm⟩

end

/-! ## The rows of a DMA alone on its core (R28, R117) -/

section
variable {s : State} {n : Nat} {j : EngJob}

theorem State.core_setEngJob_only (y : EngJob) (hjobs : (s.core n).jobs = [j]) : (s.setEngJob n 0 y).core n = { s.core n with jobs := [y] } := by
  simp [State.setEngJob, hjobs]

theorem State.jobs_setEngJob_only (y : EngJob) (hjobs : (s.core n).jobs = [j]) : ((s.setEngJob n 0 y).core n).jobs = [y] := by
  rw [State.core_setEngJob_only y hjobs]

theorem State.setEngJob_self (hjobs : (s.core n).jobs = [j]) : s.setEngJob n 0 j = s := by
  have hsame : ({ s.core n with jobs := (s.core n).jobs.set 0 j } : CoreSt) = s.core n := by rw [hjobs, List.set_cons_zero, ← hjobs]
  rw [State.setEngJob, hsame, State.setCore_core_of_jobs (by simp [hjobs])]

theorem State.setEngJob_setEngJob (x y : EngJob) : (s.setEngJob n 0 x).setEngJob n 0 y = s.setEngJob n 0 y := by
  simp [State.setEngJob]

/-- A row of a DMA moves the same bytes whatever stands in the queues. -/
theorem State.dmaRow_setEngJob (y : EngJob) (td : TileDesc) (reg : Option RegionRec) (off : Nat) (toHbm : Bool) (r : Nat) :
    (s.setEngJob n 0 y).dmaRow n td reg off toHbm r =
      ((s.dmaRow n td reg off toHbm r).1.setEngJob n 0 y, (s.dmaRow n td reg off toHbm r).2) := by
  cases reg with
  | none => cases toHbm <;> rfl
  | some g =>
    cases toHbm with
    | false => rfl
    | true =>
      have haccess : (s.setEngJob n 0 y).coreAccess = s.coreAccess := rfl
      simp only [State.dmaRow, if_true, haccess]
      split <;> rfl

/-- A row of a DMA writes memory only. -/
theorem State.dmaRow_mem_only (td : TileDesc) (reg : Option RegionRec) (off : Nat) (toHbm : Bool) (r : Nat) :
    ∃ m, (s.dmaRow n td reg off toHbm r).1 = { s with mem := m } := by
  cases reg with
  | none => cases toHbm <;> exact ⟨_, rfl⟩
  | some g =>
    cases toHbm with
    | false => exact ⟨_, rfl⟩
    | true => simp only [State.dmaRow, if_true]; split <;> exact ⟨_, rfl⟩

/-- The first k rows of a DMA in order, with whether all were permitted. -/
def State.rowsMoved (s : State) (n : Nat) (td : TileDesc) (off : Nat) (region : Fin 16) (toHbm : Bool) (hs k : Nat) : State × Bool :=
  (List.range k).foldl (fun (q : State × Bool) r =>
    let z := q.1.dmaRow n td (q.1.region region.val) (off + r * hs * 32) toHbm r
    (z.1, q.2 && z.2)) (s, true)

variable {td : TileDesc} {off : Nat} {region : Fin 16} {toHbm : Bool} {hs : Nat}

theorem State.rowsMoved_succ (k : Nat) :
    s.rowsMoved n td off region toHbm hs (k + 1) =
      let q := s.rowsMoved n td off region toHbm hs k
      let z := q.1.dmaRow n td (q.1.region region.val) (off + k * hs * 32) toHbm k
      (z.1, q.2 && z.2) := by
  simp only [State.rowsMoved, List.range_succ, List.foldl_append, List.foldl_cons, List.foldl_nil]

theorem State.rowsMoved_mem_only (k : Nat) : ∃ m, (s.rowsMoved n td off region toHbm hs k).1 = { s with mem := m } := by
  induction k with
  | zero => exact ⟨s.mem, rfl⟩
  | succ k ih =>
    obtain ⟨m, hm⟩ := ih
    obtain ⟨m', hm'⟩ := State.dmaRow_mem_only (s := (s.rowsMoved n td off region toHbm hs k).1) (n := n) td
      ((s.rowsMoved n td off region toHbm hs k).1.region region.val) (off + k * hs * 32) toHbm k
    exact ⟨m', by rw [State.rowsMoved_succ]; dsimp only; rw [hm', hm]⟩

/-- The next row of a DMA alone on its core. -/
theorem State.dmaUnit_only (hjobs : (s.core n).jobs = [j]) (hop : j.op = .dma td off region toHbm hs) :
    s.dmaUnit n 0 =
      let z := s.dmaRow n td (s.region region.val) (off + (td.rows - j.left) * hs * 32) toHbm (td.rows - j.left)
      z.1.setEngJob n 0 { j with left := j.left - 1, bad := j.bad || !z.2 } := by
  simp only [State.dmaUnit, hjobs, List.getElem?_cons_zero, hop]

/-- A round moves one row of a DMA that is alone on its core and has rows left. -/
theorem State.dmaRound_only (hjobs : (s.core n).jobs = [j]) (hst : j.phase = .started) (hleft : j.left ≠ 0)
    (hop : j.op = .dma td off region toHbm hs) : s.dmaRound n (s.isBE j.ctx) = s.dmaUnit n 0 := by
  simp [State.dmaRound, hjobs, hst, hleft, hop]

/-- k rounds move the first k rows in order. -/
theorem State.dmaRounds_only (hjobs : (s.core n).jobs = [j]) (hst : j.phase = .started) (hop : j.op = .dma td off region toHbm hs)
    (hleft : j.left = td.rows) (hbad : j.bad = false) {k : Nat} (hk : k ≤ td.rows) :
    s.dmaRounds n (s.isBE j.ctx) k =
      let q := s.rowsMoved n td off region toHbm hs k
      q.1.setEngJob n 0 { j with left := td.rows - k, bad := !q.2 } := by
  induction k with
  | zero =>
    have hfresh : ({ j with left := td.rows - 0, bad := !true } : EngJob) = j := by rw [Nat.sub_zero, ← hleft, Bool.not_true, ← hbad]
    exact (hfresh ▸ State.setEngJob_self hjobs).symm
  | succ k ih =>
    have hround : s.dmaRounds n (s.isBE j.ctx) (k + 1) = (s.dmaRounds n (s.isBE j.ctx) k).dmaRound n (s.isBE j.ctx) := by
      simp only [State.dmaRounds, List.range_succ, List.foldl_append, List.foldl_cons, List.foldl_nil]
    rw [hround, ih (by omega), State.rowsMoved_succ]
    obtain ⟨m, hm⟩ := State.rowsMoved_mem_only (s := s) (n := n) (td := td) (off := off) (region := region) (toHbm := toHbm) (hs := hs) k
    generalize s.rowsMoved n td off region toHbm hs k = q at hm ⊢
    obtain ⟨t, ok⟩ := q
    dsimp only at hm ⊢
    have hjt : (t.core n).jobs = [j] := by rw [hm]; exact hjobs
    have hbe : (t.setEngJob n 0 { j with left := td.rows - k, bad := !ok }).isBE j.ctx = s.isBE j.ctx := by rw [hm]; rfl
    have hjobs' := State.jobs_setEngJob_only { j with left := td.rows - k, bad := !ok } hjt
    have hone := State.dmaRound_only hjobs' hst (by dsimp only; omega) hop
    have hunit := State.dmaUnit_only hjobs' hop
    dsimp only at hone hunit
    rw [← hbe, hone, hunit]
    have hrow : td.rows - (td.rows - k) = k := by omega
    have hrest : td.rows - k - 1 = td.rows - (k + 1) := by omega
    rw [State.dmaRow_setEngJob, hrow, hrest]
    dsimp only
    rw [State.setEngJob_setEngJob, ← Bool.not_and]
    rfl

/-- All rows of a DMA alone on its core have moved when it completes (R339). -/
theorem State.dmaMoves_only (hjobs : (s.core n).jobs = [j]) (hst : j.phase = .started) (hop : j.op = .dma td off region toHbm hs)
    (hleft : j.left = td.rows) (hbad : j.bad = false) :
    s.dmaMoves n j =
      let q := s.rowsMoved n td off region toHbm hs td.rows
      q.1.setEngJob n 0 { j with left := 0, bad := !q.2 } := by
  have hrounds : s.dmaMoves n j = s.dmaRounds n (s.isBE j.ctx) td.rows := by
    cases hbe : s.isBE j.ctx with
    | true => simp [State.dmaMoves, hjobs, hop, hbe, hleft, State.dmaRounds]
    | false => simp [State.dmaMoves, hbe, hleft]
  rw [hrounds, State.dmaRounds_only hjobs hst hop hleft hbad (le_refl _), Nat.sub_self]

/-- A DMA alone on its core completes: with every row permitted it counts, otherwise it does not and the fault is raised. -/
theorem State.dmaDone_only (hjobs : (s.core n).jobs = [j]) (hst : j.phase = .started) (hop : j.op = .dma td off region toHbm hs)
    (hleft : j.left = td.rows) (hbad : j.bad = false) :
    let q := s.rowsMoved n td off region toHbm hs td.rows
    s.dmaDone n 0 j =
      if q.2 then (q.1.setEngJob n 0 { j with left := 0 }).completeAt n 0
      else
        let t := (q.1.setEngJob n 0 { j with left := 0, bad := true, cnt := { j.cnt with en := false } }).completeAt n 0
        (t.faultCtx 0x6005 j.ctx [n]).pumpAll := by
  dsimp only
  rw [State.dmaDone, State.dmaMoves_only hjobs hst hop hleft hbad]
  obtain ⟨m, hm⟩ := State.rowsMoved_mem_only (s := s) (n := n) (td := td) (off := off) (region := region) (toHbm := toHbm) (hs := hs) td.rows
  generalize s.rowsMoved n td off region toHbm hs td.rows = q at hm ⊢
  obtain ⟨t, ok⟩ := q
  dsimp only at hm ⊢
  have hjt : (t.core n).jobs = [j] := by rw [hm]; exact hjobs
  have hclean : ({ j with left := 0, bad := false } : EngJob) = { j with left := 0 } := by rw [← hbad]
  simp only [State.jobs_setEngJob_only _ hjt, List.getElem?_cons_zero, State.setEngJob_setEngJob]
  cases ok with
  | true => simp only [Bool.not_true, Bool.false_eq_true, if_false, if_true, hclean]
  | false => simp only [Bool.not_false, Bool.false_eq_true, if_false, if_true]

end

/-- Settles O21: what completes is the oldest started instruction of the engine; alone on its core it leaves the queue empty, so that nothing else
starts after it. -/
theorem engineCompletion : Obligations.EngineCompletion := by
  unfold Obligations.EngineCompletion
  refine ⟨fun s n e j hn hjobs hst he hsend hdma hrel hend => ?compute, fun s a ch data td j r hn => ⟨execLrecvFilled_no_jobs ch data hn,
    fun hjobs hctx hop hrel hfl hend hrec hloc hfly => ?lrecv⟩, fun s n i e j hn hfind hget => ?oldest,
    fun s n e j td off region toHbm hs hn hjobs hst he hop hleft hbad => ?dma⟩
  case compute =>
    have hdone := State.completeAt_completesOnly hjobs hrel hend
    exact ⟨_, execEngineInstrComplete_compute hn hjobs hst he hsend hdma, hdone.jobs, hdone.flags, hdone.acc, hdone.mem, hdone.counters⟩
  case lrecv =>
    obtain ⟨m, hm⟩ := s.landRows_mem_only a.core td data
    have hexec : exec (.lrecvFilled a ch data) s = _ := execLrecvFilled_link hn hjobs hctx hop hrec hloc hfly
    have hsite : (⟨a.core, j.ctx⟩ : Site) = a := by rw [hctx]
    have hdone : CompletesOnly { s with mem := m } a.core j _ := State.completeAt_completesOnly hjobs hrel (hsite ▸ hend)
    refine ⟨_, hexec, ?_⟩
    rw [hm]
    exact ⟨hdone.jobs, hdone.mem, hsite ▸ hdone.counters⟩
  case oldest =>
    have hexec : exec (.engineInstrComplete n e) s = _ := execEngineInstrComplete_oldest hn hfind hget
    rw [hexec]
    refine ⟨fun hno => by simp [hno], fun hcan => ⟨fun td ch hop => by simp only [hcan, hop, if_true],
      fun td off region toHbm hs hop => by simp only [hcan, hop, if_true], fun hlred hdma => ?_⟩⟩
    rw [if_pos hcan]
    split
    · exact absurd ‹_› (hlred _ _)
    · exact absurd ‹_› (hdma _ _ _ _ _)
    · rfl
  case dma =>
    have hcan : s.canComplete j = true := by simp [State.canComplete, hop]
    have hexec : exec (.engineInstrComplete n e) s = .next (s.dmaDone n 0 j) :=
      (execEngineInstrComplete_oldest hn (findIdx?_started_only hjobs hst he) (by rw [hjobs]; rfl)).trans (by simp only [hcan, hop, if_true])
    have hdone := State.dmaDone_only hjobs hst hop hleft hbad
    intro moved done
    rw [hexec, hdone]
    exact ⟨fun hok => congrArg _ (if_pos hok), fun hno => congrArg _ (if_neg (ne_true_of_eq_false hno))⟩

end Sys2Proof.Machine

namespace Sys2Proof.Machine

/-! ## Discovery (R366, R382 to R384, R392) -/

section
variable {s : State}

theorem execHelloSend_discovering (hph : s.formation.phase = 2) (hdev : s.dev = .configured) :
    execHelloSend s = .next (s.send ((requiredPorts s.img s.addr).map s.helloOn)) := by
  simp [execHelloSend, hph, hdev]

theorem execHelloSend_not_discovering (h : s.formation.phase ≠ 2 ∨ s.dev ≠ .configured) : execHelloSend s = .next s := by
  rcases h with hph | hdev
  · simp [execHelloSend, hph]
  · simp [execHelloSend, hdev]

/-- Whether a device takes a HELLO on a port: one that the topology requires, in discovery or later. -/
def State.hears (s : State) (key : Nat) : Prop :=
  key ∈ requiredPorts s.img s.addr ∧ s.addrValid = true ∧ (s.dev = .configured ∧ 2 ≤ s.formation.phase ∨ s.formed = true)

/-- A joinable device of the pod counts as joinable, once and before the limit (R379). -/
def State.noteJoinable (s : State) (h : Hello) : State :=
  if h.addr / 8 = s.addr / 8 ∧ h.joinable = true ∧ s.formation.closed = false ∧ posOf h.addr ∉ s.formation.joinable then
    { s with formation := { s.formation with joinable := s.formation.joinable ++ [posOf h.addr] } } else s

/-- The test by which HELLO passes over a port. -/
theorem State.not_hears_iff (key : Nat) :
    (!(requiredPorts s.img s.addr).contains key || !s.addrValid || !((s.dev == .configured && decide (2 ≤ s.formation.phase)) || s.formed)) = true ↔
      ¬ s.hears key := by
  rw [← Bool.not_and, ← Bool.not_and, Bool.not_eq_true', ← Bool.not_eq_true]
  simp only [State.hears, Bool.and_eq_true, Bool.or_eq_true, List.contains_eq_mem, decide_eq_true_eq, beq_iff_eq, and_assoc]

theorem execHello_not_heard {port lane : Nat} (h : Hello) (hno : ¬ s.hears (port * 8 + lane)) : execHello port lane h s = .next s := by
  unfold execHello
  dsimp only
  rw [if_pos ((State.not_hears_iff _).2 hno)]

/-- A HELLO that is heard is judged by the address, port and lane that Table 13-9 gives for the port. -/
theorem execHello_heard {port lane : Nat} (h : Hello) (hears : s.hears (port * 8 + lane)) :
    let key := port * 8 + lane
    let x := s.portSt key
    let s1 := s.noteJoinable h
    execHello port lane h s = .next (
      if neighbour s.img s.addr key = (h.addr, h.port, h.lane) then
        let s2 := s1.setPort key { x with st := if x.st = 6 then 6 else 2, lanes := lanesMask key, neigh := some h }
        if x.st = 2 ∨ x.st = 6 then s2 else s2.send [.probes port lane]
      else if x.st = 3 then s1.setPort key { x with neigh := some h }
      else (s1.setPort key { x with st := 3, lanes := lanesMask key, neigh := some h }).formReport 0x5020 [port, h.addr]) := by
  have hskip : ¬ _ := fun hno => (State.not_hears_iff _).1 hno hears
  unfold execHello
  dsimp only
  rw [if_neg hskip]
  simp only [Bool.or_eq_true, decide_eq_true_eq, State.noteJoinable, Bool.and_eq_true, beq_iff_eq, Bool.not_eq_true', List.contains_eq_mem,
    decide_eq_false_iff_not, and_assoc]

section
variable {port lane rt ta : Nat}

/-- A port that is neither verified nor beyond its limit takes no probe. -/
theorem execLinkDelayProbe_unverified (h2 : (s.portSt (port * 8 + lane)).st ≠ 2) (h6 : (s.portSt (port * 8 + lane)).st ≠ 6) :
    execLinkDelayProbe port lane rt ta s = .next s := by
  simp [execLinkDelayProbe, h2, h6]

/-- The smallest round trip of a port after one more probe, with its turnaround. -/
def PortSt.bestWith (x : PortSt) (rt ta : Nat) : Nat × Nat := x.best.elim (rt, ta) fun r => if rt < r.1 then (rt, ta) else r

theorem PortSt.bestWith_eq {x : PortSt} {b : Nat × Nat} (hsome : ∀ r, x.best = some r → b = if rt < r.1 then (rt, ta) else r)
    (hnone : x.best = none → b = (rt, ta)) : x.bestWith rt ta = b := by
  unfold PortSt.bestWith
  cases hbest : x.best with
  | none => exact (hnone hbest).symm
  | some r => exact (hsome r hbest).symm

/-- A probe keeps the smallest round trip; the 64th gives the delay, which is judged by the limit of the port's medium. -/
theorem execLinkDelayProbe_verified (hst : (s.portSt (port * 8 + lane)).st = 2 ∨ (s.portSt (port * 8 + lane)).st = 6) :
    let key := port * 8 + lane
    let x := s.portSt key
    let b := x.bestWith rt ta
    let d := (b.1 - b.2) / 2
    let far := 8 * delayLimit key < d
    let done := s.setPort key { x with delay := d, best := none, probes := 0, st := if far then 6 else 2 }
    execLinkDelayProbe port lane rt ta s = .next (
      if x.probes + 1 < 64 then s.setPort key { x with best := some b, probes := x.probes + 1 }
      else if far ∧ x.st ≠ 6 then done.formReport 0x5022 [port, d] else done) := by
  have hver : ((s.portSt (port * 8 + lane)).st ≠ 2 && (s.portSt (port * 8 + lane)).st ≠ 6 : Bool) = false := by
    rcases hst with h | h <;> simp [h]
  cases hbest : (s.portSt (port * 8 + lane)).best <;>
    simp only [execLinkDelayProbe, PortSt.bestWith, hver, hbest, Option.elim, Bool.false_eq_true, if_false, Bool.and_eq_true,
      decide_eq_true_eq, bne_iff_ne, Prod.mk.eta]

/-! ### The loss of a link -/

theorem execLinkDown_unverified (h : (s.portSt (port * 8 + lane)).st ≠ 2 ∨ s.formed = false) : execLinkDown port lane s = .next s := by
  rcases h with hst | hform
  · simp [execLinkDown, hst]
  · simp [execLinkDown, hform]

/-- The fault 0x6102 of a running job over the link of a port towards a neighbour. -/
def State.faultOver (s : State) (port a : Nat) (j : JobRec) : State :=
  if s.jobOver j port a && (s.jobSt j.job).st != .halted then
    match jobCtxs j with
    | c :: _ => s.faultCtx 0x6102 c [port, a]
    | [] => s
  else s

theorem execLinkDown_verified (hst : (s.portSt (port * 8 + lane)).st = 2) (hform : s.formed = true) :
    let key := port * 8 + lane
    let t := s.setPort key { s.portSt key with st := 5, lanes := 0 }
    execLinkDown port lane s =
      .next (((s.plan.map Plan.jobs).getD []).foldl (fun t => t.faultOver port (neighbour s.img s.addr key).1) t).pumpAll := by
  simp only [execLinkDown, hst, hform, Bool.not_true, Bool.or_false, ne_eq, not_true_eq_false, decide_false, Bool.false_eq_true, if_false]
  rfl

theorem State.faultOver_elsewhere {a : Nat} {j : JobRec} (h : s.jobOver j port a = false) : s.faultOver port a j = s := by
  simp [State.faultOver, h]

/-- Jobs none of which runs over the link leave the device as it is. -/
theorem State.foldl_faultOver_elsewhere {a : Nat} {l : List JobRec} (h : ∀ j ∈ l, s.jobOver j port a = false) :
    l.foldl (fun t => t.faultOver port a) s = s := by
  induction l with
  | nil => rfl
  | cons j l ih =>
    rw [List.foldl_cons, State.faultOver_elsewhere (h j List.mem_cons_self)]
    exact ih fun k hk => h k (List.mem_cons_of_mem j hk)

end
end

/-- Settles O31: each clause is the case of its command's meaning that the clause's premises select. -/
theorem discoveryResults : Obligations.DiscoveryResults := by
  unfold Obligations.DiscoveryResults
  intro s port lane rt ta h
  refine ⟨execHelloSend_discovering, execHelloSend_not_discovering, ?hello, execLinkDelayProbe_unverified, fun b hst hsome hnone => ?probe, ?down⟩
  case hello =>
    refine ⟨execHello_not_heard h, fun hears hwired h2 h6 => ?_, fun hears hwired hst => ?_, fun hears hmis h3 => ?_, fun hears hmis h3 => ?_⟩
    all_goals
      have hexec : exec (.hello port lane h) s = _ := execHello_heard h hears
      rw [hexec]
    · rw [if_pos hwired]
      dsimp only
      rw [if_neg h6, if_neg (not_or.2 ⟨h2, h6⟩)]
      rfl
    · have hkeep : (if (s.portSt (port * 8 + lane)).st = 6 then 6 else 2) = (s.portSt (port * 8 + lane)).st := by
        rcases hst with h2 | h6
        · rw [h2]; rfl
        · rw [h6]; rfl
      rw [if_pos hwired]
      dsimp only
      rw [hkeep, if_pos hst]
      rfl
    · rw [if_neg hmis, if_neg h3]
      rfl
    · rw [if_neg hmis, if_pos h3]
      rfl
  case probe =>
    have hexec : exec (.linkDelayProbe port lane rt ta) s = _ := execLinkDelayProbe_verified hst
    rw [PortSt.bestWith_eq hsome hnone] at hexec
    dsimp only at hexec ⊢
    rw [hexec]
    refine ⟨fun hmore => by rw [if_pos (by omega)], fun hlast => ?_⟩
    rw [if_neg (by omega)]
    refine ⟨fun hnear => ?_, fun hfar h2 => ?_, fun hfar h6 => ?_⟩
    · rw [if_neg (by omega), if_neg (by omega)]
    · rw [if_pos ⟨hfar, by omega⟩, if_pos hfar]
    · rw [if_neg (by omega), if_pos hfar]
  case down =>
    refine ⟨execLinkDown_unverified, fun hst hform hover => ?_, fun p j c cs hst hform hplan hjobs hover hrun hctx => ?_⟩
    all_goals
      have hexec : exec (.linkDown port lane) s = _ := execLinkDown_verified hst hform
      rw [hexec]
    · rw [State.foldl_faultOver_elsewhere hover]
    · have hrun' : (((s.setPort (port * 8 + lane) { s.portSt (port * 8 + lane) with st := 5, lanes := 0 }).jobSt j.job).st != .halted) = true :=
        bne_iff_ne.2 hrun
      simp only [hplan, Option.map_some, Option.getD_some, hjobs, List.foldl_cons, List.foldl_nil, State.faultOver, hover, hrun', Bool.and_self,
        if_true, hctx]

end Sys2Proof.Machine

namespace Sys2Proof.Machine

/-! ## The phases of formation (R380 to R382, R384) -/

section
variable {s : State}

/-- A phase begins on a CONFIGURED device with an address, and is one of 1 to 5. -/
theorem execFormationPhaseStart_not_forming (ph : PhaseStart) (h : s.dev ≠ .configured ∨ s.addrValid = false ∨ ph.phase ∉ [1, 2, 3, 4, 5]) :
    execFormationPhaseStart ph s = .next s := by
  rcases h with hdev | haddr | hph
  · simp [execFormationPhaseStart, hdev]
  · simp [execFormationPhaseStart, haddr]
  · simp only [List.mem_cons, List.not_mem_nil, or_false, not_or] at hph
    obtain ⟨h1, h2, h3, h4, h5⟩ := hph
    simp [execFormationPhaseStart]

/-- The master's ring is counted as the image says and unbroken; other positions need not know. -/
def State.ringCounted (s : State) : Prop := s.isMaster = false ∨ s.vine.brk = none ∧ s.vine.count = some s.img.n

/-- Discovery begins: every required port is down until its HELLO, and HELLO leaves on each. -/
def State.startDiscovery (s : State) : State :=
  let s1 := (requiredPorts s.img s.addr).foldl (fun (t : State) k => t.setPort k { st := 1 }) s
  let s2 : State := { s1 with formation := { s.formation with phase := 2, alone := s.formation.alone || s.formation.phase == 0, joinBeat := none },
                              acquired := false, bt := {} }
  s2.send ((requiredPorts s.img s.addr).map s2.helloOn)

/-- The state in which phase 3 begins: discovery has ended. -/
def State.discovered (s : State) (away : List Nat) : State :=
  { s.endDiscovery away with formation := { (s.endDiscovery away).formation with phase := 3 } }

/-- The test by which phase 2 begins: after phase 1, or from no phase. -/
theorem State.startsDiscovery_iff :
    (s.formation.phase = 1 && (!s.isMaster || (s.vine.brk.isNone && s.vine.count == some s.img.n) || s.formation.alone)
      || s.formation.phase = 0 : Bool) = true ↔
      s.formation.phase = 0 ∨ s.formation.phase = 1 ∧ (s.formation.alone = true ∨ s.ringCounted) := by
  simp only [State.ringCounted, Bool.or_eq_true, Bool.and_eq_true, decide_eq_true_eq, Bool.not_eq_true', Option.isNone_iff_eq_none, beq_iff_eq]
  rw [or_comm, or_comm (b := s.formation.alone = true)]

section
variable (away : List Nat) (hdev : s.dev = .configured) (haddr : s.addrValid = true)
include hdev haddr

theorem execFormationPhaseStart_phase_1 (hph : s.formation.phase = 0) (halone : s.formation.alone = false) :
    execFormationPhaseStart ⟨1, away⟩ s = .next (State.startPhase1 { s with formation := {}, acquired := false, bt := {} }) := by
  simp [execFormationPhaseStart, hdev, haddr, hph, halone]

theorem execFormationPhaseStart_phase_2 (h : s.formation.phase = 0 ∨ s.formation.phase = 1 ∧ (s.formation.alone = true ∨ s.ringCounted)) :
    execFormationPhaseStart ⟨2, away⟩ s = .next s.startDiscovery := by
  simp only [execFormationPhaseStart, hdev, haddr, bne_self_eq_false, Bool.not_true, Bool.or_self, Bool.false_eq_true, if_false,
    State.startsDiscovery_iff.2 h, if_true]
  rfl

theorem execFormationPhaseStart_phase_2_not_counted (hph : s.formation.phase = 1) (halone : s.formation.alone = false) (hno : ¬ s.ringCounted) :
    execFormationPhaseStart ⟨2, away⟩ s = .next s := by
  have hstay : ¬ (s.formation.phase = 0 ∨ s.formation.phase = 1 ∧ (s.formation.alone = true ∨ s.ringCounted)) := by
    simp [hph, halone, hno]
  simp only [execFormationPhaseStart, hdev, haddr, bne_self_eq_false, Bool.not_true, Bool.or_self, Bool.false_eq_true, if_false,
    Bool.eq_false_iff.2 fun hgo => hstay (State.startsDiscovery_iff.1 hgo)]

/-- Phase 3 gives the device's own join record to where the position of its acting Pod Root says (Table 13-7). -/
theorem execFormationPhaseStart_phase_3 (hph : s.formation.phase = 2) :
    execFormationPhaseStart ⟨3, away⟩ s = .next (
      let s2 := s.discovered away
      if s.formation.alone then s2.send [.join (if s2.podRootAddr = s2.addr then s2.origin else s2.podRootAddr) s2.ownJoin]
      else if s2.pos = s2.podRootPos then (s2.putJoin 0 s2.pos s2.ownJoin).tryPod
      else s2.send [.join s2.podRootAddr s2.ownJoin]) := by
  simp only [execFormationPhaseStart, hdev, haddr, bne_self_eq_false, Bool.not_true, Bool.or_self, Bool.false_eq_true, if_false, hph]
  rfl

theorem execFormationPhaseStart_phase_4 (hph : s.formation.phase = 3) (halone : s.formation.alone = false) (hroot : s.formation.plotRoot = false) :
    execFormationPhaseStart ⟨4, away⟩ s = .next { s with formation := { s.formation with phase := 4 } } := by
  simp [execFormationPhaseStart, hdev, haddr, hph, halone, hroot]

theorem execFormationPhaseStart_phase_4_plotRoot (hroot : s.formation.plotRoot = true) : execFormationPhaseStart ⟨4, away⟩ s = .next s := by
  simp [execFormationPhaseStart, hdev, haddr, hroot]

theorem execFormationPhaseStart_phase_5
    (h : s.formation.phase = 4 ∧ s.formation.plotRoot = false ∨ s.formation.phase = 3 ∧ s.formation.alone = true) :
    execFormationPhaseStart ⟨5, away⟩ s = .next { s with formation := { s.formation with phase := 5 } } := by
  rcases h with ⟨hph, hroot⟩ | ⟨hph, halone⟩
  · simp [execFormationPhaseStart, hdev, haddr, hph, hroot]
  · simp [execFormationPhaseStart, hdev, haddr, hph, halone]

end

/-- The code with which the limit of a phase runs out (R362, R380). -/
def State.timeoutCode (s : State) : Nat :=
  let f := s.formation
  if f.phase = 4 ∧ f.plotRoot = true ∧ s.bt.source = false then 0x5030 else if f.phase = 5 ∧ s.bt.locked = false then 0x5032
  else if (f.phase = 2 ∨ f.phase = 3) ∧ f.code ≠ 0 then f.code else 0x5003

theorem State.timeoutCode_phase_1 (hph : s.formation.phase = 1) : s.timeoutCode = 0x5003 := by
  simp [State.timeoutCode, hph]

theorem State.timeoutCode_phase_2_3 (hph : s.formation.phase = 2 ∨ s.formation.phase = 3) :
    s.timeoutCode = if s.formation.code = 0 then 0x5003 else s.formation.code := by
  have h4 : s.formation.phase ≠ 4 := by omega
  have h5 : s.formation.phase ≠ 5 := by omega
  simp [State.timeoutCode, h4, h5, hph]

theorem State.timeoutCode_phase_4 (hph : s.formation.phase = 4) :
    s.timeoutCode = if s.formation.plotRoot = true ∧ s.bt.source = false then 0x5030 else 0x5003 := by
  simp [State.timeoutCode, hph]

theorem State.timeoutCode_phase_5 (hph : s.formation.phase = 5) : s.timeoutCode = if s.bt.locked = true then 0x5003 else 0x5032 := by
  cases hlock : s.bt.locked <;> simp [State.timeoutCode, hph, hlock]

theorem execJoinTimeout_not_limited (h : s.dev ≠ .configured ∨ s.formation.phase = 0 ∨ s.formation.joinBeat ≠ none) :
    execJoinTimeout s = .next s := by
  rcases h with hdev | hph | hjoin
  · simp [execJoinTimeout, hdev]
  · simp [execJoinTimeout, hph]
  · simp [execJoinTimeout, Option.isSome_iff_ne_none.2 hjoin]

/-- The limit of a phase that runs out on a device without a join beat is reported with the code that the phase has. -/
theorem execJoinTimeout_limited (hdev : s.dev = .configured) (hph : s.formation.phase ≠ 0) (hjoin : s.formation.joinBeat = none) :
    execJoinTimeout s =
      .next (State.report { s with formation := { s.formation with phase := 0 } } s.timeoutCode (.info [s.formation.phase])) := by
  simp only [execJoinTimeout, hdev, hph, hjoin, bne_self_eq_false, decide_false, Option.isSome_none, Bool.or_self, Bool.false_eq_true, if_false,
    Bool.and_eq_true, decide_eq_true_eq, Bool.not_eq_true', Bool.or_eq_true, and_assoc, State.timeoutCode]

/-! ## Join and lock records (R363, R380, R381, R385 to R387) -/

theorem State.formed_of_configured (hdev : s.dev = .configured) : s.formed = false := by
  simp [State.formed, hdev]

/-- Before JOINED a join record is held at the level at which its device and this one part. -/
theorem execJoinRecord_forming (r : JoinRec) (hform : s.formed = false) (hdev : s.dev = .configured) (hph : s.formation.phase ≠ 0) :
    execJoinRecord r s = .next (
      if r.address / 8 = s.addr / 8 then (s.putJoin 0 (posOf r.address) r).tryPod
      else if rowNo r.address = rowNo s.addr then (s.putJoin 1 (podOf r.address) r).tryRow
      else (s.putJoin 2 (rowNo r.address) r).tryPlot) := by
  simp [execJoinRecord, hform, hdev, hph]

/-- In a joined Plot the acting Plot Root judges a join record, to which every other device passes it. -/
theorem execJoinRecord_joined (r : JoinRec) (hform : s.formed = true) :
    execJoinRecord r s = .next (
      if s.isOrigin = false then s.send [.join s.origin r]
      else if r.code ≠ 0 then s.report r.code (.join r)
      else if r.digest = s.ownDigest then
        { s with formation := { s.formation with accepted := if s.formation.accepted.contains r.address then s.formation.accepted
                                                              else s.formation.accepted ++ [r.address] } }
      else s.report 0x5001 (.join r)) := by
  simp only [execJoinRecord, hform, if_true, Bool.not_eq_true']

/-- Devices of one pod are of one row. -/
theorem rowNo_eq_of_pod_eq {a b : Nat} (h : a / 8 = b / 8) : rowNo a = rowNo b := by
  unfold rowNo
  omega

theorem execLockRecord_taken {l : List Nat} (h : s.formed = true ∨ s.dev = .configured ∧ s.acquired = true) :
    execLockRecord l s = .next (s.takeLocks l) := by
  rcases h with hform | ⟨hdev, hacq⟩
  · simp [execLockRecord, hform]
  · simp [execLockRecord, hdev, hacq]

theorem State.takeLocks_elsewhere (l : List Nat) (h : s.isOrigin = false) : s.takeLocks l = s.send [.locked s.origin l] := by
  simp [State.takeLocks, h]

theorem State.takeLocks_forming (l : List Nat) (hroot : s.isOrigin = true) (hform : s.formed = false) :
    let f := s.formation
    s.takeLocks l = State.tryAnnounce { s with formation := { f with locks := f.locks ++ l.filter fun d => !f.locks.contains d } } := by
  simp [State.takeLocks, hroot, hform]

/-- The announcement of a join beat to device d alone, which is then no longer excluded. -/
def State.announceAlone (s : State) (d : Nat) : Announce :=
  { joinBeat := s.beat + 4096, excluded := s.excluded.filter (· != d), form := s.form, origin := s.addr, only := some d }

theorem not_mem_filter_ne (d : Nat) (l : List Nat) : d ∉ l.filter (· != d) := by
  simp

theorem State.takeLocks_not_accepted {d : Nat} (hroot : s.isOrigin = true) (hform : s.formed = true) (hd : d ∉ s.formation.accepted) :
    s.takeLocks [d] = s := by
  simp [State.takeLocks, hroot, hform, hd]

/-- The acting Plot Root of a joined Plot announces a join beat to an accepted device that has locked. -/
theorem State.takeLocks_accepted {d : Nat} (hroot : s.isOrigin = true) (hform : s.formed = true) (hd : d ∈ s.formation.accepted) :
    let f := s.formation
    s.takeLocks [d] = State.send
      { s with excluded := s.excluded.filter (· != d)
               formation := { f with accepted := f.accepted.filter (· != d), failed := f.failed.filter (· != d)
                                     rejoined := (f.rejoined.filter fun e => e.1 != d) ++ [(d, s.beat)] } } [.announce d (s.announceAlone d)] := by
  simp [State.takeLocks, hroot, hform, hd, State.announceAlone]

/-! ## The announcement and the join beat (R373, R380, R381, R385) -/

/-- An announcement to another device only ends its exclusion, on a joined device. -/
theorem execAnnouncement_other {a : Announce} {d : Nat} (honly : a.only = some d) (hd : d ≠ s.addr) :
    execAnnouncement a s = .next (if s.formed = true then { s with excluded := s.excluded.filter fun e => some d != some e } else s) := by
  simp only [execAnnouncement, honly, Option.any_some, bne_iff_ne.2 hd, if_true]

/-- An announcement to all or to this device. -/
theorem Announce.not_other {a : Announce} (h : a.only = none ∨ a.only = some s.addr) : a.only.any (· != s.addr) = false := by
  rcases h with h | h <;> simp [h]

theorem execAnnouncement_not_awaited {a : Announce} (hmine : a.only = none ∨ a.only = some s.addr)
    (h : s.dev ≠ .configured ∨ s.formation.phase ≠ 5 ∨ s.bt.locked = false ∨ s.formation.joinBeat ≠ none ∨ s.miswired = true) :
    execAnnouncement a s = .next s := by
  have hskip : (s.dev != .configured || s.formation.phase != 5 || !s.bt.locked || s.formation.joinBeat.isSome || s.miswired) = true := by
    rcases h with h | h | h | h | h
    · simp [h]
    · simp [h]
    · simp [h]
    · simp [Option.isSome_iff_ne_none.2 h]
    · simp [h]
  simp only [execAnnouncement, Announce.not_other hmine, hskip, Bool.false_eq_true, if_false, if_true]

/-- A locked device holds the join beat, or leaves formation when the beat has begun; it passes on what is meant for all. -/
theorem execAnnouncement_awaited {a : Announce} (hmine : a.only = none ∨ a.only = some s.addr) (hdev : s.dev = .configured)
    (hph : s.formation.phase = 5) (hlock : s.bt.locked = true) (hjoin : s.formation.joinBeat = none) (hwired : s.miswired = false) :
    let s1 : State := if a.joinBeat ≤ s.beat then { s with formation := { s.formation with phase := 0 } }
      else { s with formation := { s.formation with joinBeat := some a.joinBeat }, excluded := a.excluded }
    execAnnouncement a s = .next (if a.only.isSome = true then s1 else s1.send (s1.beatChildren.map fun d => .announce d a)) := by
  simp only [execAnnouncement, Announce.not_other hmine, hdev, hph, hlock, hjoin, hwired, bne_self_eq_false, Bool.not_true, Option.isSome_none,
    Bool.or_self, Bool.false_eq_true, if_false]

theorem execJoinBeat_not_due (h : s.dev ≠ .configured ∨ s.formation.joinBeat ≠ some s.beat) : execJoinBeat s = .next s := by
  rcases h with hdev | hjoin
  · simp [execJoinBeat, hdev]
  · simp [execJoinBeat, hjoin]

theorem execJoinBeat_due (hdev : s.dev = .configured) (hjoin : s.formation.joinBeat = some s.beat) : execJoinBeat s = .next s.enterJoined := by
  simp [execJoinBeat, hdev, hjoin]

/-- With neither a plan nor known ports the entry to JOINED only takes the digest, leaves formation and journals a BEAT_MARK. -/
theorem State.enterJoined_bare (hplan : s.plan = none) (hports : s.ports = []) :
    s.enterJoined =
      State.journal { s with dev := .joined, joinDigest := s.ownDigest
                             formation := { s.formation with phase := 0, joinBeat := none, alone := false } } .beatMark := by
  simp only [State.enterJoined, hports, List.foldl_nil, State.journal_plan, hplan, Option.map_none, Option.getD_none]

end

/-- Settles O32: each clause is the case of its command's meaning that the clause's premises select. -/
theorem formationResults : Obligations.FormationResults := by
  unfold Obligations.FormationResults
  intro s f
  refine ⟨execFormationPhaseStart_not_forming, fun away hdev haddr => ?phases, ?timeout,
    fun r => ⟨fun hform hdev hph => ?forming, fun hform => ?joined⟩,
    fun l htaken hroot => ?passed, fun l hdev hacq hroot => ?collected, fun d hform hroot => ?rejoining, fun a => ?announced,
    execJoinBeat_not_due, fun hdev hjoin => ⟨execJoinBeat_due hdev hjoin, fun hplan hports => ?bare⟩⟩
  case phases =>
    refine ⟨execFormationPhaseStart_phase_1 away hdev haddr, execFormationPhaseStart_phase_2 away hdev haddr,
      fun hph halone hmaster hring => ?_, fun hph => ?_,
      execFormationPhaseStart_phase_4 away hdev haddr, execFormationPhaseStart_phase_4_plotRoot away hdev haddr,
      execFormationPhaseStart_phase_5 away hdev haddr⟩
    · refine execFormationPhaseStart_phase_2_not_counted away hdev haddr hph halone fun hcounted => ?_
      rcases hcounted with hslave | ⟨hbrk, hcount⟩
      · rw [hslave] at hmaster; cases hmaster
      · exact hring.elim (fun h => h hbrk) fun h => h hcount
    · have hexec : exec (.formationPhaseStart ⟨3, away⟩) s = _ := execFormationPhaseStart_phase_3 away hdev haddr hph
      dsimp only
      rw [hexec]
      refine ⟨fun halone => ?_, fun halone hpos => ?_, fun halone hpos => ?_⟩
      · exact congrArg _ (if_pos halone)
      · exact congrArg _ ((if_neg (by rw [halone]; decide)).trans (if_neg hpos))
      · exact congrArg _ ((if_neg (by rw [halone]; decide)).trans (if_pos hpos))
  case timeout =>
    refine ⟨execJoinTimeout_not_limited, fun hdev hjoin => ?_⟩
    have hexec (hph : f.phase ≠ 0) : exec .joinTimeout s = _ := execJoinTimeout_limited hdev hph hjoin
    exact ⟨fun hph => by rw [hexec (by omega), State.timeoutCode_phase_1 hph], fun hph => by rw [hexec (by omega), State.timeoutCode_phase_2_3 hph],
      fun hph => by rw [hexec (by omega), State.timeoutCode_phase_4 hph], fun hph => by rw [hexec (by omega), State.timeoutCode_phase_5 hph]⟩
  case forming =>
    have hexec : exec (.joinRecord r) s = _ := execJoinRecord_forming r hform hdev hph
    rw [hexec]
    refine ⟨fun hpod => by rw [if_pos hpod], fun hpod hrow => by rw [if_neg hpod, if_pos hrow], fun hrow => ?_⟩
    rw [if_neg fun hpod => hrow (rowNo_eq_of_pod_eq hpod), if_neg hrow]
  case joined =>
    have hexec : exec (.joinRecord r) s = _ := execJoinRecord_joined r hform
    rw [hexec]
    refine ⟨fun hroot => by rw [if_pos hroot], fun hroot hcode => ?_, fun hroot hcode hdig => ?_, fun hroot hcode hdig hnew => ?_⟩
    · rw [if_neg (by simp [hroot]), if_pos hcode]
    · rw [if_neg (by simp [hroot]), if_neg (not_not.2 hcode), if_neg hdig]
    · rw [if_neg (by simp [hroot]), if_neg (not_not.2 hcode), if_pos hdig]
      simp only [List.contains_eq_mem, show r.address ∉ s.formation.accepted from hnew, decide_false, Bool.false_eq_true, if_false]
      rfl
  case passed =>
    have hexec : exec (.lockRecord l) s = _ := execLockRecord_taken htaken
    rw [hexec, State.takeLocks_elsewhere l hroot]
  case collected =>
    have hexec : exec (.lockRecord l) s = _ := execLockRecord_taken (.inr ⟨hdev, hacq⟩)
    rw [hexec, State.takeLocks_forming l hroot (State.formed_of_configured hdev)]
  case rejoining =>
    have hexec : exec (.lockRecord [d]) s = _ := execLockRecord_taken (.inl hform)
    rw [hexec]
    refine ⟨fun hd => by rw [State.takeLocks_not_accepted hroot hform hd], fun hd => ⟨_, rfl, ?_⟩⟩
    rw [State.takeLocks_accepted hroot hform hd]
    exact ⟨not_mem_filter_ne _ _, not_mem_filter_ne _ _, rfl⟩
  case announced =>
    refine ⟨fun d honly hd hform => ?_, fun d honly hd hform => ?_, fun hmine => ⟨fun hdev hph hlock hjoin hwired => ?_,
      execAnnouncement_not_awaited hmine⟩⟩
    · have hexec : exec (.announcement a) s = _ := execAnnouncement_other honly hd
      rw [hexec, if_pos hform]
    · have hexec : exec (.announcement a) s = _ := execAnnouncement_other honly hd
      rw [hexec, if_neg (by rw [hform]; decide)]
    · have hexec : exec (.announcement a) s = _ := execAnnouncement_awaited hmine hdev hph hlock hjoin hwired
      dsimp only at hexec ⊢
      rw [hexec]
      exact ⟨fun honly => by rw [honly]; rfl, fun honly => by rw [honly]; rfl⟩
  case bare =>
    dsimp only
    rw [State.enterJoined_bare hplan hports]
    exact ⟨rfl, rfl, rfl, rfl, rfl⟩

end Sys2Proof.Machine

namespace Sys2Proof.Machine

/-! ## Encodings of the floating-point formats field by field (R45 to R47, R61) -/

section
variable (g : Fmt) (neg : Bool) {e fr : Nat}

/-- The encoding with the sign, the exponent field and the fraction field given. -/
def Fmt.pack (e fr : Nat) : Nat := g.signBit neg + (e * 2 ^ g.fracBits + fr)

theorem Fmt.pack_zero : g.pack neg 0 0 = g.signBit neg := by simp only [Fmt.pack, Nat.zero_mul, Nat.add_zero]

theorem Fmt.pack_ones : g.pack neg (2 ^ g.expBits - 1) 0 = g.infBits neg := rfl

variable {g}

/-- In a floating-point format the sign stands right above the exponent field and the fraction field. -/
theorem Fmt.signPlace_eq (hint : g ≠ .int8) (hscale : g ≠ .e8m0) : 2 ^ (g.width - 1) = 2 ^ g.expBits * 2 ^ g.fracBits := by
  cases g with
  | int8 => exact absurd rfl hint
  | e8m0 => exact absurd rfl hscale
  | _ => rfl

theorem Fmt.signBit_eq : g.signBit neg = 2 ^ (g.width - 1) * neg.toNat := by cases neg <;> simp [Fmt.signBit]

theorem Fmt.pack_frac (hint : g ≠ .int8) (hscale : g ≠ .e8m0) (hfr : fr < 2 ^ g.fracBits) : g.pack neg e fr % 2 ^ g.fracBits = fr := by
  rw [Fmt.pack, Fmt.signBit_eq, Fmt.signPlace_eq hint hscale, Nat.mul_comm (2 ^ g.expBits), Nat.mul_comm e, Nat.mul_assoc, Nat.mul_add_mod,
    Nat.mul_add_mod, Nat.mod_eq_of_lt hfr]

theorem Fmt.pack_exp (hint : g ≠ .int8) (hscale : g ≠ .e8m0) (he : e < 2 ^ g.expBits) (hfr : fr < 2 ^ g.fracBits) :
    g.pack neg e fr / 2 ^ g.fracBits % 2 ^ g.expBits = e := by
  have hpos : 0 < 2 ^ g.fracBits := Nat.two_pow_pos _
  rw [Fmt.pack, Fmt.signBit_eq, Fmt.signPlace_eq hint hscale, Nat.mul_comm (2 ^ g.expBits), Nat.mul_comm e, Nat.mul_assoc,
    Nat.mul_add_div hpos, Nat.mul_add_div hpos, Nat.div_eq_of_lt hfr, Nat.add_zero, Nat.mul_add_mod, Nat.mod_eq_of_lt he]

theorem Fmt.pack_sign (hint : g ≠ .int8) (hscale : g ≠ .e8m0) (he : e < 2 ^ g.expBits) (hfr : fr < 2 ^ g.fracBits) :
    decide (g.pack neg e fr / 2 ^ (g.width - 1) % 2 = 1) = neg := by
  have hlow : e * 2 ^ g.fracBits + fr < 2 ^ (g.width - 1) :=
    calc e * 2 ^ g.fracBits + fr < (e + 1) * 2 ^ g.fracBits := by rw [Nat.succ_mul]; exact Nat.add_lt_add_left hfr _
      _ ≤ 2 ^ g.expBits * 2 ^ g.fracBits := Nat.mul_le_mul_right _ he
      _ = 2 ^ (g.width - 1) := (Fmt.signPlace_eq hint hscale).symm
  rw [Fmt.pack, Fmt.signBit_eq, Nat.mul_add_div (Nat.two_pow_pos _), Nat.div_eq_of_lt hlow]
  cases neg <;> rfl

/-- What a packed encoding of a floating-point format reads as. -/
theorem decode_pack (hint : g ≠ .int8) (hscale : g ≠ .e8m0) (he : e < 2 ^ g.expBits) (hfr : fr < 2 ^ g.fracBits) :
    decode g (g.pack neg e fr) =
      if g.hasInf && decide (e = 2 ^ g.expBits - 1) && fr != 0 then .nan
      else if g == .e4m3 && decide (e = 2 ^ g.expBits - 1) && fr == 7 then .nan
      else if g.hasInf && decide (e = 2 ^ g.expBits - 1) then .inf neg
      else
        let v : Rat := if e = 0 then (fr : Rat) * pow2 (1 - g.bias - g.fracBits)
          else ((2 ^ g.fracBits + fr : Nat) : Rat) * pow2 ((e : Int) - g.bias - g.fracBits)
        Num.ofRat (if neg then -v else v) neg := by
  rw [decode.eq_def]
  split
  case h_1 => exact absurd rfl hint
  case h_2 => exact absurd rfl hscale
  case h_3 => simp only [Fmt.pack_frac neg hint hscale hfr, Fmt.pack_exp neg hint hscale he hfr, Fmt.pack_sign neg hint hscale he hfr]

/-- The sign alone reads as the zero of that sign (R47). -/
theorem decode_signBit (hint : g ≠ .int8) (hscale : g ≠ .e8m0) : decode g (g.signBit neg) = .zero neg := by
  have hones : 0 ≠ 2 ^ g.expBits - 1 := by
    cases g with
    | int8 => exact absurd rfl hint
    | _ => decide
  rw [← Fmt.pack_zero, decode_pack neg hint hscale (Nat.two_pow_pos _) (Nat.two_pow_pos _)]
  simp [hones, Num.ofRat]

/-- The exponent field of ones over the fraction 0 reads as the infinity of its sign in the formats that have infinity (R61). -/
theorem decode_infBits (hinf : g.hasInf = true) : decode g (g.infBits neg) = .inf neg := by
  have hint : g ≠ .int8 := by rintro rfl; cases hinf
  have hscale : g ≠ .e8m0 := by rintro rfl; cases hinf
  have hones : 2 ^ g.expBits - 1 < 2 ^ g.expBits := Nat.sub_one_lt (Nat.two_pow_pos _).ne'
  rw [← Fmt.pack_ones, decode_pack neg hint hscale hones (Nat.two_pow_pos _)]
  simp [hinf]

end

/-- The greatest finite encoding of FP8 E4M3, exponent field 15 over fraction 6, reads as 448. -/
theorem decode_e4m3_max (neg : Bool) : decode .e4m3 (Fmt.e4m3.signBit neg + Fmt.e4m3.maxBits) = .fin (if neg then -448 else 448) := by
  have hpack : Fmt.e4m3.signBit neg + Fmt.e4m3.maxBits = Fmt.e4m3.pack neg 15 6 := rfl
  rw [hpack, decode_pack neg (by decide) (by decide) (by decide) (by decide)]
  cases neg <;> norm_num [Fmt.hasInf, Fmt.expBits, Fmt.fracBits, Fmt.bias, pow2, Rat.mkRat_one, Num.ofRat]

/-! ## What zeros, infinities and NaNs are written as (R47, R61) -/

section
variable {f : Fmt} (sat : Bool) (mode : RMode) (neg : Bool)

theorem roundTo_zero (hint : f ≠ .int8) : roundTo f sat mode (.zero neg) = ⟨f.signBit neg, 0⟩ := by
  simp [roundTo, hint]

/-- Infinity is written as infinity, SAT = 1 included. -/
theorem roundTo_inf (hinf : f.hasInf = true) : roundTo f sat mode (.inf neg) = ⟨f.infBits neg, 0⟩ := by
  cases f with
  | fp32 | bf16 | fp16 | e5m2 => rfl
  | e4m3 | e2m3 | e3m2 | e2m1 | int8 | e8m0 => cases hinf

end

theorem decode_int8_extremes (neg : Bool) : decode .int8 (if neg then 0x80 else 0x7F) = .fin (if neg then -128 else 127) := by
  cases neg <;> norm_num [decode, Num.ofRat]

/-- Settles O57: roundTo writes a zero as its sign bit and an infinity, where the format has one, as its encoding, and decode reads both back; the
saturated encodings of FP8 E4M3 and INT8 read as the ends of their formats. -/
theorem specialValuesWritten : Obligations.SpecialValuesWritten := by
  unfold Obligations.SpecialValuesWritten
  refine ⟨fun f g bits neg sat mode hzero => ?zero, fun f sat neg mode =>
    ⟨fun hinf => ?inf, ⟨decode_e4m3_max neg, rfl⟩, rfl, ⟨decode_int8_extremes neg, rfl⟩, rfl⟩⟩
  case zero =>
    rw [hzero]
    refine ⟨fun hint hscale => ?_, rfl⟩
    rw [roundTo_zero sat mode neg hint, decode_signBit neg hint hscale]
  case inf => rw [roundTo_inf sat mode neg hinf, decode_infBits neg hinf]

/-! ## Block scaling (R55) -/

section
variable (f : Fmt) (bits scale : Nat)

theorem scaled_nan_scale : scaled f bits 0xFF = .nan := rfl

variable {f bits scale}

theorem scaled_fin {v : Rat} (hscale : scale ≠ 0xFF) (h : decode f bits = .fin v) :
    scaled f bits scale = .fin (v * pow2 ((scale : Int) - 127)) := by
  simp only [scaled, if_neg hscale, h]

/-- Zeros, infinities and NaNs keep no trace of a scale other than 0xFF. -/
theorem scaled_special (hscale : scale ≠ 0xFF) (h : ∀ v, decode f bits ≠ .fin v) : scaled f bits scale = decode f bits := by
  rw [scaled, if_neg hscale]
  split
  case h_1 v hv => exact absurd hv (h v)
  case h_2 => rfl

theorem scaled_nan (h : decode f bits = .nan) : scaled f bits scale = .nan := by
  by_cases hscale : scale = 0xFF
  · rw [hscale, scaled_nan_scale]
  · rw [scaled_special hscale (by simp [h]), h]

end

/-- An element of a block-scaled tile is its encoding scaled by the scale byte of its block of 32. -/
theorem State.elem_blk (s : State) (n : Nat) {t : TileDesc} (r c : Nat) (hblk : fmtdBlk t.fmtd = true) :
    s.elem n t r c =
      scaled t.fmt (elemBits s.mem (scrAddr n (t.base.toNat + r * t.stride.toNat)) t.fmt c)
        (memGet s.mem (scrAddr n (t.scaleBase.toNat + r * t.scaleStride.toNat + c / 32))).toNat :=
  if_pos hblk

/-- Settles O58: the element is its encoding scaled (State.elem_blk), and the scale acts on finite values alone unless it is 0xFF. -/
theorem blockScaledElements : Obligations.BlockScaledElements := by
  unfold Obligations.BlockScaledElements
  intro s n t r c hblk
  dsimp only
  rw [State.elem_blk s n r c hblk]
  refine ⟨fun hsc => ?_, fun v => scaled_fin, fun neg hsc hzero => ?_, fun neg hsc hinf => ?_, scaled_nan⟩
  · rw [hsc, scaled_nan_scale]
  · rw [scaled_special hsc (by simp [hzero]), hzero]
  · rw [scaled_special hsc (by simp [hinf]), hinf]

end Sys2Proof.Machine

namespace Sys2Proof.Machine

/-! ## Merging raw records (R92) -/

section
variable (st r q : RawRec)

/-- The empty element merges without a trace (R92). -/
theorem mergeRecord_emptyEl : mergeRecord st emptyEl = st := by
  simp [mergeRecord, joinStatus, emptyEl]

theorem mergeRecord_comm : mergeRecord st r = mergeRecord r st := by
  simp only [mergeRecord, joinStatus, RawRec.mk.injEq]
  exact ⟨BitVec.add_comm .., Bool.or_comm .., Bool.or_comm .., Bool.or_comm .., Bool.or_comm .., Bool.and_comm .., BitVec.or_comm ..⟩

theorem mergeRecord_assoc : mergeRecord (mergeRecord st r) q = mergeRecord st (mergeRecord r q) := by
  simp only [mergeRecord, joinStatus, RawRec.mk.injEq]
  exact ⟨BitVec.add_assoc .., Bool.or_assoc .., Bool.or_assoc .., Bool.or_assoc .., Bool.or_assoc .., Bool.and_assoc .., BitVec.or_assoc ..⟩

theorem mergeRecord_right_comm : mergeRecord (mergeRecord st r) q = mergeRecord (mergeRecord st q) r := by
  rw [mergeRecord_assoc, mergeRecord_comm r q, ← mergeRecord_assoc]

end

/-! ## Terms as raw records of their own (R81, R84, R92) -/

section
variable (st r : RawRec) (p q : Term)

/-- A term, special or finite, acts on an element as the raw record that holds it alone; all that follows on exact sums rests on this. -/
theorem addTerm_eq_mergeRecord : addTerm st p = mergeRecord st (addTerm emptyEl p) := by
  fun_cases addTerm st p <;> simp [addTerm, mergeRecord, joinStatus, emptyEl]

theorem addTerm_right_comm : addTerm (addTerm st p) q = addTerm (addTerm st q) p := by
  calc addTerm (addTerm st p) q
      = mergeRecord (mergeRecord st (addTerm emptyEl p)) (addTerm emptyEl q) := by
        rw [addTerm_eq_mergeRecord (addTerm st p), addTerm_eq_mergeRecord st]
    _ = mergeRecord (mergeRecord st (addTerm emptyEl q)) (addTerm emptyEl p) := mergeRecord_right_comm ..
    _ = addTerm (addTerm st q) p := by
        rw [addTerm_eq_mergeRecord (addTerm st q), addTerm_eq_mergeRecord st]

theorem mergeRecord_addTerm : mergeRecord st (addTerm r p) = addTerm (mergeRecord st r) p := by
  rw [addTerm_eq_mergeRecord r, addTerm_eq_mergeRecord (mergeRecord st r), mergeRecord_assoc]

end

/-! ## Exact block sums (R81, R97) -/

section
variable (cls : ChainClass) (st : RawRec) {ab cd : List (Num × Num)}

/-- The terms of an exact sum may be added in any order. -/
theorem blockSum_perm (h : ab.Perm cd) : blockSum cls st ab = blockSum cls st cd :=
  h.foldl_eq' (fun _ _ _ _ _ => addTerm_right_comm ..) st

/-- Merging a chain's record is continuing from the merge of the record that the chain began with. -/
theorem mergeRecord_blockSum (r : RawRec) (ab : List (Num × Num)) :
    mergeRecord st (blockSum cls r ab) = blockSum cls (mergeRecord st r) ab := by
  induction ab generalizing r with
  | nil => rfl
  | cons xy rest ih =>
    calc mergeRecord st (blockSum cls (addTerm r (termOf cls xy.1 xy.2)) rest)
        = blockSum cls (mergeRecord st (addTerm r (termOf cls xy.1 xy.2))) rest := ih _
      _ = blockSum cls (addTerm (mergeRecord st r) (termOf cls xy.1 xy.2)) rest := by rw [mergeRecord_addTerm]

end

/-- Settles O59: a term merges as a record of its own, and merging records is commutative and associative with the empty element neutral. -/
theorem narrowSumsInAnyOrder : Obligations.NarrowSumsInAnyOrder := by
  unfold Obligations.NarrowSumsInAnyOrder
  intro st ab cd
  refine ⟨blockSum_perm .narrow st, ?_⟩
  rw [mergeRecord_blockSum, mergeRecord_emptyEl]

end Sys2Proof.Machine

namespace Sys2Proof.Machine

/-! ## Legal form along every run (Table 4-1, R102, R108) -/

/-- Whatever the command, its meaning keeps what no command changes. -/
theorem exec_keeps (i : Instr) (s : State) : KeepsOut s (exec i s) := by
  have h := Keeps.refl s
  cases i with
  | nop => exact execNop_keeps h
  | endProg => exact execEnd_keeps h
  | tend => exact execTend_keeps h
  | br => exact execBr_keeps h
  | loop => exact execLoop_keeps h
  | endloop => exact execEndloop_keeps h
  | movi => exact execMovi_keeps h
  | add => exact execAdd_keeps h
  | sub => exact execSub_keeps h
  | mul => exact execMul_keeps h
  | and => exact execAnd_keeps h
  | or => exact execOr_keeps h
  | xor => exact execXor_keeps h
  | shl => exact execShl_keeps h
  | shr => exact execShr_keeps h
  | cmp => exact execCmp_keeps h
  | lds => exact execLds_keeps h
  | sts => exact execSts_keeps h
  | cset => exact execCset_keeps h
  | cinc => exact execCinc_keeps h
  | wait => exact execWait_keeps h
  | crd => exact execCrd_keeps h
  | waitb => exact execWaitb_keeps h
  | beatrd => exact execBeatrd_keeps h
  | flagrc => exact execFlagrc_keeps h
  | tdld => exact execTdld_keeps h
  | tdadd => exact execTdadd_keeps h
  | mma => exact execMma_keeps h
  | mmat => exact execMmat_keeps h
  | mtwin => exact execMtwin_keeps h
  | mrd => exact execMrd_keeps h
  | mrdp _ _ _ _ _ _ _ gstep => exact execMrdp_keeps (_gstep := gstep) h
  | msav => exact execMsav_keeps h
  | vsetl => exact execVsetl_keeps h
  | vmov => exact execVmov_keeps h
  | vadd => exact execVadd_keeps h
  | vsub => exact execVsub_keeps h
  | vmul => exact execVmul_keeps h
  | vfma => exact execVfma_keeps h
  | vmin => exact execVmin_keeps h
  | vmax => exact execVmax_keeps h
  | vabs => exact execVabs_keeps h
  | vneg => exact execVneg_keeps h
  | vclt => exact execVclt_keeps h
  | vceq => exact execVceq_keeps h
  | vsel => exact execVsel_keeps h
  | vrint => exact execVrint_keeps h
  | vperm => exact execVperm_keeps h
  | vrcpe => exact execVrcpe_keeps h
  | vrsqe => exact execVrsqe_keeps h
  | vexp2f => exact execVexp2f_keeps h
  | vlog2f => exact execVlog2f_keeps h
  | vexp => exact execVexp_keeps h
  | vexp2 => exact execVexp2_keeps h
  | vlog => exact execVlog_keeps h
  | vlog2 => exact execVlog2_keeps h
  | vdiv => exact execVdiv_keeps h
  | vsqrt => exact execVsqrt_keeps h
  | vrsqrt => exact execVrsqrt_keeps h
  | vrcp => exact execVrcp_keeps h
  | vsigmoid => exact execVsigmoid_keeps h
  | vtanh => exact execVtanh_keeps h
  | vsilu => exact execVsilu_keeps h
  | vgelu => exact execVgelu_keeps h
  | vrsum => exact execVrsum_keeps h
  | vrmax => exact execVrmax_keeps h
  | vsoftmax => exact execVsoftmax_keeps h
  | vlogsoftmax => exact execVlogsoftmax_keeps h
  | vrmsnorm => exact execVrmsnorm_keeps h
  | vlnorm => exact execVlnorm_keeps h
  | vdsigmoid => exact execVdsigmoid_keeps h
  | vdtanh => exact execVdtanh_keeps h
  | vdsilu => exact execVdsilu_keeps h
  | vdgelu => exact execVdgelu_keeps h
  | vdsoftmax => exact execVdsoftmax_keeps h
  | vdrmsnorm => exact execVdrmsnorm_keeps h
  | vdlnorm => exact execVdlnorm_keeps h
  | dma => exact execDma_keeps h
  | lsend => exact execLsend_keeps h
  | lrecv => exact execLrecv_keeps h
  | lred => exact execLred_keeps h
  | stsend => exact execStsend_keeps h
  | engineInstrComplete => exact execEngineInstrComplete_keeps h
  | lrecvFilled => exact execLrecvFilled_keeps h
  | waitSatisfied => exact execWaitSatisfied_keeps h
  | waitExpired => exact execWaitExpired_keeps h
  | startQueueDequeue => exact execStartQueueDequeue_keeps h
  | startQueueAppendHeld => exact execStartQueueAppendHeld_keeps h
  | beatBoundary => exact execBeatBoundary_keeps h
  | beatMarker => exact execBeatMarker_keeps h
  | beatFailover => exact execBeatFailover_keeps h
  | linkDelayProbe => exact execLinkDelayProbe_keeps h
  | sourceLock => exact execSourceLock_keeps h
  | sourceLockLoss => exact execSourceLockLoss_keeps h
  | beatPpsIn => exact execBeatPpsIn_keeps h
  | ptpSync => exact execPtpSync_keeps h
  | enum => exact execEnum_keeps h
  | strap => exact execStrap_keeps h
  | ebeat => exact execEbeat_keeps h
  | vineState => exact execVineState_keeps h
  | ping => exact execPing_keeps h
  | xfer => exact execXfer_keeps h
  | enumTimeout => exact execEnumTimeout_keeps h
  | enumRepeat => exact execEnumRepeat_keeps h
  | podFaultN => exact execPodFaultN_keeps h
  | hello => exact execHello_keeps h
  | helloSend => exact execHelloSend_keeps h
  | formationPhaseStart => exact execFormationPhaseStart_keeps h
  | joinRecord => exact execJoinRecord_keeps h
  | lockRecord => exact execLockRecord_keeps h
  | announcement => exact execAnnouncement_keeps h
  | joinBeat => exact execJoinBeat_keeps h
  | joinTimeout => exact execJoinTimeout_keeps h
  | ready => exact execReady_keeps h
  | commitMarker => exact execCommitMarker_keeps h
  | commitTimeout => exact execCommitTimeout_keeps h
  | commitBeat => exact execCommitBeat_keeps h
  | hostedCopyAck => exact execHostedCopyAck_keeps h
  | startReady => exact execStartReady_keeps h
  | startRecord => exact execStartRecord_keeps h
  | startBeat => exact execStartBeat_keeps h
  | chunk => exact execChunk_keeps h
  | stragglerDeadline => exact execStragglerDeadline_keeps h
  | exchTimeout => exact execExchTimeout_keeps h
  | fuuUpdate => exact execFuuUpdate_keeps h
  | parameterChunk => exact execParameterChunk_keeps h
  | receiptStart => exact execReceiptStart_keeps h
  | sparseList => exact execSparseList_keeps h
  | stemPacketStart => exact execStemPacketStart_keeps h
  | stemArrival => exact execStemArrival_keeps h
  | creditReturn => exact execCreditReturn_keeps h
  | lossJobStart => exact execLossJobStart_keeps h
  | lossExchange => exact execLossExchange_keeps h
  | lossJobComplete => exact execLossJobComplete_keeps h
  | acceptanceJob => exact execAcceptanceJob_keeps h
  | draftSample => exact execDraftSample_keeps h
  | lookupJob => exact execLookupJob_keeps h
  | remoteLookup => exact execRemoteLookup_keeps h
  | remotePartial => exact execRemotePartial_keeps h
  | forwardAppend => exact execForwardAppend_keeps h
  | backwardAppend => exact execBackwardAppend_keeps h
  | compose => exact execCompose_keeps h
  | batchStepEnd => exact execBatchStepEnd_keeps h
  | deadline => exact execDeadline_keeps h
  | ringHold => exact execRingHold_keeps h
  | pauseComplete _ _ core entry => exact execPauseComplete_keeps (_core := core) (_entry := entry) h
  | summaryTtl => exact execSummaryTtl_keeps h
  | accountingWindow => exact execAccountingWindow_keeps h
  | sample => exact execSample_keeps h
  | req => exact execReq_keeps h
  | ack => exact execAck_keeps h
  | ackOnly => exact execAckOnly_keeps h
  | ackOnlySend => exact execAckOnlySend_keeps h
  | retransmitTimeout => exact execRetransmitTimeout_keeps h
  | sessionIdleTimeout => exact execSessionIdleTimeout_keeps h
  | pcsSearch => exact execPcsSearch_keeps h
  | alignmentLoss => exact execAlignmentLoss_keeps h
  | pfcFrame => exact execPfcFrame_keeps h
  | addressDuplicate => exact execAddressDuplicate_keeps h
  | init => exact execInit_keeps h
  | prove => exact execProve_keeps h
  | close => exact execClose_keeps h
  | cancel => exact execCancel_keeps h
  | streamResume => exact execStreamResume_keeps h
  | switch => exact execSwitch_keeps h
  | drainComplete => exact execDrainComplete_keeps h
  | drainTimeout => exact execDrainTimeout_keeps h
  | restart => exact execRestart_keeps h
  | rejoin => exact execRejoin_keeps h
  | drain => exact execDrain_keeps h
  | ticket => exact execTicket_keeps h
  | storageKey => exact execStorageKey_keeps h
  | pfcSet => exact execPfcSet_keeps h
  | husk => exact execHusk_keeps h
  | peerLoad => exact execPeerLoad_keeps h
  | huskRemove => exact execHuskRemove_keeps h
  | meterGrant => exact execMeterGrant_keeps h
  | meterRequest => exact execMeterRequest_keeps h
  | adapterLoad => exact execAdapterLoad_keeps h
  | adapterRemove => exact execAdapterRemove_keeps h
  | maskLoad => exact execMaskLoad_keeps h
  | maskRemove => exact execMaskRemove_keeps h
  | summaryExport => exact execSummaryExport_keeps h
  | summaryImport => exact execSummaryImport_keeps h
  | summaryDrop => exact execSummaryDrop_keeps h
  | ownerClaim => exact execOwnerClaim_keeps h
  | ownerTransfer => exact execOwnerTransfer_keeps h
  | read => exact execRead_keeps h
  | errRejectNew => exact execErrRejectNew_keeps h
  | firmwareBank => exact execFirmwareBank_keeps h
  | imageBank => exact execImageBank_keeps h
  | planSlot => exact execPlanSlot_keeps h
  | planForSwitch => exact execPlanForSwitch_keeps h
  | bankWriteComplete => exact execBankWriteComplete_keeps h
  | ckpt => exact execCkpt_keeps h
  | attest => exact execAttest_keeps h
  | keyDerivation => exact execKeyDerivation_keeps h
  | faultNotice => exact execFaultNotice_keeps h
  | haltedReport => exact execHaltedReport_keeps h
  | haltSettle => exact execHaltSettle_keeps h
  | restoreComplete => exact execRestoreComplete_keeps h
  | restoreTimeout => exact execRestoreTimeout_keeps h
  | journalDurable => exact execJournalDurable_keeps h
  | compaction => exact execCompaction_keeps h
  | compactionComplete => exact execCompactionComplete_keeps h
  | pwrEnRise => exact execPwrEnRise_keeps h
  | pwrEnFall => exact execPwrEnFall_keeps h
  | resetNAssert => exact execResetNAssert_keeps h
  | resetNRise => exact execResetNRise_keeps h
  | bootConfigure => exact execBootConfigure_keeps h
  | vinOutOfRange => exact execVinOutOfRange_keeps h
  | vinRecovery => exact execVinRecovery_keeps h
  | pwrcapNFall => exact execPwrcapNFall_keeps h
  | pwrcapNRise => exact execPwrcapNRise_keeps h
  | thermAlert => exact execThermAlert_keeps h
  | thermAlertRelease => exact execThermAlertRelease_keeps h
  | thermalTrip => exact execThermalTrip_keeps h
  | thermalShutdown => exact execThermalShutdown_keeps h
  | hbmUncorrectable => exact execHbmUncorrectable_keeps h
  | sramUncorrectable => exact execSramUncorrectable_keeps h
  | linkDown => exact execLinkDown_keeps h
  | localCopyComplete => exact execLocalCopyComplete_keeps h
  | hostedCopy => exact execHostedCopy_keeps h
  | rowShadowCopyComplete => exact execRowShadowCopyComplete_keeps h
  | halfEraseComplete => exact execHalfEraseComplete_keeps h
  | joinableLimit => exact execJoinableLimit_keeps h
  | pcsAlignmentLock => exact execPcsAlignmentLock_keeps h
  | osfpModuleEvent => exact execOsfpModuleEvent_keeps h
  | pfcPauseExpiry => exact execPfcPauseExpiry_keeps h

section
variable {s t : State}

/-- With no command waiting a step is a step of the time base. -/
theorem step_no_pending (hq : s.pending = []) : step s = .next s.tick := by
  rw [step, hq]

/-- With a command in front a step is that command's effect on the state whose queue is the rest. -/
theorem step_pending {c : Instr} {rest : List Instr} (hq : s.pending = c :: rest) : step s = exec c { s with pending := rest } := by
  rw [step, hq]

/-- The waiting commands are no part of the legal form. -/
theorem State.Ok.setPending (hs : s.Ok) (l : List Instr) : ({ s with pending := l } : State).Ok := ⟨hs.mem, hs.cores⟩

theorem State.reset_ok : State.reset.Ok := ⟨rfl, fun _ h => absurd h List.not_mem_nil⟩

end

/-- Settles O3: memory and cores list nothing after reset. -/
theorem resetIsOk : Obligations.ResetIsOk := State.reset_ok

/-- Settles O4: the time base and every command keep the legal form. -/
theorem everyStepKeepsOk : Obligations.EveryStepKeepsOk := by
  unfold Obligations.EveryStepKeepsOk
  intro s t hs hstep
  cases hq : s.pending with
  | nil =>
    rw [step_no_pending hq, Host.Outcome.next.injEq] at hstep
    exact hstep ▸ (State.tick_keeps (Keeps.refl s)).ok hs
  | cons c rest =>
    rw [step_pending hq] at hstep
    exact (exec_keeps c _ t hstep).ok (hs.setPending rest)

end Sys2Proof.Machine

namespace Sys2Proof.Machine

/-! ## Instructions on registers (Tables 4-1, 4-3 to 4-6, R106 to R108, R111, R138) -/

section
variable {s : State} {a : Site} {p : Pred} {d ra rb : Fin 32} {imm : Word}

/-- An executing scalar operation writes g[GD], from g[GA] and b. -/
theorem aluOp_next (h : Issues s a p) (op : Word → Word → Word) :
    aluOp a p d ra rb imm op s =
      onlyCtx s a ((s.ctxAt a).next.setG d (op ((s.ctxAt a).greg ra) ((s.ctxAt a).greg rb + imm))) :=
  regOp_next h _

theorem execLoop_next {e : BitVec 12} (h : Issues s a p) :
    execLoop a p ra imm e s = onlyCtx s a (
      if (s.ctxAt a).greg ra + imm = 0 then { s.ctxAt a with pc := e + 1 }
      else if (s.ctxAt a).loops.length < 4 then
        { (s.ctxAt a).next with loops := ((s.ctxAt a).greg ra + imm, (s.ctxAt a).pc + 1) :: (s.ctxAt a).loops }
      else (s.ctxAt a).next) :=
  regOp_next h _

theorem execEndloop_next {n : Word} {body : BitVec 12} {r : List (Word × BitVec 12)} (h : Issues s a p)
    (hloops : (s.ctxAt a).loops = (n, body) :: r) :
    execEndloop a p s = onlyCtx s a (
      if n = 1 then { (s.ctxAt a).next with loops := r }
      else { s.ctxAt a with loops := (n - 1, body) :: r, pc := body }) := by
  have hloops' : (s.ctxAt a).next.loops = (n, body) :: r := hloops
  rw [execEndloop, regOp_next h, hloops']
  rfl

theorem execCmp_next {cond : CmpCond} (h : Issues s a p) :
    execCmp a p d cond ra rb imm s =
      onlyCtx s a ((s.ctxAt a).next.setP (cmpPred d) (cmpHolds cond ((s.ctxAt a).greg ra) ((s.ctxAt a).greg rb + imm))) :=
  regOp_next h _

theorem execVsetl_next (h : Issues s a p) :
    execVsetl a p rb imm s = onlyCtx s a { (s.ctxAt a).next with vl := BitVec.ofNat 8 (
      if ((s.ctxAt a).greg rb + imm).toNat = 0 then lanesOf a.core else min ((s.ctxAt a).greg rb + imm).toNat (lanesOf a.core)) } :=
  regOp_next h _

theorem execBeatrd_next (h : Issues s a p) (hd : d.val + 1 < 32) :
    execBeatrd a p d s = onlyCtx s a
      (((s.ctxAt a).next.setG d (BitVec.ofNat 32 s.beat)).setG ⟨d.val + 1, hd⟩ (BitVec.ofNat 32 (s.beat / 2 ^ 32))) := by
  rw [execBeatrd, regOp_next h]
  simp only [hd, dite_true]

/-- An executing FLAGRC takes the flag word to g[GD] and clears its bits that are 1 in b. -/
theorem execFlagrc_next (h : Issues s a p) :
    execFlagrc a p d rb imm s =
      .next { (s.tookTurn a).setCtx a ((s.ctxAt a).next.setG d s.flags[a.ctx]) with
        flags := s.flags.set a.ctx (s.flags[a.ctx] &&& ~~~((s.ctxAt a).greg rb + imm)) } := by
  rw [execFlagrc, coreOut_next _ h.core, issue_next h]
  simp only [State.issued, State.ctxAt_setCtx, State.setCtx_setCtx]
  rfl

end

/-! ### Reading a register after a write -/

/-- The bit of the predicate word that a predicate is. -/
theorem predBit_getLsbD (r q : Fin 8) : (1#8 <<< r.val).getLsbD q = decide (q = r) := by
  rw [← BitVec.twoPow_eq, BitVec.getLsbD_twoPow]
  simp [Fin.ext_iff, eq_comm]

section
variable (x : CtxSt)

theorem CtxSt.greg_setG (r q : Fin 32) (v : Word) : (x.setG r v).greg q = if q = 0 then 0 else if q = r then v else x.greg q := by
  by_cases h0 : q = 0
  · rw [if_pos h0, h0, CtxSt.greg_zero]
  · rw [if_neg h0]
    by_cases hr : q = r
    · rw [if_pos hr, hr, CtxSt.greg_setG_same _ _ (hr ▸ h0)]
    · rw [if_neg hr, CtxSt.greg_setG_other _ _ hr]

theorem CtxSt.preg_setP (r q : Fin 8) (v : Bool) : (x.setP r v).preg q = if q = 0 then true else if q = r then v else x.preg q := by
  by_cases h0 : q = 0
  · rw [if_pos h0, h0, CtxSt.preg_zero]
  · by_cases hr : r = 0
    · rw [hr, CtxSt.setP_zero, if_neg h0, if_neg h0]
    · have hset : (if v then 1#8 <<< r.val else 0#8).getLsbD q = (v && decide (q = r)) := by
        cases v with
        | false => exact BitVec.getLsbD_zero
        | true => exact predBit_getLsbD r q
      simp only [CtxSt.preg, CtxSt.setP, if_neg h0, if_neg hr, BitVec.getLsbD_or, BitVec.getLsbD_and, BitVec.getLsbD_not, q.isLt, decide_true,
        Bool.true_and, predBit_getLsbD, hset]
      by_cases hqr : q = r <;> simp [hqr]

end

/-- Settles O7: each instruction acts on its own context by its row of Table 4-3. -/
theorem scalarAndBranchResults : Obligations.ScalarAndBranchResults := by
  unfold Obligations.ScalarAndBranchResults
  refine ⟨fun s a p d ra rb imm h => ?scalar, fun s a p ra imm n e body r h => ?branch⟩
  case scalar =>
    exact ⟨regOp_next h id, regOp_next h (·.setG d imm), aluOp_next h (· + ·), aluOp_next h (· - ·), aluOp_next h (· * ·), aluOp_next h (· &&& ·),
      aluOp_next h (· ||| ·), aluOp_next h (· ^^^ ·), aluOp_next h fun x y => x <<< (y.toNat % 32), aluOp_next h fun x y => x >>> (y.toNat % 32)⟩
  case branch =>
    have hloop : exec (.loop a p ra imm e) s = _ := execLoop_next h
    refine ⟨regOp_next h fun x => { x with pc := imm.setWidth 12 }, fun hzero => ?_, fun hcount hroom => ?_, fun hopen hlast => ?_, fun hopen hmore => ?_⟩
    · rw [hloop, if_pos hzero]
    · rw [hloop, if_neg hcount, if_pos hroom]
    · exact (execEndloop_next h hopen).trans (by rw [if_pos hlast])
    · exact (execEndloop_next h hopen).trans (by rw [if_neg hmore])

/-- Settles O8: CMP by its condition of Table 4-5, and reading after each kind of write. -/
theorem compareAndRegisterWrites : Obligations.CompareAndRegisterWrites := by
  unfold Obligations.CompareAndRegisterWrites
  refine ⟨fun s a p d ra rb imm h => ?_, CtxSt.greg_setG, CtxSt.preg_setP⟩
  have hne : ∀ u v : Word, cmpHolds .ne u v = decide (u ≠ v) := fun u v => by
    simp only [cmpHolds, bne, ne_eq, decide_not]; rfl
  refine ⟨execCmp_next h, (execCmp_next h).trans ?_, execCmp_next h, execCmp_next h, execCmp_next h, execCmp_next h⟩
  rw [hne]

/-- Settles O15: each instruction writes the registers that its row names, from the state at its issue. -/
theorem specialRegisterResults : Obligations.SpecialRegisterResults := by
  unfold Obligations.SpecialRegisterResults
  intro s a p d ra rb imm td f h
  have hvsetl : exec (.vsetl a p rb imm) s = _ := execVsetl_next h
  have hzero : ∀ b : Word, b.toNat = 0 ↔ b = 0 := fun b => by simp [BitVec.toNat_eq]
  refine ⟨fun hd => execBeatrd_next h hd, execFlagrc_next h, fun hfull => ?_, fun hsome => ?_,
    regOp_next h fun x => { x with td := x.td.set td (tdOfBytes (s.scr a.core ((s.poolRange a).1 + 32 * imm.toNat) 32)) },
    regOp_next h fun x => { x with td := x.td.set td (tdAdd x.td[td] f (x.greg ra + imm)) }⟩
  · rw [hvsetl, if_pos ((hzero _).mpr hfull)]
  · rw [hvsetl, if_neg (mt (hzero _).mp hsome)]

end Sys2Proof.Machine

namespace Sys2Proof.Machine

/-! ## The frame of every sequencer instruction (R103, R105, R336) -/

/-- What a sequencer instruction of context a can answer: it runs in the frame State.issue, LDS and STS stay while R123 holds their word, and an
instruction of an engine is issued to it on a core that has it. -/
inductive Issuance (s : State) (a : Site) (p : Pred) (present : Bool) : Host.Outcome State Fault Refusal → Prop
  | framed (f : State → State) : Issuance s a p present (coreOut a.core (s.issue a p f))
  | held (h : (s.ctxAt a).executes p = true) : Issuance s a p present (coreOut a.core s)
  | engine (cnt : CntSel) (mk : CtxSt → EngOp) : Issuance s a p present (engOut a p cnt present mk s)

/-- LDS and STS: framed unless their word is held. -/
theorem Issuance.unlessHeld {s : State} {a : Site} {p : Pred} {present b : Bool} {f : State → State} :
    Issuance s a p present (if (s.ctxAt a).executes p && b then coreOut a.core s else coreOut a.core (s.issue a p f)) := by
  split
  next hb => exact .held (Bool.and_eq_true_iff.mp hb).1
  next => exact .framed f

/-- Every sequencer instruction answers in one of the three ways. -/
theorem exec_issuance {i : Instr} {a : Site} {p : Pred} (h : i.header = some (a, p)) (s : State) : Issuance s a p i.present (exec i s) := by
  cases i
  case nop | endProg | tend | br | loop | endloop | movi | add | sub | mul | and | or | xor | shl | shr | cmp | cset | cinc | wait | crd | waitb
      | beatrd | flagrc | tdld | tdadd | vsetl => cases h; exact .framed _
  case lds | sts => cases h; exact .unlessHeld
  case mma | mmat | mtwin | mrd | mrdp | msav | dma | lsend | lrecv | lred | stsend => cases h; exact .engine _ _
  case vmov | vadd | vsub | vmul | vfma | vmin | vmax | vabs | vneg | vclt | vceq | vsel | vrint | vperm | vrcpe | vrsqe | vexp2f | vlog2f | vexp
      | vexp2 | vlog | vlog2 | vdiv | vsqrt | vrsqrt | vrcp | vsigmoid | vtanh | vsilu | vgelu | vrsum | vrmax | vsoftmax | vlogsoftmax | vrmsnorm
      | vlnorm | vdsigmoid | vdtanh | vdsilu | vdgelu | vdsoftmax | vdrmsnorm | vdlnorm => cases h; exact .engine _ _
  all_goals exact nomatch h

section
variable {s : State} {a : Site} {p : Pred}

/-- An engine instruction that its predicate does not select only advances the program counter (R105). -/
theorem issueEngine_skip (h : CanIssue s a) (cnt : CntSel) (mk : CtxSt → EngOp) (hskip : (s.ctxAt a).executes p = false) :
    s.issueEngine a p cnt mk = s.issued a := by
  rw [State.issueEngine, if_pos h.issuable]
  simp only [hskip, Bool.false_eq_true, if_false]
  rfl

/-- A context that cannot issue, or whose turn it is not, issues nothing to an engine (R103, R336). -/
theorem issueEngine_idle (h : (s.issuable a && s.hasTurn a) = false) (cnt : CntSel) (mk : CtxSt → EngOp) : s.issueEngine a p cnt mk = s := by
  rw [State.issueEngine, h]
  rfl

/-- A context that does not run, waits, is halted or is not next in turn cannot issue. -/
theorem State.not_issuable (h : (s.ctxAt a).running = false ∨ (s.ctxAt a).wait ≠ none ∨ (s.ctxAt a).halted = true ∨ s.hasTurn a = false) :
    (s.issuable a && s.hasTurn a) = false := by
  rcases h with hrun | hwait | hhalt | hturn
  · simp [State.issuable, hrun]
  · simp [State.issuable, hwait]
  · simp [State.issuable, hhalt]
  · simp [hturn]

variable {present : Bool} {o : Host.Outcome State Fault Refusal}

theorem Issuance.skip (hout : Issuance s a p present o) (h : CanIssue s a) (hpresent : present = true)
    (hskip : ((s.ctxAt a).preg p.pred != p.pneg) = false) : o = onlyCtx s a (s.ctxAt a).next := by
  cases hout with
  | framed f => rw [coreOut_next _ h.core, issue_skip h f hskip]; rfl
  | held hex => exact absurd (hex.symm.trans hskip) (by decide)
  | engine cnt mk => rw [engOut, coreOut_next _ h.core, if_pos hpresent, issueEngine_skip h cnt mk hskip]; rfl

theorem Issuance.idle (hout : Issuance s a p present o) (hcore : a.core < Config.numCores) (h : (s.issuable a && s.hasTurn a) = false) :
    o = .next s := by
  cases hout with
  | framed f => rw [coreOut_next _ hcore, issue_idle h f]
  | held => exact coreOut_next s hcore
  | engine cnt mk => rw [engOut, coreOut_next _ hcore, issueEngine_idle h cnt mk, ite_self]

theorem Issuance.noCore (hout : Issuance s a p present o) (hcore : Config.numCores ≤ a.core) : o = .fault (.noSuchAddress a.core) := by
  cases hout with
  | framed | held | engine => exact coreOut_fault _ hcore

end

/-- Settles O9: framed and engine instructions alike are skipped; a held word belongs to an instruction that executes. -/
theorem unexecutedOnlyAdvances : Obligations.UnexecutedOnlyAdvances := by
  unfold Obligations.UnexecutedOnlyAdvances
  intro i a p s hi hpresent hcan hskip
  exact (exec_issuance hi s).skip hcan hpresent hskip

/-- Settles O10: the frame of each instruction tests whether its context can issue and has its turn. -/
theorem waitingContextIssuesNothing : Obligations.WaitingContextIssuesNothing := by
  unfold Obligations.WaitingContextIssuesNothing
  intro i a p s hi
  exact ⟨fun hcore hwaits => (exec_issuance hi s).idle hcore (State.not_issuable hwaits), fun hcore => (exec_issuance hi s).noCore hcore⟩

/-! ## What register instructions leave unchanged (R100, Table 4-3) -/

section
variable {s t : State} {a : Site} {p : Pred}

@[simp] theorem State.lastOwn_setCtx (s : State) (a : Site) (x : CtxSt) (n : Nat) : ((s.setCtx a x).core n).lastOwn = (s.core n).lastOwn := by
  by_cases h : n = a.core
  · subst h; rw [State.core_setCtx]
  · rw [State.core_setCtx_other _ _ _ h]

/-- A register instruction that answers a next state has not issued, was skipped, or has changed its own context by its operation. -/
theorem regOp_cases {f : CtxSt → CtxSt} (h : regOp a p f s = .next t) :
    t = s ∨ t = (s.tookTurn a).setCtx a (s.ctxAt a).next ∨ t = (s.tookTurn a).setCtx a (f (s.ctxAt a).next) := by
  have hcore : a.core < Config.numCores := by
    by_contra hno
    rw [regOp, coreOut_fault _ (Nat.le_of_not_lt hno)] at h
    cases h
  rw [regOp, coreOut_next _ hcore, Host.Outcome.next.injEq] at h
  subst h
  unfold State.issue
  split
  · dsimp only
    split
    · refine .inr (.inr ?_)
      rw [State.setCtx_setCtx, State.ctxAt_setCtx]
      rfl
    · exact .inr (.inl rfl)
  · exact .inl rfl

theorem OthersSame.refl (a : Site) (s : State) : OthersSame a s s :=
  ⟨rfl, fun _ _ => rfl, fun _ => ⟨rfl, rfl, rfl, rfl⟩, fun _ => rfl⟩

/-- Taking a turn and writing its own context is all that a register instruction does. -/
theorem OthersSame.wroteCtx (a : Site) (s : State) (x : CtxSt) : OthersSame a s ((s.tookTurn a).setCtx a x) :=
  ⟨rfl, fun _ he => State.ctxAt_setCtx_other _ x he,
    fun _ => ⟨State.jobs_setCtx .., State.acc_setCtx .., State.own_setCtx .., State.lastOwn_setCtx ..⟩, fun _ => rfl⟩

theorem regOp_others {f : CtxSt → CtxSt} (h : regOp a p f s = .next t) : OthersSame a s t := by
  rcases regOp_cases h with rfl | rfl | rfl
  · exact .refl a t
  · exact .wroteCtx a s _
  · exact .wroteCtx a s _

variable (d : Option (Fin 32)) (q : Option (Fin 8))

theorem RegsSame.refl (a : Site) (s : State) : RegsSame a d q s s :=
  ⟨fun _ _ => rfl, fun _ _ => rfl, rfl, rfl, rfl, rfl, rfl, rfl, rfl, rfl, rfl, rfl, rfl⟩

theorem RegsSame.advanced (a : Site) (s : State) : RegsSame a d q s ((s.tookTurn a).setCtx a (s.ctxAt a).next) := by
  constructor <;> rw [State.ctxAt_setCtx]
  case g | p => exact fun _ _ => rfl
  case run => exact ⟨rfl, rfl, rfl, rfl, rfl, rfl⟩
  all_goals rfl

theorem RegsSame.wroteG (a : Site) (s : State) (r : Fin 32) (v : Word) :
    RegsSame a (some r) q s ((s.tookTurn a).setCtx a ((s.ctxAt a).next.setG r v)) := by
  constructor <;> rw [State.ctxAt_setCtx]
  case g => exact fun k hk => CtxSt.greg_setG_other _ v fun e => hk (congrArg some e)
  case p => intro k _; simp only [CtxSt.preg, CtxSt.setG_p]; rfl
  case run =>
    exact ⟨CtxSt.setG_running .., CtxSt.setG_wait .., CtxSt.setG_halted .., CtxSt.setG_ending .., CtxSt.setG_tag .., CtxSt.setG_entryNo ..⟩
  case c => exact CtxSt.setG_c ..
  case td => exact CtxSt.setG_td ..
  case loops => exact CtxSt.setG_loops ..
  case vl => exact CtxSt.setG_vl ..
  case queue => exact CtxSt.setG_queue ..

theorem RegsSame.wroteP (a : Site) (s : State) (r : Fin 8) (v : Bool) :
    RegsSame a d (some r) s ((s.tookTurn a).setCtx a ((s.ctxAt a).next.setP r v)) := by
  constructor <;> rw [State.ctxAt_setCtx]
  case p =>
    intro k hk
    rw [CtxSt.preg_setP, if_neg (fun e => hk (congrArg some e))]
    exact ite_eq_right_iff.mpr fun h0 => by rw [h0]; rfl
  case g => intro k _; simp only [CtxSt.greg, CtxSt.setP_g]; rfl
  case run =>
    exact ⟨CtxSt.setP_running .., CtxSt.setP_wait .., CtxSt.setP_halted .., CtxSt.setP_ending .., CtxSt.setP_tag .., CtxSt.setP_entryNo ..⟩
  case c => exact CtxSt.setP_c ..
  case td => exact CtxSt.setP_td ..
  case loops => exact CtxSt.setP_loops ..
  case vl => exact CtxSt.setP_vl ..
  case queue => exact CtxSt.setP_queue ..

/-- A register instruction that writes g[r]. -/
theorem regOp_setG_frame {r : Fin 32} {v : CtxSt → Word} (h : regOp a p (fun x => x.setG r (v x)) s = .next t) :
    OthersSame a s t ∧ RegsSame a (some r) none s t := by
  refine ⟨regOp_others h, ?_⟩
  rcases regOp_cases h with rfl | rfl | rfl
  · exact .refl _ _ a t
  · exact .advanced _ _ a s
  · exact .wroteG _ a s r _

/-- A register instruction that writes p[r]. -/
theorem regOp_setP_frame {r : Fin 8} {v : CtxSt → Bool} (h : regOp a p (fun x => x.setP r (v x)) s = .next t) :
    OthersSame a s t ∧ RegsSame a none (some r) s t := by
  refine ⟨regOp_others h, ?_⟩
  rcases regOp_cases h with rfl | rfl | rfl
  · exact .refl _ _ a t
  · exact .advanced _ _ a s
  · exact .wroteP _ a s r _

end

/-- Settles O11: each of the instructions writes at most one register of its context. -/
theorem registerFrames : Obligations.RegisterFrames := by
  unfold Obligations.RegisterFrames
  intro s t a p d ra rb cn cond imm
  refine ⟨?writesG, fun h => regOp_setP_frame (v := fun x => cmpHolds cond (x.greg ra) (x.b rb imm)) h, fun h => ⟨regOp_others h, ?nop⟩⟩
  case writesG =>
    simp only [List.forall_mem_cons, List.not_mem_nil, false_implies, implies_true, and_true]
    exact ⟨regOp_setG_frame (v := fun _ => imm), regOp_setG_frame (v := fun x => x.greg ra + x.b rb imm),
      regOp_setG_frame (v := fun x => x.greg ra - x.b rb imm), regOp_setG_frame (v := fun x => x.greg ra * x.b rb imm),
      regOp_setG_frame (v := fun x => x.greg ra &&& x.b rb imm), regOp_setG_frame (v := fun x => x.greg ra ||| x.b rb imm),
      regOp_setG_frame (v := fun x => x.greg ra ^^^ x.b rb imm), regOp_setG_frame (v := fun x => x.greg ra <<< ((x.b rb imm).toNat % 32)),
      regOp_setG_frame (v := fun x => x.greg ra >>> ((x.b rb imm).toNat % 32)), regOp_setG_frame (v := fun x => x.c[subCounter cn])⟩
  case nop =>
    rcases regOp_cases h with rfl | rfl | rfl
    · exact .refl _ _ a t
    · exact .advanced _ _ a s
    · exact .advanced _ _ a s

end Sys2Proof.Machine

namespace Sys2Proof.Machine

/-! ## LDS and STS (R107, R123, R135, R136) -/

/-- Issuing changes no plan, so the range check answers the same. -/
@[simp] theorem State.rangeCode_issued (s : State) (a : Site) : (s.issued a).rangeCode a = s.rangeCode a := rfl

@[simp] theorem State.ctxAt_issued (s : State) (a : Site) : (s.issued a).ctxAt a = (s.ctxAt a).next := State.ctxAt_setCtx ..

section
variable {s : State} {a : Site} {p : Pred} {d ra rb : Fin 32} {imm : Word}

theorem execLds_held (h : Issues s a p)
    (hheld : (s.core a.core).holds a.ctx [((s.ctxAt a).lsAddr ra imm, (s.ctxAt a).lsAddr ra imm + 4)] [] = true) :
    execLds a p d ra imm s = .next s := by
  have hexec : (s.ctxAt a).executes p = true := h.executes
  exact (if_pos (Bool.and_eq_true_iff.mpr ⟨hexec, hheld⟩)).trans (coreOut_next s h.core)

theorem execSts_held (h : Issues s a p)
    (hheld : (s.core a.core).holds a.ctx [] [((s.ctxAt a).lsAddr ra imm, (s.ctxAt a).lsAddr ra imm + 4)] = true) :
    execSts a p ra rb imm s = .next s := by
  have hexec : (s.ctxAt a).executes p = true := h.executes
  exact (if_pos (Bool.and_eq_true_iff.mpr ⟨hexec, hheld⟩)).trans (coreOut_next s h.core)

/-- A load that nothing holds reads its word when the range check passes, and otherwise faults. -/
theorem execLds_free (h : Issues s a p)
    (hfree : (s.core a.core).holds a.ctx [((s.ctxAt a).lsAddr ra imm, (s.ctxAt a).lsAddr ra imm + 4)] [] = false) :
    execLds a p d ra imm s = .next ((s.rangeCode a [((s.ctxAt a).lsAddr ra imm, (s.ctxAt a).lsAddr ra imm + 4)] []).elim
      ((s.issued a).setCtx a ((s.ctxAt a).next.setG d (BitVec.ofNat 32 (leNat (s.scr a.core ((s.ctxAt a).lsAddr ra imm) 4)))))
      fun code => ((s.issued a).faultCtx code a.ctx [a.core, (s.ctxAt a).pc.toNat]).pumpAll) := by
  simp only [execLds, hfree, Bool.and_false, Bool.false_eq_true, if_false]
  rw [coreOut_next _ h.core, issue_next h]
  dsimp only [State.rangeCode_issued]
  cases s.rangeCode a [((s.ctxAt a).lsAddr ra imm, (s.ctxAt a).lsAddr ra imm + 4)] [] with
  | none => rw [State.ctxAt_issued]; rfl
  | some code => rfl

/-- A store that nothing holds writes its word when the range check passes, and otherwise faults. -/
theorem execSts_free (h : Issues s a p)
    (hfree : (s.core a.core).holds a.ctx [] [((s.ctxAt a).lsAddr ra imm, (s.ctxAt a).lsAddr ra imm + 4)] = false) :
    execSts a p ra rb imm s = .next ((s.rangeCode a [] [((s.ctxAt a).lsAddr ra imm, (s.ctxAt a).lsAddr ra imm + 4)]).elim
      ((s.issued a).setScr a.core ((s.ctxAt a).lsAddr ra imm) (natLe 4 ((s.ctxAt a).greg rb).toNat))
      fun code => ((s.issued a).faultCtx code a.ctx [a.core, (s.ctxAt a).pc.toNat]).pumpAll) := by
  simp only [execSts, hfree, Bool.and_false, Bool.false_eq_true, if_false]
  rw [coreOut_next _ h.core, issue_next h]
  dsimp only [State.rangeCode_issued]
  cases s.rangeCode a [] [((s.ctxAt a).lsAddr ra imm, (s.ctxAt a).lsAddr ra imm + 4)] with
  | none => rw [State.ctxAt_issued]; rfl
  | some code => rfl

/-- A destination that passes the range check lies in the share of its context. -/
theorem State.share_of_rangeCode_none {srcs : List (Nat × Nat)} {lo hi : Nat} (h : s.rangeCode a srcs [(lo, hi)] = none) :
    (s.share a).1 ≤ lo ∧ hi ≤ (s.share a).2 := by
  by_contra hout
  have hbad : lo < (s.share a).1 ∨ (s.share a).2 < hi := by omega
  simp [State.rangeCode, hbad] at h

end

/-- Settles O13: a free word passes to the range check, which decides between the access and the fault. -/
theorem scratchpadResults : Obligations.ScratchpadResults := by
  unfold Obligations.ScratchpadResults
  refine ⟨fun s a p d ra rb imm h => ⟨fun hfree hcode => ?lds, execLds_held h, fun hfree hcode => ?sts, execSts_held h⟩,
    fun s a p d ra rb imm code h => ⟨fun hfree hcode => ?ldsFault, fun hfree hcode => ?stsFault, State.share_of_rangeCode_none⟩⟩
  case lds =>
    refine (execLds_free h hfree).trans ?_
    rw [CtxSt.lsAddr, hcode, State.issued, Option.elim_none, State.setCtx_setCtx]
    rfl
  case sts => exact (execSts_free h hfree).trans (by rw [CtxSt.lsAddr, hcode, Option.elim_none])
  case ldsFault => exact (execLds_free h hfree).trans (by rw [CtxSt.lsAddr, hcode, Option.elim_some])
  case stsFault => exact (execSts_free h hfree).trans (by rw [CtxSt.lsAddr, hcode, Option.elim_some])

/-! ### Stores on canonical memory, and on memory that is not -/

/-- In canonical memory, which every run from reset keeps, a store changes its four bytes and no others. -/
theorem execSts_frame_of_wf {s t : State} {a : Site} {p : Pred} {ra rb : Fin 32} {imm : Word} (h : Issues s a p) (hwf : Memory.wf s.mem = true)
    (hfree : (s.core a.core).holds a.ctx [] [((s.ctxAt a).lsAddr ra imm, (s.ctxAt a).lsAddr ra imm + 4)] = false)
    (hcode : s.rangeCode a [] [((s.ctxAt a).lsAddr ra imm, (s.ctxAt a).lsAddr ra imm + 4)] = none) (ht : execSts a p ra rb imm s = .next t) :
    let ad := (s.ctxAt a).lsAddr ra imm
    memGetLe t.mem (scrAddr a.core ad) 4 = ((s.ctxAt a).greg rb).toNat ∧
      (∀ n, n < scrAddr a.core ad ∨ scrAddr a.core ad + 4 ≤ n → memGet t.mem n = memGet s.mem n) ∧
      (∀ e, e ≠ a → t.ctxAt e = s.ctxAt e) ∧ t.ctxAt a = (s.ctxAt a).next ∧ t.flags = s.flags := by
  intro ad
  rw [execSts_free h hfree, hcode, Option.elim_none, Host.Outcome.next.injEq] at ht
  subst ht
  refine ⟨?word, fun n hn => ?others, fun e he => State.ctxAt_setCtx_other _ _ he, State.ctxAt_setCtx .., rfl⟩
  case word =>
    have hread := memGetLe_memPutLe (a := scrAddr a.core ad) (n := 4) (v := ((s.ctxAt a).greg rb).toNat) hwf
    exact hread.trans (Nat.mod_eq_of_lt ((s.ctxAt a).greg rb).isLt)
  case others => exact memGet_memPutBytes_outside hwf (by rwa [natLe_length])

/-- 64 bytes of every scratchpad are the share of context 0. -/
def smallShare : CtxRec where
  ctx := 0
  kind := .training
  be := false
  partner := 0
  waitLimit := 8
  tSpBase := 0
  tSpSize := 64
  sSpBase := 0
  sSpSize := 64
  tImBase := 0
  tImSize := 16
  sImBase := 0
  sImSize := 16
  remote := []

/-- Context 0 of T-core 0 runs a program, and memory lists the first byte of its share twice. -/
def twiceListed : State :=
  { State.reset.setCtx ⟨0, 0⟩ { running := true } with
    plan := some { contexts := [smallShare] }
    mem := [(scrAddr 0 0, 1), (scrAddr 0 0, 2)] }

theorem twiceListed_issues : Issues twiceListed ⟨0, 0⟩ ⟨0, false⟩ :=
  ⟨⟨by decide, by decide, by decide, by decide, by decide⟩, by decide⟩

/-- Refutes O14: memory of State need not be canonical, and a store of 0 removes only the first of two cells of one address; the byte then reads as the
second. On canonical memory the statement is `execSts_frame_of_wf`. -/
theorem not_storeFrame : ¬ Obligations.StoreFrame := by
  unfold Obligations.StoreFrame
  intro h
  have hfree : (twiceListed.core 0).holds 0 [] [(0, 4)] = false := by decide
  have hcode : twiceListed.rangeCode ⟨0, 0⟩ [] [(0, 4)] = none := by decide
  have hexec : exec (.sts ⟨0, 0⟩ ⟨0, false⟩ 0 0 0) twiceListed = .next ((twiceListed.issued ⟨0, 0⟩).setScr 0 0 (natLe 4 0)) :=
    execSts_free twiceListed_issues hfree
  have hword := (h twiceListed _ ⟨0, 0⟩ ⟨0, false⟩ 0 0 0 twiceListed_issues hfree hcode hexec).1
  exact absurd hword (by decide)

end Sys2Proof.Machine

namespace Sys2Proof.Machine

/-! ## Issue to an engine (R103, R104, R123, R135, R136, R143) -/

/-- The state after the issue of an operation that is accepted: an LRECV posts its range, an LRED announces its elements to the leaf, and every
operation joins the queue, after which whatever can start does (an LRECV leaves nothing more to start). -/
def State.enter (s : State) (a : Site) (cnt : CntSel) (op : EngOp) : State :=
  match op with
  | .lrecv td ch =>
    let post := (s.issued a).lowPost ch td
    let t := post.1.addJob a.core { s.captured a cnt op with phase := .started, part := post.2 }
    t.setChan ch { t.chanSt ch with posts := (t.chanSt ch).posts + 1 }
  | .lred td ch =>
    let step := s.stepOf a.ctx (s.ctxAt a).tag
    (((s.issued a).leafIssue ch td step).addJob a.core { s.captured a cnt op with part := s.lredPart ch td step }).pump a.core
  | _ => (s.enqueue a (s.captured a cnt op)).pump a.core

section
variable {s : State} {a : Site} {p : Pred} {cnt : CntSel} {mk : CtxSt → EngOp}

/-- The issue of an executing engine instruction: held (R123), refused by the range check or for its overlap, or entered. -/
theorem issueEngine_executing (h : Issues s a p) :
    s.issueEngine a p cnt mk =
      let op := mk (s.ctxAt a)
      if (s.core a.core).holds a.ctx (srcRanges op) (dstRanges op) || decide (16 ≤ (s.core a.core).incomplete a.ctx) then s
      else (s.rangeCode a (srcRanges op) (dstRanges op)).elim
        (if op.overlaps then (s.issued a).faultCtx 0x6006 a.ctx [a.core, (s.ctxAt a).pc.toNat] else s.enter a cnt op)
        fun code => (s.issued a).faultCtx code a.ctx [a.core, (s.ctxAt a).pc.toNat] := by
  have hexec : (s.ctxAt a).executes p = true := h.executes
  rw [State.issueEngine, if_pos h.toCanIssue.issuable]
  simp only [hexec, if_true]
  generalize mk (s.ctxAt a) = op
  refine ite_congr rfl (fun _ => rfl) fun _ => ?_
  cases hcode : s.rangeCode a (srcRanges op) (dstRanges op) with
  | some code => rfl
  | none => cases op <;> rfl

/-- An operation that R123 holds leaves everything as it is. -/
theorem issueEngine_held (h : Issues s a p)
    (hheld : (s.core a.core).holds a.ctx (srcRanges (mk (s.ctxAt a))) (dstRanges (mk (s.ctxAt a))) = true ∨ 16 ≤ (s.core a.core).incomplete a.ctx) :
    s.issueEngine a p cnt mk = s := by
  rw [issueEngine_executing h]
  exact if_pos (by simpa using hheld)

/-- An operation that R123 does not hold passes to the range check. -/
theorem issueEngine_free (h : Issues s a p)
    (hfree : (s.core a.core).holds a.ctx (srcRanges (mk (s.ctxAt a))) (dstRanges (mk (s.ctxAt a))) = false)
    (hroom : (s.core a.core).incomplete a.ctx < 16) :
    s.issueEngine a p cnt mk =
      let op := mk (s.ctxAt a)
      (s.rangeCode a (srcRanges op) (dstRanges op)).elim
        (if op.overlaps then (s.issued a).faultCtx 0x6006 a.ctx [a.core, (s.ctxAt a).pc.toNat] else s.enter a cnt op)
        fun code => (s.issued a).faultCtx code a.ctx [a.core, (s.ctxAt a).pc.toNat] := by
  rw [issueEngine_executing h]
  exact if_neg (by simp [hfree, hroom])

/-- An instruction of an engine whose operation is accepted enters its queue. -/
theorem engOut_accepted (h : Issues s a p) {present : Bool} (hpresent : present = true) (hop : s.accepts a (mk (s.ctxAt a))) :
    engOut a p cnt present mk s = .next (s.enter a cnt (mk (s.ctxAt a))) := by
  rw [engOut, coreOut_next _ h.core, if_pos hpresent, issueEngine_free h hop.free hop.room]
  dsimp only
  rw [hop.range, Option.elim_none, hop.apart, if_neg Bool.false_ne_true]

end

/-- Settles O19: the three ways in which the issue of an engine instruction ends without it in the queue. -/
theorem heldIssue : Obligations.HeldIssue := by
  unfold Obligations.HeldIssue
  intro s a p cnt mk h
  refine ⟨issueEngine_held h, fun code hfree hroom hcode => ?refused, fun hfree hroom hcode hover => ?overlapping⟩
  all_goals
    rw [issueEngine_free h hfree hroom]
    dsimp only at hcode ⊢
    rw [hcode]
  case refused => rw [Option.elim_some]
  case overlapping => exact if_pos hover

/-! ### LRECV (R118) -/

@[simp] theorem State.chanSt_setChan (s : State) (ch : Nat) (x : ChanSt) : (s.setChan ch x).chanSt ch = x := by
  rw [State.chanSt, State.setChan, aget_aput_same, Option.getD_some]

@[simp] theorem State.core_setChan (s : State) (ch : Nat) (x : ChanSt) (n : Nat) : (s.setChan ch x).core n = s.core n := rfl

/-- A post on a channel writes exchange state only. -/
theorem State.lowPost_exch_only (s : State) (ch : Nat) (td : TileDesc) : ∃ e, (s.lowPost ch td).1 = { s with exch := e } := by
  unfold State.lowPost
  split
  · exact ⟨s.exch, rfl⟩
  · split
    · exact ⟨s.exch, rfl⟩
    · split
      · exact ⟨s.exch, rfl⟩
      · exact ⟨_, rfl⟩

/-- Which transfer an LRECV takes does not depend on its issue. -/
theorem State.lowPost_issued (s : State) (a : Site) (ch : Nat) (td : TileDesc) : ((s.issued a).lowPost ch td).2 = (s.lowPost ch td).2 := by
  have hrec : (s.issued a).exchRec ch = s.exchRec ch := rfl
  simp only [State.lowPost, hrec]
  repeat' split
  all_goals rfl

/-- What the issue of an LRECV leaves: its range is posted and the instruction under way. -/
theorem State.enter_lrecv (s : State) (a : Site) (cnt : CntSel) (td : TileDesc) (ch : Nat) :
    let t := s.enter a cnt (.lrecv td ch)
    (t.core a.core).jobs = (s.core a.core).jobs ++ [{ s.captured a cnt (.lrecv td ch) with phase := .started, part := (s.lowPost ch td).2 }] ∧
      (t.chanSt ch).posts = (s.chanSt ch).posts + 1 ∧ t.ctxAt a = (s.ctxAt a).next ∧ t.mem = s.mem := by
  obtain ⟨e, he⟩ := (s.issued a).lowPost_exch_only ch td
  dsimp only [State.enter]
  rw [he, s.lowPost_issued]
  refine ⟨?jobs, ?posts, ?ctx, rfl⟩
  case jobs => exact (congrArg CoreSt.jobs (State.core_setCore ..)).trans (congrArg (· ++ _) (State.jobs_setCtx ..))
  case posts => rw [State.chanSt_setChan]; rfl
  case ctx =>
    rw [State.ctxAt, State.core_setChan, State.addJob, State.core_setCore]
    exact State.ctxAt_issued s a

/-- Settles O17: an accepted operation enters as `State.enter` says. -/
theorem engineIssue : Obligations.EngineIssue := by
  unfold Obligations.EngineIssue
  intro s a p ta tb tc set arr set1 mode acc0 acc1 cnt gh region toHbm hs ch h
  refine ⟨fun harr => ?array, fun hcore => ?student, fun hcore => ?stem,
    engOut_accepted (mk := fun x => .dma x.td[ta] ((x.greg gh).toNat * 128) region toHbm hs.toNat) h rfl,
    engOut_accepted (mk := fun x => .lsend x.td[ta] ch.toNat) h rfl, fun hop => ?lrecv,
    engOut_accepted (mk := fun x => .lred x.td[ta] ch.toNat) h rfl⟩
  case array =>
    have hpresent : (isSCore a.core || arr == 0) = true := by simpa using harr
    exact ⟨engOut_accepted (mk := fun x => .mma false x.td[ta] x.td[tb] x.td[tc] set arr mode) h hpresent,
      engOut_accepted (mk := fun x => .mrd x.td[tc] set arr (x.pair gh)) h hpresent,
      engOut_accepted (mk := fun x => .mrdp x.td[ta] x.td[tc] set arr) h hpresent,
      engOut_accepted (mk := fun x => .msav x.td[tc] set arr) h hpresent⟩
  case student =>
    exact ⟨engOut_accepted (mk := fun x => .mma true x.td[ta] x.td[tb] x.td[tc] set arr mode) h hcore,
      engOut_accepted (mk := fun x => .mtwin x.td[ta] x.td[tb] x.td[tc] set set1 acc0 acc1) h hcore⟩
  case stem => exact engOut_accepted (mk := fun x => .stsend x.td[ta] ch.toNat) h (by rw [hcore]; rfl)
  case lrecv => exact ⟨_, engOut_accepted h rfl hop, s.enter_lrecv a cnt _ _⟩

end Sys2Proof.Machine

namespace Sys2Proof.Machine

/-! ## CINC (R127, R194, R405) -/

/-- Freeing Stem slots writes the buffers' counts only. -/
theorem State.release_bufs_only (s : State) (a : Site) (c : Fin 16) (b : Nat) : ∃ l, s.release a c b = { s with bufs := l } := by
  unfold State.release
  generalize s.releasedBy a c = lands
  induction lands generalizing s with
  | nil => exact ⟨s.bufs, rfl⟩
  | cons land rest ih => exact ih (s.freeSlots land.buffer b)

/-- Freeing sample slots writes the sample table and the words of memory that show it. -/
theorem State.releaseSamples_samples_only (s : State) (d : DataRec) (n : Nat) :
    ∃ l m, s.releaseSamples d n = { s with samples := l, mem := m } := by
  unfold State.releaseSamples
  generalize (s.doneSamples d.ctx).take n = slots
  induction slots generalizing s with
  | nil => exact ⟨s.samples, s.mem, rfl⟩
  | cons slot rest ih => exact ih (s.freeSample d slot.1)

/-- The state in which a CINC of context a has added b to its counter and released what the counter releases. -/
def State.counted (s : State) (a : Site) (n : Fin 16) (b : Word) : State := ((s.issued a).bump a n b).release a n b.toNat

section
variable {s : State} {a : Site} {p : Pred} {d k rb : Fin 32} {imm : Word}

theorem State.counted_eq (s : State) (a : Site) (n : Fin 16) (b : Word) : ∃ l, s.counted a n b =
    { (s.tookTurn a).setCtx a { (s.ctxAt a).next with c := (s.ctxAt a).c.set n ((s.ctxAt a).c[n] + b) } with bufs := l } := by
  obtain ⟨l, hl⟩ := ((s.issued a).bump a n b).release_bufs_only a n b.toNat
  refine ⟨l, ?_⟩
  rw [State.counted, hl, State.bump, State.ctxAt_issued, State.issued, State.setCtx_setCtx]
  rfl

theorem State.counted_releasing_nothing {n : Fin 16} (b : Word) (hnone : s.releasedBy a n = []) : s.counted a n b =
    (s.tookTurn a).setCtx a { (s.ctxAt a).next with c := (s.ctxAt a).c.set n ((s.ctxAt a).c[n] + b) } := by
  have hnone' : ((s.issued a).bump a n b).releasedBy a n = [] := hnone
  rw [State.counted, State.release, hnone', List.foldl_nil, State.bump, State.ctxAt_issued, State.issued, State.setCtx_setCtx]
  rfl

@[simp] theorem State.relBinding_counted (n m : Fin 16) (b : Word) : (s.counted a n b).relBinding a m = s.relBinding a m := by
  obtain ⟨l, hl⟩ := s.counted_eq a n b
  rw [hl]
  rfl

/-- A CINC that frees more slots than are occupied faults and is not executed. -/
theorem execCinc_over (h : Issues s a p)
    (hover : s.overRelease a (subCounter k) ((s.ctxAt a).greg rb + imm).toNat = true) :
    execCinc a p k rb imm s = .next ((s.issued a).faultCtx 0x6010 a.ctx [a.core, (s.ctxAt a).pc.toNat]).pumpAll := by
  have hover' : (s.issued a).overRelease a (subCounter k) ((s.ctxAt a).next.b rb imm).toNat = true := hover
  rw [execCinc, coreOut_next _ h.core, issue_next h]
  simp only [State.ctxAt_issued, hover', if_true]

/-- Any other CINC counts, and then releases sample slots if its counter is bound to a sample table. -/
theorem execCinc_counts (h : Issues s a p)
    (hroom : s.overRelease a (subCounter k) ((s.ctxAt a).greg rb + imm).toNat = false) :
    let t := s.counted a (subCounter k) ((s.ctxAt a).greg rb + imm)
    execCinc a p k rb imm s =
      .next ((s.relBinding a (subCounter k)).elim t fun r => t.releaseSamples r ((s.ctxAt a).greg rb + imm).toNat) := by
  intro t
  have hroom' : (s.issued a).overRelease a (subCounter k) ((s.ctxAt a).next.b rb imm).toNat = false := hroom
  have hbind : (((s.issued a).bump a (subCounter k) ((s.ctxAt a).next.b rb imm)).release a (subCounter k)
      ((s.ctxAt a).next.b rb imm).toNat).relBinding a (subCounter k) = s.relBinding a (subCounter k) := State.relBinding_counted ..
  rw [execCinc, coreOut_next _ h.core, issue_next h]
  simp only [State.ctxAt_issued, hroom', hbind, Bool.false_eq_true, if_false]
  cases s.relBinding a (subCounter k) <;> rfl

end

/-! ## Waits (R126, R129, R344, R345, R372) -/

section
variable {s : State} {a : Site} {p : Pred} {k rb : Fin 32} {imm : Word} {w : WaitFor} {pc : BitVec 12}

theorem State.waitMet_counter (m : Fin 16) (v : Word) :
    s.waitMet a (.counter m v) = decide (((s.ctxAt a).c[m] - v).toNat < 2 ^ 31) := by
  have hbeat : (WaitFor.counter m v == WaitFor.beat s.beat) = false := rfl
  rw [State.waitMet, hbeat, Bool.false_and, Bool.not_false, Bool.and_true]
  rfl

theorem State.waitMet_beat (target : Nat) :
    s.waitMet a (.beat target) = true ↔ target < s.beat ∨ target = s.beat ∧ s.actionDue a.ctx = false := by
  have hbeat : (WaitFor.beat target == WaitFor.beat s.beat) = decide (target = s.beat) := by simp [beq_eq_decide]
  rw [State.waitMet, hbeat]
  rcases Nat.lt_trichotomy target s.beat with hlt | heq | hgt
  · simp [State.waitTrue, hlt, hlt.le, hlt.ne]
  · simp [State.waitTrue, heq]
  · simp [State.waitTrue, hgt.not_gt, hgt.not_ge, hgt.ne']

theorem State.waitOn_met (h : s.waitMet a w = true) : s.waitOn a pc w = s := by rw [State.waitOn, h]; rfl

theorem State.waitOn_halted (h : (s.ctxAt a).halted = true) : s.waitOn a pc w = s := by rw [State.waitOn, h, Bool.or_true]; rfl

theorem State.waitOn_waits (hmet : s.waitMet a w = false) (hlive : (s.ctxAt a).halted = false) :
    s.waitOn a pc w = s.setCtx a { s.ctxAt a with wait := some ⟨w, s.beat⟩, pc := pc } := by
  rw [State.waitOn, hmet, hlive]; rfl

/-- A WAIT on a LOCAL counter waits where it stands. -/
theorem execWait_local (h : Issues s a p) (hlocal : s.isRemote a.ctx (subCounter k) = false) :
    execWait a p k rb imm s =
      .next ((s.issued a).waitOn a (s.ctxAt a).pc (.counter (subCounter k) ((s.ctxAt a).greg rb + imm))) := by
  have hlocal' : (s.issued a).isRemote a.ctx (subCounter k) = false := hlocal
  rw [execWait, coreOut_next _ h.core, issue_next h]
  simp only [hlocal', Bool.false_eq_true, if_false]
  rfl

/-- A WAIT on a REMOTE counter is a tile boundary first. -/
theorem execWait_remote (h : Issues s a p) (hremote : s.isRemote a.ctx (subCounter k) = true) :
    execWait a p k rb imm s =
      .next ((((s.issued a).boundary a true).pump a.core).waitOn a (s.ctxAt a).pc (.counter (subCounter k) ((s.ctxAt a).greg rb + imm))) := by
  have hremote' : (s.issued a).isRemote a.ctx (subCounter k) = true := hremote
  rw [execWait, coreOut_next _ h.core, issue_next h]
  simp only [hremote', if_true]
  rfl

theorem execWaitSatisfied_pending {x : WaitSt} (hcore : a.core < Config.numCores) (hwait : (s.ctxAt a).wait = some x) :
    execWaitSatisfied a s =
      .next (if s.waitMet a x.what then s.setCtx a { s.ctxAt a with wait := none, pc := (s.ctxAt a).pc + 1 } else s) := by
  simp only [execWaitSatisfied, hwait]
  exact coreOut_next _ hcore

theorem execWaitSatisfied_none (hcore : a.core < Config.numCores) (hwait : (s.ctxAt a).wait = none) : execWaitSatisfied a s = .next s := by
  simp only [execWaitSatisfied, hwait]
  exact coreOut_next _ hcore

/-- Whether a wait is exempt from the wait limit (R291). -/
def State.exempt (s : State) (a : Site) : WaitFor → Bool
  | .counter c _ => s.exchBound a c
  | .beat _ => false

/-- A pending wait past its limit whose condition does not hold faults, unless it is exempt. -/
theorem coreWaitExpired_pending {x : WaitSt} {r : CtxRec} (hcore : a.core < Config.numCores) (hrec : s.ctxRec a.ctx = some r)
    (hwait : (s.ctxAt a).wait = some x) :
    coreWaitExpired a s = .next (if s.exempt a x.what = false ∧ x.since + r.waitLimit ≤ s.beat ∧ s.waitTrue a x.what = false then
      (s.faultCtx 0x6003 a.ctx [a.core, (s.ctxAt a).pc.toNat]).pumpAll else s) := by
  simp only [coreWaitExpired, hwait, hrec]
  rw [coreOut_next _ hcore]
  refine congrArg _ (if_congr ?_ rfl rfl)
  obtain ⟨what, since⟩ := x
  cases what <;> simp [State.exempt, and_assoc]

end

/-- A CINC that counts leaves its counter increased, and memory as it was if it releases no sample slots. -/
theorem execCinc_result {s : State} {a : Site} {p : Pred} {k rb : Fin 32} {imm : Word} (h : Issues s a p)
    (hroom : s.overRelease a (subCounter k) ((s.ctxAt a).greg rb + imm).toNat = false) :
    ∃ t, execCinc a p k rb imm s = .next t ∧
      t.ctxAt a = { (s.ctxAt a).next with
        c := (s.ctxAt a).c.set (subCounter k) ((s.ctxAt a).c[subCounter k] + ((s.ctxAt a).greg rb + imm)) } ∧
      t.flags = s.flags ∧ (s.relBinding a (subCounter k) = none → t.mem = s.mem) := by
  obtain ⟨l, hl⟩ := s.counted_eq a (subCounter k) ((s.ctxAt a).greg rb + imm)
  refine ⟨_, execCinc_counts h hroom, ?_⟩
  rw [hl]
  cases hbind : s.relBinding a (subCounter k) with
  | none => exact ⟨State.ctxAt_setCtx .., rfl, fun _ => rfl⟩
  | some r =>
    rw [Option.elim_some]
    obtain ⟨l', m, hrel⟩ := State.releaseSamples_samples_only { (s.tookTurn a).setCtx a { (s.ctxAt a).next with
      c := (s.ctxAt a).c.set (subCounter k) ((s.ctxAt a).c[subCounter k] + ((s.ctxAt a).greg rb + imm)) } with bufs := l }
      r ((s.ctxAt a).greg rb + imm).toNat
    rw [hrel]
    exact ⟨State.ctxAt_setCtx .., rfl, nofun⟩

/-- Settles O12: a CINC by what its counter releases, and a wait by whether its condition holds. -/
theorem counterAndWaitResults : Obligations.CounterAndWaitResults := by
  unfold Obligations.CounterAndWaitResults
  refine ⟨fun s a p d k rb imm h => ?issue, fun s a m v target since hcore => ?satisfied, fun s a m v target since r hcore hrec => ?expired⟩
  case issue =>
    refine ⟨regOp_next h fun x => { x with c := x.c.set (subCounter k) (x.b rb imm) }, regOp_next h fun x => x.setG d x.c[subCounter k],
      execCinc_result h, fun hnone hbind => ?alone, execCinc_over h, fun hlocal => ?unshared, fun hremote => ?remote⟩
    case alone =>
      have hroom : s.overRelease a (subCounter k) ((s.ctxAt a).greg rb + imm).toNat = false := by rw [State.overRelease, hnone]; rfl
      refine (execCinc_counts h hroom).trans ?_
      rw [hbind, Option.elim_none, State.counted_releasing_nothing _ hnone]
      rfl
    case unshared =>
      have hexec : exec (.wait a p k rb imm) s = _ := execWait_local h hlocal
      have hctx : ∀ c : Fin 16, ((s.issued a).ctxAt a).c[c] = (s.ctxAt a).c[c] := fun c => by rw [State.ctxAt_issued]; rfl
      refine ⟨fun hmet => ?_, fun hunmet => ?_⟩
      · rw [hexec, State.waitOn_met (by rw [State.waitMet_counter, hctx]; exact decide_eq_true hmet)]
        rfl
      · rw [hexec, State.waitOn_waits (by rw [State.waitMet_counter, hctx]; exact decide_eq_false hunmet.not_gt)
          (by rw [State.ctxAt_issued]; exact h.live), State.ctxAt_issued, State.issued, State.setCtx_setCtx]
        rfl
    case remote =>
      have hexec : exec (.wait a p k rb imm) s = _ := execWait_remote h hremote
      rw [hexec]
      refine ⟨fun hmet => ?_, fun hunmet hlive => ?_, fun hhalted => ?_⟩
      · rw [State.waitOn_met (by rw [State.waitMet_counter]; exact decide_eq_true hmet)]
      · rw [State.waitOn_waits (by rw [State.waitMet_counter]; exact decide_eq_false hunmet.not_gt) hlive]
      · rw [State.waitOn_halted hhalted]
  case satisfied =>
    refine ⟨fun hwait => ?counter, fun hwait => ?beat, execWaitSatisfied_none hcore⟩
    all_goals
      have hexec : exec (.waitSatisfied a) s = _ := execWaitSatisfied_pending hcore hwait
      rw [hexec]
    case counter =>
      rw [State.waitMet_counter]
      exact ⟨fun hmet => by rw [if_pos (decide_eq_true hmet)], fun hunmet => by rw [if_neg (by simpa using hunmet)]⟩
    case beat =>
      refine ⟨fun hmet => by rw [if_pos ((State.waitMet_beat _).mpr hmet)], fun hunmet => ?_⟩
      have hno : ¬ (target < s.beat ∨ target = s.beat ∧ s.actionDue a.ctx = false) := by
        rintro (hpast | ⟨hnow, hdone⟩)
        · omega
        · simp [hnow, hdone] at hunmet
      rw [if_neg (mt (State.waitMet_beat _).mp hno)]
  case expired =>
    refine ⟨fun hwait => ?beat, fun hwait => ?counter⟩
    all_goals
      have hexec : exec (.waitExpired (some a)) s = _ := coreWaitExpired_pending hcore hrec hwait
      rw [hexec]
    case beat =>
      refine ⟨fun hlimit hahead => ?_, fun hkeep => ?_⟩
      · rw [if_pos ⟨rfl, hlimit, decide_eq_false hahead.not_ge⟩]
      · rw [if_neg]
        rintro ⟨-, hlimit, hahead⟩
        exact hkeep.elim hlimit.not_gt (of_decide_eq_false hahead)
    case counter =>
      refine ⟨fun hlimit hunmet hbound => ?_, fun hkeep => ?_⟩
      · rw [if_pos ⟨hbound, hlimit, decide_eq_false hunmet.not_gt⟩]
      · rw [if_neg]
        rintro ⟨hbound, hlimit, hunmet⟩
        rcases hkeep with hearly | hmet | hexch
        · exact hlimit.not_gt hearly
        · exact of_decide_eq_false hunmet hmet
        · exact Bool.noConfusion (hexch.symm.trans hbound)

end Sys2Proof.Machine

namespace Sys2Proof.Machine

/-! ## Tile boundaries (R130, R338, R344) -/

section
variable {s : State} {a : Site} {p : Pred} {ra rb : Fin 32} {imm : Word}

theorem execTend_next (h : Issues s a p) : execTend a p s = .next (((s.issued a).boundary a false).pump a.core) := by
  rw [execTend, coreOut_next _ h.core, issue_next h]

/-- The state in which the program of context a has ended: its entry waits for its engine instructions. -/
def State.progEnded (s : State) (a : Site) : State :=
  s.setCtx a { s.ctxAt a with running := false, ending := (s.ctxAt a).ending ++ [((s.ctxAt a).entryNo, (s.ctxAt a).tag)] }

theorem execEnd_next (h : Issues s a p) :
    execEnd a p s = .next (((((s.issued a).boundary a false).progEnded a).endEntries a).pump a.core) := by
  rw [execEnd, coreOut_next _ h.core, issue_next h]
  rfl

theorem execWaitb_next (h : Issues s a p) :
    execWaitb a p ra rb imm s = .next ((((s.issued a).boundary a true).pump a.core).waitOn a (s.ctxAt a).pc
      (.beat ((s.ctxAt a).waitbTarget ra rb imm))) := by
  rw [execWaitb, coreOut_next _ h.core, issue_next h]

/-- A wait for a beat that has not come is not met. -/
theorem State.waitMet_beat_false {target : Nat} (h : ¬ (target < s.beat ∨ target = s.beat ∧ s.actionDue a.ctx = false)) :
    s.waitMet a (.beat target) = false :=
  Bool.eq_false_iff.mpr (mt (State.waitMet_beat target).mp h)

end

/-! ### Boundaries on a core with no incomplete engine instruction -/

/-- Leaving engines one after another leaves each of them without an owner and the others as they were. -/
theorem CoreSt.foldl_leave_own (l : List (Fin 3 × Bool)) (k : CoreSt) (e : Fin 3) :
    (l.foldl (fun q x => q.leave x.1) k).own[e] = if e ∈ l.map Prod.fst then none else k.own[e] := by
  induction l generalizing k with
  | nil => rfl
  | cons x rest ih =>
    rw [List.foldl_cons, ih, List.map_cons]
    by_cases hx : e = x.1
    · subst hx
      simp [CoreSt.leave]
    · have hv : x.1.val ≠ e.val := fun h => hx (Fin.ext h.symm)
      simp [CoreSt.leave, hx, Vector.getElem_set_ne _ _ hv]

@[simp] theorem CoreSt.foldl_leave_jobs (l : List (Fin 3 × Bool)) (k : CoreSt) : (l.foldl (fun q x => q.leave x.1) k).jobs = k.jobs := by
  induction l generalizing k with
  | nil => rfl
  | cons x rest ih => exact ih _

theorem CoreSt.queued_no_jobs {k : CoreSt} (h : k.jobs = []) (c : Fin 8) (e : Fin 3) : k.queued c e = false := by
  simp [CoreSt.queued, h]

theorem State.grant_no_jobs {s : State} {n : Nat} (h : (s.core n).jobs = []) : s.grant n = s := by
  simp [State.grant, CoreSt.contenders_no_jobs h]

/-- A core from which context c has left the engines of a list that it owns. -/
def CoreSt.released (k : CoreSt) (c : Fin 8) (es : List (Fin 3 × Bool)) : CoreSt :=
  (es.filter fun x => k.own[x.1] == some c).foldl (fun q x => q.leave x.1) k

@[simp] theorem CoreSt.released_jobs (k : CoreSt) (c : Fin 8) (es : List (Fin 3 × Bool)) : (k.released c es).jobs = k.jobs :=
  CoreSt.foldl_leave_jobs ..
@[simp] theorem CoreSt.released_ctx (k : CoreSt) (c : Fin 8) (es : List (Fin 3 × Bool)) : (k.released c es).ctx = k.ctx :=
  CoreSt.foldl_leaveFst_ctx ..

theorem CoreSt.released_own (k : CoreSt) (c : Fin 8) (remote : Bool) (e : Fin 3) :
    (k.released c ((List.finRange 3).map fun e => (e, remote))).own[e] = if k.own[e] = some c then none else k.own[e] := by
  rw [CoreSt.released, CoreSt.foldl_leave_own]
  simp

/-- With an empty queue no engine that is left passes on, and nothing is counted. -/
theorem State.releaseEngines_no_jobs {s : State} {n : Nat} (c : Fin 8) (es : List (Fin 3 × Bool)) (tag : EntryTag) (h : (s.core n).jobs = []) :
    s.releaseEngines n c es tag = s ∧ (s.core n).released c es = s.core n ∨
      s.releaseEngines n c es tag = s.setCore n ((s.core n).released c es) := by
  unfold State.releaseEngines
  by_cases hmine : (es.filter fun x => (s.core n).own[x.1] == some c).isEmpty
  · refine .inl ⟨by simp only [hmine, if_true], ?_⟩
    rw [CoreSt.released, List.isEmpty_iff.mp hmine, List.foldl_nil]
  · refine .inr ?_
    simp only [hmine, if_false]
    rw [State.grant_no_jobs (by rw [State.core_setCore]; exact (CoreSt.released_jobs ..).trans h)]
    refine List.foldl_fixed' (fun x => ?_) _
    simp only [CoreSt.queued_no_jobs h, Bool.and_false, Bool.false_eq_true, if_false]
    cases x.2 with
    | true => simp
    | false => rw [if_neg Bool.false_ne_true]; split <;> rfl

/-- A boundary on a core with an empty queue leaves the engines of its context, and changes nothing else. -/
theorem State.boundary_no_jobs {s : State} {a : Site} (remote : Bool) (h : (s.core a.core).jobs = []) :
    s.boundary a remote = s.setCore a.core ((s.core a.core).released a.ctx ((List.finRange 3).map fun e => (e, remote))) := by
  have hcore : ({ s.core a.core with jobs := [] } : CoreSt) = s.core a.core := by rw [← h]
  have hall : ((List.finRange 3).filter fun _ => true) = List.finRange 3 := List.filter_true _
  simp only [State.boundary, h, List.zipIdx_nil, List.filter_nil, List.map_nil, List.getLast?_nil, Option.map_none, beq_self_eq_true, hcore, hall]
  rcases State.releaseEngines_no_jobs (s := s.setCore a.core (s.core a.core)) a.ctx ((List.finRange 3).map fun e => (e, remote)) (s.ctxAt a).tag
      (by rw [State.core_setCore]; exact h) with ⟨hsame, hnone⟩ | hleft
  · rw [State.core_setCore] at hnone
    rw [hsame, hnone]
  · rw [State.core_setCore, State.setCore_setCore] at hleft
    exact hleft

/-- What a boundary on a core with an empty queue leaves, with context a as it is to be after the instruction. -/
structure Freed (s : State) (a : Site) (y : CtxSt) (t : State) : Prop where
  ctx : t.ctxAt a = y
  mem : t.mem = s.mem
  flags : t.flags = s.flags
  jobs : (t.core a.core).jobs = []
  own : ∀ e : Fin 3, (t.core a.core).own[e] = if (s.core a.core).own[e] = some a.ctx then none else (s.core a.core).own[e]

section
variable {s : State} {a : Site} {x y : CtxSt} {t : State}

theorem Freed.setCtx (h : Freed s a x t) (y : CtxSt) : Freed s a y (t.setCtx a y) where
  ctx := State.ctxAt_setCtx ..
  mem := h.mem
  flags := h.flags
  jobs := (State.jobs_setCtx ..).trans h.jobs
  own e := by rw [State.own_setCtx]; exact h.own e

theorem Freed.parts (h : Freed s a y t) : t.ctxAt a = y ∧ t.mem = s.mem ∧ t.flags = s.flags ∧ (t.core a.core).jobs = [] ∧
    (∀ e : Fin 3, (t.core a.core).own[e] = if (s.core a.core).own[e] = some a.ctx then none else (s.core a.core).own[e]) :=
  ⟨h.ctx, h.mem, h.flags, h.jobs, h.own⟩

theorem boundary_freed (remote : Bool) (h : (s.core a.core).jobs = []) : Freed s a (s.ctxAt a).next ((s.issued a).boundary a remote) := by
  have hjobs : ((s.issued a).core a.core).jobs = [] := (State.jobs_setCtx ..).trans h
  have hown : ((s.issued a).core a.core).own = (s.core a.core).own := State.own_setCtx ..
  rw [State.boundary_no_jobs remote hjobs]
  refine ⟨?ctx, rfl, rfl, ?jobs, fun e => ?own⟩
  case ctx =>
    rw [State.ctxAt, State.core_setCore, CoreSt.released_ctx]
    exact State.ctxAt_issued s a
  case jobs => rw [State.core_setCore, CoreSt.released_jobs, hjobs]
  case own => rw [State.core_setCore, CoreSt.released_own, hown]

/-- A boundary on a core with an empty queue changes neither the beat count nor the actions that are due in it. -/
theorem boundary_beat (remote : Bool) (h : (s.core a.core).jobs = []) :
    ((s.issued a).boundary a remote).beat = s.beat ∧ ((s.issued a).boundary a remote).actionDue a.ctx = s.actionDue a.ctx := by
  have hjobs : ((s.issued a).core a.core).jobs = [] := (State.jobs_setCtx ..).trans h
  rw [State.boundary_no_jobs remote hjobs]
  exact ⟨rfl, rfl⟩

/-- With an empty queue the entries of a context whose END has executed complete; one of no unit has no further effect. -/
theorem State.endEntries_plain {m : Nat} (hjobs : (s.core a.core).jobs = []) (hend : (s.ctxAt a).ending = [(m, .plain)]) :
    s.endEntries a = s.setCtx a { s.ctxAt a with ending := [] } := by
  have hctx : (s.core a.core).ctx[a.ctx] = s.ctxAt a := rfl
  simp only [State.endEntries, hctx, hend, hjobs]
  rfl

end

section
variable {s : State} {a : Site} {p : Pred} {ra rb : Fin 32} {imm : Word}

theorem execTend_freed (h : Issues s a p) (hjobs : (s.core a.core).jobs = []) :
    ∃ t, execTend a p s = .next t ∧ Freed s a (s.ctxAt a).next t := by
  have hfreed := boundary_freed false hjobs
  refine ⟨_, execTend_next h, ?_⟩
  rwa [State.pump_no_jobs hfreed.jobs]

theorem execEnd_freed (h : Issues s a p) (hjobs : (s.core a.core).jobs = []) (htag : (s.ctxAt a).tag = .plain) (hend : (s.ctxAt a).ending = []) :
    ∃ t, execEnd a p s = .next t ∧ Freed s a { (s.ctxAt a).next with running := false } t := by
  have hfreed := boundary_freed false hjobs
  have hended : ((s.issued a).boundary a false).progEnded a = ((s.issued a).boundary a false).setCtx a
      { (s.ctxAt a).next with running := false, ending := [((s.ctxAt a).entryNo, .plain)] } := by
    have hend' : (s.ctxAt a).next.ending = [] := hend
    have htag' : (s.ctxAt a).next.tag = .plain := htag
    rw [State.progEnded, hfreed.ctx, hend', htag']
    rfl
  have hfreed' := hfreed.setCtx { (s.ctxAt a).next with running := false, ending := [((s.ctxAt a).entryNo, .plain)] }
  have hentries := State.endEntries_plain hfreed'.jobs (by rw [hfreed'.ctx])
  rw [hfreed'.ctx, State.setCtx_setCtx] at hentries
  have hfinal := hfreed.setCtx { (s.ctxAt a).next with running := false, ending := [] }
  refine ⟨_, execEnd_next h, ?_⟩
  rw [hended, hentries, State.pump_no_jobs hfinal.jobs]
  have hsame : ({ (s.ctxAt a).next with running := false, ending := [] } : CtxSt) = { (s.ctxAt a).next with running := false } := by
    rw [← hend]
    rfl
  rwa [hsame] at hfinal ⊢

theorem execWaitb_come_freed (h : Issues s a p) (hjobs : (s.core a.core).jobs = [])
    (hcome : (s.ctxAt a).waitbTarget ra rb imm < s.beat ∨
      (s.ctxAt a).waitbTarget ra rb imm = s.beat ∧ s.actionDue a.ctx = false) :
    ∃ t, execWaitb a p ra rb imm s = .next t ∧ Freed s a (s.ctxAt a).next t := by
  have hfreed := boundary_freed true hjobs
  obtain ⟨hbeat, hdue⟩ := boundary_beat true hjobs
  refine ⟨_, execWaitb_next h, ?_⟩
  rwa [State.pump_no_jobs hfreed.jobs, State.waitOn_met]
  rwa [State.waitMet_beat, hbeat, hdue]

theorem execWaitb_ahead_freed (h : Issues s a p) (hjobs : (s.core a.core).jobs = [])
    (hahead : ¬ ((s.ctxAt a).waitbTarget ra rb imm < s.beat ∨
      (s.ctxAt a).waitbTarget ra rb imm = s.beat ∧ s.actionDue a.ctx = false)) :
    ∃ t, execWaitb a p ra rb imm s = .next t ∧ Freed s a { s.ctxAt a with
      wait := some ⟨.beat ((s.ctxAt a).waitbTarget ra rb imm), s.beat⟩ } t := by
  have hfreed := boundary_freed true hjobs
  obtain ⟨hbeat, hdue⟩ := boundary_beat true hjobs
  have hlive : (((s.issued a).boundary a true).ctxAt a).halted = false := by rw [hfreed.ctx]; exact h.live
  refine ⟨_, execWaitb_next h, ?_⟩
  rw [State.pump_no_jobs hfreed.jobs, State.waitOn_waits (State.waitMet_beat_false (by rwa [hbeat, hdue])) hlive, hfreed.ctx, hbeat]
  exact hfreed.setCtx _

end

/-! ## The start queue (R102) -/

section
variable {s : State} {a : Site} {e : StartEntry}

/-- A context that takes an entry: its arguments in g1 to g4, the entry's index, and an empty loop stack. -/
def CtxSt.started (x : CtxSt) (e : StartEntry) (rest : List StartEntry) : CtxSt :=
  { (((x.setG 1 (e.args.getD 0 0)).setG 2 (e.args.getD 1 0)).setG 3 (e.args.getD 2 0)).setG 4 (e.args.getD 3 0) with
    pc := e.entry, loops := [], queue := rest, running := true, tag := e.tag, entryNo := x.entryNo + 1 }

theorem CtxSt.greg_started (x : CtxSt) (e : StartEntry) (rest : List StartEntry) (r : Fin 32) :
    (x.started e rest).greg r = if 1 ≤ r.val ∧ r.val ≤ 4 then e.args.getD (r.val - 1) 0 else x.greg r := by
  have hset : (x.started e rest).greg r =
    ((((x.setG 1 (e.args.getD 0 0)).setG 2 (e.args.getD 1 0)).setG 3 (e.args.getD 2 0)).setG 4 (e.args.getD 3 0)).greg r := rfl
  rw [hset]
  by_cases hargs : 1 ≤ r.val ∧ r.val ≤ 4
  · have hr : r = 1 ∨ r = 2 ∨ r = 3 ∨ r = 4 := by simp only [Fin.ext_iff]; omega
    rw [if_pos hargs]
    rcases hr with rfl | rfl | rfl | rfl <;> simp [CtxSt.greg_setG]
  · have hr : r ≠ 1 ∧ r ≠ 2 ∧ r ≠ 3 ∧ r ≠ 4 := by simp only [ne_eq, Fin.ext_iff]; omega
    obtain ⟨h1, h2, h3, h4⟩ := hr
    rw [if_neg hargs, CtxSt.greg_setG_other _ _ h4, CtxSt.greg_setG_other _ _ h3, CtxSt.greg_setG_other _ _ h2,
      CtxSt.greg_setG_other _ _ h1]

theorem execStartQueueDequeue_idle (hcore : a.core < Config.numCores)
    (h : (s.ctxAt a).running = true ∨ (s.ctxAt a).halted = true ∨ (s.ctxAt a).queue = []) : execStartQueueDequeue a s = .next s := by
  refine (coreOut_next _ hcore).trans (congrArg _ ?_)
  dsimp only
  split
  · rfl
  next hfree =>
    rw [Bool.or_eq_true, not_or] at hfree
    have hqueue : (s.ctxAt a).queue = [] := (h.resolve_left hfree.1).resolve_left hfree.2
    rw [hqueue]

/-- The oldest entry starts; a core of the student counts its context as busy. -/
theorem execStartQueueDequeue_takes {rest : List StartEntry} (hcore : a.core < Config.numCores) (hrun : (s.ctxAt a).running = false)
    (hlive : (s.ctxAt a).halted = false) (hqueue : (s.ctxAt a).queue = e :: rest) :
    ∃ busy, execStartQueueDequeue a s = .next { s.setCtx a ((s.ctxAt a).started e rest) with busy } := by
  simp only [execStartQueueDequeue, hrun, hlive, hqueue, Bool.or_self, Bool.false_eq_true, if_false]
  rw [coreOut_next _ hcore]
  split
  · exact ⟨_, rfl⟩
  · exact ⟨s.busy, rfl⟩

variable {l r : List (Site × StartEntry)}

/-- The oldest held entry of a context is the first in the list. -/
theorem findIdx?_held (hl : ∀ h ∈ l, h.1 ≠ a) : (l ++ (a, e) :: r).findIdx? (fun h => h.1 == a) = some l.length := by
  have hnone : l.findIdx? (fun h => h.1 == a) = none := by simpa [List.findIdx?_eq_none_iff] using hl
  rw [List.findIdx?_append, hnone]
  simp [List.findIdx?_cons]

theorem execStartQueueAppendHeld_held (hcore : a.core < Config.numCores) (hheld : s.heldEntries = l ++ (a, e) :: r) (hl : ∀ h ∈ l, h.1 ≠ a) :
    execStartQueueAppendHeld a s = .next (if (s.ctxAt a).queue.length < 16 then
      ({ s with heldEntries := l ++ r }).setCtx a { s.ctxAt a with queue := (s.ctxAt a).queue ++ [e] } else s) := by
  have hget : (l ++ (a, e) :: r)[l.length]? = some (a, e) := by simp
  have herase : (l ++ (a, e) :: r).eraseIdx l.length = l ++ r := by simp [List.eraseIdx_append_of_length_le]
  simp only [execStartQueueAppendHeld, hheld, findIdx?_held hl, hget, herase]
  exact coreOut_next _ hcore

end

/-- Settles O16: the boundary instructions on any core, on a core with an empty queue, and the start queue. -/
theorem programBoundaryResults : Obligations.ProgramBoundaryResults := by
  unfold Obligations.ProgramBoundaryResults
  refine ⟨fun s a p ra rb imm h => ⟨execTend_next h, execEnd_next h, fun hcome => ?come, fun hahead hlive => ?ahead, fun hhalted => ?halted,
    fun hjobs => ?freed⟩, fun s a e rest l r hcore => ⟨fun hrun hlive hqueue => ?takes, execStartQueueDequeue_idle hcore, fun hheld hl => ?held⟩⟩
  case come => exact (execWaitb_next h).trans (congrArg _ (State.waitOn_met ((State.waitMet_beat _).mpr hcome)))
  case ahead => exact (execWaitb_next h).trans (congrArg _ (State.waitOn_waits (State.waitMet_beat_false hahead) hlive))
  case halted => exact (execWaitb_next h).trans (by rw [State.waitOn_halted hhalted])
  case freed =>
    refine ⟨?_, fun htag hend => ?_, fun hcome => ?_, fun hahead => ?_⟩
    · obtain ⟨t, hexec, ht⟩ := execTend_freed h hjobs
      exact ⟨t, hexec, ht.parts⟩
    · obtain ⟨t, hexec, ht⟩ := execEnd_freed h hjobs htag hend
      exact ⟨t, hexec, ht.parts⟩
    · obtain ⟨t, hexec, ht⟩ := execWaitb_come_freed h hjobs hcome
      exact ⟨t, hexec, ht.parts⟩
    · obtain ⟨t, hexec, ht⟩ := execWaitb_ahead_freed h hjobs hahead
      exact ⟨t, hexec, ht.parts⟩
  case takes =>
    obtain ⟨busy, hexec⟩ := execStartQueueDequeue_takes hcore hrun hlive hqueue
    have hctx : ({ s.setCtx a ((s.ctxAt a).started e rest) with busy } : State).ctxAt a = (s.ctxAt a).started e rest := State.ctxAt_setCtx ..
    refine ⟨_, hexec, ?_⟩
    rw [hctx]
    exact ⟨rfl, rfl, rfl, rfl, rfl, fun r => CtxSt.greg_started .., by simp [CtxSt.started], by simp [CtxSt.started], by simp [CtxSt.started],
      by simp [CtxSt.started], rfl, rfl⟩
  case held =>
    have hexec : exec (.startQueueAppendHeld a) s = _ := execStartQueueAppendHeld_held hcore hheld hl
    rw [hexec]
    exact ⟨fun hroom => ⟨_, congrArg _ (if_pos hroom), rfl, State.ctxAt_setCtx .., rfl⟩, fun hfull => by rw [if_neg hfull.not_gt]⟩

end Sys2Proof.Machine

namespace Sys2Proof.Machine

/-! ## Rows that an operation writes leave the cores as they are (R85 to R91, R137 to R158) -/

section
variable {α β : Type} {s : State}

/-- A fold over a pair of a state and a value keeps the cores when each step does. -/
theorem foldl_fst_cores {f : State × β → α → State × β} (hf : ∀ q x, (f q x).1.cores = q.1.cores) (l : List α) (q : State × β) :
    (l.foldl f q).1.cores = q.1.cores := by
  induction l generalizing q with
  | nil => rfl
  | cons x rest ih => exact (ih _).trans (hf q x)

theorem foldl_cores {f : State → α → State} (hf : ∀ t x, (f t x).cores = t.cores) (l : List α) (t : State) : (l.foldl f t).cores = t.cores := by
  induction l generalizing t with
  | nil => rfl
  | cons x rest ih => exact (ih _).trans (hf t x)

@[simp] theorem State.capture_cores (cap : Option CapKey) (xs : List Num) : (s.capture cap xs).cores = s.cores := by
  unfold State.capture
  split <;> rfl

@[simp] theorem State.putRow_cores (n : Nat) (td : TileDesc) (r : Nat) (els : List (Nat × Nat)) : (s.putRow n td r els).cores = s.cores := rfl
@[simp] theorem State.putScale_cores (n : Nat) (td : TileDesc) (r b v : Nat) : (s.putScale n td r b v).cores = s.cores := rfl

@[simp] theorem State.storeRow_cores (n : Nat) (td : TileDesc) (sr : SrCtx) (r : Nat) (vals : List (Nat × Num)) :
    (s.storeRow n td sr r vals).1.cores = s.cores := by
  unfold State.storeRow
  split
  · exact foldl_fst_cores (fun q b => by simp) _ _
  · simp

theorem State.mrdRows_cores (n : Nat) (c : TileDesc) (step : Nat) (set : List (List RawRec)) (who : Fin 8 × Nat) :
    (s.mrdRows n c step set who).1.cores = s.cores :=
  foldl_fst_cores (fun q i => by simp) _ _

theorem State.mrdpRows_cores (n : Nat) (a c : TileDesc) (set : List (List RawRec)) : (s.mrdpRows n a c set).1.cores = s.cores :=
  foldl_fst_cores (fun q i => by simp) _ _

theorem State.msavRows_cores (n : Nat) (c : TileDesc) (set : List (List RawRec)) : (s.msavRows n c set).cores = s.cores :=
  foldl_cores (fun t i => foldl_cores (fun t j => by simp) _ t) _ s

theorem State.vopRows_cores (n : Nat) (k : VKind) (d : TileDesc) (v : VArgs) (rows step : Nat) (who : Fin 8 × Nat) :
    (s.vopRows n k d v rows step who).1.cores = s.cores := by
  refine foldl_fst_cores (fun q i => ?_) _ _
  split
  · cases k <;> dsimp only <;> split <;> simp
  · simp

end

/-! ## The start of the only instruction of a core (R103, R337) -/

/-- The only incomplete instruction of core n is j, queued; its engines are free or its context's, and it has nothing to pay. -/
structure LoneQueued (s : State) (n : Nat) (j : EngJob) : Prop where
  jobs : (s.core n).jobs = [j]
  queued : j.phase = .queued
  cool : s.pwr.trip = false
  unmetered : s.meterCost j = 0
  free : ∀ e ∈ j.owns, (s.core n).own[e] = none ∨ (s.core n).own[e] = some j.ctx

/-- The state in which the engines that an instruction needs are its context's. -/
def State.granted (s : State) (n : Nat) (j : EngJob) : State :=
  if ∃ e ∈ j.owns, (s.core n).own[e] = none then s.setCore n (j.owns.foldl (fun q e => q.setOwn e j.ctx) (s.core n)) else s

section
variable {k : CoreSt} {j : EngJob}

theorem CoreSt.foldl_setOwn_own (l : List (Fin 3)) (k : CoreSt) (c : Fin 8) (e : Fin 3) :
    (l.foldl (fun q e => q.setOwn e c) k).own[e] = if e ∈ l then some c else k.own[e] := by
  induction l generalizing k with
  | nil => rfl
  | cons x rest ih =>
    rw [List.foldl_cons, ih]
    by_cases hx : e = x
    · subst hx
      simp [CoreSt.setOwn]
    · have hv : x.val ≠ e.val := fun h => hx (Fin.ext h.symm)
      simp [CoreSt.setOwn, hx, Vector.getElem_set_ne _ _ hv]

@[simp] theorem CoreSt.foldl_setOwn_jobs (l : List (Fin 3)) (k : CoreSt) (c : Fin 8) : (l.foldl (fun q e => q.setOwn e c) k).jobs = k.jobs := by
  induction l generalizing k with
  | nil => rfl
  | cons x rest ih => exact ih _

/-- The only contender of a core with one queued instruction is that instruction, while one of its engines is free. -/
theorem CoreSt.mem_contenders_lone (hjobs : k.jobs = [j]) (hq : j.phase = .queued)
    (hfree : ∀ e ∈ j.owns, k.own[e] = none ∨ k.own[e] = some j.ctx) (x : Contender) :
    x ∈ k.contenders ↔ x = ⟨j.ctx, j.owns⟩ ∧ ∃ e ∈ j.owns, k.own[e] = none := by
  have hhead : ∀ e ∈ j.owns, k.headIdx j.ctx e = some 0 := fun e he => by simp [CoreSt.headIdx, hjobs, he, List.findIdx?_cons]
  have hmem : x ∈ k.contenders ↔ ((∀ e ∈ j.owns, k.headIdx j.ctx e = some 0 ∧ (k.own[e] = none ∨ k.own[e] = some j.ctx)) ∧
      ∃ e ∈ j.owns, k.own[e] = none) ∧ ⟨j.ctx, j.owns⟩ = x := by
    simp [CoreSt.contenders, hjobs, hq]
  rw [hmem]
  constructor
  · rintro ⟨⟨-, hsome⟩, rfl⟩
    exact ⟨rfl, hsome⟩
  · rintro ⟨rfl, hsome⟩
    exact ⟨⟨fun e he => ⟨hhead e he, hfree e he⟩, hsome⟩, rfl⟩

theorem CoreSt.contenders_lone_none (hjobs : k.jobs = [j]) (hq : j.phase = .queued) (hown : ∀ e ∈ j.owns, k.own[e] = some j.ctx) :
    k.contenders = [] := by
  refine List.eq_nil_iff_forall_not_mem.mpr fun x hx => ?_
  obtain ⟨-, e, he, hnone⟩ := (CoreSt.mem_contenders_lone hjobs hq (fun e he => .inr (hown e he)) x).mp hx
  exact Option.some_ne_none _ ((hown e he).symm.trans hnone)

/-- A core with no contender passes no engine. -/
theorem State.grantOne_none (s : State) (h : k.contenders = []) : s.grantOne k = k := by
  simp [State.grantOne, h]

/-- All contenders being one, it takes what it needs. -/
theorem State.grantOne_one (s : State) {x : Contender} (hne : k.contenders ≠ []) (hall : ∀ y ∈ k.contenders, y = x) :
    s.grantOne k = x.need.foldl (fun q e => q.setOwn e x.ctx) k := by
  have hpick : ∀ f : Contender → Bool, (k.contenders.find? f).or k.contenders.head? = some x := fun f => by
    cases hfind : k.contenders.find? f with
    | some y => exact congrArg some (hall y (List.mem_of_find?_eq_some hfind))
    | none =>
      obtain ⟨y, rest, hcons⟩ := List.exists_cons_of_ne_nil hne
      rw [hcons]
      exact congrArg some (hall y (hcons ▸ List.mem_cons_self))
  simp only [State.grantOne, hpick]

end

section
variable {s : State} {n : Nat} {j : EngJob}

/-- The free engines pass to the context of the lone instruction. -/
theorem LoneQueued.grant (h : LoneQueued s n j) : s.grant n = s.granted n j := by
  have hmem := CoreSt.mem_contenders_lone h.jobs h.queued h.free
  unfold State.grant State.granted
  by_cases hsome : ∃ e ∈ j.owns, (s.core n).own[e] = none
  · have hne : (s.core n).contenders ≠ [] := List.ne_nil_of_mem ((hmem ⟨j.ctx, j.owns⟩).mpr ⟨rfl, hsome⟩)
    have hnone : (j.owns.foldl (fun q e => q.setOwn e j.ctx) (s.core n)).contenders = [] :=
      CoreSt.contenders_lone_none ((CoreSt.foldl_setOwn_jobs ..).trans h.jobs) h.queued
        fun e he => (CoreSt.foldl_setOwn_own ..).trans (if_pos he)
    rw [if_neg (by simpa using hne), if_pos hsome, s.grantOne_one hne fun y hy => ((hmem y).mp hy).1, s.grantOne_none hnone, s.grantOne_none hnone]
  · have hnone : (s.core n).contenders = [] := List.eq_nil_iff_forall_not_mem.mpr fun x hx => hsome ((hmem x).mp hx).2
    rw [if_pos (by simp [hnone]), if_neg hsome]

/-- Passing engines changes only who owns them. -/
theorem State.granted_ctx (s : State) (n : Nat) (j : EngJob) (m : Nat) : ((s.granted n j).core m).ctx = (s.core m).ctx := by
  unfold State.granted
  split
  · by_cases hm : m = n
    · subst hm; rw [State.core_setCore, CoreSt.foldl_setOwn_ctx]
    · rw [State.core_setCore_other _ _ hm]
  · rfl

theorem LoneQueued.granted_jobs (h : LoneQueued s n j) : ((s.granted n j).core n).jobs = [j] := by
  unfold State.granted
  split
  · rw [State.core_setCore, CoreSt.foldl_setOwn_jobs, h.jobs]
  · exact h.jobs

theorem LoneQueued.granted_own (h : LoneQueued s n j) : ∀ e ∈ j.owns, ((s.granted n j).core n).own[e] = some j.ctx := by
  intro e he
  unfold State.granted
  split
  next => simp only [State.core_setCore, CoreSt.foldl_setOwn_own, he, if_true]
  next hnone => exact (h.free e he).resolve_left fun hfree => hnone ⟨e, he, hfree⟩

theorem LoneQueued.granted_cost (h : LoneQueued s n j) : (s.granted n j).meterCost j = 0 := by
  unfold State.granted
  split <;> exact h.unmetered

theorem LoneQueued.granted_trip (h : LoneQueued s n j) : (s.granted n j).pwr.trip = false := by
  unfold State.granted
  split <;> exact h.cool

/-- With its engines its own the lone instruction can start. -/
theorem LoneQueued.startable (h : LoneQueued s n j) : (s.granted n j).startable n 0 = true := by
  have hown : (j.owns.all fun e => ((s.granted n j).core n).own[e] == some j.ctx) = true :=
    List.all_eq_true.mpr fun e he => beq_iff_eq.mpr (h.granted_own e he)
  simp only [State.startable, h.granted_jobs, List.getElem?_cons_zero, h.queued, h.granted_trip, h.granted_cost, hown]
  simp

/-- Nothing to pay leaves the meter as it is. -/
theorem State.payMeter_zero (s : State) (st : Fin 10) : s.payMeter st 0 = s := by
  simp [State.payMeter]

/-- What the lone instruction does as it starts. -/
theorem LoneQueued.startJob (h : LoneQueued s n j) {t : State} {fl : Flags} {code : Option Nat}
    (heff : (s.granted n j).startEffect n j = (t, fl, code)) :
    (s.granted n j).startJob n 0 = code.elim (t.setEngJob n 0 { j with phase := .started, fl := fl, left := j.op.rowsToGo })
      fun c => ((s.granted n j).dropJob n 0).faultCtx c j.ctx [n] := by
  simp only [State.startJob, h.granted_jobs, List.getElem?_cons_zero, h.granted_cost, Nat.not_lt_zero, gt_iff_lt, if_false, State.payMeter_zero, heff]
  cases code <;> rfl

/-- Nothing else starts on its core. -/
theorem LoneQueued.pumpCore (h : LoneQueued s n j) : s.pumpCore n = (s.granted n j).startJob n 0 := by
  have hfirst : (List.range ((s.granted n j).core n).jobs.length).find? (fun i => (s.granted n j).startable n i) = some 0 := by
    rw [h.granted_jobs]
    simp [List.range_succ, h.startable]
  rw [State.pumpCore, h.grant, h.jobs]
  simp only [List.length_singleton, State.pumpN, hfirst]

/-- A state with the same context slots on every core has halted none. -/
theorem State.haltedSince_of_ctx {t : State} (h : ∀ m, (t.core m).ctx = (s.core m).ctx) : t.haltedSince s = false := by
  simp [State.haltedSince, h]

theorem State.setEngJob_ctx (s : State) (n i : Nat) (j : EngJob) (m : Nat) : ((s.setEngJob n i j).core m).ctx = (s.core m).ctx := by
  by_cases hm : m = n
  · subst hm; rw [State.setEngJob, State.core_setCore]
  · rw [State.setEngJob, State.core_setCore_other _ _ hm]

/-- A lone instruction whose effect is on data starts, and nothing follows. -/
theorem LoneQueued.pump_starts (h : LoneQueued s n j) {t : State} {fl : Flags} (heff : (s.granted n j).startEffect n j = (t, fl, none))
    (hctx : ∀ m, (t.core m).ctx = ((s.granted n j).core m).ctx) {left : Nat} (hleft : j.op.rowsToGo = left) :
    s.pump n = t.setEngJob n 0 { j with phase := .started, fl := fl, left := left } := by
  subst hleft
  have hkept : (t.setEngJob n 0 { j with phase := .started, fl := fl, left := j.op.rowsToGo }).haltedSince s = false :=
    State.haltedSince_of_ctx fun m => by rw [State.setEngJob_ctx, hctx, State.granted_ctx]
  rw [State.pump, h.pumpCore, h.startJob heff, Option.elim_none]
  simp only [hkept, Bool.false_eq_true, if_false]

/-- A lone instruction that a runtime condition keeps from executing is dropped, and faults. -/
theorem LoneQueued.pump_faults (h : LoneQueued s n j) {t : State} {fl : Flags} {c : Nat}
    (heff : (s.granted n j).startEffect n j = (t, fl, some c)) :
    let u := ((s.granted n j).dropJob n 0).faultCtx c j.ctx [n]
    s.pump n = if u.haltedSince s = true then u.pumpAll else u := by
  rw [State.pump, h.pumpCore, h.startJob heff, Option.elim_some]

end

/-! ### The effect of an operation as it starts (R112 to R118, R182) -/

section
variable {s : State} {n : Nat} {j : EngJob}

/-- An operation that writes accumulator sets leaves the context slots. -/
theorem State.setCore_ctx_same {k : CoreSt} (h : k.ctx = (s.core n).ctx) (m : Nat) : ((s.setCore n k).core m).ctx = (s.core m).ctx := by
  by_cases hm : m = n
  · subst hm; rw [State.core_setCore, h]
  · rw [State.core_setCore_other _ _ hm]

/-- An operation that leaves the cores leaves the context slots. -/
theorem State.ctx_of_cores {t : State} (h : t.cores = s.cores) (m : Nat) : (t.core m).ctx = (s.core m).ctx := by
  rw [State.core, State.core, h]

theorem startEffect_mma {tr : Bool} {A B C : TileDesc} {set arr : Fin 2} {mode : AccMode} {x : List (List RawRec)}
    (hop : j.op = .mma tr A B C set arr mode) (hset : s.mmaSet n j.ctx tr A B C set arr mode = some x) :
    s.startEffect n j = (s.setCore n ((s.core n).putSet arr set x), 0, none) := by
  simp only [State.startEffect, hop, hset]

theorem startEffect_mma_refused {tr : Bool} {A B C : TileDesc} {set arr : Fin 2} {mode : AccMode}
    (hop : j.op = .mma tr A B C set arr mode) (hset : s.mmaSet n j.ctx tr A B C set arr mode = none) :
    s.startEffect n j = (s, 0, some 0x6004) := by
  simp only [State.startEffect, hop, hset]

theorem startEffect_mtwin {G W X : TileDesc} {set0 set1 : Fin 2} {acc0 acc1 : Bool} (hop : j.op = .mtwin G W X set0 set1 acc0 acc1) :
    let x := s.mtwinSets n j.ctx G W X set0 set1 acc0 acc1
    s.startEffect n j = (s.setCore n (((s.core n).putSet 0 set0 x.1).putSet 1 set1 x.2), 0, none) := by
  simp only [State.startEffect, hop]

theorem startEffect_mrd {C : TileDesc} {set arr : Fin 2} {st : Nat} (hop : j.op = .mrd C set arr st) :
    let r := s.mrdRows n C st ((s.core n).set arr set) (j.ctx, j.step)
    s.startEffect n j = (r.1, r.2, none) := by
  simp only [State.startEffect, hop]

theorem startEffect_mrdp {A C : TileDesc} {set arr : Fin 2} (hop : j.op = .mrdp A C set arr) :
    let r := s.mrdpRows n A C ((s.core n).set arr set)
    s.startEffect n j = (r.1, r.2, none) := by
  simp only [State.startEffect, hop]

theorem startEffect_msav {C : TileDesc} {set arr : Fin 2} (hop : j.op = .msav C set arr) :
    s.startEffect n j = (s.msavRows n C ((s.core n).set arr set), 0, none) := by
  simp only [State.startEffect, hop]

theorem startEffect_vop {op : VOpc} {k : VKind} {bsrc : BSrc} {D A B : TileDesc} {gs : Word} {named : Bool} {imm : BitVec 16} {st vl : Nat}
    (hop : j.op = .vop op bsrc D A B gs named imm st vl) (hkind : vkind op = some k) :
    let r := s.vopRows n k D (s.vArgs n j.ctx k bsrc D A B gs named imm vl) A.rows st (j.ctx, j.step)
    s.startEffect n j = (r.1, r.2, none) := by
  simp only [State.startEffect, hop, hkind]

/-- What hands over data or moves rows starts with no effect yet. -/
theorem startEffect_later (hop : j.op.isSend = true ∨ ∃ td off region toHbm hs, j.op = .dma td off region toHbm hs) :
    s.startEffect n j = (s, 0, none) := by
  rcases hop with hsend | ⟨td, off, region, toHbm, hs, hop⟩
  · cases hop : j.op
    case lsend | lrecv | lred | stsend => simp only [State.startEffect, hop]
    all_goals simp [hop, EngOp.isSend] at hsend
  · simp only [State.startEffect, hop]

end

/-- Settles O20: the engines pass to the lone instruction's context, and its effect leaves every context slot, so nothing else starts. -/
theorem engineStart : Obligations.EngineStart := by
  unfold Obligations.EngineStart
  intro s n j hjobs hq hcool hcost hfree
  have h : LoneQueued s n j := ⟨hjobs, hq, hcool, hcost, hfree⟩
  refine ⟨fun tr A B C set arr mode x hop hset => ?mma, fun G W X set0 set1 acc0 acc1 hop => ?mtwin, fun C set arr st hop => ?mrd,
    fun A C set arr hop => ?mrdp, fun C set arr hop => ?msav, fun op k bsrc D A B gs named imm st vl hop hkind => ?vop, fun td ch hop => ?link,
    fun td off region toHbm hs hop => ?dma, fun td b hop => ?stsend, fun tr A B C set arr mode hop hset => ?refused⟩
  case mma => exact h.pump_starts (startEffect_mma hop hset) (State.setCore_ctx_same rfl) (by rw [hop]; rfl)
  case mtwin => exact h.pump_starts (startEffect_mtwin hop) (State.setCore_ctx_same rfl) (by rw [hop]; rfl)
  case mrd => exact h.pump_starts (startEffect_mrd hop) (State.ctx_of_cores (State.mrdRows_cores ..)) (by rw [hop]; rfl)
  case mrdp => exact h.pump_starts (startEffect_mrdp hop) (State.ctx_of_cores (State.mrdpRows_cores ..)) (by rw [hop]; rfl)
  case msav => exact h.pump_starts (startEffect_msav hop) (State.ctx_of_cores (State.msavRows_cores ..)) (by rw [hop]; rfl)
  case vop => exact h.pump_starts (startEffect_vop hop hkind) (State.ctx_of_cores (State.vopRows_cores ..)) (by rw [hop]; rfl)
  case link =>
    rcases hop with hop | hop <;>
      exact h.pump_starts (startEffect_later (.inl (by rw [hop]; rfl))) (fun _ => rfl) (by rw [hop]; rfl)
  case dma => exact h.pump_starts (startEffect_later (.inr ⟨td, off, region, toHbm, hs, hop⟩)) (fun _ => rfl) (by rw [hop]; rfl)
  case stsend => exact h.pump_starts (startEffect_later (.inl (by rw [hop]; rfl))) (fun _ => rfl) (by rw [hop]; rfl)
  case refused => exact h.pump_faults (startEffect_mma_refused hop hset)

end Sys2Proof.Machine

namespace Sys2Proof.Machine

/-! ## The issue of a vector operation (R104, R116, R138, R140, R144) -/

/-- A vector operation that its core has and accepts joins the queue under its operation code; the step of its stochastic stores is the pair g28 and
g29 as they stand (R144). -/
theorem vop_accepted {s : State} {a : Site} {p : Pred} (h : Issues s a p) {code : VOpc} {present : Bool} {o : VOp} (hpresent : present = true) :
    let x := s.ctxAt a
    let op : EngOp := .vop code o.bsrc x.td[o.tdd] x.td[o.tda] x.td[o.tdb] (x.greg o.gs) (o.gs != 0) o.imm16
      ((x.greg 28).toNat + 2 ^ 32 * (x.greg 29).toNat) x.vl.toNat
    s.accepts a op → vop code present a p o s = .next ((s.enqueue a (s.captured a o.cnt op)).pump a.core) :=
  fun hop => engOut_accepted h hpresent hop

/-- Settles O18: each instruction is `vop` under its operation code, present on every core but for the derivatives of Table 5-9. -/
theorem vectorIssue : Obligations.VectorIssue := by
  unfold Obligations.VectorIssue
  intro s a p o h
  refine ⟨?native, ?functions, ?rows, fun hcore => ?derivatives⟩
  case native | functions | rows =>
    and_intros
    all_goals exact vop_accepted h rfl
  case derivatives =>
    and_intros
    all_goals exact vop_accepted h hcore

/-! ## Special values of the vector engine (R144, R150, Table 5-6) -/

section
variable {canon : Bool} {b d : Num}

/-- VDIV and the functions of one operand alike pass a NaN on. -/
theorem fnF24_nan (f : VFun) : fnF24 f canon .nan b = (.nan, flNanIn) := by
  cases f <;> rfl

theorem fnF24_zero {f : VFun} (hf : f ≠ .div) (neg : Bool) : fnF24 f canon (.zero neg) b = f.atZero neg := by
  cases f
  case div => exact absurd rfl hf
  all_goals rfl

theorem fnF24_inf {f : VFun} (hf : f ≠ .div) (neg : Bool) : fnF24 f canon (.inf neg) b = f.atInf neg := by
  cases f
  case div => exact absurd rfl hf
  all_goals rfl

/-- Every native operation reads its first operand, VSEL to choose between the other two. -/
theorem nativeOp_nan_flags (op : NatOp) : (nativeOp op .nan b d).2 = flNanIn := by
  cases op <;> rfl

end

/-- Settles O60: the functions but VDIV by their values at a zero and at an infinity, VDIV by its own special values. -/
theorem functionsOfNan : Obligations.FunctionsOfNan := by
  unfold Obligations.FunctionsOfNan
  intro canon neg a b d
  refine ⟨fnF24_nan, ?exponentials, ?logarithms, ?reciprocal, rfl, rfl, ?native⟩
  case exponentials =>
    rintro f (rfl | rfl)
    · exact fnF24_zero (by decide) neg
    · exact fnF24_zero (by decide) neg
  case logarithms =>
    rintro f (rfl | rfl)
    · exact ⟨fnF24_zero (by decide) neg, fnF24_inf (by decide) true⟩
    · exact ⟨fnF24_zero (by decide) neg, fnF24_inf (by decide) true⟩
  case reciprocal =>
    rintro f rfl
    exact fnF24_inf (by decide) neg
  case native =>
    rintro op - rfl
    exact nativeOp_nan_flags op

end Sys2Proof.Machine

namespace Sys2Proof.Machine

/-! ## Stem packets and their credits (R191 to R195) -/

section
variable {s : State} {port : Fin 4} {n i b : Nat} {j : EngJob} {td : TileDesc}

@[simp] theorem State.buf_setBuf (s : State) (b : Nat) (x : BufSt) : (s.setBuf b x).buf b = x := by
  rw [State.buf, State.setBuf, aget_aput_same, Option.getD_some]

theorem State.buf_setBuf_other (s : State) {b e : Nat} (x : BufSt) (h : e ≠ b) : (s.setBuf b x).buf e = s.buf e := by
  rw [State.buf, State.setBuf, aget_aput_other _ _ h, State.buf]

theorem State.buf_of_bufs {s t : State} (h : t.bufs = s.bufs) (b : Nat) : t.buf b = s.buf b := by
  rw [State.buf, h, State.buf]

/-- The first element with the least key is an element of the list. -/
theorem mem_of_foldl_least {α : Type} {key : α → Nat} {f : Option α → α → Option α} {l : List α} {z : α} (h : l.foldl f none = some z)
    (hnone : ∀ x, f none x = some x) (hsome : ∀ y x, f (some y) x = if key x < key y then some x else some y) : z ∈ l := by
  refine List.foldlRecOn (b := none) (motive := fun o => ∀ y, o = some y → y ∈ l) l f nofun (fun o ih x hx y hy => ?_) z h
  cases o with
  | none =>
    rw [hnone] at hy
    exact Option.some.inj hy ▸ hx
  | some w =>
    rw [hsome] at hy
    split at hy
    · exact Option.some.inj hy ▸ hx
    · exact ih y hy

/-- The Target Former picks among the waiting rows whose buffer has a credit. -/
theorem State.stemPick_mem {x : Nat × Nat × EngJob} (h : s.stemPick port = some x) :
    x ∈ (s.stemWaiting port).filter fun y => s.stemCredit y.2.2 := by
  unfold State.stemPick at h
  split at h
  · exact mem_of_foldl_least h (fun _ => rfl) fun _ _ => rfl
  · rcases Option.or_eq_some_iff.mp h with hafter | ⟨-, hfirst⟩
    · exact List.mem_of_mem_filter (mem_of_foldl_least hafter (fun _ => rfl) fun _ _ => rfl)
    · exact mem_of_foldl_least hfirst (fun _ => rfl) fun _ _ => rfl

/-- The buffer of the row picked holds a credit (R193). -/
theorem State.stemPick_credits {l : LandRec} (h : s.stemPick port = some (n, i, j)) (hop : j.op = .stsend td b) (hland : s.landRec b = some l) :
    0 < s.credits l := by
  have hcredit : s.stemCredit j = true := (List.mem_filter.mp (State.stemPick_mem h)).2
  simpa [State.stemCredit, hop, hland] using hcredit

theorem execStemPacketStart_none (h : s.stemPick port = none) : execStemPacketStart port s = .next s := by
  simp only [execStemPacketStart, h]

/-- The start of a picked row changes, among buffers and memory, its buffer alone: a credit is spent, and the packet is under way (R191, R193). -/
theorem execStemPacketStart_picked {r : Recipe} (h : s.stemPick port = some (n, i, j)) (hop : j.op = .stsend td b) (hrec : s.recipe b = some r) :
    let row := td.rows - j.left
    let z := (List.range r.width).map fun c => s.elem n td row c
    let col0 := td.indexBase.toNat % td.lrow.toNat
    let x := s.buf b
    ∃ t, execStemPacketStart port s = .next t ∧ t.mem = s.mem ∧
      t.bufs = (s.setBuf b { x with sent := x.sent + 1, flight := x.flight ++ [packetBytes r (formRow r z col0) (x.sent % 2 ^ 32)
        (td.indexBase.toNat / td.lrow.toNat + row) col0] }).bufs := by
  simp only [execStemPacketStart, h, hop, hrec]
  exact ⟨_, rfl, rfl, rfl⟩

/-- An arrival puts the oldest packet under way into its slot and counts (R192). -/
theorem execStemArrival_lands {l : LandRec} {pkt : List Byte} {rest : List (List Byte)} (hland : s.landRec b = some l)
    (hfly : (s.buf b).flight = pkt :: rest) :
    execStemArrival b s = .next (((s.setScr l.core (l.slotAddr (s.buf b).arrived) pkt).setBuf b
      { s.buf b with arrived := (s.buf b).arrived + 1, flight := rest }).bump ⟨l.core, l.cctx⟩ l.arrive 1) := by
  simp only [execStemArrival, hland, hfly]

theorem State.ctxAt_bump_c (s : State) (a : Site) (n c : Fin 16) :
    ((s.bump a n 1).ctxAt a).c[c] = if c = n then (s.ctxAt a).c[c] + 1 else (s.ctxAt a).c[c] := by
  have hcounted : (s.ctxAt a).addC n 1 = (s.ctxAt a).counted ⟨n, true⟩ := rfl
  rw [State.bump, State.ctxAt_setCtx, hcounted, CtxSt.counted_c]
  simp

theorem execCreditReturn_freed (h : (s.buf b).returned < (s.buf b).freed) :
    execCreditReturn b s = .next (s.markStalls.setBuf b { s.buf b with returned := (s.buf b).returned + 1 }) := by
  rw [execCreditReturn, if_pos h]

theorem execCreditReturn_none_freed (h : (s.buf b).freed ≤ (s.buf b).returned) : execCreditReturn b s = .next s := by
  rw [execCreditReturn, if_neg h.not_gt]

end

/-- Settles O22: the pick holds a credit because it is taken from the rows that hold one; each command then writes its own buffer. -/
theorem stemResults : Obligations.StemResults := by
  unfold Obligations.StemResults
  refine ⟨fun s port => execStemPacketStart_none, fun s port n i b j td r hpick hop hrec => ?start,
    fun s b l pkt rest hland hfly => ?arrival, fun s b => ⟨execCreditReturn_freed, execCreditReturn_none_freed⟩⟩
  case start =>
    obtain ⟨t, hexec, hmem, hbufs⟩ := execStemPacketStart_picked hpick hop hrec
    refine ⟨t, hexec, fun l => State.stemPick_credits hpick hop, ?own, fun e he => ?others, hmem⟩
    case own => rw [State.buf_of_bufs hbufs, State.buf_setBuf]
    case others => rw [State.buf_of_bufs hbufs, State.buf_setBuf_other _ _ he]
  case arrival =>
    exact ⟨_, execStemArrival_lands hland hfly, rfl, State.buf_setBuf .., State.ctxAt_bump_c _ _ _⟩

end Sys2Proof.Machine

namespace Sys2Proof.Machine

/-! ## Slots that a CINC releases (R194, R405) -/

/-- Freeing slots of one buffer advances the freed count of that buffer alone. -/
theorem State.freeSlots_freed (s : State) (b n e : Nat) :
    ((s.freeSlots b n).buf e).freed = (s.buf e).freed + if b = e then n else 0 := by
  by_cases h : b = e
  · subst h
    rw [State.freeSlots, State.buf_setBuf, if_pos rfl]
  · rw [State.freeSlots, State.buf_setBuf_other _ _ (Ne.symm h), if_neg h, Nat.add_zero]

/-- A release frees b slots of a buffer once for each of its records that the counter releases. -/
theorem State.release_freed (s : State) (a : Site) (c : Fin 16) (b e : Nat) :
    ((s.release a c b).buf e).freed = (s.buf e).freed + ((s.releasedBy a c).filter fun l => l.buffer == e).length * b := by
  unfold State.release
  generalize s.releasedBy a c = lands
  induction lands generalizing s with
  | nil => simp
  | cons land rest ih =>
    rw [List.foldl_cons, ih, State.freeSlots_freed]
    by_cases h : land.buffer = e
    · simp [h, Nat.succ_mul, Nat.add_assoc, Nat.add_comm b]
    · simp [h]

theorem State.counted_freed (s : State) (a : Site) (n : Fin 16) (b : Word) (e : Nat) :
    ((s.counted a n b).buf e).freed = (s.buf e).freed + ((s.releasedBy a n).filter fun l => l.buffer == e).length * b.toNat :=
  ((s.issued a).bump a n b).release_freed a n b.toNat e

@[simp] theorem State.counted_samples (s : State) (a : Site) (n : Fin 16) (b : Word) : (s.counted a n b).samples = s.samples := by
  obtain ⟨l, hl⟩ := s.counted_eq a n b
  rw [hl]
  rfl

theorem State.releaseSamples_buf (s : State) (d : DataRec) (n e : Nat) : (s.releaseSamples d n).buf e = s.buf e := by
  obtain ⟨l, m, hl⟩ := s.releaseSamples_samples_only d n
  rw [hl]
  rfl

/-- A release within the occupied slots of every buffer is no over-release. -/
theorem State.overRelease_eq_false {s : State} {a : Site} {c : Fin 16} {b : Nat}
    (h : ∀ l ∈ s.releasedBy a c, b ≤ (s.buf l.buffer).occupied) : s.overRelease a c b = false := by
  simpa [State.overRelease] using h

/-! ### Sparse maps whose keys rise -/

/-- The form that a sparse map has when each key stands in it once. -/
def KeysRise {α : Type} (l : List (Nat × α)) : Prop := l.Pairwise fun e f => e.1 < f.1

section
variable {α : Type} {l : List (Nat × α)} {a : Nat}

theorem adel_sublist (l : List (Nat × α)) (a : Nat) : (adel l a).Sublist l := by
  fun_induction adel l a with
  | case1 => exact .slnil
  | case2 => exact List.sublist_cons_self ..
  | case3 => exact .refl _
  | case4 _ _ _ _ _ _ ih => exact ih.cons_cons _

theorem aget_eq_none (h : ∀ e ∈ l, e.1 ≠ a) : aget l a = none := by
  fun_induction aget l a with
  | case1 => rfl
  | case2 => exact absurd rfl (h _ List.mem_cons_self)
  | case3 => rfl
  | case4 _ _ _ _ _ _ ih => exact ih fun e he => h e (List.mem_cons_of_mem _ he)

theorem KeysRise.adel (h : KeysRise l) (a : Nat) : KeysRise (adel l a) := h.sublist (adel_sublist l a)

/-- Where keys rise, what is left after a deletion holds no second entry of the key. -/
theorem KeysRise.ne_of_mem_adel (h : KeysRise l) : ∀ e ∈ Machine.adel l a, e.1 ≠ a := by
  fun_induction Machine.adel l a with
  | case1 => nofun
  | case2 => exact fun e he => (List.rel_of_pairwise_cons h he).ne'
  | case3 k w r a hne hlt =>
    intro e he
    rcases List.mem_cons.mp he with rfl | hr
    · exact Ne.symm hne
    · exact (hlt.trans (List.rel_of_pairwise_cons h hr)).ne'
  | case4 k w r a hne hlt ih =>
    intro e he
    rcases List.mem_cons.mp he with rfl | hr
    · exact Ne.symm hne
    · exact ih h.of_cons e hr

end

/-- Freeing slots in a sample table whose keys rise only deletes entries, and leaves none of those slots. -/
theorem State.foldl_freeSample_deletes (d : DataRec) (slots : List (Nat × SampleSlot)) {s : State} (h : KeysRise s.samples) :
    (slots.foldl (fun (t : State) e => t.freeSample d e.1) s).samples.Sublist s.samples ∧
      ∀ e ∈ slots, ∀ x ∈ (slots.foldl (fun (t : State) e => t.freeSample d e.1) s).samples, x.1 ≠ sampleKey d.ctx e.1 := by
  induction slots generalizing s with
  | nil => exact ⟨.refl _, nofun⟩
  | cons slot rest ih =>
    obtain ⟨hsub, hrest⟩ := ih (s := s.freeSample d slot.1) (h.adel (sampleKey d.ctx slot.1))
    refine ⟨hsub.trans (adel_sublist ..), fun e he x hx => ?_⟩
    rcases List.mem_cons.mp he with rfl | hr
    · exact h.ne_of_mem_adel x (hsub.subset hx)
    · exact hrest e hr x hx

theorem State.aget_releaseSamples {s : State} {d : DataRec} {n : Nat} (h : KeysRise s.samples) :
    ∀ e ∈ (s.doneSamples d.ctx).take n, aget (s.releaseSamples d n).samples (sampleKey d.ctx e.1) = none :=
  fun e he => aget_eq_none ((State.foldl_freeSample_deletes d _ h).2 e he)

/-! ### CINC on sample tables whose keys rise, and on one whose keys do not -/

/-- What the statement of O23 says of a CINC that is executed, for a sample table in which each slot stands once. The count of Stem slots needs no such
table. -/
theorem execCinc_releases_of_keysRise {s : State} {a : Site} {p : Pred} {k rb : Fin 32} {imm : Word} (h : Issues s a p)
    (hrise : KeysRise s.samples)
    (hroom : ∀ l ∈ s.releasedBy a (subCounter k), ((s.ctxAt a).greg rb + imm).toNat ≤ (s.buf l.buffer).occupied) :
    let x := s.ctxAt a
    let n := subCounter k
    let b := x.greg rb + imm
    ∃ t, execCinc a p k rb imm s = .next t ∧
      t.ctxAt a = { x.next with c := x.c.set n (x.c[n] + b) } ∧ (s.relBinding a n = none → t.mem = s.mem) ∧
      (∀ e, (t.buf e).freed = (s.buf e).freed + ((s.releasedBy a n).filter fun l => l.buffer == e).length * b.toNat) ∧
      (∀ d, s.relBinding a n = some d → ∀ e ∈ (s.doneSamples d.ctx).take b.toNat, aget t.samples (sampleKey d.ctx e.1) = none) := by
  intro x n b
  have hover : s.overRelease a n b.toNat = false := State.overRelease_eq_false hroom
  obtain ⟨t, hexec, hctx, -, hmem⟩ := execCinc_result h hover
  refine ⟨t, hexec, hctx, hmem, ?_⟩
  have ht : t = (s.relBinding a n).elim (s.counted a n b) fun r => (s.counted a n b).releaseSamples r b.toNat :=
    Host.Outcome.next.inj (hexec.symm.trans (execCinc_counts h hover))
  rw [ht]
  cases hbind : s.relBinding a n with
  | none => exact ⟨s.counted_freed a n b, nofun⟩
  | some r =>
    refine ⟨fun e => by rw [Option.elim_some, State.releaseSamples_buf, State.counted_freed], fun d hd => ?_⟩
    obtain rfl := Option.some.inj hd
    have hdone : (s.counted a n b).doneSamples r.ctx = s.doneSamples r.ctx := by rw [State.doneSamples, State.counted_samples, State.doneSamples]
    rw [← hdone]
    exact State.aget_releaseSamples (by rwa [State.counted_samples])

/-- Counter 4 of context 0 on T-core 0 releases the sample table of context 0. -/
def sampleTable : DataRec where
  ctx := 0
  relCommit := false
  relCnt := 7
  slots := 4
  slotBytes := 128
  tableOff := 0
  statusOff := 0
  spm := 4
  sampleBase := 0
  arriveCnt := 8

/-- Context 0 of T-core 0 runs a program, and its sample table lists the complete slot 2 twice. -/
def twiceComplete : State :=
  { State.reset.setCtx ⟨0, 0⟩ { running := true } with
    plan := some { contexts := [smallShare], data := [sampleTable], counters := [⟨7, ⟨0, 0⟩, 4⟩] }
    samples := [(sampleKey 0 2, ⟨1, 9, 128, some 0⟩), (sampleKey 0 2, ⟨1, 9, 128, some 0⟩)] }

theorem twiceComplete_issues : Issues twiceComplete ⟨0, 0⟩ ⟨0, false⟩ :=
  ⟨⟨by decide, by decide, by decide, by decide, by decide⟩, by decide⟩

/-- Refutes O23: the sample table of State need not have rising keys, and a release of one slot deletes only the first of two entries of one slot; the
slot then reads as the second. Where the keys rise the statement is `execCinc_releases_of_keysRise`, and its fault is `execCinc_over`. -/
theorem not_releaseByCinc : ¬ Obligations.ReleaseByCinc := by
  unfold Obligations.ReleaseByCinc
  intro h
  have hnone : twiceComplete.releasedBy ⟨0, 0⟩ (subCounter 4) = [] := by decide
  have hbind : twiceComplete.relBinding ⟨0, 0⟩ (subCounter 4) = some sampleTable := by decide
  have hover : twiceComplete.overRelease ⟨0, 0⟩ (subCounter 4) ((twiceComplete.ctxAt ⟨0, 0⟩).greg 0 + 1).toNat = false := by decide
  obtain ⟨t, hexec, -, -, -, hfreed⟩ :=
    (h twiceComplete ⟨0, 0⟩ ⟨0, false⟩ 4 0 1 twiceComplete_issues).1 (by rw [hnone]; exact nofun)
  have ht := Host.Outcome.next.inj (hexec.symm.trans (execCinc_counts twiceComplete_issues hover))
  rw [hbind, Option.elim_some] at ht
  subst ht
  exact absurd (hfreed sampleTable hbind (2, ⟨1, 9, 128, some 0⟩) (by decide)) (by decide)

end Sys2Proof.Machine

namespace Sys2Proof.Machine

/-! ## The Loss Stage (R199, R200, R203, R204, R207, R210, R340) -/

section
variable {s : State} {r : LossRec} {id mb : Nat}

/-- A job of a record may open: fewer than 8 are open; for a BE context fewer than 6 of BE contexts are, and no LC job could open (R199, R340). -/
def State.lossTurn (s : State) (r : LossRec) : Prop :=
  s.loss.length < 8 ∧ (s.isBE r.ctx = true →
    (s.loss.filter fun j => ((s.lossRec j.id).map fun q => s.isBE q.ctx).getD false).length < 6 ∧ s.lcLossWaits = false)

theorem State.lossArrived_iff : s.lossArrived r = true ↔ ∀ g ∈ r.segs, (s.buf g.buffer).taken + r.rows ≤ (s.buf g.buffer).arrived := by
  simp [State.lossArrived]

/-- A job out of its turn, or with packets still to come, waits. -/
theorem execLossJobStart_waits (step : Nat) (hrec : s.lossRec id = some r) (h : ¬ s.lossTurn r ∨ s.lossArrived r = false) :
    execLossJobStart id step mb s = .next s := by
  simp only [execLossJobStart, hrec]
  rw [if_pos]
  rcases h with hturn | hhere
  · simp only [State.lossTurn, not_and_or, Classical.not_imp, not_lt, Bool.not_eq_false] at hturn
    rcases hturn with hfull | ⟨hbe, hsix | hlc⟩
    · simp [hfull]
    · simp [hbe, hsix]
    · simp [hbe, hlc]
  · simp [hhere]

/-- A job whose turn has come and whose packets are in their slots opens, unless one of its rows does not read: a packet of another place faults (R200,
R210). -/
theorem execLossJobStart_reads (step : Nat) (hrec : s.lossRec id = some r) (hturn : s.lossTurn r) (hhere : s.lossArrived r = true) :
    let rows := (List.range r.rows).map fun i => s.lossRow r i
    execLossJobStart id step mb s = .next (if none ∈ rows then (s.faultCtx 0x6011 r.ctx [id]).pumpAll
      else s.openLoss r step mb (rows.filterMap fun x => x)) := by
  intro rows
  simp only [execLossJobStart, hrec]
  rw [if_neg]
  · refine congrArg _ (if_congr ?_ rfl rfl)
    simp [rows]
  · obtain ⟨hroom, hbe⟩ := hturn
    cases hcls : s.isBE r.ctx with
    | false => simp [hroom, hhere]
    | true =>
      obtain ⟨hsix, hlc⟩ := hbe hcls
      simp [hroom, hhere, hsix, hlc]

/-- A record that comes before its job is held (R204). -/
theorem execLossExchange_early {row origin : Nat} (x : LossExch) (hrec : s.lossRec id = some r) (horigin : origin ∈ s.lossGroup r)
    (hnone : s.loss.findIdx? (fun j => j.id == id && j.mb == mb) = none) :
    execLossExchange id mb row origin x s = .next { s with lossEarly := s.lossEarly ++ [⟨id, mb, row, origin, x⟩] } := by
  simp [execLossExchange, hrec, horigin, hnone]

/-- A record whose job is open is taken into it (R204). -/
theorem execLossExchange_open {row origin k : Nat} (x : LossExch) (hrec : s.lossRec id = some r) (horigin : origin ∈ s.lossGroup r)
    (hopen : s.loss.findIdx? (fun j => j.id == id && j.mb == mb) = some k) :
    execLossExchange id mb row origin x s = .next (s.takeExch r k row origin x) := by
  simp [execLossExchange, hrec, horigin, hopen]

/-- A row with the record of a device put into the exchange that the record is of. -/
def LossRowSt.withExch (w : LossRowSt) (origin : Nat) (x : LossExch) : LossRowSt :=
  match x with
  | .maxima .. => { w with x1 := putExch w.x1 origin x }
  | .sums .. => { w with x2 := putExch w.x2 origin x }
  | .partials .. => { w with x3 := putExch w.x3 origin x }

/-- The row takes the record and advances. -/
theorem State.takeExch_row {row origin k : Nat} {j : LossJob} {w : LossRowSt} (x : LossExch) (hjob : s.loss[k]? = some j)
    (hrow : j.rows[row]? = some w) :
    let q := s.advanceRow r j row (w.withExch origin x)
    s.takeExch r k row origin x = { q.1 with loss := q.1.loss.set k { j with rows := j.rows.set row q.2 } } := by
  simp only [State.takeExch, hjob, hrow]
  rfl

theorem execLossJobComplete_head {i : Nat} {j : LossJob}
    (h : (s.lossHeads.find? fun e => e.2.2.kind != .accept && e.2.1.rows.all fun row => s.rowReady e.2.2 row) = some (i, j, r)) :
    execLossJobComplete s = .next ((({ s with loss := s.loss.eraseIdx i }).completeLoss r j).raiseEvent r.ctx (.loss r.id)
      [BitVec.ofNat 32 (j.step % 2 ^ 20 * 2 ^ 12 + j.mb % 2 ^ 12)] .plain) := by
  simp only [execLossJobComplete, h]

/-- A job is late when a row of it lacks an exchange and its opening lies its context's wait limit back (R129, R204). -/
theorem State.mem_lossLate_iff {j : LossJob} : (j, r) ∈ s.lossLate ↔ j ∈ s.loss ∧ s.lossRec j.id = some r ∧
    (∃ row ∈ j.rows, s.rowReady r row = false) ∧ j.since + ((s.ctxRec r.ctx).map CtxRec.waitLimit).getD 0 ≤ s.beat := by
  simp only [State.lossLate, List.mem_filterMap, Option.bind_eq_some_iff]
  constructor
  · rintro ⟨j', hj, r', hrec, hlate⟩
    split at hlate
    next hcond =>
      obtain ⟨rfl, rfl⟩ := Prod.mk.inj (Option.some.inj hlate)
      exact ⟨hj, hrec, by simpa using hcond⟩
    next => exact nomatch hlate
  · rintro ⟨hj, hrec, hcond⟩
    exact ⟨j, hj, r, hrec, if_pos (by simpa using hcond)⟩

theorem State.lossExpired_none (h : s.lossLate = []) : s.lossExpired = s := by
  simp [State.lossExpired, h]

theorem State.lossExpired_late (h : s.lossLate ≠ []) :
    s.lossExpired = (((s.lossLate.map fun e => e.2.ctx).eraseDups).foldl (fun (t : State) c =>
      t.faultCtx 0x6003 c ((s.lossLate.find? fun e => e.2.ctx == c).toList.map fun e => e.1.id)) s).pumpAll := by
  simp [State.lossExpired, h]

end

/-- Settles O24: each clause is the case of its command's meaning that the clause's premises select. -/
theorem lossStageResults : Obligations.LossStageResults := by
  unfold Obligations.LossStageResults
  refine ⟨fun s id step mb r hrec => ?start, fun s id mb row origin x r hrec horigin => ⟨execLossExchange_early x hrec horigin, ?taken⟩,
    fun s i j r => execLossJobComplete_head, fun s => ⟨fun j r => State.mem_lossLate_iff, fun hnone => ?inTime, fun hlate => ?late⟩⟩
  case start =>
    refine ⟨fun segs hturn hhere hrows => ?opens, fun hturn hhere hnone => ?sequence, fun hwait => ?waits⟩
    case opens =>
      have hexec : exec (.lossJobStart id step mb) s = _ := execLossJobStart_reads step hrec hturn (State.lossArrived_iff.mpr hhere)
      rw [hexec, hrows, if_neg (by simp), List.filterMap_map]
      simp
    case sequence =>
      have hexec : exec (.lossJobStart id step mb) s = _ := execLossJobStart_reads step hrec hturn (State.lossArrived_iff.mpr hhere)
      rw [hexec, if_pos hnone]
    case waits =>
      exact execLossJobStart_waits step hrec (hwait.imp_right fun hhere => Bool.eq_false_iff.mpr (mt State.lossArrived_iff.mp hhere))
  case taken =>
    intro k j w hopen hjob hrow
    exact (execLossExchange_open x hrec horigin hopen).trans (congrArg _ (State.takeExch_row x hjob hrow))
  case inTime => exact congrArg _ (State.lossExpired_none hnone)
  case late => exact congrArg _ (State.lossExpired_late hlate)

end Sys2Proof.Machine

namespace Sys2Proof.Machine

/-! ## Student layer entries (R226, R227, R234, R235, R239) -/

section
variable {s : State} {k step mb layer : Nat} {r : StageRec} {l : LayerRec}

/-- The weight slot of a micro-batch as its forward entry finds it or binds it: the stage after the binding, and the slot (R234, R239). -/
def State.bindingFor (s : State) (k step mb layer : Nat) : Option (StageSt × Fin 2) :=
  let q := s.seqNo step mb
  let x := s.stage k
  match x.boundSlot q with
  | some i => some (x, i)
  | none =>
    if s.firstFwd k mb layer && !(decide (64 ≤ q) && (x.boundSlot (q - 64)).isSome) then
      (x.slotAt .current step).map fun i => ({ x with bound := x.bound ++ [(q, i)] }, i)
    else none

theorem State.bindingFor_bound {i : Fin 2} (hbound : (s.stage k).boundSlot (s.seqNo step mb) = some i) :
    s.bindingFor k step mb layer = some (s.stage k, i) := by
  simp only [State.bindingFor, hbound]

/-- A first entry binds its micro-batch once micro-batch q - 64 is no longer bound and a CURRENT slot serves its step. -/
theorem State.bindingFor_first {i : Fin 2} (hnew : (s.stage k).boundSlot (s.seqNo step mb) = none) (hfirst : s.firstFwd k mb layer = true)
    (hfree : s.seqNo step mb < 64 ∨ (s.stage k).boundSlot (s.seqNo step mb - 64) = none)
    (hslot : (s.stage k).slotAt .current step = some i) :
    s.bindingFor k step mb layer = some ({ s.stage k with bound := (s.stage k).bound ++ [(s.seqNo step mb, i)] }, i) := by
  have hclear : (decide (64 ≤ s.seqNo step mb) && ((s.stage k).boundSlot (s.seqNo step mb - 64)).isSome) = false := by
    rcases hfree with hlt | hnone
    · rw [decide_eq_false (not_le.mpr hlt), Bool.false_and]
    · rw [hnone, Option.isSome_none, Bool.and_false]
  simp only [State.bindingFor, hnew, hfirst, hclear, hslot, Bool.not_false, Bool.and_self, if_true, Option.map_some]

theorem State.bindingFor_none (hnew : (s.stage k).boundSlot (s.seqNo step mb) = none)
    (hwait : s.firstFwd k mb layer = false ∨ (64 ≤ s.seqNo step mb ∧ (s.stage k).boundSlot (s.seqNo step mb - 64) ≠ none) ∨
      (s.stage k).slotAt .current step = none) :
    s.bindingFor k step mb layer = none := by
  simp only [State.bindingFor, hnew]
  rcases hwait with hlater | ⟨hle, hheld⟩ | hslot
  · rw [if_neg (by simp [hlater])]
  · rw [if_neg (by simp [hle, Option.isSome_iff_ne_none.mpr hheld])]
  · rw [hslot, Option.map_none, ite_self]

/-- The record of a layer whose forward entry is appended, before it has stash units. -/
def State.newLive (s : State) (r : StageRec) (l : LayerRec) (q layer : Nat) : LiveRec := ⟨q, layer, none, l.units, false, s.inRecovery r l⟩

/-- The live records after a forward entry, the base of its layer's internals and the demotions counted (R226, R227). -/
def State.stashForward (s : State) (r : StageRec) (l : LayerRec) (live : List LiveRec) (q layer : Nat) : List LiveRec × Nat × Nat :=
  if l.recompute then (live ++ [s.newLive r l q layer], r.rcBase, 0) else allocForward (live.length + 1) r live (s.newLive r l q layer)

/-- The appending of a forward entry that reads weight slot `i`: `x1` is the stage with its micro-batch bound and `stash` what the stash controller
decided. -/
def State.appendForward (s : State) (k step mb layer : Nat) (r : StageRec) (l : LayerRec) (x1 : StageSt) (i : Fin 2)
    (stash : List LiveRec × Nat × Nat) : State :=
  let s1 := (s.setStage k { x1 with live := stash.1 }).acctForward r.ctx step mb
  let s2 := (s1.countCtx r.ctx ccStashDemote stash.2.2).mapAcct r.ctx fun a => { a with demote := a.demote + stash.2.2 }
  (s2.appendAll r.cores r.ctx ⟨fwdIdx l (s.inRecovery r l),
    layerArgs step mb stash.2.1 (r.slotOff + i.val * (r.slotBytes / 128)) false (s.seqNo step mb), .forward k step mb layer⟩).nextEntry k

section
variable (hrec : s.stageRec k = some r) (hlayer : (s.stageLayers k).find? (fun l => l.layer == layer) = some l)
  (hrun : s.ctxHalted r.cores r.ctx = false)
include hrec hlayer hrun

/-- A forward entry that is due is appended when its micro-batch is bound, and waits otherwise. -/
theorem execForwardAppend_due (hdue : s.entryDue r true layer mb = true) :
    execForwardAppend k step mb layer s = .next ((s.bindingFor k step mb layer).elim s fun b =>
      s.appendForward k step mb layer r l b.1 b.2 (s.stashForward r l b.1.live (s.seqNo step mb) layer)) := by
  unfold execForwardAppend
  simp only [hrec, hlayer, hrun, hdue, Bool.not_true, Bool.or_self, Bool.false_eq_true, if_false]
  -- the binding that the command computes in place is `bindingFor`
  change Host.Outcome.next (match s.bindingFor k step mb layer with
    | none => _
    | some (x1, i) => _) = _
  cases s.bindingFor k step mb layer <;> rfl

/-- What a backward entry appends, as its record `v` and its weight slot `i` give it: the entry alone where the internals are stashed, and after a
recomputation entry where they are not (R227). -/
def State.appendBackward (s : State) (k step mb layer : Nat) (r : StageRec) (l : LayerRec) (i : Fin 2) (v : LiveRec) : State :=
  let q := s.seqNo step mb
  let x := s.stage k
  let slot := r.slotOff + i.val * (r.slotBytes / 128)
  let s1 := s.setStage k { x with live := x.live.filter fun w => !(w.q == q && w.layer == layer) }
  let bwd (t : State) (base : Nat) : State :=
    (t.appendAll r.cores r.ctx ⟨bwdIdx l v.recov, layerArgs step mb base slot false q, .backward k step mb layer⟩).nextEntry k
  v.run.elim
    (bwd (((s1.countCtx r.ctx ccRecompute).mapAcct r.ctx fun a => { a with recompute := a.recompute + 1 }).appendAll r.cores r.ctx
      ⟨fwdIdx l v.recov, layerArgs step mb r.rcBase slot true q, .recompute k step mb layer⟩) r.rcBase)
    fun b => bwd s1 (r.intBase + b * unitBytes r)

theorem execBackwardAppend_due {i : Fin 2} {v : LiveRec} (hdue : s.entryDue r false layer mb = true)
    (hbound : (s.stage k).boundSlot (s.seqNo step mb) = some i)
    (hlive : (s.stage k).live.find? (fun v => v.q == s.seqNo step mb && v.layer == layer) = some v) :
    execBackwardAppend k step mb layer s = .next (s.appendBackward k step mb layer r l i v) := by
  simp only [execBackwardAppend, hrec, hlayer, hrun, hdue, hbound, hlive, Bool.not_true, Bool.or_self, Bool.false_eq_true, if_false,
    State.appendBackward]
  cases v.run <;> rfl

end

/-- The test by which an append passes over an entry. -/
theorem State.passed_over {fwd : Bool} (h : s.entryDue r fwd layer mb = false ∨ s.ctxHalted r.cores r.ctx = true) :
    (s.ctxHalted r.cores r.ctx || !s.entryDue r fwd layer mb) = true := by
  rcases h with hlater | hhalt
  · rw [hlater, Bool.not_false, Bool.or_true]
  · rw [hhalt, Bool.true_or]

theorem execForwardAppend_passed_over (hrec : s.stageRec k = some r)
    (h : s.entryDue r true layer mb = false ∨ s.ctxHalted r.cores r.ctx = true) : execForwardAppend k step mb layer s = .next s := by
  simp only [execForwardAppend, hrec]
  cases (s.stageLayers k).find? (fun l => l.layer == layer) with
  | none => rfl
  | some l => exact congrArg _ (if_pos (State.passed_over h))

theorem execBackwardAppend_passed_over (hrec : s.stageRec k = some r)
    (h : s.entryDue r false layer mb = false ∨ s.ctxHalted r.cores r.ctx = true) : execBackwardAppend k step mb layer s = .next s := by
  simp only [execBackwardAppend, hrec]
  cases (s.stageLayers k).find? (fun l => l.layer == layer) with
  | none => rfl
  | some l => exact congrArg _ (if_pos (State.passed_over h))

end

/-! ## Waiting receipts (R238) -/

section
variable {x : StageSt} {v : Nat} {i : Fin 2}

theorem StageSt.shadowFor_held (hat : x.slotAt .shadow v = some i) : x.shadowFor v = some (x, i) := by
  simp only [StageSt.shadowFor, hat]

theorem StageSt.shadowFor_free (hat : x.slotAt .shadow v = none) (hin : x.slotIn .shadow = none) (hfree : x.slotIn .free = some i) :
    x.shadowFor v = some ({ x.setSlot i ⟨.shadow, v⟩ with waiting := none }, i) := by
  simp only [StageSt.shadowFor, hat, hin, hfree]

/-- A SHADOW slot of another version, or no FREE slot, makes a write wait. -/
theorem StageSt.shadowFor_none (hat : x.slotAt .shadow v = none) (hbusy : x.slotIn .shadow ≠ none ∨ x.slotIn .free = none) :
    x.shadowFor v = none := by
  simp only [StageSt.shadowFor, hat]
  rcases hbusy with hshadow | hfull
  · obtain ⟨j, hj⟩ := Option.ne_none_iff_exists'.mp hshadow
    rw [hj]
  · rw [hfull]
    cases x.slotIn .shadow <;> rfl

variable {s : State} {k : Nat}

theorem execReceiptStart_idle (hwait : (s.stage k).waiting = none) : execReceiptStart k s = .next s := by
  simp only [execReceiptStart, hwait]

/-- A waiting receipt starts when it has a SHADOW slot. -/
theorem execReceiptStart_waiting (hwait : (s.stage k).waiting = some v) :
    execReceiptStart k s = .next (((s.stage k).shadowFor v).elim s fun e => s.setStage k { e.1 with waiting := none }) := by
  simp only [execReceiptStart, hwait]
  cases (s.stage k).shadowFor v <;> rfl

end

/-- Settles O26: an entry that is due by whether its micro-batch has a weight slot, any other is passed over, and a receipt by whether it has a SHADOW
slot. -/
theorem studentScheduleResults : Obligations.StudentScheduleResults := by
  unfold Obligations.StudentScheduleResults
  refine ⟨fun s k step mb layer r l i x1 hrec hlayer hrun hdue => ?forward,
    fun s k step mb layer r l i v hrec hlayer hrun hdue => ?backward,
    fun s k step mb layer r hrec => ⟨execForwardAppend_passed_over hrec, execBackwardAppend_passed_over hrec⟩,
    fun s k => execReceiptStart_idle, fun s k v hwait => ?receipt⟩
  case forward =>
    have hexec : exec (.forwardAppend k step mb layer) s = _ := execForwardAppend_due hrec hlayer hrun hdue
    refine ⟨fun hbind => ?appended, fun hnew hwait => ?waits⟩
    case appended =>
      have hb : s.bindingFor k step mb layer = some (x1, i) := by
        rcases hbind with ⟨hbound, rfl⟩ | ⟨hnew, hfirst, hfree, hslot, rfl⟩
        · exact State.bindingFor_bound hbound
        · exact State.bindingFor_first hnew hfirst hfree hslot
      rw [hexec, hb, Option.elim_some]
      exact ⟨fun hre => by rw [State.stashForward, if_pos hre]; rfl,
        fun hkept => by rw [State.stashForward, if_neg (ne_true_of_eq_false hkept)]; rfl⟩
    case waits => rw [hexec, State.bindingFor_none hnew hwait, Option.elim_none]
  case backward =>
    intro q x slot s1 bwd hbound hlive
    have hexec : exec (.backwardAppend k step mb layer) s = _ := execBackwardAppend_due hrec hlayer hrun hdue hbound hlive
    refine ⟨fun b hstashed => ?_, fun hdropped => ?_⟩
    · rw [hexec, State.appendBackward, hstashed, Option.elim_some]
    · rw [hexec, State.appendBackward, hdropped, Option.elim_none]
  case receipt =>
    have hexec : exec (.receiptStart k) s = _ := execReceiptStart_waiting hwait
    refine ⟨fun i hat => ?_, fun i hat hin hfree => ?_, fun hat hbusy => ?_⟩
    · rw [hexec, StageSt.shadowFor_held hat, Option.elim_some]
    · rw [hexec, StageSt.shadowFor_free hat hin hfree, Option.elim_some]
    · rw [hexec, StageSt.shadowFor_none hat hbusy, Option.elim_none]

end Sys2Proof.Machine

namespace Sys2Proof.Machine

/-! ## Records of jobs (R262, R373) -/

section
variable {s : State} {n : Nat} {j : JobRec}

/-- A job is found under its own number. -/
theorem State.jobRec_job (h : s.jobRec n = some j) : j.job = n := by
  obtain ⟨p, -, hfind⟩ := Option.bind_eq_some_iff.mp h
  simpa using List.find?_some hfind

theorem State.jobSt_setJob (s : State) (n : Nat) (t : JobSt) : (s.setJob n t).jobSt n = t := by
  rw [State.jobSt, State.setJob_jobs, aget_aput_same, Option.getD_some]

end

/-! ## Job values after a marker (R253, R257, R265) -/

section
variable {s : State} {t : JobSt} {m : Marker}

theorem nextScale_growing {p : PolicyRec} {growth : Nat} (e : Int) (h : growth + 1 ≠ p.growth) :
    nextScale p true e growth = (e, growth + 1) := by
  rw [nextScale, if_pos rfl, if_neg h]

theorem nextScale_grown {p : PolicyRec} {growth : Nat} (e : Int) (h : growth + 1 = p.growth) :
    nextScale p true e growth = (min (e + 1) p.maxE, 0) := by
  rw [nextScale, if_pos rfl, if_pos h]

/-- With one value for both bounds the scale stays at it. -/
theorem nextScale_fixed {p : PolicyRec} (commit : Bool) (growth : Nat) (h : p.minE = p.maxE) : (nextScale p commit p.minE growth).1 = p.minE := by
  cases commit with
  | true =>
    by_cases hg : growth + 1 = p.growth
    · rw [nextScale_grown _ hg, ← h]
      exact min_eq_right (by omega)
    · rw [nextScale_growing _ hg]
  | false => exact max_eq_right (by omega)

theorem State.jobAfter_scale (s : State) (t : JobSt) (m : Marker) :
    ((s.jobAfter t m).e, (s.jobAfter t m).growth) = nextScale s.policyRec m.commit t.e t.growth := by
  unfold State.jobAfter
  cases m.commit <;> rfl

theorem State.jobAfter_e (s : State) (t : JobSt) (m : Marker) : (s.jobAfter t m).e = (nextScale s.policyRec m.commit t.e t.growth).1 :=
  congrArg Prod.fst (s.jobAfter_scale t m)

theorem State.jobAfter_growth (s : State) (t : JobSt) (m : Marker) :
    (s.jobAfter t m).growth = (nextScale s.policyRec m.commit t.e t.growth).2 :=
  congrArg Prod.snd (s.jobAfter_scale t m)

/-- A COMMIT makes its version the step under way, counts an update and turns the moment bank (R247, R265). -/
theorem State.jobAfter_commit (s : State) (t : JobSt) (h : m.commit = true) :
    (s.jobAfter t m).step = m.version ∧ (s.jobAfter t m).u = t.u + 1 ∧ (s.jobAfter t m).cur = !t.cur := by
  simp [State.jobAfter, h]

/-- A SKIP does none of that. -/
theorem State.jobAfter_skip (s : State) (t : JobSt) (h : m.commit = false) :
    (s.jobAfter t m).step = t.step ∧ (s.jobAfter t m).u = t.u ∧ (s.jobAfter t m).cur = t.cur := by
  simp [State.jobAfter, h]

/-- Either way the next step begins in this beat with no marker and no READY record. -/
theorem State.jobAfter_cleared (s : State) (t : JobSt) (m : Marker) :
    (s.jobAfter t m).marker = none ∧ (s.jobAfter t m).ready = [] ∧ (s.jobAfter t m).base = s.beat := by
  unfold State.jobAfter
  cases m.commit <;> exact ⟨rfl, rfl, rfl⟩

/-- The values depend on the plan and the beat alone. -/
theorem State.jobAfter_congr {u : State} (hplan : u.plan = s.plan) (hbeat : u.beat = s.beat) : u.jobAfter t m = s.jobAfter t m := by
  simp only [State.jobAfter, State.policyRec, State.planHist, hplan, hbeat]

end

/-! ## What a marker leaves of the jobs (R240, R265) -/

section
variable {α β : Type} {s : State}

/-- A fold keeps what each step keeps. -/
theorem foldl_kept (p : State → β) {f : State → α → State} (hf : ∀ t x, p (f t x) = p t) (l : List α) (t : State) :
    p (l.foldl f t) = p t := by
  induction l generalizing t with
  | nil => rfl
  | cons x rest ih => exact (ih _).trans (hf t x)

@[simp] theorem State.countCtx_jobs (b : Fin 8) (c : Fin 16) (n : Nat) : (s.countCtx b c n).jobs = s.jobs := rfl

theorem State.writeScales_jobs (j : JobRec) : (s.writeScales j).jobs = s.jobs :=
  foldl_kept State.jobs (fun t k => t.setScr_jobs k _ _) _ s

@[simp] theorem State.freeSample_jobs (d : DataRec) (slot : Nat) : (s.freeSample d slot).jobs = s.jobs := rfl

theorem State.commitSamples_jobs (c : Fin 8) (step : Nat) : (s.commitSamples c step).jobs = s.jobs := by
  unfold State.commitSamples
  split
  · rfl
  · split
    · rfl
    · exact foldl_kept State.jobs (fun t k => t.freeSample_jobs _ k) _ s

theorem State.append_jobs (a : Site) (e : StartEntry) : (s.append a e).jobs = s.jobs := by
  unfold State.append
  dsimp only
  split
  · rfl
  · split <;> rfl

theorem State.trigger_jobs (c : Fin 8) (r : SchedRec) (args : List Word) (tag : EntryTag) : (s.trigger c r args tag).jobs = s.jobs := by
  unfold State.trigger
  split
  · rfl
  · rw [State.append_jobs]
    split <;> rfl

theorem State.raiseEvent_jobs (c : Fin 8) (u : EventUnit) (args : List Word) (tag : EntryTag) : (s.raiseEvent c u args tag).jobs = s.jobs := by
  have hfold (l : List SchedRec) : (l.foldl (fun (t : State) r => t.trigger c r args tag) s).jobs = s.jobs :=
    foldl_kept State.jobs (fun t r => t.trigger_jobs c r args tag) l s
  unfold State.raiseEvent
  dsimp only
  split
  · exact hfold _
  · exact hfold _

/-- What a marker does before the job's own values: slots and row shadows, exchange channels, step accounts, captured values. -/
def State.markerData (s : State) (j : JobRec) (m : Marker) : State :=
  let s1 := (s.jobStages j).foldl (fun (v : State) r => v.setStage r.stage (((v.stage r.stage).commit m.commit m.version).retire)) s
  let s2 := if m.commit then s1.placeShadow j else s1.dropShadow j
  let s3 := (s.jobChans j).foldl (fun (v : State) r => v.setExch r.chan ((v.exchSt r.chan).endStep m.step m.commit)) s2
  let s4 := (s3.trainCtxs j).foldl (fun (v : State) c => v.writeAcct c m.step (!m.commit)) s3
  { s4 with capt := s4.capt.filter fun x => !(x.job == j.job && x.step == m.step) }

/-- What it does after them: scale words, samples or the journalled skip, commit events. -/
def State.markerEvents (s : State) (j : JobRec) (m : Marker) : State :=
  let s6 := s.writeScales j
  let s7 := if m.commit then (jobCtxs j).foldl (fun (v : State) c => v.commitSamples c m.step) s6
    else ((s6.studentCtxs j).foldl (fun (v : State) c => v.countCtx c ccStepSkip) s6).journal
      (.stepSkip j.job m.step ((if m.nfGrad then 1 else 0) + (if m.nfUpdate then 2 else 0)))
  (jobCtxs j).foldl (fun (v : State) c => v.raiseEvent c .commit [BitVec.ofNat 32 m.version] .plain) s7

theorem State.applyMarker_eq (s : State) (j : JobRec) (m : Marker) :
    s.applyMarker j m = ((s.markerData j m).setJob j.job ((s.markerData j m).jobAfter (s.jobSt j.job) m)).markerEvents j m := rfl

/-- The fields that the job's values are computed from and put into. -/
def State.jobInputs (s : State) : Option Plan × Nat × List (Nat × JobSt) := (s.plan, s.beat, s.jobs)

@[simp] theorem State.setStage_jobInputs (k : Nat) (x : StageSt) : (s.setStage k x).jobInputs = s.jobInputs := rfl
@[simp] theorem State.setExch_jobInputs (k : Nat) (x : ExchSt) : (s.setExch k x).jobInputs = s.jobInputs := rfl
@[simp] theorem State.placeShadow_jobInputs (j : JobRec) : (s.placeShadow j).jobInputs = s.jobInputs := rfl
@[simp] theorem State.dropShadow_jobInputs (j : JobRec) : (s.dropShadow j).jobInputs = s.jobInputs := rfl
@[simp] theorem State.writeAcct_jobInputs (c : Fin 8) (step : Nat) (skipped : Bool) : (s.writeAcct c step skipped).jobInputs = s.jobInputs := by
  simp only [State.writeAcct, State.jobInputs]
@[simp] theorem State.withCapt_jobInputs (l : List CaptSt) : ({ s with capt := l } : State).jobInputs = s.jobInputs := rfl

theorem State.markerData_jobInputs (j : JobRec) (m : Marker) : (s.markerData j m).jobInputs = s.jobInputs := by
  have hshadow (v : State) : (if m.commit then v.placeShadow j else v.dropShadow j).jobInputs = v.jobInputs := by split <;> simp
  unfold State.markerData
  rw [State.withCapt_jobInputs, foldl_kept State.jobInputs fun t c => t.writeAcct_jobInputs c _ _,
    foldl_kept State.jobInputs fun t r => t.setExch_jobInputs _ _, hshadow, foldl_kept State.jobInputs fun t r => t.setStage_jobInputs _ _]

theorem State.markerEvents_jobs (j : JobRec) (m : Marker) : (s.markerEvents j m).jobs = s.jobs := by
  unfold State.markerEvents
  dsimp only
  rw [foldl_kept State.jobs fun t c => t.raiseEvent_jobs c _ _ _]
  split
  · rw [foldl_kept State.jobs fun t c => t.commitSamples_jobs c m.step, State.writeScales_jobs]
  · rw [State.journal_jobs, foldl_kept State.jobs fun t c => t.countCtx_jobs c _ _, State.writeScales_jobs]

/-- Of all jobs a marker changes its own, to the values that follow it. -/
theorem State.applyMarker_jobs (s : State) (j : JobRec) (m : Marker) :
    (s.applyMarker j m).jobs = aput s.jobs j.job (s.jobAfter (s.jobSt j.job) m) := by
  obtain ⟨hplan, hbeat, hjobs⟩ : _ ∧ _ ∧ _ := by simpa only [State.jobInputs, Prod.mk.injEq] using State.markerData_jobInputs (s := s) j m
  rw [State.applyMarker_eq, State.markerEvents_jobs, State.setJob_jobs, hjobs, State.jobAfter_congr hplan hbeat]

theorem State.applyMarker_jobSt (s : State) (j : JobRec) (m : Marker) :
    (s.applyMarker j m).jobSt j.job = s.jobAfter (s.jobSt j.job) m := by
  rw [State.jobSt, State.applyMarker_jobs, aget_aput_same, Option.getD_some]

end

/-! ## The commit beat (R240, R265, R353, R396, R398) -/

section
variable {s : State} {n : Nat} {j : JobRec} {m : Marker}

/-- The marker applied, the checkpoint that is due with it taken, and what a halt in the same beat takes back kept. -/
def State.markerTaken (s : State) (n : Nat) (j : JobRec) (m : Marker) : State :=
  (if m.commit = true ∧ j.ckptEvery ≠ 0 ∧ m.version % j.ckptEvery = 0 then (s.applyMarker j m).takeCkpt j else s.applyMarker j m).keepUndo n
    (s.undoOf j (!m.commit))

/-- A job's student contexts stop (R353). -/
def State.drainJob (s : State) (n : Nat) (j : JobRec) : State :=
  ((s.studentCtxs j).foldl State.haltCtx s).setJob n { s.jobSt n with st := .none, ckpt := none, ckptHold := false }

theorem execCommitBeat_due (hrec : s.jobRec n = some j) (hmark : (s.jobSt n).marker = some m) (hrun : (s.jobSt n).st = .running)
    (hbeat : m.commitBeat = s.beat) :
    execCommitBeat n s = .next (let w := s.markerTaken n j m
      if w.dev = .drain then w.drainJob n j else ((w.tryReady j).runJob j).pumpAll) := by
  simp only [execCommitBeat, hrec, hmark, hrun, hbeat, bne_self_eq_false, Bool.or_self, Bool.false_eq_true, if_false, Bool.and_eq_true, bne_iff_ne,
    beq_iff_eq, and_assoc]
  rfl

theorem execCommitBeat_not_due (hrec : s.jobRec n = some j) (hmark : (s.jobSt n).marker = some m)
    (h : m.commitBeat ≠ s.beat ∨ (s.jobSt n).st ≠ .running) : execCommitBeat n s = .next s := by
  simp only [execCommitBeat, hrec, hmark]
  rcases h with hbeat | hst
  · rw [if_pos (by simp [hbeat])]
  · rw [if_pos (by simp [hst])]

end

/-- Settles O34: the marker changes of the jobs its own alone, to the values of `jobAfter`; the beat then stops the job or goes on with it. -/
theorem commitBeatResults : Obligations.CommitBeatResults := by
  unfold Obligations.CommitBeatResults
  intro s n j m hrec
  obtain rfl := State.jobRec_job hrec
  rw [State.applyMarker_jobSt]
  refine fun hmark => ⟨fun hrun hbeat => ?due, execCommitBeat_not_due hrec hmark, fun hcommit => ?commit, fun hskip => ?skip,
    State.jobAfter_cleared ..⟩
  case due =>
    have hexec : exec (.commitBeat j.job) s = _ := execCommitBeat_due hrec hmark hrun hbeat
    rw [hexec]
    exact ⟨fun hgoes => congrArg _ (if_neg hgoes), fun hdrain => congrArg _ (if_pos hdrain)⟩
  case commit =>
    obtain ⟨hstep, hu, hcur⟩ := s.jobAfter_commit (s.jobSt j.job) hcommit
    refine ⟨hstep, hu, hcur, ?_⟩
    rw [State.jobAfter_scale, hcommit]
    rfl
  case skip =>
    obtain ⟨hstep, hu, hcur⟩ := s.jobAfter_skip (s.jobSt j.job) hskip
    refine ⟨hstep, hu, hcur, ?_, ?_⟩
    · rw [State.jobAfter_e, hskip]
      rfl
    · rw [State.jobAfter_growth, hskip]
      rfl

end Sys2Proof.Machine

namespace Sys2Proof.Machine

/-! ## The leader's decision (R253, R263) -/

section
variable {s : State} {j : JobRec}

/-- The marker that the leader fixes from the combined READY record. -/
def State.leaderMarker (s : State) (j : JobRec) (c : ReadyRec) : Marker :=
  { job := j.job, step := c.step, version := c.version, commit := !(c.nfGrad || c.nfUpdate), nfGrad := c.nfGrad, nfUpdate := c.nfUpdate,
    commitBeat := s.beat + s.policyRec.commitLead, amax := c.amax }

/-- The manifest of a committed checkpoint leaves the job's marker as it is. -/
theorem State.commitCkpt_marker (s : State) (j : JobRec) (step : Nat) :
    ((s.commitCkpt j step).jobSt j.job).marker = (s.jobSt j.job).marker := by
  unfold State.commitCkpt
  dsimp only
  split
  · rfl
  · split
    · rfl
    · rw [State.jobSt_setJob]

/-- A leader without children decides from its own READY record. -/
theorem State.combineUp_alone {r : ReadyRec} (hopen : (s.jobSt j.job).readySent = false) (hready : aget (s.jobSt j.job).ready s.addr = some r)
    (hroot : s.treeParent j = none) (halone : s.treeChildren j = []) :
    ((s.combineUp j).jobSt j.job).marker = some (s.leaderMarker j r) := by
  simp only [State.combineUp, hopen, halone, hroot, hready, List.all_cons, List.all_nil, Option.isSome_some, Bool.and_self, Bool.not_true,
    Bool.or_self, Bool.false_eq_true, if_false, List.filterMap_cons, List.filterMap_nil, List.foldl_nil, List.map_nil]
  rw [State.commitCkpt_marker, State.jobSt, State.send_jobs, ← State.jobSt, State.jobSt_setJob]
  rfl

end

/-- Settles O35: the scale after a marker is `nextScale`, and a leader without children decides from its own record. -/
theorem lossScaleRule : Obligations.LossScaleRule := by
  unfold Obligations.LossScaleRule
  intro s t m
  dsimp only
  rw [State.jobAfter_e, State.jobAfter_growth]
  refine ⟨fun hcommit hgrow => ?_, fun hcommit hgrown => ?_, fun hskip => ?_, fun hfixed he => ?_, fun j r hopen hready hroot halone => ?_⟩
  · rw [hcommit, nextScale_growing _ hgrow]
    exact ⟨rfl, rfl⟩
  · rw [hcommit, nextScale_grown _ hgrown]
    exact ⟨rfl, rfl⟩
  · rw [hskip]
    exact ⟨rfl, rfl⟩
  · rw [he, nextScale_fixed _ _ hfixed]
  · rw [State.combineUp_alone hopen hready hroot halone]
    rfl

end Sys2Proof.Machine

namespace Sys2Proof.Machine

/-! ## The commit tree (R262 to R264, R389) -/

section
variable {s : State} {n : Nat} {j : JobRec}

/-- A READY record of a child is judged by its step, then by its version. -/
theorem execReady_from_child {origin : Nat} {r : ReadyRec} (hrec : s.jobRec r.job = some j) (hrun : (s.jobSt j.job).st = .running)
    (hchild : origin ∈ s.treeChildren j) (hopen : (s.jobSt j.job).readySent = false) :
    let t := s.jobSt j.job
    execReady origin r s = .next (
      if r.step ≠ t.step then s.faultJob 0x5041 j [s.addr, origin, t.step, r.step]
      else if r.version ≠ t.step + 1 then s.faultJob 0x5041 j [s.addr, origin, t.step + 1, r.version]
      else (s.setJob j.job { t with ready := aput t.ready origin r
                                    firstReady := if t.firstReady.isSome then t.firstReady else some s.beat }).combineUp j) := by
  simp only [execReady, hrec, hrun, hopen, hchild, State.mismatch, List.contains_eq_mem, decide_true, bne_self_eq_false, Bool.not_true, Bool.or_self,
    Bool.false_eq_true, if_false, bne_iff_ne]

/-- A marker's version agrees when it is the next one and that of every SHADOW slot of the job. -/
theorem State.otherVersion_eq_none_iff (s : State) (j : JobRec) (v : Nat) :
    s.otherVersion j v = none ↔ v = (s.jobSt j.job).step + 1 ∧ ∀ r ∈ s.jobStages j, ∀ i, (s.stage r.stage).slotIn .shadow = some i →
      (s.stage r.stage).slots[i].version = v := by
  simp only [State.otherVersion, List.find?_eq_none, List.forall_mem_cons, List.mem_filterMap, Option.map_eq_some_iff, bne_iff_ne, not_not,
    forall_exists_index, and_imp]
  exact and_congr eq_comm ⟨fun h r hr i hi => h _ r hr i hi rfl, fun h v r hr i hi hv => hv ▸ h r hr i hi⟩

/-- The value that a disagreeing marker is reported with differs from its version. -/
theorem State.otherVersion_ne {v w : Nat} (h : s.otherVersion j v = some w) : w ≠ v := by
  simpa using List.find?_some h

/-- A marker is judged by its commit beat, its step and its version, in that order. -/
theorem execCommitMarker_awaited {m : Marker} (hrec : s.jobRec m.job = some j) (hrun : (s.jobSt j.job).st = .running)
    (hnone : (s.jobSt j.job).marker = none) :
    let t := s.jobSt j.job
    let parent := (s.treeParent j).getD s.addr
    execCommitMarker m s = .next (
      if m.commitBeat ≤ s.beat then s.faultJob 0x6021 j [s.addr]
      else if m.step ≠ t.step then s.faultJob 0x5041 j [s.addr, parent, t.step, m.step]
      else (s.otherVersion j m.version).elim
        (((s.setJob j.job { t with marker := some m }).send ((s.treeChildren j).map fun a => .marker a m)).commitCkpt j m.step)
        fun v => s.faultJob 0x5041 j [s.addr, parent, v, m.version]) := by
  simp only [execCommitMarker, hrec, hrun, hnone, State.mismatch, bne_self_eq_false, Option.isSome_none, Bool.or_self, Bool.false_eq_true, if_false,
    bne_iff_ne]
  cases s.otherVersion j m.version <;> rfl

/-- A leader that has not decided is judged by the beats since its first READY record. -/
theorem execCommitTimeout_undecided {b : Nat} (hrec : s.jobRec n = some j) (hfirst : (s.jobSt n).firstReady = some b)
    (hrun : (s.jobSt n).st = .running) (hnone : (s.jobSt n).marker = none) (hroot : s.treeParent j = none) (hmember : s.isMember j = true) :
    execCommitTimeout n s = .next (if b + s.policyRec.commitLimit ≤ s.beat then s.faultJob 0x6020 j [s.addr] else s) := by
  simp only [execCommitTimeout, hrec, hfirst, hrun, hnone, hroot, hmember, beq_self_eq_true, Option.isNone_none, Bool.and_self, Bool.true_and,
    decide_eq_true_eq]

end

/-- Settles O33: a READY record, a marker and the leader's limit, each by the tests of its command in their order. -/
theorem commitTreeResults : Obligations.CommitTreeResults := by
  unfold Obligations.CommitTreeResults
  intro s n j hrec t
  refine ⟨fun origin r hjob hrun hchild hopen => ?ready, fun m hjob hrun hnone => ?marker, fun b hfirst hrun hnone hroot hmember => ?limit⟩
  case ready =>
    subst hjob
    have hexec : exec (.ready origin r) s = _ := execReady_from_child hrec hrun hchild hopen
    rw [hexec]
    refine ⟨fun hstep hver => ?_, fun hstep => congrArg _ (if_pos hstep), fun hstep hver => ?_⟩
    · rw [if_neg (not_not.mpr hstep), if_neg (not_not.mpr hver)]
    · rw [if_neg (not_not.mpr hstep), if_pos hver]
  case marker =>
    subst hjob
    intro agrees parent
    have hexec : exec (.commitMarker m) s = _ := execCommitMarker_awaited hrec hrun hnone
    rw [hexec]
    refine ⟨fun htime hstep hagree => ?_, fun hlate => congrArg _ (if_pos hlate), fun htime hstep => ?_, fun htime hstep hdiffer => ?_⟩
    · rw [if_neg (not_le.mpr htime), if_neg (not_not.mpr hstep), (s.otherVersion_eq_none_iff j _).mpr hagree, Option.elim_none]
    · rw [if_neg (not_le.mpr htime), if_pos hstep]
    · obtain ⟨v, hv⟩ := Option.ne_none_iff_exists'.mp (mt (s.otherVersion_eq_none_iff j _).mp hdiffer)
      refine ⟨v, State.otherVersion_ne hv, ?_⟩
      rw [if_neg (not_le.mpr htime), if_neg (not_not.mpr hstep), hv, Option.elim_some]
  case limit =>
    have hexec : exec (.commitTimeout n) s = _ := execCommitTimeout_undecided hrec hfirst hrun hnone hroot hmember
    rw [hexec]
    exact ⟨fun hlate => congrArg _ (if_pos hlate), fun hearly => congrArg _ (if_neg (not_le.mpr hearly))⟩

end Sys2Proof.Machine

namespace Sys2Proof.Machine

/-! ## The start of a job (R243, R256, R373, R389, R398, R408) -/

section
variable {s : State} {n : Nat} {j : JobRec}

/-- A child's first start-ready record is held and combined. -/
theorem execStartReady_first {origin : Nat} (hrec : s.jobRec n = some j) (hchild : origin ∈ s.treeChildren j)
    (hnew : origin ∉ (s.jobSt n).startReady) (hidle : (s.jobSt n).st ≠ .running) :
    execStartReady n origin s =
      .next ((s.setJob n { s.jobSt n with startReady := (s.jobSt n).startReady ++ [origin] }).combineStart j) := by
  simp [execStartReady, hrec, hchild, hnew, hidle]

theorem execStartReady_passed_over {origin : Nat} (hrec : s.jobRec n = some j)
    (h : origin ∉ s.treeChildren j ∨ origin ∈ (s.jobSt n).startReady ∨ (s.jobSt n).st = .running) : execStartReady n origin s = .next s := by
  simp only [execStartReady, hrec]
  rw [if_pos]
  rcases h with hstranger | hsecond | hrun
  · simp [hstranger]
  · simp [hsecond]
  · simp [hrun]

/-- A start record is judged by its formation, then by its beat. -/
theorem execStartRecord_awaited {f b : Nat} (hrec : s.jobRec n = some j) (hst : (s.jobSt n).st = .starting)
    (hnone : (s.jobSt n).startBeat = none) :
    execStartRecord n f b s = .next (
      if f ≠ s.form then s.faultJob 0x5041 j [s.addr, (s.treeParent j).getD s.addr, s.form, f]
      else if b ≤ s.beat then s.faultJob 0x5042 j [s.addr]
      else (s.setJob n { s.jobSt n with startBeat := some b }).send ((s.treeChildren j).map fun a => .startRecord a n f b)) := by
  simp only [execStartRecord, hrec, hst, hnone, State.mismatch, bne_self_eq_false, Option.isSome_none, Bool.or_self, Bool.false_eq_true, if_false,
    bne_iff_ne]

/-- The job as its start beat leaves it: a first start begins from the initial values (R243, R252, R257). -/
def State.startedJob (s : State) (t : JobSt) : JobSt :=
  { (if t.started = true then t else s.initJob t) with
    st := .running, attempt := t.attempt + 1, notified := false, base := s.beat, startBeat := none, startReady := [], startSent := false
    started := true, substituted := false }

/-- The device with the job running, its contexts armed and its scale words written. -/
def State.begun (s : State) (n : Nat) (j : JobRec) : State :=
  ((jobCtxs j).foldl State.startCtx
    { s.setJob n (s.startedJob (s.jobSt n)) with dev := if s.dev = .joined then .run else s.dev }).writeScales j

theorem execStartBeat_due (hrec : s.jobRec n = some j) (hst : (s.jobSt n).st = .starting) (hbeat : (s.jobSt n).startBeat = some s.beat)
    (hdev : s.dev ≠ .drain) :
    execStartBeat n s = .next ((((if (s.jobSt n).started = false ∨ (s.jobSt n).substituted = true then (s.begun n j).takeCkpt j
      else s.begun n j).keepUndo n (s.undoOf j false)).tryReady j).runJob j).pumpAll := by
  have hdue : ((s.jobSt n).st != .starting || (s.jobSt n).startBeat != some s.beat || s.dev == .drain) = false := by simp [hst, hbeat, hdev]
  simp only [execStartBeat, hrec, hdue, Bool.false_eq_true, if_false, Bool.or_eq_true, Bool.not_eq_true', beq_iff_eq, State.begun, State.startedJob]
  cases (s.jobSt n).started <;> rfl

theorem execStartBeat_not_due (hrec : s.jobRec n = some j)
    (h : (s.jobSt n).st ≠ .starting ∨ (s.jobSt n).startBeat ≠ some s.beat ∨ s.dev = .drain) : execStartBeat n s = .next s := by
  simp only [execStartBeat, hrec]
  rw [if_pos]
  rcases h with hst | hbeat | hdrain
  · simp [hst]
  · simp [hbeat]
  · simp [hdrain]

end

/-- Settles O37: start-ready and start records by the tests of their commands, and the start beat by whether the start takes a checkpoint. -/
theorem startResults : Obligations.StartResults := by
  unfold Obligations.StartResults
  intro s n origin f b j hrec t
  refine ⟨execStartReady_first hrec, execStartReady_passed_over hrec, fun hst hnone hform htime => ?inTime, fun hst hnone hform => ?otherForm,
    fun hst hnone hform hlate => ?late, fun hst hbeat hdev => ?due, execStartBeat_not_due hrec⟩
  case due =>
    intro t1 s1 s3 goes
    have hexec : exec (.startBeat n) s = _ := execStartBeat_due hrec hst hbeat hdev
    refine ⟨fun hstarted hkept => hexec.trans ?_, fun hckpt => hexec.trans ?_⟩
    · rw [if_neg (by rw [hstarted, hkept]; decide)]
      rfl
    · rw [if_pos hckpt]
      rfl
  all_goals
    have hexec : exec (.startRecord n f b) s = _ := execStartRecord_awaited hrec hst hnone
    rw [hexec]
  case inTime => rw [if_neg (not_not.mpr hform), if_neg (not_le.mpr htime)]
  case otherForm => rw [if_pos hform]
  case late => rw [if_neg (not_not.mpr hform), if_pos hlate]

end Sys2Proof.Machine

namespace Sys2Proof.Machine

/-! ## FUU_UPDATE (R246, R249) -/

section
variable {s : State} {ch : Nat} {r : ExchRec}

theorem execFuuUpdate_not_owner (hrec : s.exchRec ch = some r) (h : s.jobRunning r.ctx = false ∨ r.owner ≠ s.addr) :
    execFuuUpdate ch s = .next s := by
  simp only [execFuuUpdate, hrec]
  rw [if_pos]
  rcases h with hstop | hother
  · simp [hstop]
  · simp [hother]

section
variable (hrec : s.exchRec ch = some r) (hrun : s.jobRunning r.ctx = true) (howner : r.owner = s.addr)
include hrec hrun howner

theorem execFuuUpdate_sparse (hsparse : r.sparse = true) : execFuuUpdate ch s = .next (s.fuuSparse r) := by
  simp [execFuuUpdate, hrec, hrun, howner, hsparse]

theorem execFuuUpdate_dense (hdense : r.sparse = false) {x : SumSt} {rest : List SumSt} (hsums : (s.exchSt ch).sums = x :: rest) :
    execFuuUpdate ch s = .next (s.fuuBucket r x rest) := by
  simp [execFuuUpdate, hrec, hrun, howner, hdense, hsums]

theorem execFuuUpdate_idle (hdense : r.sparse = false) (hsums : (s.exchSt ch).sums = []) : execFuuUpdate ch s = .next s := by
  simp [execFuuUpdate, hrec, hrun, howner, hdense, hsums]

end
end

/-! ## Ranges of parameters (R238, R248, R279 to R281, R413) -/

section
variable {s : State} {r : ExchRec} {c : ParamChunk} {b : BucketRec} {u : UpdRec} {st : StageRec}

/-- A range stored into SHADOW slot `sh` of the stage `x1`, with its copies, counted as received and sent on. -/
def State.takeRange (s : State) (r : ExchRec) (st : StageRec) (u : UpdRec) (b : BucketRec) (c : ParamChunk) (x1 : StageSt) (sh : Fin 2) : State :=
  let v := s.exchStep r + 1
  let s1 := c.vals.zipIdx.foldl (fun (t : State) e =>
    t.putWeight st.ctx (s.slotAddr st sh) u (v - 1) (weightIndex u b (c.off + e.2)) e.1.toNat) (s.setStage u.stage x1)
  let y := s1.exchSt r.chan
  let s2 := s1.setExch r.chan { y with got := aput y.got c.idx ((aget y.got c.idx).getD 0 + c.vals.length) }
  (s2.routeChildren r).foldl (fun (t : State) d => t.sendParam d c) s2

/-- After a range the counter of the channel increments when every bucket has come whole, and READY is tried. -/
def State.endRange (s : State) (r : ExchRec) : State :=
  let whole := r.buckets.zipIdx.all fun e => decide (e.1.elems ≤ (aget (s.exchSt r.chan).got e.2).getD 0)
  (if whole then s.bumpEntry r.recvCnt 1 else s).tryReadyCtx r.ctx

theorem State.endRange_whole (h : ∀ e ∈ r.buckets.zipIdx, e.1.elems ≤ (aget (s.exchSt r.chan).got e.2).getD 0) :
    s.endRange r = (s.bumpEntry r.recvCnt 1).tryReadyCtx r.ctx := by
  rw [State.endRange, if_pos (by simpa only [List.all_eq_true, decide_eq_true_eq] using h)]

theorem State.endRange_part (h : ¬ ∀ e ∈ r.buckets.zipIdx, e.1.elems ≤ (aget (s.exchSt r.chan).got e.2).getD 0) :
    s.endRange r = s.tryReadyCtx r.ctx := by
  rw [State.endRange, if_neg (by simpa only [List.all_eq_true, decide_eq_true_eq] using h)]

theorem execParameterChunk_elsewhere {dst : Nat} (c : ParamChunk) (h : dst ≠ s.addr) :
    execParameterChunk ⟨dst, c⟩ s = .next (s.sendParam dst c) := by
  simp [execParameterChunk, h]

/-- A range for this device is judged by the state of its job, then by its version, and stored when the stage has a slot for it. -/
theorem execParameterChunk_here (hrec : s.exchRec c.chan = some r) (hbucket : r.buckets[c.idx]? = some b) (hupd : s.updRec b.tensorId = some u)
    (hstage : s.stageRec u.stage = some st) :
    let v := s.exchStep r + 1
    let x := s.stage u.stage
    execParameterChunk ⟨s.addr, c⟩ s = .next (
      if (s.ctxJob r.ctx).st = .restoring ∨ (s.ctxJob r.ctx).st = .starting then s.restoreChunk r st u b c
      else if s.jobRunning r.ctx = false then s
      else if c.version ≠ v then (s.faultCtx 0x5041 r.ctx [s.addr, r.owner, v, c.version]).pumpAll
      else (x.shadowFor v).elim (s.setStage u.stage (x.waitFor v)) fun e =>
        (s.takeRange r st u b c e.1 e.2).endRange r) := by
  simp only [execParameterChunk, hrec, hbucket, hupd, hstage, bne_self_eq_false, Bool.false_eq_true, if_false, Bool.or_eq_true, beq_iff_eq,
    Bool.not_eq_true', bne_iff_ne]
  cases (s.stage u.stage).shadowFor (s.exchStep r + 1) <;> rfl

end

/-! ## Row-sparse lists and row shadows (R249 to R251) -/

section
variable {s : State} {ch : Nat} {r : ExchRec}

/-- A list at the owner of a running sparse channel is passed over when its source has one of the step there; otherwise it is judged by its step and
by the room in the staging area. -/
theorem execSparseList_owner (l : SparseList) (hrec : s.exchRec ch = some r) (howner : r.owner = s.addr) (hsparse : r.sparse = true)
    (hrun : s.jobRunning r.ctx = true) :
    let x := s.exchSt ch
    execSparseList ch l s = .next (
      if ∃ y ∈ x.lists, y.source = l.source ∧ y.step = l.step then s
      else if l.step ≠ s.exchStep r then (s.faultCtx 0x5041 r.ctx [s.addr, l.source, s.exchStep r, l.step]).pumpAll
      else if s.sparseRoom r l = false then s
      else (s.setExch ch { x with lists := x.lists ++ [l] }).enterSparse r l.step) := by
  simp only [execSparseList, hrec, howner, hsparse, hrun, bne_self_eq_false, Bool.not_true, Bool.or_self, Bool.false_or, List.any_eq_true,
    Bool.and_eq_true, beq_iff_eq, bne_iff_ne, Bool.not_eq_true']

theorem execRowShadowCopyComplete_awaited {tb : Nat} (h : tb ∈ s.shadowCopy) :
    execRowShadowCopyComplete tb s = .next { s with shadowCopy := s.shadowCopy.filter (· != tb) } :=
  congrArg _ (if_pos (List.contains_iff_mem.mpr h))

theorem execRowShadowCopyComplete_passed_over {tb : Nat} (h : tb ∉ s.shadowCopy) : execRowShadowCopyComplete tb s = .next s :=
  congrArg _ (if_neg (mt List.contains_iff_mem.mp h))

end

/-- Settles O39: updates at the owner, ranges by the tests of their command in their order, sparse lists, and row-shadow copies. -/
theorem updateResults : Obligations.UpdateResults := by
  unfold Obligations.UpdateResults
  refine ⟨fun s ch r hrec => ⟨fun hrun howner hdense => ⟨fun x rest => execFuuUpdate_dense hrec hrun howner hdense,
      execFuuUpdate_idle hrec hrun howner hdense⟩, execFuuUpdate_sparse hrec, execFuuUpdate_not_owner hrec⟩,
    fun s dst c => execParameterChunk_elsewhere c, fun s r c b u st hrec hbucket hupd hstage => ?range,
    fun s ch r l hrec howner hsparse hrun => ?list, fun s tb => ⟨execRowShadowCopyComplete_awaited, execRowShadowCopyComplete_passed_over⟩⟩
  case range =>
    intro i v x restoring
    have hexec : exec i s = _ := execParameterChunk_here hrec hbucket hupd hstage
    refine ⟨fun hrestore => hexec.trans (congrArg _ (if_pos hrestore)),
      fun hnormal hstop => hexec.trans (congrArg _ ((if_neg hnormal).trans (if_pos hstop))), fun hnormal hrun => ?_⟩
    rw [if_neg hnormal, if_neg (ne_false_of_eq_true hrun)] at hexec
    refine ⟨fun hother => hexec.trans (congrArg _ (if_pos hother)), fun hnext hwait => ?_, fun x1 sh hnext hslot => ?_⟩
    all_goals rw [if_neg (not_not.mpr hnext)] at hexec
    · exact hexec.trans (by rw [hwait, Option.elim_none])
    · intro s1 y s2 s3 whole
      rw [hslot, Option.elim_some] at hexec
      exact ⟨fun hwhole => hexec.trans (congrArg _ (State.endRange_whole hwhole)),
        fun hpart => hexec.trans (congrArg _ (State.endRange_part hpart))⟩
  case list =>
    have hexec : exec (.sparseList ch l) s = _ := execSparseList_owner l hrec howner hsparse hrun
    dsimp only
    rw [hexec]
    refine ⟨fun hsecond => congrArg _ (if_pos hsecond), fun hfirst => ?_⟩
    rw [if_neg (by rintro ⟨y, hy, hsource, hstep⟩; exact (hfirst y hy).elim (· hsource) (· hstep))]
    refine ⟨fun hother => congrArg _ (if_pos hother), fun hstep hfull => ?_, fun hstep hroom => ?_⟩
    · rw [if_neg (not_not.mpr hstep), if_pos hfull]
    · rw [if_neg (not_not.mpr hstep), if_neg (ne_false_of_eq_true hroom)]

end Sys2Proof.Machine

namespace Sys2Proof.Machine

/-! ## Chunks at the adders (R273, R275, R283, R294 to R296) -/

section
variable {s : State} {r : ExchRec} {c : Chunk}

/-- What the adders take up: a chunk of a running job, of another kind than parameters and of a bucket of its channel. -/
abbrev State.chunkRuns (s : State) (r : ExchRec) (c : Chunk) : Prop :=
  s.jobRunning r.ctx = true ∧ c.kind ≠ .parameters ∧ c.idx < r.buckets.length

/-- A check copy whose reduction is complete, on its way back for the comparison of R295. -/
abbrev State.chunkFinal (s : State) (r : ExchRec) (c : Chunk) : Prop := c.check = true ∧ s.lastBit r c ≤ c.bit

/-- STATE_MISMATCH of a chunk at a device that expects `step` (R296, R389). -/
abbrev State.chunkMismatch (s : State) (r : ExchRec) (c : Chunk) (step : Nat) : State :=
  (s.faultCtx 0x5041 r.ctx [s.addr, c.node, step, c.step]).pumpAll

theorem execChunk_elsewhere {dst : Nat} (c : Chunk) (h : dst ≠ s.addr) : execChunk ⟨dst, c⟩ s = .next (s.sendChunk dst c) := by
  simp [execChunk, h]

/-- A chunk for this device is judged by its job and bucket, then by its kind, then by its credit and its step. -/
theorem execChunk_here (hrec : s.exchRec c.chan = some r) :
    let x := s.exchSt c.chan
    let step := s.exchStep r
    execChunk ⟨s.addr, c⟩ s = .next (
      if ¬ s.chunkRuns r c then s
      else if c.kind = .lowPhQ then if c.step ≠ step + 1 then s.chunkMismatch r c (step + 1) else s.lowBroadcast r c
      else if ¬ s.chunkFinal r c ∧ s.credit r step c.idx c.check = false then s
      else if c.step ≠ step then s.chunkMismatch r c step
      else if s.chunkFinal r c then (((s.setExch c.chan { x with checks := x.checks ++ [c] }).compare r c).tryReadyCtx r.ctx).pumpAll
      else (((s.addChunk r c).settleLeaves r c.step).tryReadyCtx r.ctx).pumpAll) := by
  have hruns : (!s.jobRunning r.ctx || c.kind == .parameters || decide (r.buckets.length ≤ c.idx)) = true ↔ ¬ s.chunkRuns r c := by
    simp [State.chunkRuns, or_assoc, imp_iff_not_or]
  have hfinal : (c.check && decide (s.lastBit r c ≤ c.bit)) = decide (s.chunkFinal r c) := by simp [State.chunkFinal]
  simp only [execChunk, hrec, bne_self_eq_false, Bool.false_eq_true, if_false, hruns, hfinal, beq_iff_eq, bne_iff_ne, Bool.and_eq_true,
    Bool.not_eq_true', decide_eq_false_iff_not, decide_eq_true_eq, apply_ite (fun t : State => (t.tryReadyCtx r.ctx).pumpAll)]

end

/-! ## The straggler deadline (R286 to R290) -/

section
variable {s : State} {ch idx : Nat} {r : ExchRec} {b : BucketRec}

/-- A contribution that is late at the deadline: not entered before it, or treated so by a replay, and not yet marked late (R286, R407). -/
abbrev State.lateNow (s : State) (r : ExchRec) (ch idx : Nat) : Prop :=
  let l := (s.exchSt ch).leaf idx (s.exchStep r)
  s.deadline r ≤ s.beat ∧ ¬ ((∃ e, l.entry = some e ∧ e < s.deadline r) ∧ s.replayExcluded r idx (s.exchStep r) = false) ∧ l.late = false

/-- A late contribution marked, with the carry that it makes or drops, counted and journalled (R287 to R290). -/
def State.markLate (s : State) (r : ExchRec) (ch idx : Nat) : State :=
  let step := s.exchStep r
  let x := s.exchSt ch
  let twice := if r.sparse then (s.sparseCarry r step).isSome else (x.carryFor idx step).isSome
  let carry := decide (s.policy r idx step = 1) && !twice
  let y := x.setLeaf { x.leaf idx step with late := true, drop := !carry, exp := (s.ctxJob r.ctx).e }
  let s1 := s.setExch ch { y with
    carries := if twice then y.carries.filter fun c => !(c.idx == idx) else y.carries
    own := if carry then y.own else y.own.filter fun w => !(w.step == step || twice && w.step + 1 == step) }
  let s2 := if carry then s1.countCtx r.ctx ccStragglerCarry else s1.countCtx r.ctx ccStragglerDrop (if twice then 2 else 1)
  let id := ((s.jobOf r.ctx).map (·.job)).getD 0
  s2.journalStraggler id (.straggler id step ch idx s.addr (s.policy r idx step))

/-- The excluded contribution of a late one leaves: an empty list on a sparse channel, else a leaf whose data is carried or dropped once whole. -/
def State.enterExcluded (s : State) (r : ExchRec) (b : BucketRec) (ch idx step : Nat) : State :=
  if r.sparse then s.enterSparse r step
  else (if ((s.exchSt ch).leaf idx step).data.length < b.elems then s
    else s.lateData r b ((s.exchSt ch).leaf idx step)).settleLeaves r step

theorem State.enterExcluded_sparse {step : Nat} (h : r.sparse = true) : s.enterExcluded r b ch idx step = s.enterSparse r step := if_pos h

theorem State.enterExcluded_part {step : Nat} (h : r.sparse = false) (hpart : ((s.exchSt ch).leaf idx step).data.length < b.elems) :
    s.enterExcluded r b ch idx step = s.settleLeaves r step := by
  rw [State.enterExcluded, if_neg (ne_true_of_eq_false h), if_pos hpart]

theorem State.enterExcluded_whole {step : Nat} (h : r.sparse = false) (hwhole : b.elems ≤ ((s.exchSt ch).leaf idx step).data.length) :
    s.enterExcluded r b ch idx step = (s.lateData r b ((s.exchSt ch).leaf idx step)).settleLeaves r step := by
  rw [State.enterExcluded, if_neg (ne_true_of_eq_false h), if_neg (Nat.not_lt.mpr hwhole)]

/-- Of a member of a running channel, a contribution that is late faults under WAIT and is excluded under CARRY and DROP. -/
theorem execStragglerDeadline_member (hrec : s.exchRec ch = some r) (hrun : s.jobRunning r.ctx = true) (hmem : s.addr ∈ r.members)
    (hbucket : r.buckets[idx]? = some b) :
    let step := s.exchStep r
    execStragglerDeadline ch idx s = .next (
      if ¬ s.lateNow r ch idx then s
      else if s.policy r idx step = 0 then (s.faultCtx 0x6030 r.ctx [s.addr, ch]).pumpAll
      else (((s.markLate r ch idx).enterExcluded r b ch idx step).tryReadyCtx r.ctx).pumpAll) := by
  have hmember : r.members.contains s.addr = true := List.contains_iff_mem.mpr hmem
  simp only [execStragglerDeadline, hrec, hbucket, hrun, hmember, Bool.not_true, Bool.or_false]
  congr 1
  refine if_congr ?_ rfl rfl
  cases hentry : ((s.exchSt ch).leaf idx (s.exchStep r)).entry with
  | none => simp [State.lateNow, hentry, imp_iff_not_or]
  | some e => simp [State.lateNow, hentry, imp_iff_not_or, or_assoc]

end

/-! ## The exchange time limit (R291) -/

theorem execExchTimeout_running {s : State} {ch : Nat} {r : ExchRec} (hrec : s.exchRec ch = some r) (hrun : s.jobRunning r.ctx = true) :
    execExchTimeout ch s = .next (
      if s.deadline r + s.img.exch.exchLimit ≤ s.beat ∧ s.exchPending r = true then (s.faultCtx 0x6031 r.ctx [s.addr, ch]).pumpAll else s) := by
  simp only [execExchTimeout, hrec, hrun, Bool.and_true, Bool.and_eq_true, decide_eq_true_eq]

/-- Settles O38: chunks, the straggler deadline and the time limit by the tests of their commands in their order. -/
theorem exchangeResults : Obligations.ExchangeResults := by
  unfold Obligations.ExchangeResults
  refine ⟨fun s dst c => execChunk_elsewhere c, fun s r c hrec => ?chunk, fun s ch idx r b hrec hrun hmem hbucket => ?straggler,
    fun s ch r hrec hrun => ?timeout⟩
  case chunk =>
    intro i x step runs final held mismatch
    have hexec : exec i s = _ := execChunk_here hrec
    refine ⟨fun hstop => hexec.trans (congrArg _ (if_pos hstop)), fun hruns hlow hother => ?_, fun hruns hlow hnext => ?_,
      fun hruns hkind hwait => ?_, fun hruns hkind hcredit hother => ?_, fun hruns hkind hstep hfinal => ?_,
      fun hruns hkind hcredit hstep hpart => ?_⟩
    all_goals rw [if_neg (not_not.mpr hruns)] at hexec
    · exact hexec.trans (by rw [if_pos hlow, if_pos hother])
    · exact hexec.trans (by rw [if_pos hlow, if_neg (not_not.mpr hnext)])
    · exact hexec.trans (by rw [if_neg hkind, if_pos hwait])
    · exact hexec.trans (by rw [if_neg hkind, if_neg hcredit, if_pos hother])
    · exact hexec.trans (by rw [if_neg hkind, if_neg fun hwait => hwait.1 hfinal, if_neg (not_not.mpr hstep), if_pos hfinal])
    · exact hexec.trans (by rw [if_neg hkind, if_neg hcredit, if_neg (not_not.mpr hstep), if_neg hpart])
  case straggler =>
    have hexec : exec (.stragglerDeadline ch idx) s = _ := execStragglerDeadline_member hrec hrun hmem hbucket
    intro step x l inTime late
    refine ⟨fun htime => hexec.trans (congrArg _ (if_pos htime)), fun hlate hwait => ?_, fun hlate hgoes => ?_⟩
    all_goals rw [if_neg (not_not.mpr hlate)] at hexec
    · exact hexec.trans (congrArg _ (if_pos hwait))
    · rw [if_neg hgoes] at hexec
      have hexcluded : ∀ t, (s.markLate r ch idx).enterExcluded r b ch idx step = t →
          exec (.stragglerDeadline ch idx) s = .next (t.tryReadyCtx r.ctx).pumpAll := by
        rintro t rfl
        exact hexec
      intro twice carry y s1 s2 id s3 l1
      exact ⟨fun hsparse => hexcluded _ (State.enterExcluded_sparse hsparse),
        fun hdense hpart => hexcluded _ (State.enterExcluded_part hdense hpart),
        fun hdense hwhole => hexcluded _ (State.enterExcluded_whole hdense hwhole)⟩
  case timeout =>
    have hexec : exec (.exchTimeout ch) s = _ := execExchTimeout_running hrec hrun
    refine ⟨fun hlimit hpending => hexec.trans (congrArg _ (if_pos ⟨hlimit, hpending⟩)), fun h => hexec.trans (congrArg _ (if_neg ?_))⟩
    rintro ⟨hlimit, hpending⟩
    exact h.elim (fun hbefore => absurd hlimit (Nat.not_le.mpr hbefore)) fun hidle => ne_false_of_eq_true hpending hidle

end Sys2Proof.Machine

namespace Sys2Proof.Machine

/-! ## What every command leaves, and the step (R356, Table 15-2) -/

/-- Settles O5: it is what every command keeps, without the legal form of cores and memory. -/
theorem nothingIsUndone : Obligations.NothingIsUndone := by
  unfold Obligations.NothingIsUndone
  intro i s t hexec
  have hkeeps : Keeps s t := exec_keeps i s t hexec
  exact ⟨hkeeps.pending, hkeeps.deviceId, hkeeps.out, hkeeps.owners, hkeeps.svn, hkeeps.epochs⟩

section
variable {s : State}

/-- Without power no time passes. -/
theorem State.tick_unpowered (hpow : s.powered = false) : s.tick = s := by
  simp [State.tick, hpow]

/-- Within a beat 1 ns passes. -/
theorem State.tick_within_beat (hpow : s.powered = true) (hph : s.phase + 1 < s.period) : s.tick = { s with phase := s.phase + 1 } := by
  simp [State.tick, hpow, hph]

/-- In the last ns of a beat the next beat begins as BEAT_BOUNDARY begins it. -/
theorem next_tick_at_end (hpow : s.powered = true) (hph : s.period ≤ s.phase + 1) :
    (.next s.tick : Host.Outcome State Fault Refusal) = exec .beatBoundary s := by
  have hexec : exec .beatBoundary s = execBeatBoundary s := rfl
  simp [hexec, execBeatBoundary, State.tick, hpow, hph.not_gt]

end

/-- Settles O1: the queue's front is the case split of `step`, and the phase that of the time base. -/
theorem stepRunsTheFrontCommand : Obligations.StepRunsTheFrontCommand := by
  unfold Obligations.StepRunsTheFrontCommand
  intro s c rest
  refine ⟨fun hq => step_pending hq, fun hq => ?_⟩
  rw [step_no_pending hq]
  exact ⟨fun hpow => by rw [State.tick_unpowered hpow], fun hpow hph => by rw [State.tick_within_beat hpow hph], next_tick_at_end⟩

end Sys2Proof.Machine

namespace Sys2Proof.Machine

/-! ## What leaves by a session (R490, R491, R503) -/

section
variable (s : State)

/-- Frames that leave a session change the sessions and what has been sent. -/
theorem State.flushTx_only (n : Nat) : ∃ a o, s.flushTx n = { s with sessions := a, out := o } := by
  unfold State.flushTx
  split
  · exact ⟨_, _, rfl⟩
  · split <;> exact ⟨_, _, rfl⟩

/-- A data frame of the device changes the sessions and what has been sent. -/
theorem State.sendFrame_only (n : Nat) (w : FrameOut) : ∃ a o, s.sendFrame n w = { s with sessions := a, out := o } := by
  unfold State.sendFrame
  split
  · exact ⟨_, _, rfl⟩
  · obtain ⟨a, o, h⟩ := State.flushTx_only (s.setSession n _) n
    exact ⟨a, o, h⟩

/-- Steps of which each changes the sessions and what has been sent do so together. -/
theorem State.foldl_sends_only {α : Type} {f : State → α → State} (hf : ∀ t x, ∃ a o, f t x = { t with sessions := a, out := o }) (l : List α) :
    ∃ a o, l.foldl f s = { s with sessions := a, out := o } := by
  induction l generalizing s with
  | nil => exact ⟨_, _, rfl⟩
  | cons x r ih =>
    obtain ⟨a, o, h⟩ := hf s x
    obtain ⟨b, p, h'⟩ := ih (f s x)
    exact ⟨b, p, by rw [List.foldl_cons, h', h]⟩

/-- A MGMT report changes the sessions, the waiting reports, a device counter and what has been sent. -/
theorem State.report_only (code : Nat) (d : ReportDetail) :
    ∃ a r c o, s.report code d = { s with sessions := a, reports := r, devCnt := c, out := o } := by
  unfold State.report State.reportFrom
  split
  · split <;> exact ⟨_, _, _, _, rfl⟩
  · obtain ⟨a, o, h⟩ := s.foldl_sends_only (fun t n => t.sendFrame_only n (.report ⟨code, s.addr, d⟩)) (s.operators)
    exact ⟨a, _, _, o, by simpa only using h⟩

@[simp] theorem State.report_vine (code : Nat) (d : ReportDetail) : (s.report code d).vine = s.vine := by
  obtain ⟨a, r, c, o, h⟩ := s.report_only code d
  rw [h]

@[simp] theorem State.report_err (code : Nat) (d : ReportDetail) : (s.report code d).err = s.err := by
  obtain ⟨a, r, c, o, h⟩ := s.report_only code d
  rw [h]

@[simp] theorem State.formReport_vine (code : Nat) (v : List Nat) : (s.formReport code v).vine = s.vine := State.report_vine _ _ _
@[simp] theorem State.formReport_err (code : Nat) (v : List Nat) : (s.formReport code v).err = s.err := State.report_err _ _ _

end

end Sys2Proof.Machine

namespace Sys2Proof.Machine

/-! ## The Vine: enumeration, straps, states and the early beat (R375 to R379, R471) -/

section
variable {s : State}

/-! ### ENUM -/

theorem execEnum_down (h : s.vineUp = false) (f : EnumIn) : execEnum f s = .next s := by
  simp [execEnum, h]

/-- A device with ROOTSEL that hears another's ENUM stops driving VINE_CK and sends the frame on. -/
theorem execEnum_other_master {next : Nat} (hup : s.vineUp = true) (hroot : s.straps.rootSel = true) :
    execEnum ⟨next, false⟩ s =
      .next ((State.formReport { s with vine := { s.vine with stopped := true, enumOut := false } } 0x5011 []).sendVine (.enum next)) := by
  simp [execEnum, hup, hroot]

theorem execEnum_own_not_awaited {next : Nat} (hup : s.vineUp = true) (hroot : s.straps.rootSel = true)
    (h : s.isMaster = false ∨ s.vine.enumOut = false) : execEnum ⟨next, true⟩ s = .next s := by
  have hno : (!s.isMaster || !s.vine.enumOut) = true := by rcases h with h | h <;> simp [h]
  simp [execEnum, hup, hroot, hno]

theorem State.isMaster_rootSel (h : s.isMaster = true) : s.straps.rootSel = true := (Bool.and_eq_true _ _ ▸ h).1

/-- The master as its own ENUM has come back with NEXT: the ring is whole. -/
def State.ringWhole (s : State) (next : Nat) : State :=
  { s with vine := { s.vine with enumOut := false, brk := none, ping := none, count := some next } }

theorem execEnum_own_awaited {next : Nat} (hup : s.vineUp = true) (hmaster : s.isMaster = true) (hout : s.vine.enumOut = true) :
    let s1 := s.ringWhole next
    execEnum ⟨next, true⟩ s = .next (
      if !s1.masterReady then s1 else if next != s.img.n then (s1.formReport 0x5010 [next]).gather else s1.gather) := by
  simp only [execEnum, hup, State.isMaster_rootSel hmaster, hmaster, hout, Bool.not_true, Bool.or_self, Bool.false_eq_true, if_false, if_true]
  rfl

/-- A device that is not the master confirms its position, or takes the one that comes. -/
theorem execEnum_position (hup : s.vineUp = true) (hroot : s.straps.rootSel = false) (f : EnumIn) :
    execEnum f s = .next (
      if s.addrValid = true then (if f.next = s.pos then s.sendVine (.enum (f.next + 1)) else s.formReport 0x5010 [f.next])
      else if 7 < f.next then s.sendVine (.enum f.next)
      else State.sendVine { s with addr := addrOf s.straps f.next, addrValid := true } (.enum (f.next + 1))) := by
  simp only [execEnum, hup, hroot, Bool.not_true, Bool.false_eq_true, if_false]

/-! ### STRAP -/

theorem execStrap_position (hup : s.vineUp = true) (hmaster : s.isMaster = false) (l : List Straps) :
    execStrap l s = .next (s.sendVine (.strap (l ++ [s.straps]))) := by
  simp [execStrap, hup, hmaster]

/-- The master reports what is wrong with the straps of each position. -/
theorem execStrap_master (hup : s.vineUp = true) (hmaster : s.isMaster = true) (l : List Straps) :
    let s1 : State := { s with vine := { s.vine with straps := l } }
    execStrap l s = .next (
      if s.masterReady = false then s1
      else l.zipIdx.foldl (fun (t : State) e => (strapCodes s.straps s.img e.1).foldl (fun u c => u.formReport c [e.2]) t) s1) := by
  have hready : ({ s with vine := { s.vine with straps := l } } : State).masterReady = s.masterReady := rfl
  simp only [execStrap, hup, hmaster, hready, Bool.not_true, Bool.false_eq_true, if_false, if_true, Bool.not_eq_true']

/-! ### STATE -/

/-- The positions of a STATE frame that are CONFIGURED or later. -/
def joinableIn (l : List Nat) : List Nat := (l.zipIdx.filter fun e => codeJoinable e.1).map (·.2)

/-- The state that a device has after STATE with these entries: positions count as joinable until the limit, and one that is in neither BOOT nor SAFE
may be served a bank again. -/
def State.statesSeen (s : State) (all : List Nat) : State :=
  { s with
    vine := { s.vine with states := all, served := s.vine.served.filter fun j => match all[j]? with | some c => c == 2 || c == 4 | none => true }
    formation := { s.formation with
      joinable := if s.formation.closed then s.formation.joinable
        else s.formation.joinable ++ (joinableIn all).filter fun j => !s.formation.joinable.contains j } }

theorem execVineState_position (hup : s.vineUp = true) (hmaster : s.isMaster = false) (l : List Nat) :
    execVineState l s = .next ((s.statesSeen (l ++ [s.dev.code])).sendVine (.state (l ++ [s.dev.code]))) := by
  unfold execVineState
  simp only [hup, hmaster, Bool.not_true, Bool.false_eq_true, if_false]
  rfl

theorem execVineState_master (hup : s.vineUp = true) (hmaster : s.isMaster = true) (l : List Nat) :
    execVineState l s = .next (s.statesSeen l).beginXfer := by
  unfold execVineState
  simp only [hup, hmaster, Bool.not_true, Bool.false_eq_true, if_false, if_true]
  rfl

/-- The beginning of a bank transfer leaves what the Vine and formation hold of the positions. -/
theorem State.beginXfer_kept (s : State) : s.beginXfer.vine.states = s.vine.states ∧ s.beginXfer.formation = s.formation := by
  unfold State.beginXfer
  split
  · exact ⟨rfl, rfl⟩
  · dsimp only
    split
    · exact ⟨rfl, rfl⟩
    · split <;> exact ⟨rfl, rfl⟩

theorem State.statesSeen_joinable_closed {l : List Nat} (h : s.formation.closed = true) :
    (s.statesSeen l).formation.joinable = s.formation.joinable := if_pos h

theorem State.mem_statesSeen_joinable {l : List Nat} {e : Nat × Nat} (h : s.formation.closed = false) (he : e ∈ l.zipIdx)
    (hcode : codeJoinable e.1 = true) : e.2 ∈ (s.statesSeen l).formation.joinable := by
  have hfound : e.2 ∈ joinableIn l := List.mem_map.2 ⟨e, List.mem_filter.2 ⟨he, hcode⟩, rfl⟩
  have hopen : (s.statesSeen l).formation.joinable =
      s.formation.joinable ++ (joinableIn l).filter fun j => !s.formation.joinable.contains j := if_neg (by simp [h])
  rw [hopen]
  by_cases hold : e.2 ∈ s.formation.joinable
  · exact List.mem_append_left _ hold
  · exact List.mem_append_right _ (List.mem_filter.2 ⟨hfound, by simpa using hold⟩)

/-! ### EBEAT -/

theorem execEbeat_master (hmaster : s.isMaster = true) (count : Nat) : execEbeat count s = .next s := by
  simp [execEbeat, hmaster]

theorem execEbeat_position (hup : s.vineUp = true) (hmaster : s.isMaster = false) (count : Nat) :
    let p := 256 * 2 ^ s.img.beat.periodCode
    execEbeat count s = .next (State.sendVine
      (if s.acquired = true then s else { s with beat := count + 40 * s.pos / p, phase := 40 * s.pos % p }) (.ebeat count)) := by
  simp only [execEbeat, hup, hmaster, Bool.not_true, Bool.or_self, Bool.false_eq_true, if_false]

theorem not_vineUp_idle (h : s.vineUp = false) (f : EnumIn) (straps : List Straps) (states : List Nat) (count : Nat) :
    ∀ i ∈ [Instr.enum f, .strap straps, .vineState states, .ebeat count], exec i s = .next s := by
  simp only [List.mem_cons, List.not_mem_nil, or_false, forall_eq_or_imp, forall_eq]
  refine ⟨execEnum_down h f, ?_, ?_, ?_⟩
  · simp [exec, execStrap, h]
  · simp [exec, execVineState, h]
  · simp [exec, execEbeat, h]

end

/-- Settles O28: each clause is the case of its command's meaning that the clause's premises select. -/
theorem vineResults : Obligations.VineResults := by
  unfold Obligations.VineResults
  intro s next count own straps states
  refine ⟨fun h => not_vineUp_idle h ⟨next, own⟩ straps states count, fun hup =>
    ⟨fun hroot hnew => ?takes, fun hroot hold => ?holds, fun hown hmaster hout => ?returns, fun hown hroot h => ?notAwaited,
      fun hown hroot => ?other, fun hmaster => execStrap_position hup hmaster straps, fun hmaster => ?straps, fun x hready => ?oneStrap,
      fun hmaster => ⟨_, execVineState_position hup hmaster states, rfl, rfl⟩, fun hmaster => ?states,
      fun hmaster => execEbeat_master hmaster count, fun hmaster hnew => ?early, fun hmaster hold => ?late⟩⟩
  case takes =>
    have hexec : exec (.enum ⟨next, own⟩) s = _ := execEnum_position hup hroot ⟨next, own⟩
    rw [hexec, if_neg (by simp [hnew])]
    exact ⟨fun hle => by rw [if_neg (by simpa using hle)], fun hgt => by rw [if_pos hgt]⟩
  case holds =>
    have hexec : exec (.enum ⟨next, own⟩) s = _ := execEnum_position hup hroot ⟨next, own⟩
    rw [hexec, if_pos hold]
    exact ⟨fun hpos => by rw [if_pos hpos], fun hpos => by rw [if_neg hpos]⟩
  case returns =>
    subst hown
    have hexec : exec (.enum ⟨next, true⟩) s = _ := execEnum_own_awaited hup hmaster hout
    refine ⟨fun (hidle : (s.ringWhole next).masterReady = false) => ?_, fun (hready : (s.ringWhole next).masterReady = true) hall => ?_,
      fun (hready : (s.ringWhole next).masterReady = true) hmiss => ?_⟩ <;> rw [hexec]
    · rw [hidle]; rfl
    · rw [hready, if_neg (by decide), if_neg (by simp [hall])]; rfl
    · rw [hready, if_neg (by decide), if_pos (by simp [hmiss])]; rfl
  case notAwaited => subst hown; exact execEnum_own_not_awaited hup hroot h
  case other => subst hown; exact execEnum_other_master hup hroot
  case straps =>
    refine ⟨_, execStrap_master hup hmaster straps, ?_⟩
    split
    · rfl
    · rw [foldl_kept State.vine]
      exact fun t e => foldl_kept State.vine (fun u c => u.formReport_vine c _) _ t
  case oneStrap =>
    have hmaster : s.isMaster = true := by
      simp only [State.masterReady, Bool.and_eq_true] at hready
      exact hready.1.1
    have hexec : exec (.strap [x]) s = _ := execStrap_master hup hmaster [x]
    rw [if_neg (by simp [hready])] at hexec
    exact ⟨fun hnone => by rw [hexec]; simp [hnone], fun c hone => by rw [hexec]; simp [hone]⟩
  case states =>
    obtain ⟨hstates, hform⟩ := (s.statesSeen states).beginXfer_kept
    refine ⟨_, execVineState_master hup hmaster states, hstates, fun hopen e he hcode => ?_, fun hclosed => ?_⟩
    · rw [hform]
      exact State.mem_statesSeen_joinable hopen he hcode
    · rw [hform]
      exact State.statesSeen_joinable_closed hclosed
  case early => exact (execEbeat_position hup hmaster count).trans (by rw [if_neg (by simp [hnew])])
  case late => exact (execEbeat_position hup hmaster count).trans (by rw [if_pos hold])

end Sys2Proof.Machine

namespace Sys2Proof.Machine

/-! ## A broken Vine (R376, R379, R472, R538) -/

section
variable {s : State} {j : Nat}

theorem execEnumTimeout_master (hup : s.vineUp = true) (hmaster : s.isMaster = true) :
    execEnumTimeout s = .next (match s.vine.ping with
      | some j => s.vineBreak j
      | none => if s.vine.enumOut then State.sendVine { s with vine := { s.vine with enumOut := false, ping := some 1 } } (.ping 1) else s) := by
  simp only [execEnumTimeout, hup, hmaster, Bool.not_true, Bool.or_self, Bool.false_eq_true, if_false] <;> rfl

/-- While a break is known the master repeats ENUM. -/
theorem execEnumRepeat_broken (hup : s.vineUp = true) (hmaster : s.isMaster = true) (hping : s.vine.ping = none) (hbrk : s.vine.brk ≠ none) :
    execEnumRepeat s = .next (State.sendVine { s with vine := { s.vine with enumOut := true } } (.enum 1)) := by
  simp [execEnumRepeat, hup, hmaster, hping, hbrk]

/-- The position that is asked when the master repeats ENUM has not answered: it is the break. -/
theorem execEnumRepeat_asked (hup : s.vineUp = true) (hmaster : s.isMaster = true) (hping : s.vine.ping = some j) :
    execEnumRepeat s = .next (State.sendVine { s.vineBreak j with vine := { (s.vineBreak j).vine with enumOut := true } } (.enum 1)) := by
  simp [execEnumRepeat, hup, hmaster, hping]

theorem execEnumRepeat_whole (hping : s.vine.ping = none) (hbrk : s.vine.brk = none) : execEnumRepeat s = .next s := by
  simp [execEnumRepeat, hping, hbrk]

theorem execPing_master (hmaster : s.isMaster = true) : execPing j s = .next s := by
  simp [execPing, hmaster]

/-- The position asked answers on POD_FAULT_N; every position sends PING on. -/
theorem execPing_position (hup : s.vineUp = true) (hmaster : s.isMaster = false) :
    execPing j s = .next (if s.addrValid && s.pos == j then (s.sendVine (.ping j)).send [.podFault 64] else s.sendVine (.ping j)) := by
  simp only [execPing, hup, hmaster, Bool.not_true, Bool.or_self, Bool.false_eq_true, if_false]

/-- A pulse while position j is asked: a good one asks the next position, or finds the end of the chain. -/
theorem execPodFaultN_asked {cycles start : Nat} (hup : s.vineUp = true) (hmaster : s.isMaster = true) (hping : s.vine.ping = some j) :
    execPodFaultN cycles start s = .next (
      if 48 ≤ cycles && cycles ≤ 80 && start ≤ 16 then
        if (if s.imgApplied then s.img.n else 8) ≤ j + 1 then s.vineBreak (j + 1)
        else State.sendVine { s with vine := { s.vine with ping := some (j + 1) } } (.ping (j + 1))
      else s.sendVine (.ping j)) := by
  simp only [execPodFaultN, hup, hmaster, hping, Bool.not_true, Bool.or_self, Bool.false_eq_true, if_false]

theorem execPodFaultN_unasked {cycles start : Nat} (hup : s.vineUp = true) (hmaster : s.isMaster = true) (hping : s.vine.ping = none) :
    execPodFaultN cycles start s = .next (if 200 ≤ cycles then s.sendVine (.state [s.dev.code]) else s) := by
  simp only [execPodFaultN, hup, hmaster, hping, Bool.not_true, Bool.or_self, Bool.false_eq_true, if_false]

/-- Only the master looks for a break. -/
theorem not_master_idle (hmaster : s.isMaster = false) (cycles start : Nat) :
    ∀ i ∈ [Instr.enumTimeout, .enumRepeat, .podFaultN cycles start], exec i s = .next s := by
  simp only [List.mem_cons, List.not_mem_nil, or_false, forall_eq_or_imp, forall_eq]
  refine ⟨?_, ?_, ?_⟩
  · simp [exec, execEnumTimeout, hmaster]
  · simp [exec, execEnumRepeat, hmaster]
  · simp [exec, execPodFaultN, hmaster]

theorem State.vineBreak_found (s : State) (k : Nat) :
    (s.vineBreak k).vine.ping = none ∧ (s.vineBreak k).vine.brk = some k ∧ (s.vineBreak k).err.sticky = s.err.sticky ||| 128 := by
  simp [State.vineBreak]

/-- Neither position 0 nor its alternate can be the Root of the pod. -/
def State.rootless (s : State) : Prop :=
  s.isMaster = true ∧ 0 ∉ s.formation.joinable ∧ (s.img.n < 2 ∨ s.img.beat.podAlt ∉ s.formation.joinable)

theorem State.rootless_iff :
    (s.isMaster && !s.formation.joinable.contains 0 && !(decide (2 ≤ s.img.n) && s.formation.joinable.contains s.img.beat.podAlt)) = true ↔
      s.rootless := by
  simp [State.rootless, and_assoc]

theorem execJoinableLimit_open (himg : s.imgApplied = true) (hopen : s.formation.closed = false) :
    let s1 : State := { s with formation := { s.formation with closed := true } }
    (s.rootless → execJoinableLimit s = .next (s1.formReport 0x5014 [])) ∧ (¬ s.rootless → execJoinableLimit s = .next s1) := by
  have hlive : (!s.imgApplied || s.formation.closed) = false := by simp [himg, hopen]
  simp only [execJoinableLimit, hlive, Bool.false_eq_true, if_false]
  exact ⟨fun h => by rw [if_pos (State.rootless_iff.2 h)], fun h => by rw [if_neg (mt State.rootless_iff.1 h)]⟩

theorem execJoinableLimit_passed (h : s.imgApplied = false ∨ s.formation.closed = true) : execJoinableLimit s = .next s := by
  rcases h with h | h <;> simp [execJoinableLimit, h]

end

/-- Settles O29: each clause is the case of its command's meaning that the clause's premises select. -/
theorem vineBreakResults : Obligations.VineBreakResults := by
  unfold Obligations.VineBreakResults
  intro s j cycles start hup
  refine ⟨fun hmaster => ⟨fun hping hout => ?_, fun hping hout => ?_, fun hping => ?_, fun hping hbrk => ?_, fun hping => ?_,
      execEnumRepeat_whole, execPing_master hmaster, fun hping => ?asked, fun hping => ?unasked⟩,
    fun hmaster => ⟨fun hval hpos => ?_, fun h => ?_, not_master_idle hmaster cycles start⟩, s.vineBreak_found,
    execJoinableLimit_open, execJoinableLimit_passed⟩
  · exact (execEnumTimeout_master hup hmaster).trans (by rw [hping]; simp only [hout, if_true])
  · exact (execEnumTimeout_master hup hmaster).trans (by rw [hping]; simp only [hout, Bool.false_eq_true, if_false])
  · exact (execEnumTimeout_master hup hmaster).trans (by rw [hping])
  · exact execEnumRepeat_broken hup hmaster hping hbrk
  · exact execEnumRepeat_asked hup hmaster hping
  case asked =>
    have hexec : exec (.podFaultN cycles start) s = _ := execPodFaultN_asked hup hmaster hping
    rw [hexec]
    refine ⟨fun hgood hmore => ?_, fun hgood hend => ?_, fun hbad => ?_⟩
    · rw [if_pos (by simpa [and_assoc] using hgood), if_neg (by omega)]
    · rw [if_pos (by simpa [and_assoc] using hgood), if_pos hend]
    · rw [if_neg (by simpa [and_assoc] using hbad)]
  case unasked =>
    have hexec : exec (.podFaultN cycles start) s = _ := execPodFaultN_unasked hup hmaster hping
    rw [hexec]
    exact ⟨fun hlong => by rw [if_pos hlong], fun hshort => by rw [if_neg hshort.not_ge]⟩
  · exact (execPing_position hup hmaster).trans (by rw [if_pos (by simp [hval, hpos])])
  · exact (execPing_position hup hmaster).trans (by rw [if_neg (by rcases h with h | h <;> simp [h])])

/-! ## Bank transfer (R376, R460, R469) -/

section
variable {s : State} {x : Xfer} {crc : Word} {sig : BankSig}

theorem execXfer_passed_on (hup : s.vineUp = true) (hmaster : s.isMaster = false)
    (h : s.addrValid = false ∨ x.target ≠ s.pos ∨ s.takesBank x = false) : execXfer x crc sig s = .next (s.sendVine (.xfer x)) := by
  have hno : (s.addrValid && x.target == s.pos && s.takesBank x) = false := by rcases h with h | h | h <;> simp [h]
  simp only [execXfer, hup, hmaster, hno, Bool.not_true, Bool.false_eq_true, if_false]

/-- The target after a block in order: it keeps the bytes, and with the last block it writes the bank that they make up. -/
def State.tookBlock (s : State) (x : Xfer) (sig : BankSig) : State :=
  let got := (if x.block = 0 then [] else s.vine.rxData) ++ x.data
  if !x.last then { s with vine := { s.vine with rxNext := x.block + 1, rxData := got } }
  else
    { s with
      vine := { s.vine with rxNext := 0, rxData := [] }
      nvm := { s.nvm with write := some (if x.image then .image 0 (readImage got sig) else .firmware 0 (readFirmware got sig)), writer := none } }

/-- The target answers the status of the block, and takes one in order. -/
theorem execXfer_target (hup : s.vineUp = true) (hmaster : s.isMaster = false) (hval : s.addrValid = true) (hpos : x.target = s.pos)
    (htakes : s.takesBank x = true) :
    execXfer x crc sig s = .next (State.sendVine (if s.xferStatus x crc ≠ 1 then s else s.tookBlock x sig)
      (.xfer { x with status := s.xferStatus x crc })) := by
  have hmine : (s.addrValid && x.target == s.pos && s.takesBank x) = true := by simp [hval, hpos, htakes]
  simp only [execXfer, hup, hmaster, hmine, Bool.not_true, Bool.false_eq_true, if_false, if_true]
  rfl

theorem State.xferStatus_damaged (h : crc ≠ crc32 (xferBytes x)) : s.xferStatus x crc = 2 := by
  simp [State.xferStatus, h]

theorem State.xferStatus_out_of_order (hcrc : crc = crc32 (xferBytes x)) (h : x.block ≠ s.vine.rxNext) : s.xferStatus x crc = 3 := by
  simp [State.xferStatus, hcrc, h]

theorem State.xferStatus_good (hcrc : crc = crc32 (xferBytes x)) (h : x.block = s.vine.rxNext) : s.xferStatus x crc = 1 := by
  simp [State.xferStatus, hcrc, h]

theorem execXfer_no_transfer (hmaster : s.isMaster = true) (htx : s.vine.tx = none) : execXfer x crc sig s = .next s := by
  simp [execXfer, hmaster, htx]

section
variable {image : Bool} {j k reps : Nat}

/-- The master passes over the status of another block than the one that it has sent. -/
theorem execXfer_other_block (hmaster : s.isMaster = true) (htx : s.vine.tx = some (image, j, k, reps))
    (h : ¬ (x.image = image ∧ x.target = j ∧ x.block = k)) : execXfer x crc sig s = .next s := by
  have hother : (x.image != image || x.target != j || x.block != k) = true := by simpa [imp_iff_not_or, or_assoc] using h
  simp [execXfer, hmaster, htx, hother]

/-- The master sends block `b` of the bank in transfer, for the `n`-th time beyond the first. -/
def State.sendBlock (s : State) (image : Bool) (j b n : Nat) : State :=
  State.sendVine { s with vine := { s.vine with tx := some (image, j, b, n) } } (.xfer (xferBlock image j ((s.vineBank image).getD []) b))

/-- On the status of its block the master goes on, repeats it, or is done with the position. -/
theorem execXfer_own_block (hup : s.vineUp = true) (hmaster : s.isMaster = true) (htx : s.vine.tx = some (image, j, k, reps))
    (himage : x.image = image) (htarget : x.target = j) (hblock : x.block = k) :
    let done : State := { s with vine := { s.vine with tx := none } }
    execXfer x crc sig s = .next (
      if x.status = 1 then (if x.last then done.beginXfer else s.sendBlock image j (k + 1) 0)
      else if 16 ≤ reps then done.beginXfer else s.sendBlock image j k (reps + 1)) := by
  have hown : (x.image != image || x.target != j || x.block != k) = false := by simp [himage, htarget, hblock]
  simp only [execXfer, hup, hmaster, htx, hown, Bool.not_true, Bool.false_eq_true, if_false, if_true, State.sendBlock]

end
end

/-- Settles O30: each clause is the case of XFER that the clause's premises select. -/
theorem bankTransferResults : Obligations.BankTransferResults := by
  unfold Obligations.BankTransferResults
  intro s x crc sig hup
  refine ⟨fun hmaster => ⟨execXfer_passed_on hup hmaster, fun hval hpos htakes => ?target⟩,
    fun hmaster => ⟨execXfer_no_transfer hmaster, fun image j k reps htx => ⟨execXfer_other_block hmaster htx, ?_, ?_, ?_, ?_⟩⟩⟩
  case target =>
    have hexec : exec (.xfer x crc sig) s = _ := execXfer_target hup hmaster hval hpos htakes
    refine ⟨fun hbad => ?_, fun hcrc hskip => ?_, fun hcrc hnext => ?_⟩ <;> rw [hexec]
    · rw [State.xferStatus_damaged hbad, if_pos (by decide)]
    · rw [State.xferStatus_out_of_order hcrc hskip, if_pos (by decide)]
    · rw [State.xferStatus_good hcrc hnext, if_neg (by decide), State.tookBlock]
      exact ⟨fun hmore => by simp only [hmore, Bool.not_false, if_true], fun hlast himg => by simp [hlast, himg],
        fun hlast hfw => by simp [hlast, hfw]⟩
  all_goals
    rintro ⟨himage, htarget, hblock⟩
    have hexec : exec (.xfer x crc sig) s = _ := execXfer_own_block hup hmaster htx himage htarget hblock
    dsimp only at hexec ⊢
    rw [hexec]
  · exact fun hok hlast => by rw [if_pos hok, if_pos hlast]
  · exact fun hok hmore => by rw [if_pos hok, if_neg (by simp [hmore])]; rfl
  · exact fun hbad hleft => by rw [if_neg hbad, if_neg hleft.not_ge]; rfl
  · exact fun hbad hspent => by rw [if_neg hbad, if_pos hspent]

end Sys2Proof.Machine

namespace Sys2Proof.Machine

/-! ## Greedy acceptance (R311 to R313) -/

/-- Greedy sampling of a row gives a token whatever the scale, the seed and the position. -/
def GreedyToken (y : List (Num × Bool)) (tok : Nat) : Prop := ∀ t seed v, sampleRow true v seed t 2 y = .tok tok

/-- Greedy sampling draws nothing: scale, seed and position do not count. -/
theorem GreedyToken.of_sample {v : Num} {seed t tok : Nat} {y : List (Num × Bool)} (h : sampleRow true v seed t 2 y = .tok tok) :
    GreedyToken y tok := by
  intro t' seed' v'
  simp only [sampleRow, if_true] at h ⊢
  exact h

/-- Tokens that a round may emit under greedy acceptance: each is the one that its teacher row gives, a drafted one is the draft of its place, and at
most one comes after the drafts. -/
def GreedyRound (ds : List Nat) (ys : List (List (Num × Bool))) (l : List (Nat × Nat)) : Prop :=
  l.length ≤ ds.length + 1 ∧ ∀ (i tok fl : Nat), l[i]? = some (tok, fl) →
    (∃ y, ys[i]? = some y ∧ GreedyToken y tok) ∧ (fl = fDrafted → ds[i]? = some tok)

section
variable {ds : List Nat} {y : List (Num × Bool)} {ys : List (List (Num × Bool))} {l : List (Nat × Nat)}

theorem GreedyRound.nil : GreedyRound ds ys [] := ⟨Nat.zero_le _, fun _ _ _ h => by simp at h⟩

/-- A token in place of a draft, or after the last one, ends the round. -/
theorem GreedyRound.last {tok fl : Nat} (hy : GreedyToken y tok) (hfl : fl ≠ fDrafted) : GreedyRound ds (y :: ys) [(tok, fl)] := by
  refine ⟨Nat.succ_le_succ (Nat.zero_le _), fun i tok' fl' h => ?_⟩
  cases i with
  | zero =>
    obtain ⟨rfl, rfl⟩ : tok = tok' ∧ fl = fl' := by simpa using h
    exact ⟨⟨y, rfl, hy⟩, fun hd => absurd hd hfl⟩
  | succ i => simp at h

/-- An accepted draft is followed by what the rest of the round emits. -/
theorem GreedyRound.accepted {d : Nat} (hy : GreedyToken y d) (h : GreedyRound ds ys l) :
    GreedyRound (d :: ds) (y :: ys) ((d, fDrafted) :: l) := by
  obtain ⟨hlen, htoks⟩ := h
  refine ⟨Nat.succ_le_succ hlen, fun i tok fl hi => ?_⟩
  cases i with
  | zero =>
    obtain ⟨rfl, rfl⟩ : d = tok ∧ fDrafted = fl := by simpa using hi
    exact ⟨⟨y, rfl, hy⟩, fun _ => rfl⟩
  | succ i => exact htoks i tok fl hi

/-- A sample in place of a round's rest emits the token that the row gives, or none. -/
theorem GreedyRound.sampled {v : Num} {seed t : Nat} : GreedyRound ds (y :: ys) (emitSample (sampleRow true v seed t 2 y) fBonus).1 := by
  cases h : sampleRow true v seed t 2 y with
  | tok j => exact .last (.of_sample h) (by decide)
  | empty => exact .nil
  | nonfinite => exact .nil

theorem acceptFrom_greedyRound (v : Num) (seed t : Nat) (ds : List Nat) (zs ys : List (List (Num × Bool))) :
    GreedyRound ds ys (acceptFrom true v seed t ds zs ys).1 := by
  induction ds generalizing t zs ys with
  | nil =>
    cases ys with
    | nil => simpa only [acceptFrom] using GreedyRound.nil
    | cons y ys => simpa only [acceptFrom] using GreedyRound.sampled
  | cons d ds ih =>
    cases ys with
    | nil => cases zs <;> simpa only [acceptFrom] using GreedyRound.nil
    | cons y ys =>
      cases zs with
      | nil => simpa only [acceptFrom] using GreedyRound.sampled
      | cons z zs =>
        simp only [acceptFrom, if_true]
        split
        · exact .nil
        · split
          case h_1 j hj =>
            split
            · next hd => exact .accepted (.of_sample (hd ▸ hj)) (ih _ zs ys)
            · exact .last (.of_sample hj) (by decide)
          case h_2 => exact .nil

end

/-- Settles O42, by induction on the drafts. -/
theorem greedyEmitsTheTeachersTokens : Obligations.GreedyEmitsTheTeachersTokens := by
  unfold Obligations.GreedyEmitsTheTeachersTokens
  intro v seed t ds zs ys
  obtain ⟨hlen, htoks⟩ := acceptFrom_greedyRound v seed t ds zs ys
  refine ⟨hlen, fun i tok fl hi => ?_⟩
  obtain ⟨⟨y, hrow, hy⟩, hdraft⟩ := htoks i tok fl hi
  exact ⟨⟨y, hrow, hy⟩, hdraft⟩

end Sys2Proof.Machine

namespace Sys2Proof.Machine

/-! ## What an event leaves (R347) -/

section
variable (s : State)

/-- A record that triggers changes the keys, the cores and the held entries. -/
theorem State.trigger_only (c : Fin 8) (r : SchedRec) (args : List Word) (tag : EntryTag) :
    ∃ k cs h, s.trigger c r args tag = { s with keys := k, cores := cs, heldEntries := h } := by
  unfold State.trigger
  split
  · exact ⟨_, _, _, rfl⟩
  · unfold State.append
    dsimp only
    split
    · exact ⟨_, _, _, rfl⟩
    · split
      · exact ⟨_, _, _, rfl⟩
      · split <;> exact ⟨_, _, _, rfl⟩

/-- An event changes the keys, the cores, and the held and open entries. -/
theorem State.raiseEvent_only (c : Fin 8) (u : EventUnit) (args : List Word) (tag : EntryTag) :
    ∃ k cs h o, s.raiseEvent c u args tag = { s with keys := k, cores := cs, heldEntries := h, openEntries := o } := by
  have hfold (l : List SchedRec) : ∃ k cs h, l.foldl (fun (t : State) r => t.trigger c r args tag) s =
      { s with keys := k, cores := cs, heldEntries := h } := by
    induction l generalizing s with
    | nil => exact ⟨_, _, _, rfl⟩
    | cons r l ih =>
      obtain ⟨k, cs, h, heq⟩ := s.trigger_only c r args tag
      obtain ⟨k', cs', h', heq'⟩ := ih (s.trigger c r args tag)
      exact ⟨k', cs', h', by rw [List.foldl_cons, heq', heq]⟩
  unfold State.raiseEvent
  dsimp only
  obtain ⟨k, cs, h, heq⟩ := hfold _
  rw [heq]
  split <;> exact ⟨_, _, _, _, rfl⟩

@[simp] theorem State.raiseEvent_batches (c : Fin 8) (u : EventUnit) (args : List Word) (tag : EntryTag) :
    (s.raiseEvent c u args tag).batches = s.batches := by
  obtain ⟨k, cs, h, o, heq⟩ := s.raiseEvent_only c u args tag
  rw [heq]

@[simp] theorem State.raiseEvent_nextBatch (c : Fin 8) (u : EventUnit) (args : List Word) (tag : EntryTag) :
    (s.raiseEvent c u args tag).nextBatch = s.nextBatch := by
  obtain ⟨k, cs, h, o, heq⟩ := s.raiseEvent_only c u args tag
  rw [heq]

@[simp] theorem State.raiseEvent_reqs (c : Fin 8) (u : EventUnit) (args : List Word) (tag : EntryTag) :
    (s.raiseEvent c u args tag).reqs = s.reqs := by
  obtain ⟨k, cs, h, o, heq⟩ := s.raiseEvent_only c u args tag
  rw [heq]

end

/-! ## Request slots -/

section
variable {s t : State} {c : Fin 8} {slot : Nat} {x y : ReqSt}

@[simp] theorem State.req_setReq_same (s : State) (c : Fin 8) (slot : Nat) (y : ReqSt) : (s.setReq c slot y).req c slot = some y :=
  aget_aput_same _ _ _

theorem State.req_setReq_other (y : ReqSt) {n : Nat} (h : n ≠ slot) : (s.setReq c slot y).req c n = s.req c n :=
  aget_aput_other _ _ fun hkey => h (Nat.add_left_cancel hkey)

/-- Of what a map lists, storing at a key replaces at most what is read there. -/
theorem mem_aput_of_mem {α : Type} {l : List (Nat × α)} {e : Nat × α} (a : Nat) (v : α) (h : e ∈ l) :
    e ∈ aput l a v ∨ e.1 = a ∧ aget l a = some e.2 := by
  induction l with
  | nil => cases h
  | cons k r ih =>
    obtain ⟨k, w⟩ := k
    unfold aput aget
    by_cases heq : a = k
    · simp only [if_pos heq]
      rcases List.mem_cons.1 h with rfl | hr
      · exact .inr ⟨heq.symm, rfl⟩
      · exact .inl (List.mem_cons_of_mem _ hr)
    · simp only [if_neg heq]
      by_cases hlt : a < k
      · simp only [if_pos hlt]
        exact .inl (List.mem_cons_of_mem _ h)
      · simp only [if_neg hlt]
        rcases List.mem_cons.1 h with rfl | hr
        · exact .inl List.mem_cons_self
        · exact (ih hr).imp (List.mem_cons_of_mem _) id

theorem aput_mem_self {α : Type} (l : List (Nat × α)) (a : Nat) (v : α) : (a, v) ∈ aput l a v := by
  induction l with
  | nil => exact List.mem_cons_self
  | cons k r ih =>
    unfold aput
    split
    · exact List.mem_cons_self
    · split
      · exact List.mem_cons_self
      · exact List.mem_cons_of_mem _ ih

/-- An entry of a map after a store is an old one or the stored one. -/
theorem mem_aput_cases {α : Type} {l : List (Nat × α)} {a : Nat} {v : α} {e : Nat × α} (h : e ∈ aput l a v) : e ∈ l ∨ e = (a, v) := by
  induction l with
  | nil => exact .inr (List.mem_singleton.1 h)
  | cons k r ih =>
    unfold aput at h
    split at h
    · exact (List.mem_cons.1 h).symm.imp (List.mem_cons_of_mem _) id
    · split at h
      · exact (List.mem_cons.1 h).symm
      · rcases List.mem_cons.1 h with rfl | hr
        · exact .inl List.mem_cons_self
        · exact (ih hr).imp (List.mem_cons_of_mem _) id

/-! ## Page sets (R301, R302) -/

theorem State.mem_freeSets {p : ServeRec} {i : Nat} :
    i ∈ s.freeSets c p ↔ i < p.npset ∧ ∀ e ∈ s.reqs, ctxOfKey e.1 (2 ^ 20) = c → ∀ g ∈ e.2.sets, g.2 ≠ i := by
  have hheld (e : Nat × ReqSt) : i ∈ (if ctxOfKey e.1 (2 ^ 20) == c then e.2.sets.map (·.2) else []) ↔
      ctxOfKey e.1 (2 ^ 20) = c ∧ ∃ g ∈ e.2.sets, g.2 = i := by
    by_cases hc : ctxOfKey e.1 (2 ^ 20) = c <;> simp [-Nat.reducePow, hc]
  simp only [State.freeSets, List.mem_filter, List.mem_range, Bool.not_eq_true', List.contains_eq_mem, decide_eq_false_iff_not, List.mem_flatMap,
    hheld, not_exists, not_and, ne_eq]

/-- A request that keeps its page sets frees none. -/
theorem State.freeSets_setReq {p : ServeRec} (hx : s.req c slot = some x) (hsub : ∀ e ∈ x.sets, e ∈ y.sets) :
    ∀ i ∈ (s.setReq c slot y).freeSets c p, i ∈ s.freeSets c p := by
  intro i hi
  rw [State.mem_freeSets] at hi ⊢
  obtain ⟨hlt, hfree⟩ := hi
  refine ⟨hlt, fun e he hc g hg => ?_⟩
  rcases mem_aput_of_mem (reqKey c slot) y he with hstill | ⟨hkey, hread⟩
  · exact hfree e hstill hc g hg
  · obtain rfl : x = e.2 := Option.some.inj (hx.symm.trans hread)
    exact hfree (reqKey c slot, y) (aput_mem_self _ _ _) (hkey ▸ hc) g (hsub g hg)

theorem nodup_eraseDups {α : Type} [BEq α] [LawfulBEq α] : ∀ l : List α, l.eraseDups.Nodup
  | [] => List.nodup_nil
  | a :: l => by
    have hless : (l.filter fun b => !b == a).length < (a :: l).length := Nat.lt_succ_of_le (List.length_filter_le _ _)
    rw [List.eraseDups_cons, List.nodup_cons]
    exact ⟨by simp, nodup_eraseDups _⟩
  termination_by l => l.length
  decreasing_by exact hless

theorem ReqSt.missing_nodup (x : ReqSt) (a n : Nat) : (x.missing a n).Nodup := by
  unfold ReqSt.missing
  split
  · exact List.nodup_nil
  · exact (nodup_eraseDups _).filter _

theorem ReqSt.missing_none {a n pg : Nat} (h : pg ∈ x.missing a n) : aget x.sets pg = none := by
  unfold ReqSt.missing at h
  split at h
  · cases h
  · exact Option.isNone_iff_eq_none.1 (List.mem_filter.1 h).2

/-- The page list of a request with more page sets taken for its pages. -/
def takeSets (l taken : List (Nat × Nat)) : List (Nat × Nat) := taken.foldl (fun l e => aput l e.1 e.2) l

theorem mem_takeSets {l taken : List (Nat × Nat)} {e : Nat × Nat} (h : e ∈ takeSets l taken) : e ∈ l ∨ e ∈ taken := by
  induction taken generalizing l with
  | nil => exact .inl h
  | cons k r ih =>
    rcases ih (l := aput l k.1 k.2) h with hl | hr
    · exact (mem_aput_cases hl).imp id fun (he : e = k) => he ▸ List.mem_cons_self
    · exact .inr (List.mem_cons_of_mem _ hr)

/-- Page sets taken for pages without one, each page once, replace none. -/
theorem mem_takeSets_of_mem {l taken : List (Nat × Nat)} {e : Nat × Nat} (hnew : ∀ k ∈ taken, aget l k.1 = none)
    (honce : (taken.map Prod.fst).Nodup) (h : e ∈ l) : e ∈ takeSets l taken := by
  induction taken generalizing l with
  | nil => exact h
  | cons k r ih =>
    obtain ⟨hk, hr⟩ := List.nodup_cons.1 honce
    refine ih (l := aput l k.1 k.2) (fun k' hk' => ?_) hr ?_
    · rw [aget_aput_other _ _ fun heq => hk (List.mem_map.2 ⟨k', hk', heq⟩)]
      exact hnew k' (List.mem_cons_of_mem _ hk')
    · refine (mem_aput_of_mem k.1 k.2 h).resolve_right fun ⟨_, hread⟩ => ?_
      rw [hnew k List.mem_cons_self] at hread
      cases hread

/-! ## Composition (R302) -/

/-- The positions of a batch step's item (R302). -/
def State.workCost (s : State) (c : Fin 8) (e : Nat × Work) : Nat :=
  match e.2, s.req c e.1 with
  | .prefill n, _ => n
  | .round, some x => if x.r.model = 0 ∧ x.r.kind = 1 then x.r.draft + 1 else 1
  | .rank, some x => x.r.nTok
  | _, none => 0

/-- t is s within a composition for context c: batch steps are as they were, requests are those of s, and page sets came from the pool. -/
structure Composing (s : State) (c : Fin 8) (p : ServeRec) (t : State) : Prop where
  batches : t.batches = s.batches
  nextBatch : t.nextBatch = s.nextBatch
  free : ∀ i ∈ t.freeSets c p, i ∈ s.freeSets c p
  reqs : ∀ slot y, t.req c slot = some y → ∃ x, s.req c slot = some x ∧ y.r = x.r ∧ ∀ e ∈ y.sets, e.2 ∈ s.freeSets c p ∨ e ∈ x.sets

variable {p : ServeRec}

theorem Composing.refl (s : State) : Composing s c p s :=
  ⟨rfl, rfl, fun _ h => h, fun _ y h => ⟨y, h, rfl, fun _ he => .inr he⟩⟩

theorem Composing.setReq (h : Composing s c p t) (hx : t.req c slot = some x) (hr : y.r = x.r) (hsub : ∀ e ∈ x.sets, e ∈ y.sets)
    (hnew : ∀ e ∈ y.sets, e ∈ x.sets ∨ e.2 ∈ t.freeSets c p) : Composing s c p (t.setReq c slot y) := by
  refine ⟨h.batches, h.nextBatch, fun i hi => h.free i (State.freeSets_setReq hx hsub i hi), fun n z hz => ?_⟩
  by_cases hn : n = slot
  · subst hn
    obtain rfl : y = z := by simpa using hz
    obtain ⟨x0, hx0, hr0, hsets⟩ := h.reqs n x hx
    exact ⟨x0, hx0, hr.trans hr0, fun e he => (hnew e he).elim (hsets e) fun hf => .inl (h.free _ hf)⟩
  · rw [State.req_setReq_other y hn] at hz
    exact h.reqs n z hz

/-- A change of a request that leaves what it asks for and its page sets. -/
theorem Composing.setReq_same_sets (h : Composing s c p t) (hx : t.req c slot = some x) (hr : y.r = x.r) (hsets : y.sets = x.sets) :
    Composing s c p (t.setReq c slot y) :=
  h.setReq hx hr (fun _ he => hsets ▸ he) fun _ he => .inl (hsets ▸ he)

/-- What one request adds to a composition: nothing, or an item whose positions the budget held. -/
def Added (s : State) (c : Fin 8) (slot budget : Nat) (items : List (Nat × Work)) (b : Nat) (l : List (Nat × Work)) : Prop :=
  b = budget ∧ l = items ∨ ∃ w, l = items ++ [(slot, w)] ∧ s.workCost c (slot, w) + b = budget

/-- Whether a request's rounds draft, and whether a batch step prefills it. -/
def ReqSt.pairs (x : ReqSt) : Bool := x.r.model == 0 && x.r.kind == 1
def ReqSt.fills (x : ReqSt) : Bool := x.r.kind == 1 && x.prefilling
/-- Positions of its prefill chunk and of its round, and what it asks of STEP_TOKENS (Table 11-3). -/
def ReqSt.chunkOf (x : ReqSt) (p : ServeRec) : Nat := min p.chunk (x.prompt - x.filled)
def ReqSt.roundOf (x : ReqSt) : Nat := if x.pairs then x.r.draft + 1 else 1
def ReqSt.cost (x : ReqSt) (p : ServeRec) : Nat := if x.r.kind = 2 then x.r.nTok else if x.fills then x.chunkOf p else x.roundOf
/-- Its item of the batch step, and the pages that it needs page sets for. -/
def ReqSt.work (x : ReqSt) (p : ServeRec) : Work := if x.r.kind = 2 then .rank else if x.fills then .prefill (x.chunkOf p) else .round
def ReqSt.need (x : ReqSt) (p : ServeRec) : List Nat :=
  if x.r.kind = 2 then [] else if x.fills then x.missing (x.base + x.filled) (x.chunkOf p)
  else x.missing (x.committed - 1) (min x.roundOf (p.maxContext - (x.committed - 1)))
/-- The request in batch step `id`, with these page sets taken. -/
def ReqSt.placed (x : ReqSt) (id : Nat) (taken : List (Nat × Nat)) : ReqSt :=
  { x with
    sets := takeSets x.sets taken, inStep := some id, ringOut := false, ph := if x.fills then .prefill else .decode, drafts := []
    draftStop := false, draftNan := false, round := none }

theorem composeOne_eq (hx : t.req c slot = some x) (id budget : Nat) (items : List (Nat × Work)) :
    let taken := (x.need p).zip (t.freeSets c p)
    t.composeOne c p id slot budget items =
      if x.inStep.isSome || !x.ph.active then (t, budget, items)
      else if budget < x.cost p then (t.setReq c slot { x with ringOut := false }, budget, items)
      else if x.r.kind = 1 && !x.fills && decide (x.ringFree < x.roundOf) then
        ((t.setReq c slot { x with ringOut := true }).countCtx c ccRingStall, budget, items)
      else if (t.freeSets c p).length < (x.need p).length then
        ((t.setReq c slot { x with ringOut := false }).countCtx c ccPageWait, budget, items)
      else ((t.setReq c slot (x.placed id taken)).writePageList p slot taken, budget - x.cost p, items ++ [(slot, x.work p)]) := by
  unfold State.composeOne
  rw [hx]
  rfl

theorem ReqSt.need_nodup (x : ReqSt) (p : ServeRec) : (x.need p).Nodup := by
  unfold ReqSt.need
  split
  · exact List.nodup_nil
  · split <;> exact x.missing_nodup _ _

theorem ReqSt.need_none {pg : Nat} (h : pg ∈ x.need p) : aget x.sets pg = none := by
  unfold ReqSt.need at h
  split at h
  · cases h
  · split at h <;> exact ReqSt.missing_none h

/-- What a request asks of the budget is the positions of its item. -/
theorem Composing.workCost_eq (h : Composing s c p t) (hx : t.req c slot = some x) : s.workCost c (slot, x.work p) = x.cost p := by
  obtain ⟨x0, hx0, hr, -⟩ := h.reqs slot x hx
  unfold ReqSt.work ReqSt.cost
  split
  · simp [State.workCost, hx0, hr]
  · split
    · simp [State.workCost]
    · simp [State.workCost, hx0, ReqSt.roundOf, ReqSt.pairs, hr]

/-- A request that a batch step takes keeps its page sets and takes others from the pool. -/
theorem Composing.placed (h : Composing s c p t) (hx : t.req c slot = some x) (hlen : (x.need p).length ≤ (t.freeSets c p).length) (id : Nat) :
    Composing s c p (t.setReq c slot (x.placed id ((x.need p).zip (t.freeSets c p)))) := by
  refine h.setReq hx rfl (fun e he => mem_takeSets_of_mem (fun k hk => ?_) ?_ he) fun e he => (mem_takeSets he).imp_right fun hz => ?_
  · exact ReqSt.need_none (List.of_mem_zip hk).1
  · rw [List.map_fst_zip hlen]
    exact x.need_nodup p
  · exact (List.of_mem_zip hz).2

theorem composeOne_composing (h : Composing s c p t) (id slot budget : Nat) (items : List (Nat × Work)) :
    let r := t.composeOne c p id slot budget items
    Composing s c p r.1 ∧ Added s c slot budget items r.2.1 r.2.2 := by
  cases hx : t.req c slot with
  | none =>
    have hnone : t.composeOne c p id slot budget items = (t, budget, items) := by unfold State.composeOne; rw [hx]
    rw [hnone]
    exact ⟨h, .inl ⟨rfl, rfl⟩⟩
  | some x =>
    have hwaits (b : Bool) : Composing s c p (t.setReq c slot { x with ringOut := b }) := h.setReq_same_sets hx rfl rfl
    have hcounted (b : Bool) (k : Fin 16) : Composing s c p ((t.setReq c slot { x with ringOut := b }).countCtx c k) :=
      ⟨(hwaits b).batches, (hwaits b).nextBatch, (hwaits b).free, (hwaits b).reqs⟩
    rw [composeOne_eq hx]
    split
    case isTrue => exact ⟨h, .inl ⟨rfl, rfl⟩⟩
    split
    case isTrue => exact ⟨hwaits false, .inl ⟨rfl, rfl⟩⟩
    case isFalse hbudget =>
    split
    case isTrue => exact ⟨hcounted true _, .inl ⟨rfl, rfl⟩⟩
    split
    case isTrue => exact ⟨hcounted false _, .inl ⟨rfl, rfl⟩⟩
    case isFalse hlen =>
      have hplaced := h.placed hx (Nat.le_of_not_lt hlen) id
      refine ⟨⟨hplaced.batches, hplaced.nextBatch, hplaced.free, hplaced.reqs⟩, .inr ⟨x.work p, rfl, ?_⟩⟩
      rw [h.workCost_eq hx]
      exact Nat.add_sub_of_le (Nat.le_of_not_lt hbudget)

/-- The fold of a composition over its candidates. -/
def State.composeAll (t : State) (c : Fin 8) (p : ServeRec) (id : Nat) (cand : List (Nat × ReqSt)) (budget : Nat) (items : List (Nat × Work)) :
    State × Nat × List (Nat × Work) :=
  cand.foldl (fun acc e => acc.1.composeOne c p id e.1 acc.2.1 acc.2.2) (t, budget, items)

theorem composeAll_composing (id : Nat) (cand : List (Nat × ReqSt)) {budget total : Nat} {items : List (Nat × Work)} (h : Composing s c p t)
    (hsum : (items.map (s.workCost c)).sum + budget ≤ total) :
    let r := t.composeAll c p id cand budget items
    Composing s c p r.1 ∧ (r.2.2.map (s.workCost c)).sum + r.2.1 ≤ total := by
  induction cand generalizing t budget items with
  | nil => exact ⟨h, hsum⟩
  | cons e cand ih =>
    have hstep : t.composeAll c p id (e :: cand) budget items =
        let r := t.composeOne c p id e.1 budget items
        r.1.composeAll c p id cand r.2.1 r.2.2 := rfl
    have hone := composeOne_composing h id e.1 budget items
    rw [hstep]
    generalize t.composeOne c p id e.1 budget items = r at hone
    obtain ⟨hcomp, hadded⟩ := hone
    refine ih hcomp ?_
    rcases hadded with ⟨hb, hl⟩ | ⟨w, hl, hb⟩
    · rw [hb, hl]; exact hsum
    · rw [hl]
      simp only [List.map_append, List.map_cons, List.map_nil, List.sum_append, List.sum_cons, List.sum_nil]
      omega

/-- The candidates of a composition, in its order. -/
def State.candidates (s : State) (c : Fin 8) : List (Nat × ReqSt) :=
  (s.reqs.filterMap fun (k, x) => if ctxOfKey k (2 ^ 20) == c && x.ph.active then some (k % 2 ^ 20, x) else none).foldr insReq []

/-- The contexts to which a batch step of context c is an event: c, and those whose partner it is. -/
def State.batchCtxs (s : State) (c : Fin 8) : List (Fin 8) :=
  c :: ((List.finRange 8).filter fun d => (s.ctxRec c).map CtxRec.partner == some d.val)

/-- The batch step that a composition forms, and its event. -/
def State.formBatch (t : State) (c : Fin 8) (id : Nat) (items : List (Nat × Work)) : State :=
  let u : State := { t with batches := t.batches ++ [{ id, ctx := c, items }], nextBatch := id + 1 }
  (u.batchCtxs c).foldl (fun (v : State) d => v.raiseEvent d .batch [BitVec.ofNat 32 id] (.batch d.val id)) u

theorem State.compose_eq (s : State) (c : Fin 8) (p : ServeRec) :
    let r := s.composeAll c p s.nextBatch (s.candidates c) p.stepTokens []
    s.compose c p = if r.2.2.isEmpty then r.1 else r.1.formBatch c s.nextBatch r.2.2 := rfl

theorem State.formBatch_fields (t : State) (c : Fin 8) (id : Nat) (items : List (Nat × Work)) :
    (t.formBatch c id items).batches = t.batches ++ [{ id, ctx := c, items }] ∧ (t.formBatch c id items).nextBatch = id + 1 ∧
      (t.formBatch c id items).reqs = t.reqs := by
  unfold State.formBatch
  refine ⟨?_, ?_, ?_⟩
  · exact foldl_kept State.batches (fun v d => v.raiseEvent_batches d _ _ _) _ _
  · exact foldl_kept State.nextBatch (fun v d => v.raiseEvent_nextBatch d _ _ _) _ _
  · exact foldl_kept State.reqs (fun v d => v.raiseEvent_reqs d _ _ _) _ _

end

/-- Settles O41: a composition keeps `Composing` request by request, and every item is paid from the budget. -/
theorem composeWithinBudget : Obligations.ComposeWithinBudget := by
  unfold Obligations.ComposeWithinBudget
  intro s c p
  have hall := composeAll_composing s.nextBatch (s.candidates c) (Composing.refl (c := c) (p := p) s)
    (budget := p.stepTokens) (items := []) (total := p.stepTokens) (by simp)
  have heq := s.compose_eq c p
  generalize s.composeAll c p s.nextBatch (s.candidates c) p.stepTokens [] = r at hall heq
  obtain ⟨t, b, items⟩ := r
  obtain ⟨hcomp, hsum⟩ := hall
  have hreqs (slot : Nat) (y : ReqSt) (e : Nat × Nat) (hy : t.req c slot = some y) (he : e ∈ y.sets) :
      e.2 ∈ s.freeSets c p ∨ ∃ x, s.req c slot = some x ∧ e ∈ x.sets := by
    obtain ⟨x, hx, -, hsets⟩ := hcomp.reqs slot y hy
    exact (hsets e he).imp id fun hold => ⟨x, hx, hold⟩
  have hcost : (items.map (s.workCost c)).sum ≤ p.stepTokens := le_trans (Nat.le_add_right _ b) hsum
  dsimp only at heq
  by_cases hnil : items = []
  · rw [if_pos (by simp [hnil])] at heq
    rw [heq]
    exact ⟨items, by rw [if_pos hnil, List.append_nil, hcomp.batches], by rw [if_pos hnil, hcomp.nextBatch], hcost, hreqs⟩
  · rw [if_neg (by simpa using hnil)] at heq
    obtain ⟨hbatches, hnext, hkept⟩ := t.formBatch_fields c s.nextBatch items
    rw [heq]
    refine ⟨items, by rw [if_neg hnil, hbatches, hcomp.batches], by rw [if_neg hnil, hnext], hcost, fun slot y e hy => hreqs slot y e ?_⟩
    rwa [State.req, hkept] at hy

end Sys2Proof.Machine

namespace Sys2Proof.Machine

/-! ## COMPOSE (R302, R303) -/

section
variable {s : State} {c : Fin 8} {p : ServeRec}

/-- The state in which COMPOSE composes: the adapters that are loaded are LIVE and the requests whose deadline has come have expired. -/
def State.readyToCompose (s : State) (c : Fin 8) : State := s.settleLive.expireWaiting c

/-- Whether a batch step may be composed for a context. -/
def State.mayCompose (s : State) (c : Fin 8) (p : ServeRec) : Prop :=
  s.ctxRuns c = true ∧ s.dev ≠ .drain ∧ (s.batches.filter fun b => b.ctx == c).length < p.inflight

theorem State.not_mayCompose_iff :
    (!s.ctxRuns c || s.dev == .drain || decide (p.inflight ≤ (s.batches.filter fun b => b.ctx == c).length)) = true ↔ ¬ s.mayCompose c p := by
  simp only [State.mayCompose, Bool.or_eq_true, Bool.not_eq_true', beq_iff_eq, decide_eq_true_eq, not_and_or, Bool.not_eq_true, ne_eq, not_not,
    not_lt, or_assoc]

theorem execCompose_may (hrec : s.serveRec c = some p) (h : (s.readyToCompose c).mayCompose c p) :
    execCompose c s = .next ((s.readyToCompose c).compose c p).pumpAll := by
  simp only [execCompose, hrec]
  exact congrArg _ (if_neg fun hno => State.not_mayCompose_iff.1 hno h)

theorem execCompose_may_not (hrec : s.serveRec c = some p) (h : ¬ (s.readyToCompose c).mayCompose c p) : execCompose c s = .next (s.readyToCompose c) := by
  simp only [execCompose, hrec]
  exact congrArg _ (if_pos (State.not_mayCompose_iff.2 h))

end

/-! ## DRAFT_SAMPLE (R304, R310, R312) -/

section
variable {s : State} {c : Fin 8} {p : ServeRec} {slot id row n : Nat} {x : ReqSt} {r : LossRec} {b : BatchSt}

/-- The round of a request in a batch step awaits a sample. -/
structure AwaitsSample (s : State) (c : Fin 8) (p : ServeRec) (slot id : Nat) (x : ReqSt) (r : LossRec) : Prop where
  serve : s.serveRec c = some p
  req : s.req c slot = some x
  loss : s.lossRec id = some r
  undecided : x.round = none
  ctx : r.ctx = c
  kind : r.kind = .accept
  inRound : ∃ n b, x.inStep = some n ∧ (s.batches.find? fun q => q.id == n) = some b ∧ b.items.contains (slot, .round) = true

/-- What a single-model sample decides (R312). -/
def State.decideSample (t : State) (c : Fin 8) (slot : Nat) (x : ReqSt) : Sampled → State
  | .tok j => t.setReq c slot { x with round := some { toks := [(j, 0)] } }
  | .empty => t.setReq c slot { x with round := some { toks := [], code := some 0x2141 } }
  | .nonfinite => (t.setReq c slot { x with round := some { toks := [], code := some 0x2142, nan := true } }).postFlags c flNanIn

/-- The packet of each segment of a record is taken and its slot freed. -/
def State.takePackets (s : State) (r : LossRec) : State :=
  r.segs.foldl (fun (u : State) g => u.setBuf g.buffer
    { u.buf g.buffer with taken := (u.buf g.buffer).taken + 1, freed := (u.buf g.buffer).freed + 1 }) s

/-- The draw of a request's next token from a row, at state σ and position t (R310). -/
def State.drawToken (s : State) (x : ReqSt) (sigma t role : Nat) (row : List Num) : Sampled :=
  sampleRow (x.r.accept == 2) (decode .fp32 x.r.invT.toNat) x.r.seed t role (maskRow (s.maskOf x) sigma row)

/-- The state of the automaton after the draft. -/
def State.draftSigma (s : State) (x : ReqSt) : Nat := x.drafts.foldl (maskNext (s.maskOf x)) x.sigma

/-- The next draft token of a pair request (R304). -/
def State.drawDraft (s : State) (x : ReqSt) (r : LossRec) (row : Nat) : Sampled :=
  if s.draftSigma x = maskAccept then .empty else s.drawToken x (s.draftSigma x) (x.committed + x.drafts.length) 0 (s.studentRow r row)

/-- A pair request with what its next draft draw gave. -/
def ReqSt.drafted (x : ReqSt) : Sampled → ReqSt
  | .tok j => { x with drafts := x.drafts ++ [j] }
  | v => { x with draftStop := true, draftNan := v == .nonfinite }

variable (h : AwaitsSample s c p slot id x r)
include h

omit h in
theorem State.drawDraft_accepted (hend : s.draftSigma x = maskAccept) : s.drawDraft x r row = .empty := if_pos hend

omit h in
theorem State.drawDraft_drawn (hon : s.draftSigma x ≠ maskAccept) :
    s.drawDraft x r row = s.drawToken x (s.draftSigma x) (x.committed + x.drafts.length) 0 (s.studentRow r row) := if_neg hon

/-- No test of DRAFT_SAMPLE passes over the request. -/
theorem AwaitsSample.not_passed {inRound : Bool} (hin : inRound = true) :
    ¬ (!inRound || x.round.isSome || r.ctx != c || r.kind != .accept) = true := by
  simp [hin, h.undecided, h.ctx, h.kind]

theorem execDraftSample_pair (hmodel : x.r.model = 0) :
    execDraftSample c slot id row s = .next (
      if x.draftStop || decide (x.r.draft ≤ x.drafts.length) then s
      else
        let y := x.drafted (s.drawDraft x r row)
        (s.setReq c slot y).writeDraft p (s.batchIndex x slot) y.drafts) := by
  obtain ⟨n, b, hn, hb, hitem⟩ := h.inRound
  unfold execDraftSample
  rw [h.req, h.serve, h.loss]
  dsimp only
  rw [if_neg (h.not_passed (by rw [hn, Option.bind_some, hb]; exact hitem)), if_pos hmodel]
  congr 1
  split
  · rfl
  · by_cases hend : s.draftSigma x = maskAccept
    · rw [State.drawDraft_accepted hend]
      simp only [State.draftSigma] at hend
      rw [if_pos hend]
      rfl
    · rw [State.drawDraft_drawn hend]
      simp only [State.draftSigma, State.drawToken] at hend ⊢
      rw [if_neg hend]
      simp only [reqV]
      cases sampleRow _ _ _ _ _ _ <;> rfl

theorem execDraftSample_student (hmodel : x.r.model = 1) :
    execDraftSample c slot id row s = .next (s.decideSample c slot x (s.drawToken x x.sigma x.committed 0 (s.studentRow r row))) := by
  obtain ⟨n, b, hn, hb, hitem⟩ := h.inRound
  unfold execDraftSample
  rw [h.req, h.serve, h.loss]
  dsimp only
  rw [if_neg (h.not_passed (by rw [hn, Option.bind_some, hb]; exact hitem)), if_neg (by omega), if_pos hmodel]
  simp only [State.drawToken, reqV]
  cases sampleRow _ _ _ _ _ _ <;> rfl

theorem execDraftSample_teacher {segs : List LossSeg} (h0 : x.r.model ≠ 0) (h1 : x.r.model ≠ 1)
    (hhere : ∀ g ∈ r.segs, (s.buf g.buffer).taken < (s.buf g.buffer).arrived) (hrow : s.lossRow r 0 = some segs) :
    execDraftSample c slot id row s =
      .next ((s.takePackets r).decideSample c slot x (s.drawToken x x.sigma x.committed 2 (segs.flatMap LossSeg.teachAll))) := by
  obtain ⟨n, b, hn, hb, hitem⟩ := h.inRound
  unfold execDraftSample
  rw [h.req, h.serve, h.loss]
  dsimp only
  rw [if_neg (h.not_passed (by rw [hn, Option.bind_some, hb]; exact hitem)), if_neg h0, if_neg h1,
    if_neg (by simpa [Nat.succ_le_iff] using hhere), hrow]
  simp only [State.drawToken, reqV]
  cases sampleRow _ _ _ _ _ _ <;> rfl

end

/-! ## ACCEPTANCE_JOB (R306, R311, R312) -/

section
variable {s : State} {c : Fin 8} {slot i : Nat} {x : ReqSt} {j : LossJob} {r : LossRec}

/-- The student and teacher rows that an acceptance job gives a draft, with the kept elements of each place marked. -/
def State.draftRows (s : State) (x : ReqSt) (j : LossJob) (n : Nat) (f : LossSeg → List Num) : List (List (Num × Bool)) :=
  let m := s.maskOf x
  (List.range n).map fun k =>
    maskRow m ((x.drafts.take k).foldl (maskNext m) x.sigma) (((j.rows[k]?).map fun w => w.segs.flatMap f).getD [])

/-- The round that an acceptance job decides. -/
def State.acceptRound (s : State) (x : ReqSt) (j : LossJob) : Round :=
  if x.draftNan then { toks := [], code := some 0x2142, nan := true }
  else decideRound (x.r.accept == 2) (decode .fp32 x.r.invT.toNat) x.r.seed x.committed x.drafts
    (s.draftRows x j x.drafts.length LossSeg.z) (s.draftRows x j (x.drafts.length + 1) LossSeg.teachAll)

/-- The job is gone, the round stands, the slots that it read are free and its completion is counted. -/
def State.accepted (s : State) (c : Fin 8) (slot i : Nat) (x : ReqSt) (r : LossRec) (rd : Round) : State :=
  let t := ({ s with loss := s.loss.eraseIdx i }).setReq c slot { x with round := some rd }
  let t1 := if rd.nan then t.postFlags c flNanIn else t
  let t2 := r.segs.foldl (fun (t : State) g => t.freeSlots g.buffer r.rows) t1
  ((LossRec.cores r).foldl (fun (t : State) n => t.bump ⟨n, c⟩ r.doneCnt 1) t2).raiseEvent c (.loss r.id) [] .plain

theorem execAcceptanceJob_decides (hreq : s.req c slot = some x)
    (hjob : (s.lossHeads.find? fun e => e.2.2.kind == .accept && e.2.2.ctx == c) = some (i, j, r)) (hin : x.inStep.isSome = true)
    (hround : x.round = none) (hmodel : x.r.model = 0) (hkind : x.r.kind = 1) :
    execAcceptanceJob c slot s = .next (s.accepted c slot i x r (s.acceptRound x j)) := by
  have hopen : ¬ (x.inStep.isNone || x.round.isSome || x.r.model != 0 || x.r.kind != 1) = true := by
    simp [Option.isNone_eq_false_iff.2 hin, hround, hmodel, hkind]
  unfold execAcceptanceJob
  rw [hreq]
  generalize hfound : List.find? _ s.lossHeads = o
  obtain rfl : o = some (i, j, r) := hfound.symm.trans hjob
  dsimp only
  rw [if_neg hopen]
  rfl

end

/-- Settles O40: each clause is the case of its command's meaning that the clause's premises select. -/
theorem servingResults : Obligations.ServingResults := by
  unfold Obligations.ServingResults
  intro s c p hrec
  refine ⟨execCompose_may hrec, execCompose_may_not hrec, fun slot id row n x r b hreq hloss hround hctx hkind hn hb hitem => ?draft,
    fun slot i x j r hreq hjob hin hround hmodel hkind => execAcceptanceJob_decides hreq hjob hin hround hmodel hkind⟩
  case draft =>
    have h : AwaitsSample s c p slot id x r := ⟨hrec, hreq, hloss, hround, hctx, hkind, n, b, hn, hb, hitem⟩
    intro sigma v draw drafted ends decides
    have hdecides (t : State) (w : Sampled) (hexec : exec (.draftSample c slot id row) s = .next (t.decideSample c slot x w)) : decides t w := by
      cases w <;> exact hexec
    refine ⟨fun hmodel hdone => ?_, fun hmodel hgo hroom => ?_,
      fun hmodel => hdecides s (s.drawToken x x.sigma x.committed 0 (s.studentRow r row)) (execDraftSample_student h hmodel),
      fun segs h0 h1 hhere hrow => hdecides (s.takePackets r) (s.drawToken x x.sigma x.committed 2 (segs.flatMap LossSeg.teachAll))
        (execDraftSample_teacher h h0 h1 hhere hrow)⟩
    · exact (execDraftSample_pair h hmodel).trans (by rw [if_pos (by simpa using hdone)])
    · have hexec : exec (.draftSample c slot id row) s = _ := execDraftSample_pair h hmodel
      rw [if_neg (by simpa [hgo] using hroom)] at hexec
      have hdrafts (w : Sampled) (hw : s.drawDraft x r row = w) :
          exec (.draftSample c slot id row) s =
            .next ((s.setReq c slot (x.drafted w)).writeDraft p (s.batchIndex x slot) (x.drafted w).drafts) := by rw [hexec, hw]
      refine ⟨fun k hon hdraw => hdrafts (.tok k) ((State.drawDraft_drawn hon).trans hdraw), fun hend => hdrafts .empty ?_,
        fun hon hdraw => hdrafts .nonfinite ((State.drawDraft_drawn hon).trans hdraw)⟩
      by_cases hacc : s.draftSigma x = maskAccept
      · exact State.drawDraft_accepted hacc
      · exact (State.drawDraft_drawn hacc).trans (hend.resolve_left hacc)

end Sys2Proof.Machine

namespace Sys2Proof.Machine

/-! ## Checkpoint copies (R398 to R400) -/

section
variable {s : State} {n : Nat} {j : JobRec} {c : CkptRun}

theorem execLocalCopyComplete_writes (hj : s.jobRec n = some j) (hc : (s.jobSt n).ckpt = some c) (hwait : c.waiting = false)
    (hdone : c.localDone = false) :
    execLocalCopyComplete n s = .next (State.ckptSafe (State.setJob
      { s with mem := memPutBytes s.mem (s.bankAddr j (localIdx c.bank).val) (s.partNow j c.version) } n
      { s.jobSt n with ckpt := some { c with localDone := true }
                       banks := (s.jobSt n).banks.set (localIdx c.bank)
                         { (s.jobSt n).banks[localIdx c.bank] with complete := true, bytes := (s.partNow j c.version).length } }) j) := by
  simp only [execLocalCopyComplete, hj, hc, hwait, hdone, Bool.or_self, Bool.false_eq_true, if_false]

/-- No copy is awaited: none is under way, it waits, or its local half stands. -/
theorem execLocalCopyComplete_idle (hj : s.jobRec n = some j)
    (hidle : ∀ c, (s.jobSt n).ckpt = some c → (c.waiting || c.localDone) = true) : execLocalCopyComplete n s = .next s := by
  cases hc : (s.jobSt n).ckpt with
  | none => simp only [execLocalCopyComplete, hj, hc]
  | some c => simp only [execLocalCopyComplete, hj, hc, hidle c hc, if_true]

theorem execHostedCopyAck_due (hj : s.jobRec n = some j) (hc : (s.jobSt n).ckpt = some c) (hwait : c.waiting = false) :
    execHostedCopyAck n c.version s =
      .next ((s.setJob n { s.jobSt n with ckpt := some { c with hostedDone := true } }).ckptSafe j) := by
  simp only [execHostedCopyAck, hj, hc, hwait, beq_self_eq_true, Bool.not_false, Bool.and_self, if_true]

theorem execHostedCopyAck_idle {v : Nat} (hj : s.jobRec n = some j)
    (hidle : ∀ c, (s.jobSt n).ckpt = some c → (c.version == v && !c.waiting) = false) : execHostedCopyAck n v s = .next s := by
  cases hc : (s.jobSt n).ckpt with
  | none => simp only [execHostedCopyAck, hj, hc]
  | some c => simp only [execHostedCopyAck, hj, hc, hidle c hc, Bool.false_eq_true, if_false]

theorem execHostedCopy_partner {role v a p : Nat} {part : List Byte} (hj : s.jobRec n = some j) (hrole : j.members[role]? = some (a, p))
    (hrun : (s.jobSt n).st = .running) (hpartner : j.members[p]?.map (·.1) = some s.addr) :
    execHostedCopy n role v part s =
      .next (s.hostPart j (hostedIdx (otherBank (s.jobSt n).banks[2] (s.jobSt n).banks[3])) a role v part) := by
  simp [execHostedCopy, hj, hrole, hrun, hpartner]

theorem execHostedCopy_not_running {role v : Nat} {part : List Byte} (hj : s.jobRec n = some j) (hrun : (s.jobSt n).st ≠ .running) :
    execHostedCopy n role v part s = .next s := by
  simp only [execHostedCopy, hj]
  cases j.members[role]? <;> simp [hrun]

end

/-- Settles O36: each command by its cases; the digest of a hosted copy says whether its bank is complete and acknowledged. -/
theorem checkpointResults : Obligations.CheckpointResults := by
  intro s n role v a p j c part hj
  have hjob : j.job = n := State.jobRec_job hj
  refine ⟨fun hc hwait hdone => execLocalCopyComplete_writes hj hc hwait hdone, fun hrole hrun hpartner => ⟨fun hok => ?intact, fun hok => ?broken⟩,
    fun hc hwait => execHostedCopyAck_due hj hc hwait, fun hc hidle => execHostedCopyAck_idle hj ?otherVersion,
    fun hc hidle => execLocalCopyComplete_idle hj ?localDone,
    fun hc => ⟨execLocalCopyComplete_idle hj (by simp [hc]), execHostedCopyAck_idle hj (by simp [hc])⟩,
    fun hrun => execHostedCopy_not_running hj hrun⟩
  case intact =>
    refine (execHostedCopy_partner hj hrole hrun hpartner).trans ?_
    simp only [State.hostPart, hok, hjob, if_true]
  case broken =>
    refine (execHostedCopy_partner hj hrole hrun hpartner).trans ?_
    simp only [State.hostPart, hok, hjob, Bool.false_eq_true, if_false]
  case otherVersion =>
    intro d hd
    obtain rfl : c = d := Option.some.inj (hc.symm.trans hd)
    rcases hidle with h | h <;> simp [h]
  case localDone =>
    intro d hd
    obtain rfl : c = d := Option.some.inj (hc.symm.trans hd)
    simpa using hidle

end Sys2Proof.Machine

namespace Sys2Proof.Machine

/-! ## A fault takes the work of its beat back twice (R396) -/

/-- Job 1 has context 0 alone. -/
def loneJob : JobRec where
  job := 1
  ctxMask := 1
  extEvery := 0
  ckptEvery := 0
  haltSettle := 0
  restoreLimit := 0
  bankBytes := 0
  restartMax := 0
  members := []
  tree := []
  spares := []

/-- A device in RUN that keeps two undo entries of job 1 and of this beat, the second of a start from JOINED. -/
def twiceUndone : State :=
  { State.reset with
    dev := .run
    plan := some { jobs := [loneJob] }
    undos := [(1, { beat := State.reset.beat, job := {} }), (1, { beat := State.reset.beat, job := {}, joined := true })] }

theorem twiceUndone_unapply_dev : (((twiceUndone.jobOf 0).map twiceUndone.unapply).getD twiceUndone).dev = .run := by decide

theorem twiceUndone_faultCtx_dev : (twiceUndone.faultCtx 0x6000 0 []).dev = .joined := by decide

/-- Refutes O55: the undo table of a State need not have rising keys. A fault of context reach takes one entry of its job back before it writes its
record, and the halt of the job then takes the next one back, which here leaves RUN for JOINED after the statement's `u`. -/
theorem not_faultsHaltAndAreRecorded : ¬ Obligations.FaultsHaltAndAreRecorded := by
  rintro ⟨hctx, -⟩
  obtain ⟨-, -, -, -, -, -, hdev, -⟩ := hctx twiceUndone 0x6000 0 []
  rw [twiceUndone_unapply_dev, twiceUndone_faultCtx_dev] at hdev
  exact absurd hdev (by decide)

end Sys2Proof.Machine

namespace Sys2Proof.Machine

/-! ## The journal (R473 to R478) -/

section
variable {s : State} {r : JnlRec} {rest : List JnlRec} {ok : Bool}

/-- A record stands in the active half. -/
def JnlSt.appended (x : JnlSt) (r : JnlRec) (rest : List JnlRec) : JnlSt :=
  { x with queue := rest, hwm := max x.hwm r.time, half := x.half.set x.active { x.act with recs := x.act.recs ++ [r] } }

/-- The snapshot of the active half begins in the other one. -/
def JnlSt.compacting (x : JnlSt) : JnlSt :=
  let k := (x.act.recs.getLast?.map JnlRec.seq).getD x.act.snap
  { x with compact := some k
           half := x.half.set x.other { erased := false, gen := x.act.gen + 1, snap := k, complete := false, recs := snapshot x.act.recs x.act.recs } }

/-- The half of a compaction from SEQ k on is complete and active. -/
def JnlSt.compacted (x : JnlSt) (k : Nat) : JnlSt :=
  let n := x.half[x.other]
  let tail := x.act.recs.filter fun r => decide (k < r.seq)
  { x with half := x.half.set x.other { n with complete := true, recs := n.recs ++ tail, copied := ((n.recs ++ tail).getLast?.map JnlRec.seq).getD k }
           active := x.other, compact := none, torn := false }

theorem JnlSt.waits_of_room {x : JnlSt} (hq : x.queue = r :: rest) (hroom : x.act.fill + r.size ≤ halfBytes) : x.waits = false := by
  simpa [JnlSt.waits, hq] using hroom

theorem execJournalDurable_appends (hq : s.jnl.queue = r :: rest) (hwait : s.jnl.waits = false) (htorn : s.jnl.torn = false)
    (hwhole : s.jnl.act.complete = true) :
    execJournalDurable ok s = .next (State.recordDurable { s with jnl := s.jnl.appended r rest } r ok) := by
  simp only [execJournalDurable, hq, hwait, htorn, hwhole, Bool.not_true, Bool.or_self, Bool.false_eq_true, if_false, JnlSt.appended]

theorem execJournalDurable_idle (h : s.jnl.queue = [] ∨ (s.jnl.waits || s.jnl.torn || !s.jnl.act.complete) = true) :
    execJournalDurable ok s = .next s := by
  cases hq : s.jnl.queue with
  | nil => simp only [execJournalDurable, hq]
  | cons r rest =>
    have hstuck := h.resolve_left (by simp [hq])
    simp only [execJournalDurable, hq, hstuck, if_true]

theorem recordDurable_leafReserve {q : Nat} (hr : r.body = .leafReserve q) : s.recordDurable r ok = s.leavesDurable q := by
  simp only [State.recordDurable, hr]

theorem recordDurable_epochOpen {e : Nat} (hr : r.body = .epochOpen e) : s.recordDurable r ok = s.epochDurable e ok := by
  simp only [State.recordDurable, hr]

theorem recordDurable_svnMin {v : Nat} (hr : r.body = .svnMin v) :
    s.recordDurable r ok = { s with sec := { s.sec with imageSvnMin := max s.sec.imageSvnMin v } } := by
  simp only [State.recordDurable, hr, State.inSec]

theorem execCompaction_begins (hnone : s.jnl.compact = none) (hwhole : s.jnl.act.complete = true)
    (herased : (s.jnl.half[s.jnl.other]).erased = true) (hdue : (decide (compactAt ≤ s.jnl.act.fill) || s.jnl.torn) = true) :
    execCompaction s = .next { s with jnl := s.jnl.compacting } := by
  simp only [execCompaction, hnone, hwhole, herased, hdue, Option.isSome_none, Bool.not_true, Bool.or_self, Bool.false_eq_true, if_false]
  rfl

theorem execCompaction_idle (h : (s.jnl.compact.isSome || !s.jnl.act.complete || !(s.jnl.half[s.jnl.other]).erased ||
    !(decide (compactAt ≤ s.jnl.act.fill) || s.jnl.torn)) = true) : execCompaction s = .next s := by
  simp only [execCompaction, h, if_true]

theorem execCompactionComplete_some {k : Nat} (hk : s.jnl.compact = some k) :
    execCompactionComplete s = .next (State.count { s with jnl := s.jnl.compacted k } cntJnlCompact) := by
  simp only [execCompactionComplete, hk, JnlSt.compacted]

theorem JnlSt.act_compacted (x : JnlSt) (k : Nat) :
    (x.compacted k).act.complete = true ∧
      (x.compacted k).act.recs = x.half[x.other].recs ++ x.act.recs.filter fun r => decide (k < r.seq) := by
  simp [JnlSt.compacted, JnlSt.act]

end

/-- Settles O51: each command by its cases; the half that a compaction fills is the one it makes active. -/
theorem journalResults : Obligations.JournalResults := by
  intro s
  refine ⟨fun r rest ok hq htorn hwhole hroom => ⟨?append, fun q hr => recordDurable_leafReserve hr, fun e hr => recordDurable_epochOpen hr,
      fun e hr => recordDurable_epochOpen hr, fun v hr => recordDurable_svnMin hr⟩,
    fun ok h => execJournalDurable_idle ?stuck, fun h => execCompaction_idle ?notDue, fun h => ?nothingUnderWay, fun h => ?busy,
    fun hnone hwhole herased hdue => execCompaction_begins hnone hwhole herased ?due,
    fun k hk => ⟨_, execCompactionComplete_some hk, rfl, rfl, rfl, (s.jnl.act_compacted k).1, (s.jnl.act_compacted k).2, ?count, rfl, rfl⟩,
    fun h => ?erase⟩
  case append => exact execJournalDurable_appends hq (JnlSt.waits_of_room hq (by simpa [halfBytes] using hroom)) htorn hwhole
  case stuck =>
    rcases h with h | h | h | h
    · exact Or.inl h
    all_goals exact Or.inr (by simp [h])
  case notDue =>
    rcases h with h | h | h | ⟨hfill, htorn⟩
    · simp [Option.isSome_iff_ne_none.mpr h]
    · simp [h]
    · rw [h]
      simp
    · rw [htorn, decide_eq_false (Nat.not_le.mpr hfill : ¬ compactAt ≤ s.jnl.act.fill)]
      simp
  case nothingUnderWay =>
    show execCompactionComplete s = .next s
    simp only [execCompactionComplete, h]
  case busy =>
    show execHalfEraseComplete s = .next s
    rw [execHalfEraseComplete, if_pos (Option.isSome_iff_ne_none.mpr h)]
  case due => rcases hdue with h | h <;> simp [compactAt, h]
  case count => simp [State.count]
  case erase =>
    show execHalfEraseComplete s = _
    rw [execHalfEraseComplete, if_neg (by simp [h])]

end Sys2Proof.Machine

namespace Sys2Proof.Machine

/-! ## Identity signatures (R421 to R424, R502) -/

section
variable {s : State} {busy : Bool} {r : SignReq}

/-- A report that is kept is repeated. -/
theorem execAttest_kept {q : AttestReq} {k : AttestRep} (hoff : s.dev ≠ .off) (hreset : s.dev ≠ .reset)
    (hkept : (s.sec.reports.find? fun r => r.nonce == q.nonce && r.husk == q.husk) = some k) :
    execAttest q true busy s = .next (s.sendReport k) := by
  simp [execAttest, hoff, hreset, hkept]

theorem execAttest_new {q : AttestReq} (hoff : s.dev ≠ .off) (hreset : s.dev ≠ .reset)
    (hkept : (s.sec.reports.find? fun r => r.nonce == q.nonce && r.husk == q.husk) = none) :
    execAttest q true busy s = .next (s.requestSign busy (.report q.nonce q.husk)) := by
  simp [execAttest, hoff, hreset, hkept]

theorem execAttest_malformed {q : AttestReq} (hoff : s.dev ≠ .off) (hreset : s.dev ≠ .reset) :
    execAttest q false busy s = .next ((s.reject 0x2001 9).send [.plainStatus 0x2001]) := by
  simp [execAttest, hoff, hreset]

theorem State.requestSign_exhausted (h : s.sec.leafExhausted = true) : s.requestSign busy r = s.signRefuse 0x4010 r := by
  simp only [State.requestSign, h, if_true]

theorem State.requestSign_limit (h : s.sec.leafExhausted = false) (hbusy : busy = true ∨ 1024 ≤ s.sec.waiting.length) :
    s.requestSign busy r = s.signRefuse 0x4011 r := by
  simp [State.requestSign, h, hbusy]

theorem State.requestSign_joins (h : s.sec.leafExhausted = false) (hroom : s.sec.waiting.length < 1024) :
    s.requestSign false r = State.signAll { s with sec := { s.sec with waiting := s.sec.waiting ++ [r] } } := by
  simp [State.requestSign, h, hroom, State.inSec]

/-- Before key derivation nothing is signed. -/
theorem State.pumpSign_no_keys (hkeys : s.sec.keys = false) (n : Nat) : State.pumpSign n s = s := by
  cases n with
  | zero => rfl
  | succ n => cases hw : s.sec.waiting <;> simp [State.pumpSign, hw, hkeys]

theorem State.pumpSign_done (hw : s.sec.waiting = []) (n : Nat) : State.pumpSign n s = s := by
  cases n with
  | zero => rfl
  | succ n => simp [State.pumpSign, hw]

theorem SecSt.leafExhausted_of_left {x : SecSt} {e : Nat} (he : x.epoch = some e) (hleft : x.nextLeaf < (e + 1) * epochLeaves) :
    x.leafExhausted = false := by
  have hne : x.nextLeaf ≠ (e + 1) * epochLeaves := Nat.ne_of_lt hleft
  simp [SecSt.leafExhausted, he, hne]

/-- With a reserved leaf in hand the oldest request is signed with it. -/
theorem State.pumpSign_signs {n e : Nat} {rest : List SignReq} (hw : s.sec.waiting = r :: rest) (hkeys : s.sec.keys = true)
    (hepoch : s.sec.epochAsked = false) (hleaf : s.sec.leafAsked = false) (he : s.sec.epoch = some e)
    (hleft : s.sec.nextLeaf < (e + 1) * epochLeaves) (hres : s.sec.nextLeaf < s.sec.leafEnd) :
    State.pumpSign (n + 1) s =
      State.pumpSign n ((s.inSec fun x => { x with waiting := rest, nextLeaf := s.sec.nextLeaf + 1 }).signOne r s.sec.nextLeaf) := by
  simp only [State.pumpSign, hw, hkeys, hepoch, hleaf, he, SecSt.leafExhausted_of_left he hleft, Nat.ne_of_lt hleft, hres, Bool.not_true, Bool.or_self,
    Bool.false_eq_true, if_false, if_true]

/-- An upper-level key is noted at most, and nothing else changes. -/
theorem State.formUpper_only (s : State) (n : Fin 2) (tree : Nat) :
    ∃ u, s.formUpper n tree = { s with sec := { s.sec with upper := u } } := by
  unfold State.formUpper
  split
  · exact ⟨s.sec.upper, rfl⟩
  · exact ⟨_, rfl⟩

theorem State.formUpper_waiting (s : State) (n : Fin 2) (tree : Nat) : (s.formUpper n tree).sec.waiting = s.sec.waiting := by
  obtain ⟨u, h⟩ := s.formUpper_only n tree
  rw [h]

/-- The state whose upper keys leaf q stands under. -/
def State.formedFor (s : State) (q : Nat) : State := (s.formUpper 0 (q / epochLeaves)).formUpper 1 (q / 32768)

/-- The signed report of leaf q. -/
def State.signedReport (t : State) (nonce husk : Digest) (q : Nat) : AttestRep :=
  let x := t.attestRep nonce husk q
  { x with signature := some (t.identitySign q (reportBytes x t.deviceId (Config.sha256 t.sec.encapKey))) }

/-- A report joins the 16 that are kept. -/
def State.keepReport (t : State) (y : AttestRep) : State :=
  { t with sec := { t.sec with reports := (t.sec.reports ++ [y]).drop (t.sec.reports.length + 1 - 16) } }

theorem State.signOne_report (nonce husk : Digest) (q : Nat) :
    s.signOne (.report nonce husk) q =
      ((s.formedFor q).keepReport ((s.formedFor q).signedReport nonce husk q)).sendReport ((s.formedFor q).signedReport nonce husk q) := rfl

theorem State.signOne_report_waiting (nonce husk : Digest) (q : Nat) : (s.signOne (.report nonce husk) q).sec.waiting = s.sec.waiting := by
  rw [State.signOne_report]
  show (s.formedFor q).sec.waiting = _
  rw [State.formedFor, State.formUpper_waiting, State.formUpper_waiting]

/-- A request with nothing before it is signed at once with the next reserved leaf. -/
theorem State.requestSign_report {nonce husk : Digest} {e : Nat} (hw : s.sec.waiting = []) (hkeys : s.sec.keys = true)
    (hepoch : s.sec.epochAsked = false) (hleaf : s.sec.leafAsked = false) (he : s.sec.epoch = some e)
    (hleft : s.sec.nextLeaf < (e + 1) * epochLeaves) (hres : s.sec.nextLeaf < s.sec.leafEnd) :
    s.requestSign false (.report nonce husk) =
      State.signOne { s with sec := { s.sec with waiting := [], nextLeaf := s.sec.nextLeaf + 1 } } (.report nonce husk) s.sec.nextLeaf := by
  rw [State.requestSign_joins (SecSt.leafExhausted_of_left he hleft) (by simp [hw]), hw]
  refine (State.pumpSign_signs (s := { s with sec := { s.sec with waiting := [.report nonce husk] } }) rfl hkeys hepoch hleaf he hleft hres).trans
    (State.pumpSign_done ?_ _)
  rw [State.signOne_report_waiting]
  rfl

end

/-! ## The owner claim (R427) -/

section
variable {s : State} {r : OwnerClaim} {sig : SigInfo}

/-- Whether the device takes owner claims. -/
def DevState.takesClaims (d : DevState) : Bool := !(d == .off || d == .reset || d == .boot || d == .hold || d == .halt)

/-- The code that an owner claim is refused with, if any. -/
def State.claimCode (s : State) (r : OwnerClaim) (sig : SigInfo) : Option Nat :=
  if !sig.valid then some 0x4001 else if !s.sec.owners.isEmpty then some 0x4020 else if r.challenge != s.sec.challenge then some 0x4022 else none

theorem execOwnerClaim_eq (hdev : s.dev.takesClaims = true) :
    execOwnerClaim r sig true s = .next (match s.claimCode r sig with
      | some code => (s.reject code 5).send [.plainStatus code]
      | none => State.send { s with sec := { s.sec with owners := [r.key] } } [.plainStatus 0]) := by
  have hpowered : (s.dev == .off || s.dev == .reset) = false := by revert hdev; cases s.dev <;> decide
  have hready : (s.dev == .boot || s.dev == .hold || s.dev == .halt) = false := by revert hdev; cases s.dev <;> decide
  simp only [execOwnerClaim, State.claimCode, hpowered, hready, Bool.not_true, Bool.false_eq_true, if_false]
  cases !sig.valid <;> cases !s.sec.owners.isEmpty <;> cases r.challenge != s.sec.challenge <;> rfl

end

/-! ## Peer loads and meters (R440, R445, R446) -/

section
variable {s : State}

theorem execPeerLoad_serves {a : Nat} {h b : Husk} {srcs : List (List HuskChunk)} (hb : s.sec.huskObj = some b) :
    execPeerLoad (some a) h srcs s = .next (if s.sec.husk != some h.huskId then s else if !s.exportBit 3 then s.reject 0x4106
      else s.send [.huskPeer a (s.servedHusk b)]) := by
  simp only [execPeerLoad, hb]

theorem execPeerLoad_forbidden {h : Husk} {srcs : List (List HuskChunk)}
    (hno : (h.policy.getLsbD 3 && s.img.exportPolicy.getLsbD 3) = false) : execPeerLoad none h srcs s = .next (s.reject 0x4106) := by
  simp only [execPeerLoad, hno, Bool.not_false, if_true]

theorem execPeerLoad_loads {h : Husk} {srcs : List (List HuskChunk)} (hok : (h.policy.getLsbD 3 && s.img.exportPolicy.getLsbD 3) = true) :
    execPeerLoad none h srcs s =
      .next (if (s.loadHusk h true srcs).2 = 0 then (s.loadHusk h true srcs).1 else (s.loadHusk h true srcs).1.reject (s.loadHusk h true srcs).2) := by
  simp only [execPeerLoad, hok, Bool.not_true, Bool.false_eq_true, if_false]

theorem State.loadHusk_of_none {h : Husk} {peer : Bool} {srcs : List (List HuskChunk)} (hnone : s.sec.husk = none) :
    s.loadHusk h peer srcs = if s.huskCode h peer srcs = 0 then (s.bindHusk h ((s.unwrapKey h).getD 0) srcs, 0)
      else (State.rotate { s with sec := { s.sec with contentKey := none } } .teacher, s.huskCode h peer srcs) := by
  by_cases hcode : s.huskCode h peer srcs = 0 <;> simp [State.loadHusk, hnone, hcode, State.inSec]

theorem State.putGranule_cores (h : Husk) (n : Nat) (l : List Byte) : (s.putGranule h n l).cores = s.cores := by
  unfold State.putGranule
  dsimp only
  split <;> rfl

theorem State.bindHusk_cores (h : Husk) (key : Digest) (srcs : List (List HuskChunk)) : (s.bindHusk h key srcs).cores = s.cores :=
  foldl_kept State.cores (fun t (c : HuskChunk) => t.putGranule_cores h c.n ((h.openChunk key c).getD [])) srcs.flatten s

theorem execMeterRequest_off {st : Fin 10} (h : s.sec.husk = none ∨ s.sec.exhausted = true) : execMeterRequest st s = .next s := by
  cases hk : s.sec.husk with
  | none => simp only [execMeterRequest, hk]
  | some d => simp only [execMeterRequest, hk, h.resolve_left (by simp [hk]), if_true]

/-- The stations that wait once station st does. -/
def SecSt.shortWith (x : SecSt) (st : Fin 10) : List (Fin 10) := if x.short.contains st then x.short else x.short ++ [st]

/-- The meter entry of a Husk. -/
def SecSt.meterOf (x : SecSt) (h : Digest) : MeterSt := (aget x.meters h.toNat).getD {}

variable {st : Fin 10} {h : Digest}

theorem execMeterRequest_fills (hk : s.sec.husk = some h) (hex : s.sec.exhausted = false) (hpool : 0 < (s.sec.meterOf h).pool) :
    execMeterRequest st s = .next (s.fillStation h st).pumpAll := by
  unfold SecSt.meterOf at hpool
  simp only [execMeterRequest, hk, hex, hpool, Bool.false_eq_true, if_false, if_true]

theorem execMeterRequest_waits (hk : s.sec.husk = some h) (hex : s.sec.exhausted = false) (hpool : (s.sec.meterOf h).pool = 0)
    (hasked : (s.sec.meterOf h).asked.isSome = true) :
    execMeterRequest st s = .next { s with sec := { s.sec with short := s.sec.shortWith st } } := by
  unfold SecSt.meterOf at hpool hasked
  unfold execMeterRequest
  conv_lhs => rw [hk]
  dsimp only
  rw [if_neg (by simp [hex]), if_neg (Nat.not_lt.mpr (Nat.le_of_eq hpool)), if_pos hasked]
  rfl

theorem execMeterRequest_reserves (hk : s.sec.husk = some h) (hex : s.sec.exhausted = false) (hpool : (s.sec.meterOf h).pool = 0)
    (hasked : (s.sec.meterOf h).asked = none) (hleft : (s.sec.meterOf h).reserved < (s.sec.meterOf h).limit) :
    execMeterRequest st s =
      .next (State.journal { s with sec := { s.sec with
          short := s.sec.shortWith st
          meters := aput s.sec.meters h.toNat { s.sec.meterOf h with asked := some (min (2 ^ 28) ((s.sec.meterOf h).limit - (s.sec.meterOf h).reserved)) } } }
        (.meterReserve h ((s.sec.meterOf h).reserved + min (2 ^ 28) ((s.sec.meterOf h).limit - (s.sec.meterOf h).reserved)))) := by
  have hn : min (2 ^ 28) ((s.sec.meterOf h).limit - (s.sec.meterOf h).reserved) ≠ 0 := by omega
  unfold SecSt.meterOf at hpool hasked hn
  unfold execMeterRequest
  conv_lhs => rw [hk]
  dsimp only
  rw [if_neg (by simp [hex]), if_neg (Nat.not_lt.mpr (Nat.le_of_eq hpool)), if_neg (by rw [hasked]; decide), if_neg hn]
  rfl

theorem execMeterRequest_exhausts (hk : s.sec.husk = some h) (hex : s.sec.exhausted = false) (hpool : (s.sec.meterOf h).pool = 0)
    (hasked : (s.sec.meterOf h).asked = none) (hleft : (s.sec.meterOf h).limit ≤ (s.sec.meterOf h).reserved) :
    execMeterRequest st s =
      .next (State.pumpAll { s with sec := { s.sec with meters := aput s.sec.meters h.toNat { s.sec.meterOf h with exhausted := true } } }) := by
  have hn : min (2 ^ 28) ((s.sec.meterOf h).limit - (s.sec.meterOf h).reserved) = 0 := by omega
  unfold SecSt.meterOf at hpool hasked hn
  unfold execMeterRequest
  conv_lhs => rw [hk]
  dsimp only
  rw [if_neg (by simp [hex]), if_neg (Nat.not_lt.mpr (Nat.le_of_eq hpool)), if_neg (by rw [hasked]; decide), if_pos hn]
  rfl

theorem execKeyDerivation_derives (hrun : s.fwRun.isNone = false) (hkeys : s.sec.keys = false) :
    execKeyDerivation s = .next (s.sec.held.foldl (fun (t : State) h =>
        (if (t.loadHusk h.husk false [h.husk.chunks]).2 = 0 then (t.loadHusk h.husk false [h.husk.chunks]).1
          else (t.loadHusk h.husk false [h.husk.chunks]).1.reject (t.loadHusk h.husk false [h.husk.chunks]).2 5).sendFrame h.session
            (.status 5 (t.loadHusk h.husk false [h.husk.chunks]).2 0x30 h.psn))
        { s with sec := { s.sec with keys := true, held := [], identityKey := identityKeyBytes (Config.identitySeed s.sec.uds)
                                     encapKey := encapKeyBytes s.sec.uds, decapKey := decapKeyBytes s.sec.uds } }).signAll := by
  simp only [execKeyDerivation, hrun, hkeys, Bool.or_self, Bool.false_eq_true, if_false, State.inSec]

theorem execKeyDerivation_idle (h : (s.fwRun.isNone || s.sec.keys) = true) : execKeyDerivation s = .next s := by
  simp only [execKeyDerivation, h, if_true]

end

/-- Settles O50: each command by its cases; a signature that nothing waits before is the first pass of the signing loop. -/
theorem trustResults : Obligations.TrustResults := by
  intro s
  refine ⟨fun nonce husk busy hoff hreset => ⟨fun r hkept => execAttest_kept hoff hreset hkept, fun hkept => execAttest_new hoff hreset hkept,
      execAttest_malformed hoff hreset⟩,
    fun busy r => ⟨State.requestSign_exhausted, State.requestSign_limit, fun hleft hroom hkeys =>
      (State.requestSign_joins hleft hroom).trans
        (State.pumpSign_no_keys (s := { s with sec := { s.sec with waiting := s.sec.waiting ++ [r] } }) hkeys _)⟩,
    fun nonce husk e hoff hreset hkept hw hkeys hepoch hleaf he hres hleft => ?signed,
    fun key challenge sig hdev => ?claim,
    fun a h b srcs hb => ⟨fun hk => ?other, fun hk hbit => ?served, fun hk hbit => ?kept⟩,
    fun a h srcs hnone => ?nothing,
    fun h srcs => ⟨fun hno => execPeerLoad_forbidden (Bool.and_eq_false_iff.mpr hno), fun h3 i3 hnone => ?loads⟩,
    fun h key srcs => ⟨rfl, rfl, rfl, State.bindHusk_cores h key srcs⟩,
    fun st h => execMeterRequest_off h,
    fun st h hk hex => ⟨fun hpool => ⟨_, execMeterRequest_fills hk hex hpool, rfl, rfl, rfl, rfl⟩, fun hpool hasked => ?waits,
      fun hpool hasked hleft => ?reserves, fun hpool hasked hleft => execMeterRequest_exhausts hk hex hpool hasked hleft⟩,
    fun hrun hkeys => execKeyDerivation_derives (Option.isNone_eq_false_iff.mpr (Option.isSome_iff_ne_none.mpr hrun)) hkeys, fun h => execKeyDerivation_idle (by simpa using h)⟩
  case signed =>
    refine (execAttest_new hoff hreset hkept).trans (congrArg _ ?_)
    exact (State.requestSign_report hw hkeys hepoch hleaf he hleft hres).trans (State.signOne_report nonce husk s.sec.nextLeaf)
  case claim =>
    have hclaim : execOwnerClaim ⟨key, challenge⟩ sig true s = _ := execOwnerClaim_eq (by revert hdev; cases s.dev <;> decide)
    refine ⟨fun hsig => hclaim.trans ?_, fun hsig hown => hclaim.trans ?_, fun hsig hown hch => hclaim.trans ?_, fun hsig hown hch => hclaim.trans ?_⟩
    · simp [State.claimCode, hsig]
    · simp [State.claimCode, hsig, hown]
    · simp [State.claimCode, hsig, hown, hch]
    · simp [State.claimCode, hsig, hown, hch]
  case other => exact (execPeerLoad_serves (srcs := srcs) hb).trans (by rw [if_pos (by simpa using hk)])
  case served => exact (execPeerLoad_serves (srcs := srcs) hb).trans (by rw [if_neg (by simp [hk]), if_neg (by simp [hbit])])
  case kept => exact (execPeerLoad_serves (srcs := srcs) hb).trans (by rw [if_neg (by simp [hk]), if_pos (by simp [hbit])])
  case nothing =>
    show execPeerLoad (some a) h srcs s = _
    simp only [execPeerLoad, hnone]
  case loads =>
    refine (execPeerLoad_loads (by simp [h3, i3])).trans (congrArg _ ?_)
    rw [State.loadHusk_of_none hnone]
    by_cases hcode : s.huskCode h true srcs = 0
    · simp only [hcode, if_true]
    · simp only [hcode, if_false]
  case waits =>
    refine (execMeterRequest_waits hk hex hpool hasked).trans ?_
    simp only [SecSt.shortWith, List.contains_eq_mem, decide_eq_true_eq]
  case reserves =>
    refine (execMeterRequest_reserves hk hex hpool hasked hleft).trans ?_
    simp only [SecSt.shortWith, List.contains_eq_mem, decide_eq_true_eq]
    rfl

end Sys2Proof.Machine

namespace Sys2Proof.Machine

/-! ## Boot (R457 to R459) -/

section
variable (s : State)

/-- Rejections of a list of codes change the error record. -/
theorem State.foldl_reject_only (codes : List Nat) : ∃ e, codes.foldl (fun (t : State) c => t.reject c) s = { s with err := e } := by
  induction codes generalizing s with
  | nil => exact ⟨_, rfl⟩
  | cons c r ih =>
    obtain ⟨e, h⟩ := ih (s.reject c)
    exact ⟨e, h⟩

theorem State.rejectBanks_only (codes : List Nat) : ∃ e, s.rejectBanks codes = { s with err := e } := by
  unfold State.rejectBanks
  split
  case h_1 m hm =>
    obtain ⟨e, h⟩ := s.foldl_reject_only (codes.erase m)
    exact ⟨_, by rw [h]; rfl⟩
  case h_2 => exact ⟨_, rfl⟩

/-- What the ROM picks does not depend on the error record. -/
theorem State.pickFirmware_rejectBanks (codes : List Nat) : (s.rejectBanks codes).pickFirmware = s.pickFirmware := by
  obtain ⟨e, h⟩ := s.rejectBanks_only codes
  rw [h]
  rfl

theorem State.report_dev (code : Nat) (d : ReportDetail) : (s.report code d).dev = s.dev := by
  obtain ⟨a, r, c, o, h⟩ := s.report_only code d
  rw [h]

/-- What a boot settles before the image: the bank that runs, and the owners. -/
def State.bootPart : Option (Fin 2) × List Digest := (s.fwRun, s.sec.owners)

theorem State.report_bootPart (code : Nat) (d : ReportDetail) : (s.report code d).bootPart = s.bootPart := by
  obtain ⟨a, r, c, o, h⟩ := s.report_only code d
  rw [h]
  rfl

theorem State.replayRec_bootPart (r : JnlRec) : (s.replayRec r).bootPart = s.bootPart := by
  unfold State.replayRec
  split <;> rfl

theorem State.replay_bootPart (torn : Bool) : (s.replay torn).1.bootPart = s.bootPart := by
  have hrecs (l : List JnlRec) : (l.foldl State.replayRec s).bootPart = s.bootPart := foldl_kept State.bootPart State.replayRec_bootPart l s
  unfold State.replay
  dsimp only
  split
  case h_1 a hactive => split <;> exact hrecs _
  case h_2 hnone =>
    split
    · rfl
    · exact State.report_bootPart _ _ _

theorem State.masterEnum_dev : s.masterEnum.dev = s.dev := by
  unfold State.masterEnum
  split <;> rfl

theorem State.masterEnum_bootPart : s.masterEnum.bootPart = s.bootPart := by
  unfold State.masterEnum
  split <;> rfl

variable {s} {torn : Bool}

theorem State.boot_not_fitted (h : s.nvm.fitted = false) : s.boot torn = s.bootStop 0x1040 := by
  simp only [State.boot, h, Bool.not_false, if_true]

theorem State.boot_silent (hfit : s.nvm.fitted = true) (h : s.nvm.answers = false) : s.boot torn = s.bootStop 0x1041 := by
  simp only [State.boot, hfit, h, Bool.not_true, Bool.false_eq_true, Bool.not_false, if_false, if_true]

/-- An NVM that firmware knows, of one of the two capacities. -/
def NvmSt.known (x : NvmSt) : Bool := x.supported && (x.mib == 128 || x.mib == 256)

theorem State.boot_unknown (hfit : s.nvm.fitted = true) (hans : s.nvm.answers = true) (h : s.nvm.known = false) : s.boot torn = s.bootStop 0x1042 := by
  have hbad : (!s.nvm.supported || !(s.nvm.mib == 128 || s.nvm.mib == 256)) = true := by
    rw [← Bool.not_and]
    exact Bool.not_eq_true' _ ▸ h
  simp only [State.boot, hfit, hans, hbad, Bool.not_true, Bool.false_eq_true, if_false, if_true]

/-- The boot steps after an NVM that answers: the bank that is picked runs, or the device stops. -/
theorem State.boot_known (hfit : s.nvm.fitted = true) (hans : s.nvm.answers = true) (h : s.nvm.known = true) :
    (s.pickFirmware = none → s.boot torn = (s.rejectBanks s.firmwareRejects).bootStop 0x1021) ∧
      ∀ b, s.pickFirmware = some b → (s.boot torn).dev = .hold ∧ (s.boot torn).bootPart = (some b, s.sec.owners) := by
  have hgood : (!s.nvm.supported || !(s.nvm.mib == 128 || s.nvm.mib == 256)) = false := by
    rw [← Bool.not_and]
    exact Bool.not_eq_false' _ ▸ h
  have howners : (s.rejectBanks s.firmwareRejects).sec.owners = s.sec.owners := by
    obtain ⟨e, he⟩ := s.rejectBanks_only s.firmwareRejects
    rw [he]
  have hpick := s.pickFirmware_rejectBanks s.firmwareRejects
  constructor
  · intro hnone
    simp only [State.boot, hfit, hans, hgood, hpick, hnone, Bool.not_true, Bool.false_eq_true, if_false]
  · intro b hb
    simp only [State.boot, hfit, hans, hgood, hpick, hb, Bool.not_true, Bool.false_eq_true, if_false]
    refine ⟨State.masterEnum_dev _, (State.masterEnum_bootPart _).trans ((State.replay_bootPart _ torn).trans ?_)⟩
    rw [← howners]
    rfl

/-- SEQ of a firmware bank that qualifies. -/
def State.bootSeq (s : State) (b : Fin 2) : Option Nat :=
  match s.nvm.fw[b] with
  | some f => if s.firmwareCode f = 0 then some f.seq.toNat else none
  | none => none

theorem State.bootSeq_eq_some {b : Fin 2} {n : Nat} :
    s.bootSeq b = some n ↔ ∃ f, s.nvm.fw[b] = some f ∧ s.firmwareCode f = 0 ∧ f.seq.toNat = n := by
  unfold State.bootSeq
  cases s.nvm.fw[b] <;> simp

theorem State.pickFirmware_eq_some {b : Fin 2} :
    s.pickFirmware = some b ↔ ∃ n, s.bootSeq b = some n ∧ ∀ m, s.bootSeq (1 - b) = some m → m < n ∨ (b = 0 ∧ m = n) := by
  have hpick : s.pickFirmware = match s.bootSeq 0, s.bootSeq 1 with
    | some x, some y => if x < y then some 1 else some 0
    | some _, none => some 0
    | none, some _ => some 1
    | none, none => none := rfl
  rw [hpick]
  have hb : b = 0 ∨ b = 1 := by omega
  rcases hb with rfl | rfl <;> simp only [Fin.isValue, sub_zero, sub_self] <;> cases s.bootSeq 0 <;> cases s.bootSeq 1 <;>
    grind

/-- The bank with the higher SEQ of those that qualify, bank 0 among equals. -/
theorem State.pickFirmware_iff (b : Fin 2) : s.pickFirmware = some b ↔ ∃ f, s.nvm.fw[b] = some f ∧ s.firmwareCode f = 0 ∧
    ∀ g, s.nvm.fw[1 - b] = some g → s.firmwareCode g = 0 → g.seq.toNat < f.seq.toNat ∨ (b = 0 ∧ g.seq.toNat = f.seq.toNat) := by
  rw [State.pickFirmware_eq_some]
  simp only [State.bootSeq_eq_some]
  constructor
  · rintro ⟨n, ⟨f, hf, hok, rfl⟩, h⟩
    exact ⟨f, hf, hok, fun g hg hgok => h _ ⟨g, hg, hgok, rfl⟩⟩
  · rintro ⟨f, hf, hok, h⟩
    refine ⟨_, ⟨f, hf, hok, rfl⟩, ?_⟩
    rintro m ⟨g, hg, hgok, rfl⟩
    exact h g hg hgok

end

/-! ## BOOT_CONFIGURE (R458, R464 to R466) -/

section
variable {s : State}

/-- An image bank that passes every check. -/
def State.validImage (s : State) (b : Fin 2) : Option (Fin 2 × Image) :=
  match s.nvm.img[b] with
  | some i => if (s.imageCodes i).isEmpty then some (b, i) else none
  | none => none

/-- The valid image with the higher SEQ. -/
def State.pickImage (s : State) : Option (Fin 2 × Image) :=
  match s.validImage 0, s.validImage 1 with
  | some a, some b => if a.2.seq.toNat < b.2.seq.toNat then some b else some a
  | some a, none => some a
  | none, b => b

/-- Image i of bank b is in force; a higher SVN of it is journalled. -/
def State.underImage (s : State) (b : Fin 2) (i : Image) : State :=
  let r := i.records
  let s1 : State := { s with dev := .configured, img := r, imgApplied := true, imgRun := some b, pwr := { s.pwr with capW := r.capW } }
  if s.sec.imageSvnMin < i.svn.toNat then s1.journal (.svnMin i.svn.toNat) else s1

/-- FW_SVN_MIN is burned where image i commits the SVN that runs. -/
def State.commitSvn (s : State) (i : Image) : State :=
  let run := ((s.fwRun.bind fun f => s.nvm.fw[f]).map Firmware.svn).getD 0
  if i.has 0x22 && i.records.fwSvnCommit == run then s.inSec fun x => { x with fwSvnMin := max x.fwSvnMin (min 128 run) } else s

/-- Boot steps 8 to 10 under image i of bank b. -/
def State.configure (s : State) (b : Fin 2) (i : Image) : State := ((s.underImage b i).loadInitial.commitSvn i).startPhase1

theorem execBootConfigure_idle (h : s.dev ≠ .hold ∨ s.addrValid = false) : execBootConfigure s = .next s := by
  have hno : (s.dev != .hold || !s.addrValid) = true := by simpa using h
  simp only [execBootConfigure, hno, if_true]

theorem execBootConfigure_unowned (hdev : s.dev = .hold) (haddr : s.addrValid = true) (hown : s.sec.owners = []) :
    execBootConfigure s = .next { s with dev := .safe } := by
  unfold execBootConfigure
  rw [if_neg (by simp [hdev, haddr])]
  dsimp only
  rw [if_pos (by simp [hown]), if_pos (by simp [hown])]

/-- The checks of an image, and so the choice, do not depend on the error record. -/
theorem State.pickImage_rejectBanks (codes : List Nat) : (s.rejectBanks codes).pickImage = s.pickImage := by
  obtain ⟨e, h⟩ := s.rejectBanks_only codes
  rw [h]
  rfl

theorem execBootConfigure_owned (hdev : s.dev = .hold) (haddr : s.addrValid = true) (hown : s.sec.owners ≠ []) :
    execBootConfigure s = .next (match s.pickImage with
      | none => { (s.rejectBanks s.imageRejects) with dev := .safe }
      | some (b, i) => (s.rejectBanks s.imageRejects).configure b i) := by
  have howners : (s.rejectBanks s.imageRejects).sec.owners = s.sec.owners := by
    obtain ⟨e, he⟩ := s.rejectBanks_only s.imageRejects
    rw [he]
  unfold execBootConfigure
  rw [if_neg (by simp [hdev, haddr])]
  dsimp only
  rw [if_neg (show ¬ s.sec.owners.isEmpty = true by simp [hown]),
    if_neg (show ¬ (s.rejectBanks s.imageRejects).sec.owners.isEmpty = true by rw [howners]; simp [hown]), ← s.pickImage_rejectBanks s.imageRejects]
  rfl

theorem State.validImage_eq_some {b : Fin 2} {x : Fin 2 × Image} :
    s.validImage b = some x ↔ s.nvm.img[b] = some x.2 ∧ s.imageCodes x.2 = [] ∧ x.1 = b := by
  unfold State.validImage
  cases s.nvm.img[b] <;> grind

theorem State.pickImage_eq_none (h : ∀ (b : Fin 2) (i : Image), ¬ (s.nvm.img[b] = some i ∧ s.imageCodes i = [])) : s.pickImage = none := by
  have hnone (b : Fin 2) : s.validImage b = none := by
    cases hv : s.validImage b with
    | none => rfl
    | some x =>
      obtain ⟨himg, hok, -⟩ := State.validImage_eq_some.mp hv
      exact absurd ⟨himg, hok⟩ (h b x.2)
  unfold State.pickImage
  rw [hnone, hnone]

theorem State.pickImage_eq_some {b : Fin 2} {i : Image} (himg : s.nvm.img[b] = some i) (hok : s.imageCodes i = [])
    (hbest : ∀ k, s.nvm.img[1 - b] = some k ∧ s.imageCodes k = [] → k.seq.toNat < i.seq.toNat ∨ (b = 0 ∧ k.seq.toNat = i.seq.toNat)) :
    s.pickImage = some (b, i) := by
  have hthis : s.validImage b = some (b, i) := State.validImage_eq_some.mpr ⟨himg, hok, rfl⟩
  have hother (x : Fin 2 × Image) (hx : s.validImage (1 - b) = some x) : x.2.seq.toNat < i.seq.toNat ∨ (b = 0 ∧ x.2.seq.toNat = i.seq.toNat) := by
    obtain ⟨hximg, hxok, -⟩ := State.validImage_eq_some.mp hx
    exact hbest x.2 ⟨hximg, hxok⟩
  unfold State.pickImage
  have hb : b = 0 ∨ b = 1 := by omega
  rcases hb with rfl | rfl <;> simp only [Fin.isValue, sub_zero, sub_self] at hthis hother <;> rw [hthis]
  · cases h1 : s.validImage 1 <;> grind
  · cases h0 : s.validImage 0 <;> grind

/-- What BOOT_CONFIGURE sets of the device: its state and the image in force. -/
def State.applied (s : State) : DevState × ImageRecs × Bool × Option (Fin 2) := (s.dev, s.img, s.imgApplied, s.imgRun)

theorem State.report_applied (s : State) (code : Nat) (d : ReportDetail) : (s.report code d).applied = s.applied := by
  obtain ⟨a, r, c, o, h⟩ := s.report_only code d
  rw [h]
  rfl

theorem State.loadLowRank_applied (s : State) (l : List ExchRec) : (s.loadLowRank l).applied = s.applied := by
  unfold State.loadLowRank
  refine foldl_kept State.applied (fun t r => ?_) _ s
  refine foldl_kept State.applied (fun u b => ?_) _ t
  rfl

theorem State.loadPlan_applied (s : State) (p : Plan) (n : Nat) : (s.loadPlan p n).applied = s.applied := State.loadLowRank_applied _ _

theorem State.loadInitial_applied (s : State) : s.loadInitial.applied = s.applied := by
  unfold State.loadInitial
  split
  · rfl
  · split
    · exact State.report_applied _ _ _
    · split
      · exact State.report_applied _ _ _
      · exact State.loadPlan_applied _ _ _

theorem State.report_formation (s : State) (code : Nat) (d : ReportDetail) : (s.report code d).formation = s.formation := by
  obtain ⟨a, r, c, o, h⟩ := s.report_only code d
  rw [h]

theorem State.startPhase1_applied (s : State) : s.startPhase1.applied = s.applied ∧ s.startPhase1.formation.phase = 1 := by
  unfold State.startPhase1
  dsimp only
  split
  · exact ⟨rfl, rfl⟩
  · have hkept (t : State) (m : List Out) (h : t.applied = s.applied ∧ t.formation.phase = 1) :
        (t.send m).applied = s.applied ∧ (t.send m).formation.phase = 1 := h
    apply hkept
    split
    all_goals
      split
      · exact ⟨State.report_applied _ _ _, by rw [State.report_formation]⟩
      · exact ⟨rfl, rfl⟩

theorem State.underImage_applied (s : State) (b : Fin 2) (i : Image) : (s.underImage b i).applied = (.configured, i.records, true, some b) := by
  unfold State.underImage
  dsimp only
  split <;> rfl

theorem State.commitSvn_applied (s : State) (i : Image) : (s.commitSvn i).applied = s.applied := by
  unfold State.commitSvn
  dsimp only
  split <;> rfl

theorem State.configure_applied (s : State) (b : Fin 2) (i : Image) :
    (s.configure b i).applied = (.configured, i.records, true, some b) ∧ (s.configure b i).formation.phase = 1 := by
  refine ⟨?_, (State.startPhase1_applied _).2⟩
  rw [State.configure, (State.startPhase1_applied _).1, State.commitSvn_applied, State.loadInitial_applied, State.underImage_applied]

end

/-! ## Bank writes and drains (R353, R467 to R470) -/

section
variable {s : State}

theorem execBankWriteComplete_plan {n : Nat} {p : Plan} (hw : s.nvm.write = some (.plan n p)) :
    execBankWriteComplete s = .next { s with nvm := { s.nvm with plans := aput s.nvm.plans n p, write := none, writer := none } } := by
  simp only [execBankWriteComplete, hw]

theorem execBankWriteComplete_firmware {b : Fin 2} {f : Firmware} (hw : s.nvm.write = some (.firmware b f)) :
    execBankWriteComplete s =
      let t := State.writeCode { s with nvm := { s.nvm with fw := s.nvm.fw.set b (some f), write := none } } (s.firmwareCode f) 1
      let u : State := { t with nvm := { t.nvm with writer := none } }
      .next (if s.dev == .boot then u.internalRestart else u) := by
  simp only [execBankWriteComplete, hw] <;> rfl

theorem execBankWriteComplete_image {b : Fin 2} {i : Image} (hw : s.nvm.write = some (.image b i)) :
    execBankWriteComplete s =
      let v : State := { s with nvm := { s.nvm with img := s.nvm.img.set b (some i), write := none } }
      let code := (minCode (v.imageCodes i)).getD 0
      let u : State := { v.writeCode code 2 with nvm := { (v.writeCode code 2).nvm with writer := none } }
      .next (if s.dev == .safe && code == 0 then u.internalRestart else u) := by
  simp only [execBankWriteComplete, hw]

theorem not_safe_and_zero {d : DevState} {n : Nat} (h : d ≠ .safe ∨ n ≠ 0) : ¬ (d == .safe && n == 0) = true := by
  rcases h with h | h <;> simp [h]

theorem safe_and_zero {d : DevState} {n : Nat} (hd : d = .safe) (hn : n = 0) : (d == .safe && n == 0) = true := by
  simp [hd, hn]

/-- DRAIN_LIMIT: that of the plan to come, or of the plan. -/
def State.drainLimit (s : State) : Nat :=
  match s.switch with
  | some (p, _) => p.acct.drainLimit
  | none => ((s.plan.map Plan.acct).getD {}).drainLimit

/-- Whether a context has not finished. -/
def State.ctxBusy (t : State) (c : Fin 8) : Bool :=
  (t.batches.any fun b => b.ctx == c) || ((t.jobOf c).any fun j => (t.jobSt j.job).st == .running)
    || t.cores.any fun (_, k) => k.ctx[c].running || !k.ctx[c].queue.isEmpty

theorem execDrainTimeout_eq :
    execDrainTimeout s = .next (if s.dev != .drain || decide (s.beat < s.drainSince + s.drainLimit) then s
      else ((List.finRange 8).foldl (fun (t : State) c => if t.ctxBusy c then t.faultCtx 0x6104 c [] else t) s).finishDrain) := rfl

end

/-- Settles O54: a rejection of a bank changes the error record only, so the choice of a bank is that of the state before; the rest by cases. -/
theorem bootResults : Obligations.BootResults := by
  intro s
  refine ⟨fun torn => ⟨State.boot_not_fitted, State.boot_silent, fun hfit hans h => State.boot_unknown hfit hans ?unknown, ?noBank, ?bank⟩,
    State.pickFirmware_iff,
    fun hdev haddr => ⟨execBootConfigure_unowned hdev haddr, fun hown hnone => ?safe, fun b i hown hvalid hbest => ?configured⟩,
    execBootConfigure_idle, fun hw => ?noWrite, fun n p hw => execBankWriteComplete_plan hw,
    fun b f hw => ⟨fun hdev => ?fwKept, fun hdev => ?fwRestart⟩, fun b i hw => ⟨fun h => ?imgKept, fun hdev hcode => ?imgRestart⟩,
    fun hdev hdone => ?drained, fun h => ?draining, fun hdev hlate => ?late, fun h => ?early⟩
  case unknown => rcases h with h | ⟨h, h'⟩ <;> simp [NvmSt.known, *]
  case noBank =>
    rintro ⟨hfit, hans, hsup, hmib⟩ hnone
    exact (State.boot_known hfit hans (by simp [NvmSt.known, hsup, hmib])).1 hnone
  case bank =>
    rintro b ⟨hfit, hans, hsup, hmib⟩ hb
    obtain ⟨hdev, hpart⟩ := (State.boot_known (torn := torn) hfit hans (by simp [NvmSt.known, hsup, hmib])).2 b hb
    exact ⟨hdev, congrArg Prod.fst hpart, congrArg Prod.snd hpart⟩
  case safe =>
    refine (execBootConfigure_owned hdev haddr hown).trans ?_
    rw [State.pickImage_eq_none hnone]
  case configured =>
    have hexec : exec .bootConfigure s = .next ((s.rejectBanks s.imageRejects).configure b i) := by
      refine (execBootConfigure_owned hdev haddr hown).trans ?_
      rw [State.pickImage_eq_some hvalid.1 hvalid.2 hbest]
    obtain ⟨happlied, hphase⟩ := State.configure_applied (s.rejectBanks s.imageRejects) b i
    have hkeeps := exec_keeps .bootConfigure s
    rw [hexec] at hkeeps
    have himg := congrArg Prod.snd happlied
    exact ⟨_, hexec, congrArg Prod.fst happlied, congrArg Prod.fst himg, congrArg (fun x => x.2.1) himg, congrArg (fun x => x.2.2) himg, hphase,
      (hkeeps _ rfl).svn⟩
  case noWrite =>
    show execBankWriteComplete s = _
    simp only [execBankWriteComplete, hw]
  case fwKept =>
    refine (execBankWriteComplete_firmware hw).trans ?_
    dsimp only
    rw [if_neg (by simpa using hdev)]
  case fwRestart =>
    refine (execBankWriteComplete_firmware hw).trans ?_
    dsimp only
    rw [if_pos (by simpa using hdev)]
  case imgKept =>
    refine (execBankWriteComplete_image hw).trans ?_
    dsimp only
    rw [if_neg (not_safe_and_zero h)]
  case imgRestart =>
    refine (execBankWriteComplete_image hw).trans ?_
    dsimp only
    rw [if_pos (safe_and_zero hdev hcode)]
  case drained =>
    show execDrainComplete s = _
    simp [execDrainComplete, hdev, hdone]
  case draining =>
    show execDrainComplete s = _
    rw [execDrainComplete, if_neg (by rcases h with h | h <;> simp [h])]
  case late =>
    refine execDrainTimeout_eq.trans ?_
    have hlimit : ¬ s.beat < s.drainSince + s.drainLimit := Nat.not_lt.mpr hlate
    rw [if_neg (by simp [hdev, hlimit])]
    rfl
  case early =>
    have hlimit : s.dev ≠ .drain ∨ s.beat < s.drainSince + s.drainLimit := h
    exact execDrainTimeout_eq.trans (by rw [if_pos (by simpa using hlimit)])

end Sys2Proof.Machine

namespace Sys2Proof.Machine

/-! ## Notices, reports and the halt phase (R395, R396, R408) -/

section
variable {s : State} {n : Nat} {j : JobRec}

/-- Whether a notice or report of attempt k is of the attempt at hand, or of the one that ended in this very beat. -/
def State.attemptNow (s : State) (n k : Nat) : Bool := !(k != (s.jobSt n).attempt && !s.justStarted n k)

theorem State.attemptNow_iff {k : Nat} : s.attemptNow n k = true ↔ k = (s.jobSt n).attempt ∨ s.justStarted n k = true := by
  simp [State.attemptNow]

theorem State.attemptNow_eq_false {k : Nat} : s.attemptNow n k = false ↔ k ≠ (s.jobSt n).attempt ∧ s.justStarted n k = false := by
  simp [State.attemptNow]

/-- The halt of a first notice with fault f of attempt k. -/
def State.noticed (s : State) (n k : Nat) (j : JobRec) (f : FaultRec) : State :=
  let s0 := s.haltJob j
  ((s0.setJob n { s0.jobSt n with attempt := k }).coordFault j f).pumpAll

theorem execFaultNotice_eq {a k : Nat} {f : FaultRec} (hj : s.jobRec n = some j) :
    execFaultNotice a n k f s = .next (if !s.isMember j || !s.attemptNow n k then s
      else if (s.jobSt n).notified then s.count cntJobHalt
      else (((s.noticed n k j f).send (((s.noticed n k j f).treeNeighbours j).filter (· != a) |>.map fun b => .notice b n k f)).reportHalt j (some f))) := by
  simp only [execFaultNotice, hj, State.attemptNow, Bool.not_not, State.noticed]

/-- A report that the coordinator does not take. -/
def State.ignoresReport (s : State) (j : JobRec) (r : HaltedRep) : Bool :=
  let t := s.jobSt r.job
  s.origin != s.addr || !(j.members.any fun m => m.1 == r.address) || decide (r.attempt < t.attempt) || (s.isMember j && r.attempt != t.attempt)
    || (s.reported j r.address && t.coord.restoreSince.isNone)

theorem State.ignoresReport_iff {r : HaltedRep} : s.ignoresReport j r = true ↔
    s.origin ≠ s.addr ∨ (∀ m ∈ j.members, m.1 ≠ r.address) ∨ r.attempt < (s.jobSt r.job).attempt ∨
      (s.isMember j = true ∧ r.attempt ≠ (s.jobSt r.job).attempt) ∨ (s.reported j r.address = true ∧ (s.jobSt r.job).coord.restoreSince = none) := by
  simp [State.ignoresReport, or_assoc]

/-- What the coordinator holds of a halt once an attempt newer than its own is reported: nothing of the one before. -/
def CoordSt.forAttempt (c : CoordSt) (fresh : Bool) : CoordSt :=
  if fresh then { c with reports := [], since := none, fault := none, late := [], restoreSince := none, request := none } else c

theorem execHaltedReport_ignored {r : HaltedRep} (hj : s.jobRec r.job = some j) (h : s.ignoresReport j r = true) :
    execHaltedReport r s = .next s := by
  unfold State.ignoresReport at h
  simp only [execHaltedReport, hj, h, if_true]

theorem execHaltedReport_taken {r : HaltedRep} (hj : s.jobRec r.job = some j) (h : s.ignoresReport j r = false) :
    execHaltedReport r s =
      let c := ((s.jobSt r.job).coord.forAttempt (decide ((s.jobSt r.job).attempt < r.attempt))).halt s.beat
      .next ((s.setJob r.job { s.jobSt r.job with attempt := r.attempt, coord := { c with reports := c.reports ++ [r] } }).trySettle j) := by
  unfold State.ignoresReport at h
  simp only [execHaltedReport, hj, h, Bool.false_eq_true, if_false, CoordSt.forAttempt]

/-- No assign phase begins: this is not the coordinator of a halted job, or its halt phase is not over. -/
def State.notSettled (s : State) (j : JobRec) : Bool :=
  let t := s.jobSt j.job
  s.origin != s.addr || t.coord.since.isNone || t.coord.restoreSince.isSome || s.jobView j != .halted || !s.settled j

theorem State.notSettled_eq_false : s.notSettled j = false ↔
    s.origin = s.addr ∧ (s.jobSt j.job).coord.since ≠ none ∧ (s.jobSt j.job).coord.restoreSince = none ∧ s.jobView j = .halted ∧
      s.settled j = true := by
  simp [State.notSettled, and_assoc, Option.isSome_iff_ne_none]

theorem State.trySettle_waiting (h : s.notSettled j = true) : s.trySettle j = s := by
  unfold State.notSettled at h
  simp only [State.trySettle, h, if_true]

theorem State.trySettle_request {q : RestartReq} (h : s.notSettled j = false) (hq : (s.jobSt j.job).coord.request = some q) :
    s.trySettle j = s.assignPhase j false false q := by
  unfold State.notSettled at h
  simp only [State.trySettle, h, hq, Bool.false_eq_true, if_false]

theorem State.trySettle_no_request (h : s.notSettled j = false) (hq : (s.jobSt j.job).coord.request = none) :
    s.trySettle j = if s.img.autoRestart = 1 then s.assignPhase j true false {} else s := by
  unfold State.notSettled at h
  simp only [State.trySettle, h, hq, Bool.false_eq_true, if_false]

theorem State.reported_iff {a : Nat} :
    s.reported j a = true ↔ ∃ r ∈ (s.jobSt j.job).coord.reports, r.address = a ∧ r.attempt = (s.jobSt j.job).attempt := by
  simp [State.reported]

theorem State.settled_iff : s.settled j = true ↔
    (∀ m ∈ j.members, ∃ r ∈ (s.jobSt j.job).coord.reports, r.address = m.1 ∧ r.attempt = (s.jobSt j.job).attempt) ∨
      ∃ b, (s.jobSt j.job).coord.since = some b ∧ b + j.haltSettle ≤ s.beat := by
  simp only [State.settled, Bool.or_eq_true, List.all_eq_true, State.reported_iff, Option.any_eq_true, decide_eq_true_eq]

theorem execHaltSettle_decide (hj : s.jobRec n = some j) : execHaltSettle n .decide s = .next (s.trySettle j) := by
  simp only [execHaltSettle, hj]

theorem execHaltSettle_assigned {a : Assignment} (hj : s.jobRec n = some j) :
    execHaltSettle n (.assigned a) s =
      .next (if s.origin == s.addr || (s.isMember j && a.attempt != (s.jobSt n).attempt) || (s.jobSt n).st == .running then s else s.takeAssign j a) := by
  simp only [execHaltSettle, hj]

theorem execHaltSettle_stopped {code : Nat} (hj : s.jobRec n = some j) :
    execHaltSettle n (.stopped code) s =
      .next (if s.origin = s.addr then (if (s.jobSt n).coord.restoreSince.isSome then s.failRestore j code else s)
        else if s.isMember j && (s.jobSt n).st != .running then s.setJob n { s.jobSt n with st := .stopped } else s) := by
  simp only [execHaltSettle, hj]

theorem State.jobSt_sendHosted {a : Assignment} : (s.sendHosted j a).jobSt n = s.jobSt n := rfl

/-- An assignment without substitutions makes a member RESTORING under the new attempt. -/
theorem State.takeAssign_member {a : Assignment} (hj : s.jobRec j.job = some j) (hmem : s.isMember j = true) (hsubst : a.subst = []) :
    ((s.takeAssign j a).jobSt j.job).st = .restoring ∧ ((s.takeAssign j a).jobSt j.job).attempt = a.attempt := by
  have hplan : { s with plan := s.plan.map fun p => p } = s := by rw [Option.map_id']
  simp only [State.takeAssign, hsubst, List.foldl_nil, hplan, hj, hmem, if_true, State.jobSt_sendHosted, State.jobSt_setJob]
  exact ⟨trivial, trivial⟩

/-! ## Restore (R412, R413) -/

/-- The source of a restore: an external part that the member holds stands for one not delivered. -/
def JobSt.fullSrc (t : JobSt) (src : RestoreSrc) : RestoreSrc :=
  match t.extern, src.part with
  | some l, none => { part := some l, manifest := src.manifest.orElse fun _ => t.externMan }
  | _, _ => src

/-- A restored member reports and offers its start. -/
def State.restoreOver (u : State) (j : JobRec) (n : Nat) (recovery : Bool) : State :=
  (if u.origin = u.addr then u.restoredAt j u.addr recovery else u.send [.restoreDone u.origin n recovery]).offerStart j

variable {src : RestoreSrc} {rcv : Bool}

theorem execRestoreComplete_idle (hj : s.jobRec n = some j)
    (h : (s.jobSt n).st ≠ .restoring ∨ s.isMember j = false ∨ s.lacksHusk = true) : execRestoreComplete n s.addr src rcv s = .next s := by
  have hstop : ((s.jobSt n).st != .restoring || !s.isMember j || s.lacksHusk) = true := by
    rcases h with h | h | h <;> simp [h]
  simp only [execRestoreComplete, hj, if_true, hstop]

/-- What follows a member's attempt at its restore. -/
def State.restoreEnds (s : State) (j : JobRec) (n : Nat) : Option (State × Bool) → State
  | none => s.failRestore j 0x6112
  | some (u, recovery) => u.restoreOver j n recovery

theorem execRestoreComplete_self (hj : s.jobRec n = some j) (hst : (s.jobSt n).st = .restoring) (hmem : s.isMember j = true)
    (hhusk : s.lacksHusk = false) :
    execRestoreComplete n s.addr src rcv s = .next (s.restoreEnds j n (s.restore j ((s.jobSt n).fullSrc src))) := by
  have hgo : ((s.jobSt n).st != .restoring || !s.isMember j || s.lacksHusk) = false := by simp [hst, hmem, hhusk]
  simp only [execRestoreComplete, hj, if_true, hgo, Bool.false_eq_true, if_false]
  rfl

/-- Whether the part of version v that a member restores is intact. -/
def State.partGood (s : State) (j : JobRec) (src : RestoreSrc) (v : Nat) : Bool :=
  partIntact (s.restorePart j src v) v ((s.knownManifest j src v).map Manifest.mapDigest)

theorem State.restore_version {a : Assignment} {v : Nat} (ha : (s.jobSt j.job).assign = some a) (hv : a.version = some v) :
    (s.partGood j src v = true → s.restore j src = some (s.restoreVersion j src v)) ∧ (s.partGood j src v = false → s.restore j src = none) := by
  unfold State.partGood
  constructor <;> intro hpart <;> simp [State.restore, ha, hv, hpart]

theorem State.restore_initial {a : Assignment} (ha : (s.jobSt j.job).assign = some a) (hv : a.version = none) :
    s.restore j src = some (s.restoreInitial j, false) := by
  simp only [State.restore, ha, hv]

theorem execRestoreComplete_other {a : Nat} (hj : s.jobRec n = some j) (ha : a ≠ s.addr) :
    execRestoreComplete n a src rcv s = .next (if s.origin = s.addr then s.restoredAt j a rcv else s) := by
  simp only [execRestoreComplete, hj, ha, if_false]

theorem execRestoreTimeout_eq (hj : s.jobRec n = some j) :
    execRestoreTimeout n s = .next (if s.origin == s.addr && (s.jobSt n).coord.restoreSince.any fun b => decide (b + j.restoreLimit ≤ s.beat) then
      s.failRestore j 0x6115 else s) := by
  simp only [execRestoreTimeout, hj]

theorem State.failRestore_coordinator {code : Nat} (h : s.origin = s.addr) :
    s.failRestore j code = s.stopJob j code (s.jobSt j.job).coord.lost (s.jobSt j.job).taken := by
  simp only [State.failRestore, h, if_true]

end

/-- Settles O52: each command by its cases; what the halt phase waits for is `State.notSettled`, and a restore either has its part or fails. -/
theorem restartResults : Obligations.RestartResults := by
  intro s n j hj
  have hjob : j.job = n := State.jobRec_job hj
  refine ⟨fun a f => ⟨fun k hmem hk hnew => ?first, fun k hmem hk hold => ?later, fun k h => ?foreign⟩, fun r hr => ?report,
    execHaltSettle_decide hj, ⟨fun q hready hq => ?request, fun hready hq hauto => ?auto, fun h => ?waits⟩, ?settled,
    fun a => ⟨fun horigin hst hmem => ?assigned, fun h => ?notAssigned, fun hmem hsubst _ => ?restoring⟩,
    fun code => ⟨fun horigin hmem hst => ?stops, fun horigin h => ?goesOn, fun horigin h => ?failed, fun horigin h => ?noRestore⟩,
    fun src rcv => ⟨execRestoreComplete_idle hj, fun a v hst hmem hhusk ha hv => ⟨fun hgood => ?good, fun hbad => ?bad⟩,
      fun a hst hmem hhusk ha hv => ?initial⟩,
    fun a src rcv ha => ⟨fun horigin => ?member, fun horigin => ?notCoordinator⟩,
    fun b horigin hb => ⟨fun hlate => ?late, fun hearly => ?early⟩, fun h => ?noTimeout⟩
  case first =>
    exact (execFaultNotice_eq hj).trans (by
      rw [if_neg (by simp [hmem, State.attemptNow_iff.mpr hk]), if_neg (by simp [hnew])]
      rfl)
  case later =>
    exact (execFaultNotice_eq hj).trans (by
      rw [if_neg (by simp [hmem, State.attemptNow_iff.mpr hk]), if_pos hold])
  case foreign =>
    exact (execFaultNotice_eq hj).trans (by
      rw [if_pos (by rcases h with h | h <;> simp [State.attemptNow_eq_false.mpr, *])])
  case report =>
    subst hr
    rw [← State.ignoresReport_iff]
    refine ⟨execHaltedReport_ignored hj, fun h hsame => ?_, fun h hnewer => ?_⟩
    · refine (execHaltedReport_taken hj (Bool.not_eq_true _ ▸ h)).trans ?_
      simp only [hsame, Nat.lt_irrefl, decide_false, CoordSt.forAttempt, Bool.false_eq_true, if_false]
    · refine (execHaltedReport_taken hj (Bool.not_eq_true _ ▸ h)).trans ?_
      simp only [hnewer, decide_true, CoordSt.forAttempt, if_true]
  all_goals subst hjob
  case request => exact State.trySettle_request (State.notSettled_eq_false.mpr hready) hq
  case auto => rw [State.trySettle_no_request (State.notSettled_eq_false.mpr hready) hq, if_pos hauto]
  case waits =>
    rcases h with h | ⟨hq, hauto⟩
    · exact State.trySettle_waiting (by rwa [← Bool.not_eq_false, State.notSettled_eq_false])
    · by_cases hready : s.notSettled j = true
      · exact State.trySettle_waiting hready
      · rw [State.trySettle_no_request (Bool.not_eq_true _ ▸ hready) hq, if_neg hauto]
  case settled => exact State.settled_iff
  case assigned =>
    exact (execHaltSettle_assigned hj).trans (by rw [if_neg (by rcases hmem with h | h <;> simp [h, horigin, hst])])
  case notAssigned =>
    exact (execHaltSettle_assigned hj).trans (by rw [if_pos (by rcases h with h | h | ⟨h, h'⟩ <;> simp [*])])
  case restoring => exact State.takeAssign_member hj hmem hsubst
  case stops =>
    exact (execHaltSettle_stopped hj).trans (by rw [if_neg horigin, if_pos (by simp [hmem, hst])])
  case goesOn =>
    exact (execHaltSettle_stopped hj).trans (by rw [if_neg horigin, if_neg (by rcases h with h | h <;> simp [h])])
  case failed =>
    exact (execHaltSettle_stopped hj).trans (by rw [if_pos horigin, if_pos (Option.isSome_iff_ne_none.mpr h)])
  case noRestore =>
    exact (execHaltSettle_stopped hj).trans (by rw [if_pos horigin, if_neg (by simp [h])])
  case good =>
    exact (execRestoreComplete_self hj hst hmem hhusk).trans (by rw [(State.restore_version (src := (s.jobSt j.job).fullSrc src) ha hv).1 hgood]; rfl)
  case bad =>
    exact (execRestoreComplete_self hj hst hmem hhusk).trans (by rw [(State.restore_version (src := (s.jobSt j.job).fullSrc src) ha hv).2 hbad]; rfl)
  case initial =>
    exact (execRestoreComplete_self hj hst hmem hhusk).trans (by rw [State.restore_initial ha hv]; rfl)
  case member => exact (execRestoreComplete_other hj ha).trans (by rw [if_pos horigin])
  case notCoordinator => exact (execRestoreComplete_other hj ha).trans (by rw [if_neg horigin])
  case late =>
    exact (execRestoreTimeout_eq hj).trans (by rw [if_pos (by simp [horigin, hb, hlate]), State.failRestore_coordinator horigin])
  case early =>
    exact (execRestoreTimeout_eq hj).trans (by rw [if_neg (by simp [hb, hearly])])
  case noTimeout =>
    exact (execRestoreTimeout_eq hj).trans (by rw [if_neg (by rcases h with h | h <;> simp [h])])

end Sys2Proof.Machine

namespace Sys2Proof.Machine

/-! ## Refused frames and blocks of objects (R433, R488, R500, R504) -/

section
variable {s : State} {i : Instr} {f : Frame} {b : FrameBody} {x : SessionSt} {k : Nat}

/-- Every command that brings a data frame answers what the reception of the frame leaves. -/
theorem exec_frame (h : i.frame = some (f, b)) : exec i s = s.frame f b := by
  unfold Instr.frame at h
  split at h <;> cases h <;> rfl

theorem exec_frame_arrives (h : i.frame = some (f, b)) (ha : Arrives s f x) (ho : x.opened = true) :
    exec i s = .next (State.endFrame f x.early.length ((s.taken f).deliverFrame f b)) :=
  (exec_frame h).trans (frame_arrives ha (Or.inl ho))

/-- A refusal changes the error record, the sessions and what has been sent. -/
theorem State.refuse_only (s : State) (f : Frame) (b : FrameBody) (code loc : Nat) :
    ∃ a o, s.refuse f b code loc = { s.reject code b.cls loc with sessions := a, out := o } :=
  State.sendFrame_only _ _ _

/-- Only PROVE is a CTRL frame with TARGET 3. -/
theorem FrameBody.not_proof_of_kind (h : b.kind ≠ some 10) : (b.target == 3 && b.cls == 5) = false := by
  cases b
  case prove => exact absurd rfl h
  all_goals simp [FrameBody.target, FrameBody.cls]

theorem FrameBody.kind_of_not_permitted {a : Authority} (h : b.permitted a = false) : b.kind ≠ some 10 := by
  cases b
  case prove => exact absurd h (by simp [FrameBody.permitted])
  all_goals simp [FrameBody.kind]

/-- The code that a data frame of an open session is refused with before it reaches a unit (R504, R433). -/
def State.refusal (s : State) (f : Frame) (b : FrameBody) : Nat :=
  if s.dev.accepts b = false then 0x2002 else if f.subtypeOk = false ∧ (b.cls = 5 ∨ b.cls = 6) then 0x2040 else 0x4003

theorem deliverFrame_refused (ha : Arrives s f x) (ho : x.opened = true)
    (h : (s.taken f).dev.accepts b = false ∨ b.permitted x.authority = false) :
    (s.taken f).deliverFrame f b = (s.taken f).refuse f b ((s.taken f).refusal f b) := by
  unfold State.deliverFrame State.refusal
  simp only [ha.session, ho, ha.formed, Bool.not_true, Bool.false_eq_true, if_false]
  cases hacc : (s.taken f).dev.accepts b with
  | false => simp only [Bool.not_false, if_true]
  | true =>
    have hperm : b.permitted x.authority = false := h.resolve_left (by simp [hacc])
    have hproof := FrameBody.not_proof_of_kind (FrameBody.kind_of_not_permitted hperm)
    rw [if_neg (by decide), hproof, Bool.or_false]
    by_cases hsub : f.subtypeOk = false ∧ (b.cls = 5 ∨ b.cls = 6)
    · have hbad : (!f.subtypeOk && (b.cls == 5 || b.cls == 6)) = true := by simpa using hsub
      rw [if_pos hbad, if_neg (by decide), if_pos hsub]
    · have hok : ¬ (!f.subtypeOk && (b.cls == 5 || b.cls == 6)) = true := fun hc => hsub (by simpa using hc)
      rw [if_neg hok, hperm, if_pos (by decide), if_neg (by decide), if_neg hsub]

end

/-- Settles O48: a frame that is refused changes the error record, the sessions and what has been sent, and nothing else. -/
theorem refusedFramesChangeNothing : Obligations.RefusedFramesChangeNothing := by
  intro s i f b x hi ha ho h
  refine ⟨_, (exec_frame_arrives hi ha ho).trans (by rw [deliverFrame_refused ha ho h]), ?_⟩
  obtain ⟨a, o, hrefuse⟩ := (s.taken f).refuse_only f b ((s.taken f).refusal f b) 0
  rw [hrefuse]
  refine ⟨rfl, rfl, rfl, rfl, rfl, rfl, rfl, rfl, rfl, rfl, rfl, rfl, rfl, ?_⟩
  have hcode : ((s.taken f).rejErr ((s.taken f).refusal f b) b.cls 0).lastCode.toNat % 2 ^ 16 = (s.taken f).refusal f b := by
    rw [State.rejErr_lastCode_toNat, State.refusal]
    split_ifs <;> omega
  exact hcode

section
variable {s : State} {i : Instr} {f : Frame} {b : FrameBody} {x : SessionSt} {k : Nat}

/-- A frame of an object that passes the checks of R504 takes its place in the object. -/
theorem deliverFrame_block (ha : Arrives s f x) (ho : x.opened = true) (hacc : (s.taken f).dev.accepts b = true) (hsub : f.subtypeOk = true)
    (hperm : b.permitted x.authority = true) (hk : b.kind = some k) (h10 : k ≠ 10) :
    (s.taken f).deliverFrame f b = (s.taken f).block f x k b := by
  have hproof := FrameBody.not_proof_of_kind (b := b) (by simpa [hk] using h10)
  unfold State.deliverFrame
  simp only [ha.session, ho, ha.formed, hacc, hsub, hperm, hk, hproof, Bool.not_true, Bool.false_and, Bool.or_self, Bool.false_eq_true, if_false]

/-- A block of less than 8,192 bytes that is not the LAST one. -/
def shortBlock (f : Frame) : Bool := !f.last && f.length != 8192

theorem shortBlock_iff : shortBlock f = true ↔ f.last = false ∧ f.length ≠ 8192 := by simp [shortBlock]

theorem block_other_kind {cur next : Nat} (hobj : x.obj = some (cur, next)) (hcur : cur % 16 ≠ k) : s.block f x k b = s.refuse f b 0x2042 := by
  simp [State.block, hobj, hcur]

theorem block_out_of_place {cur next : Nat} (hobj : x.obj = some (cur, next)) (hcur : cur % 16 = k) (h : f.offset ≠ next ∨ shortBlock f = true) :
    s.block f x k b = (s.dropObject f.session).refuse f b 0x2041 := by
  have hbad : (f.offset != next || (!f.last && f.length != 8192)) = true := by simpa [shortBlock] using h
  simp only [State.block, hobj, hcur, hbad, bne_self_eq_false, Bool.false_eq_true, if_false, if_true]

theorem block_next {cur next : Nat} (hobj : x.obj = some (cur, next)) (hcur : cur % 16 = k) (hoff : f.offset = next) (hlast : f.last = false)
    (hlen : f.length = 8192) : s.block f x k b = s.noteBlock f x k b (cur, next + 1) := by
  simp [State.block, hobj, hcur, hoff, hlast, hlen]

theorem block_last {cur next : Nat} (hobj : x.obj = some (cur, next)) (hcur : cur % 16 = k) (hoff : f.offset = next) (hlast : f.last = true) :
    s.block f x k b = (s.setSession f.session { x with obj := none }).handle f x.loading b := by
  simp [State.block, hobj, hcur, hoff, hlast]

theorem block_no_object (hobj : x.obj = none) (h : f.offset ≠ 0 ∨ shortBlock f = true) : s.block f x k b = s.refuse f b 0x2041 := by
  have hbad : (f.offset != 0 || (!f.last && f.length != 8192)) = true := by simpa [shortBlock] using h
  simp only [State.block, hobj, hbad, if_true]

theorem block_first (hobj : x.obj = none) (hoff : f.offset = 0) (hlast : f.last = false) (hlen : f.length = 8192) :
    s.block f x k b = (s.beginObject k b).1.noteBlock f x k b ((s.beginObject k b).2, 1) := by
  simp [State.block, hobj, hoff, hlast, hlen]

theorem beginObject_other (h : ∀ a, b ≠ .adapterLoad a) : s.beginObject k b = (s, k) := by
  unfold State.beginObject
  split
  · exact absurd rfl (h _)
  · rfl

theorem beginObject_adapter {a : AdapterObj} : (s.beginObject k (.adapterLoad a)).1 = (s.beginAdapter a).1 ∧
    (s.beginObject k (.adapterLoad a)).2 = match (s.beginAdapter a).2 with | some n => k + 16 * (n + 1) | none => k := by
  unfold State.beginObject
  dsimp only
  rcases s.beginAdapter a with ⟨t, _ | n⟩ <;> exact ⟨rfl, rfl⟩

theorem noteBlock_eq (h10 : k ≠ 10) (o : Nat × Nat) : s.noteBlock f x k b o =
    if b.cls = 5 then (s.setSession f.session { x with obj := some o }).status f b 0 else s.setSession f.session { x with obj := some o } := by
  simp [State.noteBlock, h10]

end

/-- Settles O49: by the object under way and the place of the block. -/
theorem objectBlocks : Obligations.ObjectBlocks := by
  intro s i f b x k hi ha ho hacc hsub hperm hk h10
  have hexec : exec i s = .next (State.endFrame f x.early.length ((s.taken f).block f x k b)) :=
    (exec_frame_arrives hi ha ho).trans (by rw [deliverFrame_block ha ho hacc hsub hperm hk h10])
  refine ⟨fun cur next hobj => ⟨fun hcur => ?kind, fun hcur hbad => ?place, fun hcur hoff hlast hlen => ?next, fun hcur hoff hlast => ?last⟩,
    fun hobj => ⟨fun hbad => ?lost, fun hoff hlast hlen => ⟨?first, beginObject_other, ?adapter⟩⟩⟩
  case kind => rw [hexec, block_other_kind hobj hcur]
  case place => rw [hexec, block_out_of_place hobj hcur (hbad.imp_right shortBlock_iff.mpr)]
  case next => rw [hexec, block_next hobj hcur hoff hlast hlen, noteBlock_eq h10]
  case last => rw [hexec, block_last hobj hcur hoff hlast]
  case lost => rw [hexec, block_no_object hobj (hbad.imp_right shortBlock_iff.mpr)]
  case first => rw [hexec, block_first hobj hoff hlast hlen, noteBlock_eq h10]
  case adapter =>
    rintro a rfl
    exact beginObject_adapter

end Sys2Proof.Machine

namespace Sys2Proof.Machine

/-! ## Frames that reach their unit (R488, R496, R501, R504) -/

section
variable {s : State} {i : Instr} {f : Frame} {b : FrameBody} {x : SessionSt} {k : Nat}

theorem FrameBody.not_proof_pair (h : b.kind ≠ some 10) : ¬ (b.target = 3 ∧ b.cls = 5) := by
  simpa using FrameBody.not_proof_of_kind h

/-- A frame that passes every check and carries no object: its unit takes it. -/
theorem exec_handle {t : State} (hi : i.frame = some (f, b)) (h : Delivers s f b x) (hk : b.kind = none) (ht : (s.taken f).handle f none b = t) :
    exec i s = .next (State.endFrame f x.early.length t) :=
  (exec_frame_arrives hi h.toArrives h.opened).trans (by rw [deliverFrame_handle h hk (FrameBody.not_proof_pair (by simp [hk])), ht])

/-- A frame that passes every check and holds its object whole: the object begins, and its unit takes it. -/
theorem exec_object (hi : i.frame = some (f, b)) (h : Delivers s f b x) (hk : b.kind = some k) (h10 : k ≠ 10) :
    exec i s = .next (State.endFrame f x.early.length (((s.taken f).beginObject k b).1.handle f
      (if ((s.taken f).beginObject k b).2 < 16 then none else some (((s.taken f).beginObject k b).2 / 16 - 1)) b)) :=
  (exec_frame_arrives hi h.toArrives h.opened).trans (by rw [deliverFrame_object h hk (FrameBody.not_proof_pair (by simp [hk, h10]))])

/-- An object that takes no adapter slot goes to its unit as it is. -/
theorem exec_plain_object {t : State} (hi : i.frame = some (f, b)) (h : Delivers s f b x) (hk : b.kind = some k) (h10 : k < 10)
    (hother : ∀ a, b ≠ .adapterLoad a) (ht : (s.taken f).handle f none b = t) : exec i s = .next (State.endFrame f x.early.length t) := by
  rw [exec_object hi h hk (by omega), beginObject_other hother, if_pos (by show k < 16; omega), ht]

theorem State.answer_zero (hb : b.cls = 5) : State.answer f b (s, 0) = s.status f b 0 := by
  simp [State.answer, hb]

theorem State.answer_data (hb : b.cls ≠ 5) : State.answer f b (s, 0) = s := by
  simp [State.answer, hb]

theorem State.answer_code {code : Nat} (h0 : code ≠ 0) (hlater : code ≠ 0xFFFF) : State.answer f b (s, code) = s.refuse f b code := by
  simp [State.answer, h0, hlater]

theorem State.answer_later : State.answer f b (s, 0xFFFF) = s := by
  simp [State.answer]

end

/-! ## Control frames (R353, R397, R407, R428, R432, R485, R489, R490, R503) -/

section
variable {s : State}

theorem State.onSwitch_verified {e k : Nat} {p : Plan} (hnone : s.switch = none)
    (hfound : (e = 0xFF ∧ s.planRx = some p ∧ k = 0xFE) ∨ (e ≠ 0xFF ∧ s.libraryPlan e = .ok p ∧ k = e))
    (hok : verifyPlan p s.img (s.verifyEnv true) = none) :
    s.onSwitch e = if s.dev = .configured then (s.changePlan p k, 0, 0) else ({ s with dev := .drain, switch := some (p, k), drainSince := s.beat }, 0, 0) := by
  unfold State.onSwitch
  rcases hfound with ⟨rfl, hrx, rfl⟩ | ⟨he, hlib, rfl⟩
  · simp [hnone, hrx, hok]
  · simp [hnone, he, hlib, Except.map, hok]

/-- What a RESTART asks for. -/
def restartReq (replay : Bool) (vEnd : Nat) (ext : Option Nat) (excl : List Exclusion) : RestartReq :=
  { ext, replay := if replay then some vEnd else none, exclusions := if replay then excl else [] }

section
variable {job vEnd : Nat} {replay : Bool} {ext : Option Nat} {excl : List Exclusion} {j : JobRec}

theorem State.onRestart_exhausted (hj : s.jobRec job = some j) (hex : (s.sec.exhausted && s.isMember j) = true) :
    s.onRestart job replay vEnd ext excl = (s, 0x4120) := by
  simp only [State.onRestart, hj, hex, if_true]

theorem State.onRestart_elsewhere (hj : s.jobRec job = some j) (hex : (s.sec.exhausted && s.isMember j) = false) (horigin : s.origin ≠ s.addr) :
    s.onRestart job replay vEnd ext excl = (s, 0) := by
  have hnot : (s.origin != s.addr) = true := by simpa using horigin
  simp only [State.onRestart, hj, hex, hnot, Bool.false_eq_true, if_false, if_true]

/-- The coordinator acts on the state of the job as it holds it. -/
theorem State.onRestart_coordinator (hj : s.jobRec job = some j) (hex : (s.sec.exhausted && s.isMember j) = false) (horigin : s.origin = s.addr) :
    s.onRestart job replay vEnd ext excl =
      let q := restartReq replay vEnd ext excl
      let wait : State := s.setJob job { s.jobSt job with coord := { (s.jobSt job).coord with request := some q } }
      if s.jobView j = .stopped then (s.assignPhase j false (s.jobSt job).coord.since.isNone q, 0)
      else if s.jobView j = .halted then (if s.settled j then s.assignPhase j false false q else wait, 0)
      else if s.jobView j = .none then (wait, 0) else (s, 0) := by
  simp only [State.onRestart, hj, hex, horigin, bne_self_eq_false, Bool.false_eq_true, if_false, restartReq]
  cases s.jobView j <;> rfl

end

/-- Only a device in HALT takes a REJOIN. -/
theorem DevState.halt_of_accepts_rejoin {d : DevState} (h : d.accepts .rejoin = true) : d = .halt := by
  revert h
  cases d <;> decide

theorem State.onTicket_eq {client : Nat} {key : Digest} :
    s.onTicket client key = if s.sec.tickets.length < 4096 ∨ (aget s.sec.tickets client).isSome = true then
      ({ s with sec := { s.sec with tickets := aput s.sec.tickets client key } }, 0) else (s, 0) := by
  simp only [State.onTicket, State.inSec, Bool.or_eq_true, decide_eq_true_eq, or_comm]

theorem State.onOwnerTransfer_eq {next signer : Digest} {sig : SigInfo} :
    s.onOwnerTransfer next signer sig = if sig.valid = false then (s, 0x4001) else if ¬ (s.sec.owners ≠ [] ∧ signer = s.sec.owner) then (s, 0x4002)
      else if 16 ≤ s.sec.owners.length then (s, 0x4021) else ({ s with sec := { s.sec with owners := s.sec.owners ++ [next] } }, 0) := by
  simp only [State.onOwnerTransfer, State.inSec, Bool.not_eq_true', Bool.or_eq_true, List.isEmpty_iff, bne_iff_ne, not_and_or, not_not, ne_eq]

theorem readBad_eq_false {off count : Nat} (halign : off % 4 = 0) (hsome : 0 < count) (hmax : count ≤ 256) (hend : off + 4 * count ≤ 0x10000) :
    readBad off count = false := by
  simp only [readBad, Bool.or_eq_false_iff, bne_eq_false_iff_eq, beq_eq_false_iff_ne, decide_eq_false_iff_not]
  omega

section
variable {f : Frame} {x : SessionSt} {k : Proof} {g : SigInfo}

/-- A whole PROVE on a session that is not open yet reaches the judgement of its proof. -/
theorem execProve_judged (ha : Arrives s f x) (ho : x.opened = false) (hobj : x.obj = none) (hoff : f.offset = 0) (hlast : f.last = true) :
    execProve f k g s = .next (State.endFrame f x.early.length ((s.taken f).onProve f k g)) := by
  refine (frame_arrives ha (Or.inr rfl)).trans ?_
  have hdeliver : (s.taken f).deliverFrame f (.prove k g) = (s.taken f).onProve f k g := by
    unfold State.deliverFrame
    simp only [ha.session, ho, ha.formed, FrameBody.kind, Bool.not_false, bne_self_eq_false, Bool.false_eq_true, if_false, if_true, State.block, hobj, hoff,
      hlast, Bool.not_true, Bool.false_and, Bool.or_self, State.beginObject]
    rfl
  rw [hdeliver]

/-- The session is open, and told so. -/
def State.proved (s : State) (f : Frame) (x : SessionSt) : State := (s.setSession f.session { x with opened := true }).sendFrame f.session (.opened 0)

theorem State.onProve_opens (hx : s.session f.session = some x) (hcode : s.proofCode x k g = 0) :
    s.onProve f k g = if x.authority ≠ .operator then s.proved f x
      else ((s.proved f x).reports.foldl (fun (t : State) r => t.sendFrame f.session (.report r)) ({ s.proved f x with reports := [] } : State)).pumpExports := by
  simp only [State.onProve, hx, hcode, ne_eq, not_true_eq_false, if_false, bne_iff_ne, State.proved]

theorem State.onProve_fails (hx : s.session f.session = some x) (hcode : s.proofCode x k g ≠ 0) :
    s.onProve f k g = ((s.reject (s.proofCode x k g) 5).sendFrame f.session (.opened (s.proofCode x k g))).closeSession f.session := by
  simp only [State.onProve, hx, hcode, ne_eq, not_false_eq_true, if_true]

end

end

/-- Settles O45: each frame reaches its unit, and the unit's cases are those of the statement. -/
theorem controlFrames : Obligations.ControlFrames := by
  intro s f x
  refine ⟨fun h => ?close, fun e k p h hnone hfound hok => ⟨fun hdev => ?switch, fun hdev => ?change⟩,
    fun job vEnd replay ext excl j h hj => ⟨fun hex hmem => ?exhausted, fun hfree => ⟨fun horigin =>
      ⟨fun hv => ?stopped, fun hv hset => ?halted, fun hv => ?waits⟩, fun hno => ?nothing⟩⟩,
    fun h => ?rejoin, fun h => ⟨fun hdev => ?drain, fun hdev => ?drainIdle⟩,
    fun client key h => ⟨fun hroom => ?ticket, fun hfull hnew => ?noRoom⟩, fun key h => ?storage,
    fun prio hprio => ⟨fun h => ?pfcOn, fun h => ?pfcOff⟩,
    fun next signer sig h => ⟨fun hsig hmine hroom => ?burn, fun hsig => ?unsigned, fun hsig hmine => ?foreign, fun hsig hmine hfull => ?full⟩,
    fun off count meas h halign hsome hmax hend => ?read,
    fun k g ha ho hobj hoff hlast => ⟨fun hcode hauth => ?opens, fun hcode hauth => ?operator, fun hcode => ?fails⟩⟩
  case close => exact exec_handle (i := .close f) rfl h rfl rfl
  case switch =>
    refine exec_handle (i := .switch f e) rfl h rfl ?_
    simp only [State.handle, State.onSwitch_verified hnone hfound hok, if_neg hdev]
  case change =>
    refine exec_handle (i := .switch f e) rfl h rfl ?_
    simp only [State.handle, State.onSwitch_verified hnone hfound hok, if_pos hdev]
  case exhausted =>
    refine exec_handle (i := .restart f job replay vEnd ext excl) rfl h rfl ?_
    simp only [State.handle, State.onRestart_exhausted hj (by rw [hex, hmem]; rfl : ((s.taken f).sec.exhausted && (s.taken f).isMember j) = true)]
    exact State.answer_code (by decide) (by decide)
  case nothing =>
    refine exec_handle (i := .restart f job replay vEnd ext excl) rfl h rfl ?_
    have hex : ((s.taken f).sec.exhausted && (s.taken f).isMember j) = false := Bool.and_eq_false_iff.mpr hfree
    by_cases horigin : (s.taken f).origin = (s.taken f).addr
    · have hv : (s.taken f).jobView j ∉ [JobState.stopped, .halted, .none] := hno.resolve_left (not_not_intro horigin)
      simp only [List.mem_cons, List.not_mem_nil, or_false, not_or] at hv
      obtain ⟨hstopped, hhalted, hnone⟩ := hv
      simp only [State.handle, State.onRestart_coordinator hj hex horigin, if_neg hstopped, if_neg hhalted, if_neg hnone]
      exact State.answer_zero rfl
    · simp only [State.handle, State.onRestart_elsewhere hj hex horigin]
      exact State.answer_zero rfl
  case stopped =>
    refine exec_handle (i := .restart f job replay vEnd ext excl) rfl h rfl ?_
    simp only [State.handle, State.onRestart_coordinator hj (Bool.and_eq_false_iff.mpr hfree) horigin, if_pos hv]
    exact State.answer_zero rfl
  case halted =>
    refine exec_handle (i := .restart f job replay vEnd ext excl) rfl h rfl ?_
    simp only [State.handle, State.onRestart_coordinator hj (Bool.and_eq_false_iff.mpr hfree) horigin, if_neg (show (s.taken f).jobView j ≠ .stopped by simp [hv]),
      if_pos hv, if_pos hset]
    exact State.answer_zero rfl
  case waits =>
    refine exec_handle (i := .restart f job replay vEnd ext excl) rfl h rfl ?_
    rcases hv with ⟨hv, hset⟩ | hv
    · simp only [State.handle, State.onRestart_coordinator hj (Bool.and_eq_false_iff.mpr hfree) horigin, hv, hset, reduceCtorEq, Bool.false_eq_true, if_false, if_true]
      exact State.answer_zero rfl
    · simp only [State.handle, State.onRestart_coordinator hj (Bool.and_eq_false_iff.mpr hfree) horigin, hv, reduceCtorEq, if_false, if_true]
      exact State.answer_zero rfl
  case rejoin =>
    refine exec_handle (i := .rejoin f) rfl h rfl ?_
    have hdev : ((s.taken f).dev != .halt) = false := by simp [DevState.halt_of_accepts_rejoin h.accepted]
    simp only [State.handle, State.onRejoin, hdev, Bool.false_eq_true, if_false]
    exact State.answer_zero rfl
  case drain =>
    refine exec_handle (i := .drain f) rfl h rfl ?_
    simp only [State.handle, State.onDrain, hdev, bne_self_eq_false, Bool.false_eq_true, if_false]
    exact State.answer_zero rfl
  case drainIdle =>
    refine exec_handle (i := .drain f) rfl h rfl ?_
    simp only [State.handle, State.onDrain, bne_iff_ne.mpr hdev, if_true]
    exact State.answer_zero rfl
  case ticket =>
    refine exec_handle (i := .ticket f client key) rfl h rfl ?_
    simp only [State.handle, State.onTicket_eq, if_pos hroom]
    exact State.answer_zero rfl
  case noRoom =>
    refine exec_handle (i := .ticket f client key) rfl h rfl ?_
    have hno : ¬ ((s.taken f).sec.tickets.length < 4096 ∨ (aget (s.taken f).sec.tickets client).isSome = true) := by
      rw [hnew]
      simpa using hfull
    simp only [State.handle, State.onTicket_eq, if_neg hno]
    exact State.answer_zero rfl
  case storage =>
    refine exec_handle (i := .storageKey f key) rfl h rfl ?_
    exact State.answer_zero rfl
  case pfcOn =>
    refine exec_handle (i := .pfcSet f true prio) rfl h rfl ?_
    simp only [State.handle, State.onPfcSet, if_neg (Nat.not_lt.mpr hprio), if_true]
    exact State.answer_zero rfl
  case pfcOff =>
    refine exec_handle (i := .pfcSet f false prio) rfl h rfl ?_
    simp only [State.handle, State.onPfcSet, if_neg (Nat.not_lt.mpr hprio), Bool.false_eq_true, if_false]
    exact State.answer_zero rfl
  case burn =>
    refine exec_handle (i := .ownerTransfer f next signer sig) rfl h rfl ?_
    simp only [State.handle, State.onOwnerTransfer_eq, hsig, Bool.true_eq_false, if_false, if_neg (not_not_intro hmine), if_neg (Nat.not_le.mpr hroom)]
    exact State.answer_zero rfl
  case unsigned =>
    refine exec_handle (i := .ownerTransfer f next signer sig) rfl h rfl ?_
    simp only [State.handle, State.onOwnerTransfer_eq, hsig, if_true]
    exact State.answer_code (by decide) (by decide)
  case foreign =>
    refine exec_handle (i := .ownerTransfer f next signer sig) rfl h rfl ?_
    simp only [State.handle, State.onOwnerTransfer_eq, hsig, Bool.true_eq_false, if_false, if_pos hmine]
    exact State.answer_code (by decide) (by decide)
  case full =>
    refine exec_handle (i := .ownerTransfer f next signer sig) rfl h rfl ?_
    simp only [State.handle, State.onOwnerTransfer_eq, hsig, Bool.true_eq_false, if_false, if_neg (not_not_intro hmine), if_pos hfull]
    exact State.answer_code (by decide) (by decide)
  case read =>
    refine exec_handle (i := .read f off count meas) rfl h rfl ?_
    simp only [State.handle, State.onRead, readBad_eq_false halign hsome hmax hend, Bool.false_eq_true, if_false]
    refine (State.answer_data (by simp [FrameBody.cls])).trans ?_
    simp only [State.readRegs, List.map_map]
    rfl
  case opens =>
    exact (execProve_judged ha ho hobj hoff hlast).trans (by rw [State.onProve_opens ha.session hcode, if_pos hauth]; rfl)
  case operator =>
    exact (execProve_judged ha ho hobj hoff hlast).trans (by rw [State.onProve_opens ha.session hcode, if_neg (not_not_intro hauth)]; rfl)
  case fails => exact (execProve_judged ha ho hobj hoff hlast).trans (by rw [State.onProve_fails ha.session hcode])

end Sys2Proof.Machine

namespace Sys2Proof.Machine

/-! ## The end of a request: what it leaves (R303, R315, R327) -/

section
variable (s : State)

theorem State.bumpEntry_reqs (n : Nat) (v : Word) : (s.bumpEntry n v).reqs = s.reqs := by
  unfold State.bumpEntry
  split
  · rfl
  · split <;> rfl

theorem State.writeVerdict_reqs (l : List Byte) : (s.writeVerdict l).reqs = s.reqs := by
  unfold State.writeVerdict
  split
  · rfl
  · split
    · rfl
    · exact State.bumpEntry_reqs _ _ _

theorem State.verdict_reqs (c : Fin 8) (x : ReqSt) (code : Nat) (rank : List Nat) : (s.verdict c x code rank).reqs = s.reqs := by
  unfold State.verdict
  dsimp only
  split
  · rfl
  · split
    · rfl
    · split <;> exact State.writeVerdict_reqs _ _

/-- Adapters becoming LIVE touch adapters and masks only. -/
theorem State.settleLive_only : ∃ a m f, s.settleLive = { s with adapters := a, masks := m, maskFree := f } := by
  unfold State.settleLive
  generalize sortKey _ _ = l
  induction l generalizing s with
  | nil => exact ⟨_, _, _, rfl⟩
  | cons e r ih =>
    obtain ⟨a, m, f, h⟩ := ih _
    exact ⟨a, m, f, h⟩

variable {s} {c : Fin 8} {slot : Nat} {x : ReqSt}

theorem State.req_of_reqs {t : State} (h : t.reqs = s.reqs) : t.req c slot = s.req c slot := by
  rw [State.req, h, State.req]

theorem State.reject_req (code cls loc : Nat) : (s.reject code cls loc).req c slot = s.req c slot := rfl

theorem State.acctAdd_reqs (client off size n : Nat) : (s.acctAdd client off size n).reqs = s.reqs := rfl

theorem State.settleRefs_reqs : s.settleRefs.reqs = s.reqs := rfl

/-- Sending the records of a ring leaves the request's phase and fields. -/
theorem State.pumpStream_req (h : s.req c slot = some x) : ∃ z, (s.pumpStream c slot).req c slot = some z ∧ z.ph = x.ph ∧ z.r = x.r := by
  unfold State.pumpStream
  rw [h]
  dsimp only
  split
  · exact ⟨x, h, rfl, rfl⟩
  · exact ⟨_, State.req_setReq_same _ _ _ _, rfl, rfl⟩

/-- Records that join a ring leave the request's phase and fields. -/
theorem State.putRing_req (l : List RingRec) (h : s.req c slot = some x) :
    ∃ z, (s.putRing c slot l).req c slot = some z ∧ z.ph = x.ph ∧ z.r = x.r := by
  unfold State.putRing
  rw [h]
  obtain ⟨z, hz, hph, hr⟩ := State.pumpStream_req (State.req_setReq_same s c slot { x with ring := x.ring ++ l, prod := x.prod + l.length })
  exact ⟨z, hz, hph, hr⟩

/-- A request that ends is ENDING, and keeps its fields. -/
theorem State.endRequest_req (code : Nat) (rank : List Nat) (h : s.req c slot = some x) :
    ∃ z, (s.endRequest c slot code rank).req c slot = some z ∧ z.ph = .ending ∧ z.r = x.r := by
  unfold State.endRequest
  rw [h]
  dsimp only
  generalize hx : ({ x with ph := .ending, sets := [], sAdapter := none, tAdapter := none, owned := none, saved := none, inStep := none
                            drafts := [], round := none, cancel := false, termBeat := some s.beat } : ReqSt) = y
  have hph : y.ph = .ending := by rw [← hx]
  have hr : y.r = x.r := by rw [← hx]
  rw [← hph, ← hr]
  generalize ([_] : List RingRec) = l
  obtain ⟨z, hz, hzph, hzr⟩ := State.putRing_req l (State.req_setReq_same s c slot y)
  refine ⟨z, (State.req_of_reqs ?_).trans hz, hzph, hzr⟩
  rw [State.settleRefs_reqs]
  split
  · rw [State.acctAdd_reqs, State.acctAdd_reqs, State.verdict_reqs]
  · rw [State.acctAdd_reqs, State.verdict_reqs]

/-! ## Validation of a request (R299, R300) -/

theorem least_of_nonempty {f : Option Nat → Nat → Option Nat} (hf : ∀ b n, (f b n).isSome = true) {l : List Nat} (hl : l ≠ []) (b : Option Nat) :
    ∃ n, l.foldl f b = some n := by
  induction l generalizing b with
  | nil => exact absurd rfl hl
  | cons a r ih =>
    cases r with
    | nil => exact Option.isSome_iff_exists.mp (hf b a)
    | cons a' r' => exact ih (by simp) (f b a)

/-- The request that the bytes of a slot spell. -/
def State.slotRequest (s : State) (p : ServeRec) (slot : Nat) : Request := s.readRequest (s.scratchAt p.reqOff + slot * p.slotBytes)

theorem State.slotRequest_settleLive (p : ServeRec) : s.settleLive.slotRequest p slot = s.slotRequest p slot := by
  obtain ⟨a, m, f, h⟩ := s.settleLive_only
  rw [h]
  rfl

theorem State.settleLive_beat : s.settleLive.beat = s.beat := by
  obtain ⟨a, m, f, h⟩ := s.settleLive_only
  rw [h]

theorem State.validate_admits {p : ServeRec} (h : s.settleLive.requestCodes p (s.slotRequest p slot) = []) :
    ∃ z, (s.validate c p slot x).req c slot = some z ∧ z.ph = .admitted ∧ z.r = s.slotRequest p slot ∧ z.admBeat = s.beat ∧
      z.client = (s.slotRequest p slot).client := by
  rw [← s.slotRequest_settleLive p] at h ⊢
  rw [← s.settleLive_beat]
  unfold State.validate
  rw [State.slotRequest] at h ⊢
  dsimp only
  rw [h]
  exact ⟨_, State.req_setReq_same _ _ _ _, rfl, rfl, rfl, rfl⟩

theorem State.validate_ends {p : ServeRec} (h : s.settleLive.requestCodes p (s.slotRequest p slot) ≠ []) :
    ∃ z, (s.validate c p slot x).req c slot = some z ∧ z.ph = .ending ∧ z.r = s.slotRequest p slot := by
  rw [← s.slotRequest_settleLive p] at h ⊢
  unfold State.validate
  rw [State.slotRequest] at h ⊢
  dsimp only
  split
  case h_1 code hcode =>
    rw [State.reject_req]
    exact State.endRequest_req code [] (State.req_setReq_same _ _ _ _)
  case h_2 hnone =>
    exfalso
    obtain ⟨n, hn⟩ := least_of_nonempty (f := fun (b : Option Nat) n => match b with | none => some n | some m => some (min m n))
      (fun b n => by cases b <;> rfl) h none
    exact nomatch hnone.symm.trans hn

end

/-! ## Frames of clients (R316 to R319, R404, R433, R495 to R499) -/

section
variable {s : State} {f : Frame} {x : SessionSt} {c : Fin 8} {slot : Nat}

theorem ctxOf_val (c : Fin 8) : ctxOf c.val = c := Fin.ext (Nat.mod_eq_of_lt c.isLt)

section
variable {sid : Nat} {data : List Byte} {d : DataRec}

theorem State.onSample_opens (hd : s.dataRec c = some d) (hslot : slot < d.slots) (hfree : aget s.samples (sampleKey c slot) = none)
    (hoff : f.offset = 0) (hfirst : ((s.jobOf c).map fun j => (s.jobSt j.job).sampleFirst).getD 0 ≤ sid) (hlen : data.length ≤ d.slotBytes)
    (hbase : d.sampleBase ≤ sid) (hmod : (sid - d.sampleBase) % d.slots = slot) :
    s.onSample f.session f c slot sid data =
      (s.landSample d f slot (sampleKey c slot) data { session := f.session, id := sid, written := 0 }, 0) := by
  have hplace : ((sid - d.sampleBase) % d.slots != slot || decide (sid < d.sampleBase)) = false := by simp [hmod, hbase]
  simp only [State.onSample, hd, if_neg (Nat.not_le.mpr hslot), hfree, hoff, bne_self_eq_false, Bool.false_eq_true, if_false, if_neg (Nat.not_lt.mpr hfirst),
    if_neg (Nat.not_lt.mpr hlen), hplace]

theorem State.onSample_goes_on {y : SampleSlot} (hd : s.dataRec c = some d) (hslot : slot < d.slots)
    (hy : aget s.samples (sampleKey c slot) = some y) (hopen : y.done = none) (hmine : y.session = f.session) (hoff : f.offset = y.written)
    (hlen : f.offset + data.length ≤ d.slotBytes) :
    s.onSample f.session f c slot sid data = (s.landSample d f slot (sampleKey c slot) data y, 0) := by
  simp only [State.onSample, hd, if_neg (Nat.not_le.mpr hslot), hy, hopen, hmine, Option.isSome_none, bne_self_eq_false, Bool.or_self, Bool.false_eq_true,
    if_false, hoff]
  rw [← hoff, if_neg (Nat.not_lt.mpr hlen)]

end

section
variable {data : List Byte} {p : ServeRec}

/-- Whether a frame of a slot shows another CLIENT than the session's, or another's summary. -/
def State.foreign (s : State) (p : ServeRec) (f : Frame) (slot client : Nat) (data : List Byte) : Bool :=
  s.foreignClient p f slot client data || s.foreignSummary p f slot client data

theorem State.foreign_iff {client : Nat} : s.foreign p f slot client data = true ↔
    s.foreignClient p f slot client data = true ∨ s.foreignSummary p f slot client data = true := by
  simp [State.foreign]

theorem State.onReq_opens (hx : s.session f.session = some x) (hp : s.serveRec c = some p) (hslot : slot < p.slots)
    (hlen : f.offset + data.length ≤ p.slotBytes) (hfree : s.req c slot = none) (hoff : f.offset = 0) :
    s.onReq f.session f c slot data = if s.foreign p f slot x.client data then (s, 0x4003)
      else (s.landReq c p f slot data { session := some f.session, client := x.client }, 0) := by
  have hroom : ¬ p.slotBytes < data.length := by omega
  simp only [State.onReq, hp, hx, if_neg (Nat.not_le.mpr hslot), hfree, hoff, bne_self_eq_false, Bool.false_eq_true, if_false, if_neg hroom, State.foreign]
  rfl

theorem State.onReq_goes_on {y : ReqSt} (hx : s.session f.session = some x) (hp : s.serveRec c = some p) (hslot : slot < p.slots)
    (hlen : f.offset + data.length ≤ p.slotBytes) (hy : s.req c slot = some y) (hph : y.ph = .claimed) (hmine : y.session = some f.session)
    (hoff : f.offset = y.written) :
    s.onReq f.session f c slot data = if s.foreign p f slot x.client data then (s, 0x4003) else (s.landReq c p f slot data y, 0) := by
  have hplace : (f.offset != y.written) = false := by simp [hoff]
  simp only [State.onReq, hp, hx, if_neg (Nat.not_le.mpr hslot), hy, hph, hmine, hplace, bne_self_eq_false, Bool.or_self, Bool.false_eq_true, if_false,
    if_neg (Nat.not_lt.mpr hlen), State.foreign]
  rfl

end

section
variable {q : ReqSt}

theorem State.clientReq_ok (hx : s.session f.session = some x) (hq : s.req c slot = some q) (hph : q.ph ≠ .claimed) (hclient : q.client = x.client) :
    s.clientReq f.session c slot = .ok q := by
  simp [State.clientReq, hq, hx, hph, hclient]

theorem State.onAck_in_ring {cons : Nat} (hq : s.clientReq f.session c slot = .ok q) (hcons : cons < 2 ^ 32)
    (hfwd : ringDist q.cons cons ≤ 2 ^ q.r.ringLog2) (hleft : ringDist cons q.prod ≤ 2 ^ q.r.ringLog2) :
    s.onAck f.session c slot cons = if q.ph == .ending && ringDist cons q.prod == 0 then (s.freeReq c slot, 0)
      else (s.setReq c slot { q with cons := q.cons + ringDist q.cons cons, ring := q.ring.drop (ringDist q.cons cons)
                                     sent := max q.sent (q.cons + ringDist q.cons cons) }, 0) := by
  have hin : (decide (2 ^ q.r.ringLog2 < ringDist q.cons cons) || decide (2 ^ q.r.ringLog2 < ringDist cons q.prod) || decide (2 ^ 32 ≤ cons)) = false := by
    rw [decide_eq_false (Nat.not_lt.mpr hfwd), decide_eq_false (Nat.not_lt.mpr hleft), decide_eq_false (Nat.not_le.mpr hcons)]
    rfl
  simp only [State.onAck, hq, hin, Bool.false_eq_true, if_false]

theorem State.onCancel_eq (hq : s.clientReq f.session c slot = .ok q) :
    s.onCancel f.session c slot =
      if q.ph == .pausing then
        (if q.cancel then s.setReq c slot { q with cancel := true } else (s.setReq c slot { q with cancel := true }).cancelPause c slot, 0)
      else if q.ph.active && q.inStep.isSome then (s.setReq c slot { q with cancel := true }, 0)
      else if q.ph.active then (s.endRequest c slot (if q.r.deadline != 0 && decide (q.r.deadline ≤ s.beat) then 0x2140 else 0x2148), 0)
      else (s, 0) := by
  simp only [State.onCancel, hq]

theorem State.onResume_eq (hq : s.clientReq f.session c slot = .ok q) :
    s.onResume f.session c slot = ((s.setReq c slot { q with session := some f.session, sent := q.cons }).pumpStream c slot, 0) := by
  simp only [State.onResume, hq]

/-- A request of a batch step is not a pausing one. -/
theorem ReqPhase.not_pausing_of_active {p : ReqPhase} (h : p.active = true) : (p == .pausing) = false := by
  cases p <;> simp_all [ReqPhase.active]

end

end

/-- Settles O44: each frame reaches its unit; the validation of a request ends it exactly where a code of R299 applies. -/
theorem clientFrames : Obligations.ClientFrames := by
  intro s f x c slot
  refine ⟨fun sid data d h hd hslot => ⟨fun hfree hoff hfirst hlen hbase hmod => ?sampleOpens, fun y hy hopen hmine hoff hlen => ?sampleGoesOn⟩,
    fun data p h hp hslot hlen => ⟨fun hforeign hplace => ?foreign, fun hforeign hfree hoff => ?reqOpens,
      fun y hforeign hy hph hmine hoff => ?reqGoesOn⟩,
    fun p y => ⟨State.validate_admits, State.validate_ends⟩,
    fun q hq hph hclient => ⟨fun cons h hcons hfwd hleft => ⟨fun hend hzero => ?ackFrees, fun hmore => ?ackAdvances⟩,
      fun h => ⟨fun hp => ?pausing, fun hact hstep => ?inStep, fun hact hstep hdl => ?cancelled, fun hact hstep hdl hlate => ?expired,
        fun hnp hact => ?ended⟩, fun h => ?resume⟩⟩
  case sampleOpens =>
    refine exec_handle (i := .sample f c slot sid data) rfl h rfl ?_
    simp only [State.handle, ctxOf_val, State.onSample_opens hd hslot hfree hoff hfirst hlen hbase hmod]
    exact State.answer_data (by simp [FrameBody.cls])
  case sampleGoesOn =>
    refine exec_handle (i := .sample f c slot sid data) rfl h rfl ?_
    simp only [State.handle, ctxOf_val, State.onSample_goes_on hd hslot hy hopen hmine hoff hlen]
    exact State.answer_data (by simp [FrameBody.cls])
  case foreign =>
    refine exec_handle (i := .req f c slot data) rfl h rfl ?_
    rcases hplace with ⟨hfree, hoff⟩ | ⟨y, hy, hph, hmine, hoff⟩
    · simp only [State.handle, ctxOf_val, State.onReq_opens h.session hp hslot hlen hfree hoff, if_pos (State.foreign_iff.mpr hforeign)]
      exact State.answer_code (by decide) (by decide)
    · simp only [State.handle, ctxOf_val, State.onReq_goes_on h.session hp hslot hlen hy hph hmine hoff, if_pos (State.foreign_iff.mpr hforeign)]
      exact State.answer_code (by decide) (by decide)
  case reqOpens =>
    refine exec_handle (i := .req f c slot data) rfl h rfl ?_
    simp only [State.handle, ctxOf_val, State.onReq_opens h.session hp hslot hlen hfree hoff, if_neg (fun hf => hforeign (State.foreign_iff.mp hf))]
    exact State.answer_data (by simp [FrameBody.cls])
  case reqGoesOn =>
    refine exec_handle (i := .req f c slot data) rfl h rfl ?_
    simp only [State.handle, ctxOf_val, State.onReq_goes_on h.session hp hslot hlen hy hph hmine hoff,
      if_neg (fun hf => hforeign (State.foreign_iff.mp hf))]
    exact State.answer_data (by simp [FrameBody.cls])
  case ackFrees =>
    refine exec_handle (i := .ack f c slot cons) rfl h rfl ?_
    have hfree : (q.ph == .ending && ringDist cons q.prod == 0) = true := by simp [hend, hzero]
    simp only [State.handle, ctxOf_val, State.onAck_in_ring (State.clientReq_ok h.session hq hph hclient) hcons hfwd hleft, if_pos hfree]
    exact State.answer_data (by simp [FrameBody.cls])
  case ackAdvances =>
    refine exec_handle (i := .ack f c slot cons) rfl h rfl ?_
    have hkeep : ¬ (q.ph == .ending && ringDist cons q.prod == 0) = true := by rcases hmore with h | h <;> simp [h]
    simp only [State.handle, ctxOf_val, State.onAck_in_ring (State.clientReq_ok h.session hq hph hclient) hcons hfwd hleft, if_neg hkeep]
    exact State.answer_data (by simp [FrameBody.cls])
  case pausing =>
    refine exec_handle (i := .cancel f c slot) rfl h rfl ?_
    simp only [State.handle, ctxOf_val, State.onCancel_eq (State.clientReq_ok h.session hq hph hclient), hp, beq_self_eq_true, if_true]
    exact State.answer_zero rfl
  case inStep =>
    refine exec_handle (i := .cancel f c slot) rfl h rfl ?_
    simp only [State.handle, ctxOf_val, State.onCancel_eq (State.clientReq_ok h.session hq hph hclient), ReqPhase.not_pausing_of_active hact, hact, hstep,
      Bool.and_self, Bool.false_eq_true, if_false, if_true]
    exact State.answer_zero rfl
  case cancelled =>
    refine exec_handle (i := .cancel f c slot) rfl h rfl ?_
    have hearly : (q.r.deadline != 0 && decide (q.r.deadline ≤ (s.taken f).beat)) = false := by rcases hdl with h | h <;> simp [h]
    simp only [State.handle, ctxOf_val, State.onCancel_eq (State.clientReq_ok h.session hq hph hclient), ReqPhase.not_pausing_of_active hact, hact, hstep, hearly,
      Option.isSome_none, Bool.and_false, Bool.false_eq_true, if_false, if_true]
    exact State.answer_zero rfl
  case expired =>
    refine exec_handle (i := .cancel f c slot) rfl h rfl ?_
    have hdue : (q.r.deadline != 0 && decide (q.r.deadline ≤ (s.taken f).beat)) = true := by simp [hdl, hlate]
    simp only [State.handle, ctxOf_val, State.onCancel_eq (State.clientReq_ok h.session hq hph hclient), ReqPhase.not_pausing_of_active hact, hact, hstep, hdue,
      Option.isSome_none, Bool.and_false, Bool.false_eq_true, if_false, if_true]
    exact State.answer_zero rfl
  case ended =>
    refine exec_handle (i := .cancel f c slot) rfl h rfl ?_
    simp only [State.handle, ctxOf_val, State.onCancel_eq (State.clientReq_ok h.session hq hph hclient), beq_eq_false_iff_ne.mpr hnp, hact, Bool.false_and,
      Bool.false_eq_true, if_false]
    exact State.answer_zero rfl
  case resume =>
    refine exec_handle (i := .streamResume f c slot) rfl h rfl ?_
    simp only [State.handle, ctxOf_val, State.onResume_eq (State.clientReq_ok h.session hq hph hclient)]
    exact State.answer_zero rfl

end Sys2Proof.Machine

namespace Sys2Proof.Machine

/-! ## Husks and grants of a session (R438, R439, R441, R447) -/

section
variable {s : State} {f : Frame} {b : FrameBody} {x : SessionSt}

/-- Steps 1 to 3 of R439 end in one of four codes. -/
theorem State.huskHeadCode_cases (h : Husk) : s.huskHeadCode h ∈ [0, 0x4100, 0x4102, 0x4001, 0x4104] := by
  unfold State.huskHeadCode
  split_ifs <;> simp

theorem State.huskCode_cases (h : Husk) (peer : Bool) (srcs : List (List HuskChunk)) :
    s.huskCode h peer srcs ∈ [0, 0x4100, 0x4102, 0x4001, 0x4104, 0x4101, 0x4105, 0x4121, 0x4103] := by
  have hhead := s.huskHeadCode_cases h
  unfold State.huskCode
  dsimp only
  split
  · simp only [List.mem_cons, List.not_mem_nil, or_false] at hhead ⊢
    omega
  · split
    · simp
    · split_ifs <;> simp

/-- A CTRL frame with a code below 0xFFFF is answered with it. -/
theorem State.answer_ctrl {code : Nat} (hb : b.cls = 5) (hcode : code < 0xFFFF) :
    State.answer f b (s, code) = if code = 0 then s.status f b 0 else s.refuse f b code := by
  by_cases h0 : code = 0
  · rw [h0, State.answer_zero hb, if_pos rfl]
  · rw [State.answer_code h0 (Nat.ne_of_lt hcode), if_neg h0]

theorem State.huskHeadCode_lt (h : Husk) : s.huskHeadCode h < 0xFFFF := by
  have hcases := s.huskHeadCode_cases h
  simp only [List.mem_cons, List.not_mem_nil, or_false] at hcases
  omega

theorem State.huskCode_lt (h : Husk) (peer : Bool) (srcs : List (List HuskChunk)) : s.huskCode h peer srcs < 0xFFFF := by
  have hcases := s.huskCode_cases h peer srcs
  simp only [List.mem_cons, List.not_mem_nil, or_false] at hcases
  omega

theorem State.onHusk_bound {id psn : Nat} {h : Husk} (hkeys : s.sec.keys = true) (hbound : s.sec.husk ≠ none) :
    s.onHusk id psn h = (s, s.huskHeadCode h) := by
  simp only [State.onHusk, hkeys, if_true, State.loadHusk, Option.isSome_iff_ne_none.mpr hbound]

theorem State.onHusk_loads {id psn : Nat} {h : Husk} (hkeys : s.sec.keys = true) (hnone : s.sec.husk = none) :
    s.onHusk id psn h = (if s.huskCode h false [h.chunks] = 0 then s.bindHusk h ((s.unwrapKey h).getD 0) [h.chunks]
      else State.rotate { s with sec := { s.sec with contentKey := none } } .teacher, s.huskCode h false [h.chunks]) := by
  by_cases hcode : s.huskCode h false [h.chunks] = 0 <;> simp [State.onHusk, hkeys, State.loadHusk, hnone, hcode, State.inSec]

theorem State.onHusk_waits {id psn : Nat} {h : Husk} (hkeys : s.sec.keys = false) :
    s.onHusk id psn h = ({ s with sec := { s.sec with held := s.sec.held ++ [⟨id, psn, h⟩] } }, 0xFFFF) := by
  rw [State.onHusk, if_neg (by simp [hkeys])]
  rfl

theorem State.rotate_husk (s : State) (k : RegionKind) : (s.rotate k).sec.husk = s.sec.husk := by
  unfold State.rotate
  split <;> rfl

theorem State.unbind_husk {id : Digest} (h : s.sec.husk = some id) : s.unbind.sec.husk = none := by
  unfold State.unbind
  rw [h]
  exact State.rotate_husk _ _

theorem State.onHuskRemove_mine {id : Digest} (hx : s.session f.session = some x) (hbound : s.sec.husk = some id)
    (hmay : x.authority ≠ .licensor ∨ x.key = s.sec.licensor) : s.onHuskRemove f.session id = (s.unbind, 0) := by
  have hno : (x.authority == .licensor && x.key != s.sec.licensor) = false := by rcases hmay with h | h <;> simp [h]
  simp only [State.onHuskRemove, hbound, bne_self_eq_false, Bool.false_eq_true, if_false, hx, hno]

theorem State.onHuskRemove_other {id : Digest} (hbound : s.sec.husk ≠ some id) : s.onHuskRemove f.session id = (s, 0) := by
  simp only [State.onHuskRemove, bne_iff_ne.mpr hbound, if_true]

theorem State.onMeterGrant_valid {g : Grant} {m : MeterSt} (hx : s.session f.session = some x) (hmay : x.authority ≠ .licensor ∨ m.licensor = x.key)
    (hsig : g.sig.valid = true) (hres : g.reservedOk = true) (hdev : g.deviceId = s.deviceId) (hm : aget s.sec.meters g.huskId.toNat = some m)
    (hsigner : g.signer = m.licensor) (hseq : m.grantSeq < g.seq) (hlimit : m.limit ≤ g.limit) :
    s.onMeterGrant f.session g = (s.journal (.meterGrant g.huskId g.seq g.limit), 0) := by
  have hmine : (x.authority == .licensor && m.licensor != x.key) = false := by rcases hmay with h | h <;> simp [h]
  have hok : (!g.reservedOk || g.deviceId != s.deviceId || decide (g.seq ≤ m.grantSeq) || decide (g.limit < m.limit)) = false := by
    simp [hres, hdev, hseq, hlimit]
  simp only [State.onMeterGrant, hx, hm, hsig, Option.any_some, hmine, hsigner, bne_self_eq_false, Bool.not_true, Bool.false_eq_true, if_false, hok]

end

/-! ## Adapters, masks and summaries (R307, R320, R325, R326) -/

section
variable {s : State} {f : Frame}

/-- A free slot of the adapter's rank. -/
def State.freeAdapterSlot (s : State) (a : AdapterObj) : Option (Nat × Nat × Nat) :=
  (s.adapterSlots a.teacher a.rank).find? fun e => (aget s.adapters e.1).isNone

theorem State.beginAdapter_free {a : AdapterObj} {i : Nat} {w : Nat × Nat} (hrank : a.rank = 16 ∨ a.rank = 32 ∨ a.rank = 64)
    (hfree : s.freeAdapterSlot a = some (i, w)) :
    s.beginAdapter a = ({ s with adapters := aput s.adapters i ⟨.loading, a.ident, a.version, a.teacher, a.rank, false⟩ }, some i) := by
  have hr : (a.rank == 16 || a.rank == 32 || a.rank == 64) = true := by rcases hrank with h | h | h <;> simp [h]
  unfold State.freeAdapterSlot at hfree
  simp only [State.beginAdapter, hr, if_true, hfree]

/-- Where the weights of slot i stand. -/
def State.adapterPlace (s : State) (a : AdapterObj) (i : Nat) : Option (Nat × Nat) :=
  ((s.adapterSlots a.teacher a.rank).find? fun e => e.1 == i).map (·.2)

/-- The last frame of an adapter load that passes: the weights are in, and the version is recorded. -/
theorem State.onAdapterLoad_ok {a : AdapterObj} {i : Nat} (hnew : ∀ h, aget s.adapterHigh (adapterKey a.ident a.teacher) = some h → h < a.version)
    (hmay : a.teacher = true → s.exportBit 2 = true) :
    s.onAdapterLoad (some i) a =
      ({ s with adapters := aput (adel s.adapters i) i ⟨.loading, a.ident, a.version, a.teacher, a.rank, true⟩
                adapterHigh := aput s.adapterHigh (adapterKey a.ident a.teacher) a.version
                mem := (s.adapterPlace a i).elim s.mem fun w => memPutBytes s.mem w.1 (a.weights.take w.2) }, 0) := by
  have hhigh : ((aget s.adapterHigh (adapterKey a.ident a.teacher)).any fun h => decide (a.version ≤ h)) = false := by
    cases hh : aget s.adapterHigh (adapterKey a.ident a.teacher) with
    | none => rfl
    | some h => simpa using hnew h hh
  have hbit : (a.teacher && !s.exportBit 2) = false := by
    cases ht : a.teacher with
    | false => rfl
    | true => simp [hmay ht]
  simp only [State.onAdapterLoad, hhigh, hbit, Bool.false_eq_true, if_false, State.adapterPlace]
  cases (s.adapterSlots a.teacher a.rank).find? fun e => e.1 == i <;> rfl

theorem State.onAdapterRemove_live {ident i : Nat} {teacher : Bool} (h : s.settleLive.liveAdapter ident teacher = some i) :
    s.onAdapterRemove ident teacher = (s.settleLive.retireAdapter ident teacher, 0) := by
  simp only [State.onAdapterRemove, h]

theorem State.onMaskLoad_new {id : Nat} {data : List Byte} {m : MaskObj} {p : Plan} {r : ServeRec} (hnew : aget s.masks id = none)
    (hparse : parseMask data = some m) (hp : s.plan = some p) (hr : r ∈ p.serve) (hok : m.ok r.vocab = true) :
    s.onMaskLoad id data = ({ s with masks := aput s.masks id m }, 0) := by
  have hfits : s.maskFits m = true := by
    simp only [State.maskFits, hp, Option.map_some, Option.getD_some, List.any_eq_true]
    exact ⟨r, hr, hok⟩
  simp [State.onMaskLoad, hparse, hnew, hfits]

theorem State.onMaskRemove_some {id : Nat} {m : MaskObj} (hm : aget s.masks id = some m) :
    s.onMaskRemove id = (State.settleRefs { s with maskFree := if s.maskFree.contains id then s.maskFree else s.maskFree ++ [id] }, 0) := by
  simp [State.onMaskRemove, hm]

theorem State.onSummaryExport_some {id conv : Nat} {y : Summary} (hy : aget s.summaries conv = some y) (hbit : s.exportBit 1 = true) :
    s.onSummaryExport id conv =
      let sealed := s.sealExport (s.sec.contentKey.getD 0) s.summaryLabel (s.sumData y) FrameOut.summary
      (sealed.1.sendFrames id sealed.2, 0) := by
  simp only [State.onSummaryExport, hy, hbit, Bool.not_true, Bool.false_eq_true, if_false]

theorem State.onSummaryDrop_some {conv : Nat} {y : Summary} (hy : aget s.summaries conv = some y) :
    s.onSummaryDrop conv = ({ s with summaries := adel s.summaries conv }, 0) := by
  simp [State.onSummaryDrop, hy]

theorem State.listSummary_listed {l : List Byte} {p : Plan} {c : Fin 8} {at_ : Nat} (hp : s.plan = some p)
    (hnew : aget s.summaries (readSummary l).conv.toNat = none) (hplace : s.importPlace l.length = some (c, at_))
    (hplan : p.digest = (readSummary l).planDigest) (hdig : (readSummary l).digest = sumDigest l (pageSets (readSummary l).length)) :
    s.listSummary l =
      let z : Summary := { readSummary l with ctx := c, at_, keptBeat := s.beat }
      ({ s with summaries := aput s.summaries (readSummary l).conv.toNat z
                mem := memPutBytes s.mem (s.regionBase .cellar + at_) (sumRecord z ++ l.drop 128) }, 0) := by
  have hsame : ((s.plan.map Plan.digest) != some (readSummary l).planDigest || (readSummary l).digest != sumDigest l (pageSets (readSummary l).length)) = false := by
    rw [hp, Option.map_some, hplan, ← hdig]
    simp
  simp only [State.listSummary, hnew, Option.isSome_none, Bool.false_eq_true, if_false, hplace, hsame]

end

/-! ## Writes of banks and slots, plans and parts (R413, R467, R470) -/

section
variable {s : State} {f : Frame}

/-- A write begins, and knows where its result goes. -/
def State.beginWrite (s : State) (f : Frame) (w : NvmWrite) : State := { s with nvm := { s.nvm with write := some w, writer := some (f.session, f.psn) } }

theorem withWriter_onFwBank {w : Firmware} (hfree : s.nvm.write = none) :
    withWriter f (s.onFwBank w) = (s.beginWrite f (.firmware (match s.fwRun with | some b => 1 - b | none => 0) w), 0) := by
  simp only [State.onFwBank, hfree, Option.isSome_none, Bool.false_eq_true, if_false]
  rfl

theorem withWriter_onImageBank {i : Image} (hfree : s.nvm.write = none)
    (hnewer : s.imgApplied = false ∨ ∀ (b : Fin 2) j, s.imgRun = some b → s.nvm.img[b] = some j → j.seq.toNat < i.seq.toNat) :
    withWriter f (s.onImageBank i) = (s.beginWrite f (.image (match s.imgRun with | some b => 1 - b | none => 0) i), 0) := by
  have hold : ((if s.imgApplied then (s.imgRun.bind fun b => s.nvm.img[b]).map Image.seq else none).any fun q => decide (i.seq.toNat ≤ q.toNat)) = false := by
    cases happ : s.imgApplied with
    | false => rfl
    | true =>
      have hall := hnewer.resolve_left (by simp [happ])
      rw [if_pos rfl, Option.any_map]
      cases hb : s.imgRun with
      | none => rfl
      | some b =>
        rw [Option.bind_some]
        cases hj : s.nvm.img[b] with
        | none => rfl
        | some j => simpa using hall b j hb hj
  simp only [State.onImageBank, hold, hfree, Option.isSome_none, Bool.false_eq_true, if_false]
  rfl

theorem withWriter_onPlanSlot {slot : Nat} {p : Plan} (hfree : s.nvm.write = none) (hslot : slot ≤ 15) (hdir : ∀ e ∈ s.img.directory, e.slot ≠ slot) :
    withWriter f (s.onPlanSlot slot p) = (s.beginWrite f (.plan slot p), 0) := by
  have huse : (s.img.directory.any fun e => e.slot == slot) = false := by simpa using hdir
  simp only [State.onPlanSlot, hfree, Option.isSome_none, huse, Bool.false_eq_true, if_false, if_neg (Nat.not_lt.mpr hslot)]
  rfl

end

/-- Settles O46: each frame reaches its unit, and the unit's cases are those of the statement. -/
theorem objectFrames : Obligations.ObjectFrames := by
  intro s f x
  refine ⟨fun h hd => ⟨fun hkeys hbound => ?bound, fun hkeys hnone => ?loads, fun hkeys => ?waits⟩, fun h key srcs => ⟨rfl, rfl, rfl⟩,
    fun id hd => ⟨fun hbound hmay => ⟨?unbinds, State.unbind_husk hbound⟩, fun hbound => ?otherHusk⟩,
    fun g m hd hmay hsig hres hdev hm hsigner hseq hlimit => ?grant,
    fun a i w hd hrank hfree hnew hmay => ?adapter,
    fun ident teacher i hd hlive => ?retired, fun id data m p r hd hnew hparse hp hr hok => ?mask,
    fun id m hd hm => ⟨fun hnot => ?maskFreed, fun hin => ?maskAgain⟩,
    fun conv y hy => ⟨fun hd hbit => ?exported, fun hd => ?dropped⟩,
    fun exportId data tags hd => ⟨fun hopened => ?sealedStays, fun l p c at_ hopened hp hnew hplace hplan hdig => ?imported⟩,
    fun hfree => ⟨fun w hd => ?firmware, fun i hd hnewer => ?image, fun slot p hd hslot hdir => ?planSlot⟩,
    fun p hd => exec_plain_object (i := .planForSwitch f p) rfl hd rfl (by decide) (by simp) rfl,
    fun job role exportId part m tags j hd hj hrole => ⟨fun hopened => ?unopened, fun l hopened => ⟨fun hst => ?held, fun hst => ?running⟩⟩⟩
  case bound =>
    refine exec_plain_object (i := .husk f h) rfl hd rfl (by decide) (by simp) ?_
    simp only [State.handle, State.onHusk_bound hkeys hbound]
    exact State.answer_ctrl rfl (State.huskHeadCode_lt h)
  case loads =>
    refine exec_plain_object (i := .husk f h) rfl hd rfl (by decide) (by simp) ?_
    simp only [State.handle, State.onHusk_loads hkeys hnone]
    exact State.answer_ctrl rfl (State.huskCode_lt h false [h.chunks])
  case waits =>
    refine exec_plain_object (i := .husk f h) rfl hd rfl (by decide) (by simp) ?_
    simp only [State.handle, State.onHusk_waits hkeys]
    exact State.answer_later
  case unbinds =>
    refine exec_handle (i := .huskRemove f id) rfl hd rfl ?_
    simp only [State.handle, State.onHuskRemove_mine hd.session hbound hmay]
    exact State.answer_zero rfl
  case otherHusk =>
    refine exec_handle (i := .huskRemove f id) rfl hd rfl ?_
    simp only [State.handle, State.onHuskRemove_other hbound]
    exact State.answer_zero rfl
  case grant =>
    refine exec_handle (i := .meterGrant f g) rfl hd rfl ?_
    simp only [State.handle, State.onMeterGrant_valid hd.session hmay hsig hres hdev hm hsigner hseq hlimit]
    exact State.answer_zero rfl
  case adapter =>
    have hbegin := State.beginAdapter_free hrank hfree
    have hload : ((s.taken f).beginAdapter a).1.onAdapterLoad (some i) a = _ := State.onAdapterLoad_ok (by rw [hbegin]; exact hnew) (by rw [hbegin]; exact hmay)
    refine ⟨?_, ?_, ?_, ⟨⟨.loading, a.ident, a.version, a.teacher, a.rank, true⟩, ?_, rfl, by simp [AdapterSt.names], rfl, rfl⟩⟩
    · refine (exec_object (i := .adapterLoad f a) (k := 6) rfl hd rfl (by decide)).trans ?_
      have hslot : (if 6 + 16 * (i + 1) < 16 then none else some ((6 + 16 * (i + 1)) / 16 - 1)) = some i := by
        rw [if_neg (by omega), show (6 + 16 * (i + 1)) / 16 - 1 = i by omega]
      have hobj : (s.taken f).beginObject 6 (.adapterLoad a) = (((s.taken f).beginAdapter a).1, 6 + 16 * (i + 1)) := by
        unfold State.beginObject
        dsimp only
        rw [hbegin]
      rw [hobj, hslot]
      have hanswer : State.answer f (.adapterLoad a) (((s.taken f).beginAdapter a).1.onAdapterLoad (some i) a) =
          (((s.taken f).beginAdapter a).1.onAdapterLoad (some i) a).1.status f (.adapterLoad a) 0 := by
        rw [hload]
        exact State.answer_zero rfl
      exact congrArg (fun t => Host.Outcome.next (State.endFrame f x.early.length t)) hanswer
    · rw [hload]
      exact aget_aput_same _ _ _
    · rw [hload, hbegin]
      show ((s.taken f).adapterPlace a i).elim (s.taken f).mem _ = _
      unfold State.adapterPlace
      cases ((s.taken f).adapterSlots a.teacher a.rank).find? fun e => e.1 == i <;> rfl
    · rw [hload]
      exact aget_aput_same _ _ _
  case retired =>
    refine exec_handle (i := .adapterRemove f ident teacher) rfl hd rfl ?_
    simp only [State.handle, State.onAdapterRemove_live hlive]
    exact State.answer_zero rfl
  case mask =>
    refine exec_plain_object (i := .maskLoad f id data) rfl hd rfl (by decide) (by simp) ?_
    simp only [State.handle, State.onMaskLoad_new hnew hparse hp hr hok]
    exact State.answer_zero rfl
  case maskFreed =>
    refine exec_handle (i := .maskRemove f id) rfl hd rfl ?_
    simp only [State.handle, State.onMaskRemove_some hm, if_neg (show ¬ (s.taken f).maskFree.contains id = true by simpa using hnot)]
    exact State.answer_zero rfl
  case maskAgain =>
    refine exec_handle (i := .maskRemove f id) rfl hd rfl ?_
    simp only [State.handle, State.onMaskRemove_some hm, if_pos (show (s.taken f).maskFree.contains id = true by simpa using hin)]
    exact State.answer_zero rfl
  case exported =>
    refine exec_handle (i := .summaryExport f conv) rfl hd rfl ?_
    simp only [State.handle, State.onSummaryExport_some hy hbit]
    exact State.answer_zero rfl
  case dropped =>
    refine exec_handle (i := .summaryDrop f conv) rfl hd rfl ?_
    simp only [State.handle, State.onSummaryDrop_some hy]
    exact State.answer_zero rfl
  case sealedStays =>
    refine exec_plain_object (i := .summaryImport f exportId data tags) rfl hd rfl (by decide) (by simp) ?_
    simp only [State.handle, State.onSummaryImport, hopened]
    exact State.answer_code (by decide) (by decide)
  case imported =>
    refine exec_plain_object (i := .summaryImport f exportId data tags) rfl hd rfl (by decide) (by simp) ?_
    simp only [State.handle, State.onSummaryImport, hopened, State.listSummary_listed hp hnew hplace hplan hdig]
    exact State.answer_zero rfl
  case firmware =>
    refine exec_plain_object (i := .firmwareBank f w) rfl hd rfl (by decide) (by simp) ?_
    simp only [State.handle, withWriter_onFwBank hfree]
    exact State.answer_data (by simp [FrameBody.cls])
  case image =>
    refine exec_plain_object (i := .imageBank f i) rfl hd rfl (by decide) (by simp) ?_
    simp only [State.handle, withWriter_onImageBank hfree hnewer]
    exact State.answer_data (by simp [FrameBody.cls])
  case planSlot =>
    refine exec_plain_object (i := .planSlot f slot p) rfl hd rfl (by decide) (by simp) ?_
    simp only [State.handle, withWriter_onPlanSlot hfree hslot hdir]
    exact State.answer_data (by simp [FrameBody.cls])
  case unopened =>
    refine exec_plain_object (i := .ckpt f job role exportId part m tags) rfl hd rfl (by decide) (by simp) ?_
    simp only [State.handle, State.onCkpt, hj, hrole, bne_self_eq_false, Bool.false_eq_true, if_false, hopened]
    exact State.answer_code (by decide) (by decide)
  case held =>
    refine exec_plain_object (i := .ckpt f job role exportId part m tags) rfl hd rfl (by decide) (by simp) ?_
    simp only [State.handle, State.onCkpt, hj, hrole, bne_self_eq_false, Bool.false_eq_true, if_false, hopened, beq_eq_false_iff_ne.mpr hst]
    exact State.answer_data (by simp [FrameBody.cls])
  case running =>
    refine exec_plain_object (i := .ckpt f job role exportId part m tags) rfl hd rfl (by decide) (by simp) ?_
    simp only [State.handle, State.onCkpt, hj, hrole, bne_self_eq_false, Bool.false_eq_true, if_false, hopened, hst, beq_self_eq_true, if_true]
    exact State.answer_data (by simp [FrameBody.cls])

end Sys2Proof.Machine

namespace Sys2Proof.Machine

/-! ## What the end of a batch step leaves of the batch steps (R303) -/

section
variable (s : State)

/-- Steps of which each keeps a part of the state do so together, whatever else they carry on. -/
theorem foldl_fst_kept {α β γ : Type} (p : State → β) {f : State × γ → α → State × γ} (hf : ∀ q x, p (f q x).1 = p q.1) (l : List α) (q : State × γ) :
    p (l.foldl f q).1 = p q.1 := by
  induction l generalizing q with
  | nil => rfl
  | cons x r ih => exact (ih (f q x)).trans (hf q x)

theorem State.sendFrame_batches (n : Nat) (w : FrameOut) : (s.sendFrame n w).batches = s.batches := by
  obtain ⟨a, o, h⟩ := s.sendFrame_only n w
  rw [h]

theorem State.pumpStream_batches (c : Fin 8) (slot : Nat) : (s.pumpStream c slot).batches = s.batches := by
  unfold State.pumpStream
  split
  · rfl
  · split
    · rfl
    · exact foldl_kept State.batches (fun t w => t.sendFrame_batches _ w) _ s

theorem State.putRing_batches (c : Fin 8) (slot : Nat) (l : List RingRec) : (s.putRing c slot l).batches = s.batches := by
  unfold State.putRing
  split
  · rfl
  · exact State.pumpStream_batches _ _ _

theorem State.bumpEntry_batches (n : Nat) (v : Word) : (s.bumpEntry n v).batches = s.batches := by
  unfold State.bumpEntry
  split
  · rfl
  · split <;> rfl

theorem State.writeVerdict_batches (l : List Byte) : (s.writeVerdict l).batches = s.batches := by
  unfold State.writeVerdict
  split
  · rfl
  · split
    · rfl
    · exact State.bumpEntry_batches _ _ _

theorem State.verdict_batches (c : Fin 8) (x : ReqSt) (code : Nat) (rank : List Nat) : (s.verdict c x code rank).batches = s.batches := by
  unfold State.verdict
  dsimp only
  split
  · rfl
  · split
    · rfl
    · split <;> exact State.writeVerdict_batches _ _

theorem State.acctAdd_batches (client off size n : Nat) : (s.acctAdd client off size n).batches = s.batches := rfl

theorem State.settleRefs_batches : s.settleRefs.batches = s.batches := rfl

theorem State.endRequest_batches (c : Fin 8) (slot code : Nat) (rank : List Nat) : (s.endRequest c slot code rank).batches = s.batches := by
  unfold State.endRequest
  split
  · rfl
  · rw [State.settleRefs_batches]
    split <;> rw [State.acctAdd_batches]
    · rw [State.acctAdd_batches, State.verdict_batches, State.putRing_batches]
      rfl
    · rw [State.verdict_batches, State.putRing_batches]
      rfl

theorem State.beginPause_batches (c : Fin 8) (p : ServeRec) (slot : Nat) (x : ReqSt) (at_ : Nat) :
    (s.beginPause c p slot x at_).batches = s.batches := by
  unfold State.beginPause
  dsimp only
  rw [State.raiseEvent_batches]
  rfl

theorem State.finishReq_batches (c : Fin 8) (p : ServeRec) (slot code : Nat) (rank : List Nat) : (s.finishReq c p slot code rank).batches = s.batches := by
  unfold State.finishReq
  split
  · rfl
  · dsimp only
    split
    · exact State.endRequest_batches _ _ _ _ _
    · split
      · exact State.endRequest_batches _ _ _ _ _
      · split
        · exact State.endRequest_batches _ _ _ _ _
        · exact State.beginPause_batches _ _ _ _ _ _

theorem State.copyRow_batches (p : ServeRec) (slot : Nat) (x : ReqSt) (t i : Nat) : (s.copyRow p slot x t i).batches = s.batches := by
  unfold State.copyRow
  split
  · rfl
  · refine foldl_kept State.batches (fun u k => ?_) _ s
    refine foldl_kept State.batches (fun v e => ?_) _ u
    rfl

theorem State.freeSlots_batches (b n : Nat) : (s.freeSlots b n).batches = s.batches := rfl

theorem State.skipItem_batches (c : Fin 8) (slot : Nat) (w : Work) (ranks : List RankScores) : (s.skipItem c slot w ranks).batches = s.batches := by
  unfold State.skipItem
  split
  · split <;> rfl
  · rfl

theorem State.writeItem_batches (c : Fin 8) (p : ServeRec) (slot : Nat) (w : Work) (ranks : List RankScores) :
    (s.writeItem c p slot w ranks).1.batches = s.batches := by
  unfold State.writeItem
  split
  · rfl
  · split
    · rfl
    · split
      · rfl
      · dsimp only
        refine (foldl_kept State.batches (fun t e => ?_) _ _).trans ?_
        · split
          · exact State.copyRow_batches _ _ _ _ _ _
          · rfl
        · rw [State.acctAdd_batches, State.putRing_batches]
          rfl
    · split
      · rfl
      · dsimp only
        split
        · rfl
        · rw [State.acctAdd_batches, State.putRing_batches]
          rfl

end

/-! ## The end beat of a batch step (R303, R312, R317, R318) -/

section
variable {s : State} {c : Fin 8} {p : ServeRec} {id : Nat} {ranks : List RankScores} {b : BatchSt}

/-- Everything in a batch step is done, and its scores have arrived. -/
def State.stepOver (s : State) (b : BatchSt) (ranks : List RankScores) : Bool := s.batchDone b && s.ranksDone b ranks

/-- The requests of a batch step that expiry or a CANCEL ends, with their codes. -/
def State.drops (s : State) (c : Fin 8) (b : BatchSt) : List (Nat × Nat) :=
  b.items.filterMap fun (slot, _) => (s.req c slot).bind fun x => (s.dropCode x).map fun code => (slot, code)

/-- The state without batch step `id`. -/
def State.withoutStep (s : State) (id : Nat) : State := { s with batches := s.batches.filter fun q => q.id != id }

/-- One item at the end beat: skipped where its request drops out, else written. -/
def endItem (c : Fin 8) (p : ServeRec) (ranks : List RankScores) (drops : List (Nat × Nat)) (acc : State × List (Nat × Nat × List Nat)) (e : Nat × Work) :
    State × List (Nat × Nat × List Nat) :=
  if drops.any fun d => d.1 == e.1 then (acc.1.skipItem c e.1 e.2 ranks, acc.2)
  else ((acc.1.writeItem c p e.1 e.2 ranks).1, match (acc.1.writeItem c p e.1 e.2 ranks).2 with
    | some (code, rk) => acc.2 ++ [(e.1, code, rk)]
    | none => acc.2)

/-- The state and the ends after the items of a batch step. -/
def State.itemsOver (s : State) (c : Fin 8) (p : ServeRec) (id : Nat) (ranks : List RankScores) (b : BatchSt) : State × List (Nat × Nat × List Nat) :=
  b.items.foldl (endItem c p ranks (s.drops c b)) (s.withoutStep id, [])

theorem execBatchStepEnd_over (hb : (s.batches.find? fun b => b.id == id && b.ctx == c) = some b) (hp : s.serveRec c = some p)
    (hover : s.stepOver b ranks = true) :
    execBatchStepEnd c id ranks s = .next ((s.itemsOver c p id ranks b).2.foldl (fun (t : State) e => t.finishReq c p e.1 e.2.1 e.2.2)
      ((s.drops c b).foldl (fun (t : State) e => t.endRequest c e.1 e.2) (s.itemsOver c p id ranks b).1)) := by
  have hgo : (!s.batchDone b || !s.ranksDone b ranks) = false := by rw [← Bool.not_and, Bool.not_eq_false']; exact hover
  simp only [execBatchStepEnd, hb, hp, hgo, Bool.false_eq_true, if_false]
  rfl

theorem execBatchStepEnd_goes_on (hb : (s.batches.find? fun b => b.id == id && b.ctx == c) = some b) (hp : s.serveRec c = some p)
    (hover : s.stepOver b ranks = false) : execBatchStepEnd c id ranks s = .next s := by
  have hstay : (!s.batchDone b || !s.ranksDone b ranks) = true := by rw [← Bool.not_and, Bool.not_eq_true']; exact hover
  simp only [execBatchStepEnd, hb, hp, hstay, if_true]

theorem endItem_batches (drops : List (Nat × Nat)) (acc : State × List (Nat × Nat × List Nat)) (e : Nat × Work) :
    (endItem c p ranks drops acc e).1.batches = acc.1.batches := by
  unfold endItem
  split
  · exact State.skipItem_batches _ _ _ _ _
  · exact State.writeItem_batches _ _ _ _ _ _

/-- Of a batch step with one request, the request drops out or its results are written. -/
theorem State.itemsOver_single {slot : Nat} {w : Work} {x : ReqSt} (hitems : b.items = [(slot, w)]) (hx : s.req c slot = some x) :
    (∀ code, s.dropCode x = some code → s.drops c b = [(slot, code)] ∧
      s.itemsOver c p id ranks b = ((s.withoutStep id).skipItem c slot w ranks, [])) ∧
    (s.dropCode x = none → s.drops c b = [] ∧ s.itemsOver c p id ranks b = (((s.withoutStep id).writeItem c p slot w ranks).1,
      match ((s.withoutStep id).writeItem c p slot w ranks).2 with | some (code, rk) => [(slot, code, rk)] | none => [])) := by
  constructor
  · intro code hcode
    have hdrops : s.drops c b = [(slot, code)] := by simp [State.drops, hitems, hx, hcode]
    exact ⟨hdrops, by simp [State.itemsOver, hitems, hdrops, endItem]⟩
  · intro hnone
    have hdrops : s.drops c b = [] := by simp [State.drops, hitems, hx, hnone]
    refine ⟨hdrops, ?_⟩
    simp only [State.itemsOver, hitems, hdrops, List.foldl_cons, List.foldl_nil, endItem, List.any_nil, Bool.false_eq_true, if_false, List.nil_append]

theorem State.dropCode_expired {x : ReqSt} (hdl : x.r.deadline ≠ 0) (hlate : x.r.deadline ≤ s.beat) : s.dropCode x = some 0x2140 := by
  simp [State.dropCode, hdl, hlate]

theorem State.dropCode_in_time {x : ReqSt} (h : x.r.deadline = 0 ∨ s.beat < x.r.deadline) : s.dropCode x = if x.cancel then some 0x2148 else none := by
  have hearly : (x.r.deadline != 0 && decide (x.r.deadline ≤ s.beat)) = false := by rcases h with h | h <;> simp [h]
  simp only [State.dropCode, hearly, Bool.false_eq_true, if_false]

end

/-! ## Deadlines, holds and pauses (R316, R317, R319, R323, R325) -/

section
variable {s : State} {c : Fin 8} {slot : Nat} {x : ReqSt} (core entry : Nat)

theorem execDeadline_due (hx : s.req c slot = some x) (hact : x.ph.active = true) (hfree : x.inStep = none) (hdl : x.r.deadline ≠ 0)
    (hlate : x.r.deadline ≤ s.beat) : execDeadline c slot s = .next (s.endRequest c slot 0x2140) := by
  simp [execDeadline, hx, hact, hfree, hdl, hlate]

theorem execDeadline_not_due (hx : s.req c slot = some x) (h : s.beat < x.r.deadline ∨ x.r.deadline = 0 ∨ x.ph.active = false ∨ x.inStep ≠ none) :
    execDeadline c slot s = .next s := by
  have hno : (x.ph.active && x.inStep.isNone && x.r.deadline != 0 && decide (x.r.deadline ≤ s.beat)) = false := by
    rcases h with h | h | h | h
    · simp [h]
    · simp [h]
    · simp [h]
    · simp [Option.isNone_eq_false_iff.mpr (Option.isSome_iff_ne_none.mpr h)]
  simp only [execDeadline, hx, hno, Bool.false_eq_true, if_false]

theorem execRingHold_eq {p : ServeRec} {b : Nat} (hx : s.req c slot = some x) (hp : s.serveRec c = some p) (hb : x.termBeat = some b) :
    execRingHold c slot s = .next (if x.ph == .ending && decide (b + p.ringHold ≤ s.beat) then s.freeReq c slot else s) := by
  simp only [execRingHold, hx, hp, hb]

theorem execPauseComplete_open (hx : s.req c slot = some x) (h : x.ph ≠ .pausing ∨ s.pauseOpen c slot = true) :
    execPauseComplete c slot core entry s = .next s := by
  have hstay : (x.ph != .pausing || s.pauseOpen c slot) = true := by simpa using h
  simp only [execPauseComplete, hx, hstay, if_true]

theorem execPauseComplete_cancelled (hx : s.req c slot = some x) (hph : x.ph = .pausing) (hopen : s.pauseOpen c slot = false)
    (hcancel : x.cancel = true) : execPauseComplete c slot core entry s = .next (s.endRequest c slot 0x2148) := by
  simp only [execPauseComplete, hx, hph, hopen, hcancel, bne_self_eq_false, Bool.or_self, Bool.false_eq_true, if_false, if_true]

theorem execPauseComplete_last {y : Summary} (hx : s.req c slot = some x) (hph : x.ph = .pausing) (hopen : s.pauseOpen c slot = false)
    (hcancel : x.cancel = false) (hy : x.saved = some y) :
    execPauseComplete c slot core entry s =
      let z : Summary := { y with keptBeat := s.beat }
      .next (if (aget s.summaries x.r.conv).isSome then s.endRequest c slot 0x2147
        else ({ s with summaries := aput s.summaries x.r.conv z
                       mem := memPutBytes s.mem (s.regionBase .cellar + z.at_) (sumRecord z) }).endRequest c slot 3) := by
  simp only [execPauseComplete, hx, hph, hopen, hcancel, hy, bne_self_eq_false, Bool.or_self, Bool.false_eq_true, if_false]

theorem execSummaryTtl_eq {conv : Nat} {y : Summary} {r : ServeRec} (hy : aget s.summaries conv = some y) (hr : s.serveRec y.ctx = some r) :
    execSummaryTtl conv s = .next (if r.summaryTtl != 0 && decide (y.keptBeat + r.summaryTtl ≤ s.beat) then
      { s with summaries := adel s.summaries conv } else s) := by
  simp only [execSummaryTtl, hy, hr, Option.map_some, Option.getD_some]

end

/-- Settles O43: no result of a request touches the batch steps, so the end of one removes just it; the rest by the cases of each command. -/
theorem requestEndResults : Obligations.RequestEndResults := by
  refine ⟨fun s c p id ranks b hp hb => ⟨fun hover => ?goesOn, fun hover => ?removed, fun slot w x hover hitems hx =>
      ⟨fun hdl hlate => ?expired, fun htime hcancel => ?cancelled, fun htime hcancel => ?written⟩⟩,
    fun s c slot x hx => ⟨execDeadline_due hx, execDeadline_not_due hx, fun p b hp hb => ⟨fun hph hlate => ?freed, fun h => ?held⟩,
      fun h core entry => execPauseComplete_open core entry hx h, fun hph hopen => ⟨fun hcancel core entry => execPauseComplete_cancelled core entry hx hph hopen hcancel,
        fun y hcancel hy hlisted core entry => ?notKept, fun y hcancel hy hnew core entry => ?kept⟩⟩,
    fun s conv y r hy hr => ⟨fun httl hlate => ?gone, fun h => ?stays⟩⟩
  case goesOn => exact execBatchStepEnd_goes_on hb hp (by simpa [State.stepOver] using hover)
  case removed =>
    refine ⟨_, execBatchStepEnd_over hb hp (by simpa [State.stepOver] using hover), ?_⟩
    refine (foldl_kept State.batches (fun t e => t.finishReq_batches _ _ _ _ _) _ _).trans ?_
    refine (foldl_kept State.batches (fun t e => t.endRequest_batches _ _ _ _) _ _).trans ?_
    exact foldl_fst_kept State.batches (endItem_batches _) _ _
  case expired =>
    obtain ⟨hdrops, hitemsOver⟩ := (State.itemsOver_single (p := p) (id := id) (ranks := ranks) hitems hx).1 _ (State.dropCode_expired hdl hlate)
    refine (execBatchStepEnd_over hb hp (by simpa [State.stepOver] using hover)).trans ?_
    rw [hdrops, hitemsOver]
    rfl
  case cancelled =>
    have hcode : s.dropCode x = some 0x2148 := by rw [State.dropCode_in_time htime, if_pos hcancel]
    obtain ⟨hdrops, hitemsOver⟩ := (State.itemsOver_single (p := p) (id := id) (ranks := ranks) hitems hx).1 _ hcode
    refine (execBatchStepEnd_over hb hp (by simpa [State.stepOver] using hover)).trans ?_
    rw [hdrops, hitemsOver]
    rfl
  case written =>
    have hcode : s.dropCode x = none := by rw [State.dropCode_in_time htime, hcancel]; rfl
    obtain ⟨hdrops, hitemsOver⟩ := (State.itemsOver_single (p := p) (id := id) (ranks := ranks) hitems hx).2 hcode
    refine (execBatchStepEnd_over hb hp (by simpa [State.stepOver] using hover)).trans ?_
    rw [hdrops, hitemsOver]
    show _ = Host.Outcome.next (match (s.withoutStep id).writeItem c p slot w ranks with
      | (t, none) => t
      | (t, some (code, rank)) => t.finishReq c p slot code rank)
    rcases (s.withoutStep id).writeItem c p slot w ranks with ⟨t, _ | ⟨code, rk⟩⟩ <;> rfl
  case freed => exact (execRingHold_eq hx hp hb).trans (by rw [if_pos (by simp [hph, hlate])])
  case held => exact (execRingHold_eq hx hp hb).trans (by rw [if_neg (by rcases h with h | h <;> simp [h])])
  case notKept =>
    exact (execPauseComplete_last core entry hx hph hopen hcancel hy).trans (by dsimp only; rw [if_pos (Option.isSome_iff_ne_none.mpr hlisted)])
  case kept =>
    exact (execPauseComplete_last core entry hx hph hopen hcancel hy).trans (by dsimp only; rw [if_neg (by simp [hnew])])
  case gone => exact (execSummaryTtl_eq hy hr).trans (by rw [if_pos (by simp [httl, hlate])])
  case stays => exact (execSummaryTtl_eq hy hr).trans (by rw [if_neg (by rcases h with h | h <;> simp [h])])

end Sys2Proof.Machine

/-!
SUPPORT. The beat count and the phase move at the boundary only: no unit, no fault and no report changes them (R356).
-/

namespace Sys2Proof.Machine

/-- Two states at one moment: the same beat count and the same phase. -/
abbrev SameClock (t s : State) : Prop := t.beat = s.beat ∧ t.phase = s.phase

theorem SameClock.trans {s t u : State} (h : SameClock u t) (g : SameClock t s) : SameClock u s :=
  ⟨h.1.trans g.1, h.2.trans g.2⟩

theorem SameClock.foldl {α : Type} {f : State → α → State} (hf : ∀ t x, SameClock (f t x) t) (l : List α) (s : State) :
    SameClock (l.foldl f s) s :=
  ⟨foldl_kept State.beat (fun t x => (hf t x).1) l s, foldl_kept State.phase (fun t x => (hf t x).2) l s⟩

theorem SameClock.foldlFst {α β : Type} {f : State × β → α → State × β} (hf : ∀ q x, SameClock (f q x).1 q.1) (l : List α) (q : State × β) :
    SameClock (l.foldl f q).1 q.1 :=
  ⟨foldl_fst_kept State.beat (fun q x => (hf q x).1) l q, foldl_fst_kept State.phase (fun q x => (hf q x).2) l q⟩

variable (s : State)

/-! ## Cores, counters, memory -/

@[simp] theorem State.setCore_clock (n : Nat) (k : CoreSt) : SameClock (s.setCore n k) s := ⟨rfl, rfl⟩
@[simp] theorem State.setCtx_clock (a : Site) (x : CtxSt) : SameClock (s.setCtx a x) s := ⟨rfl, rfl⟩
@[simp] theorem State.bump_clock (a : Site) (c : Fin 16) (n : Word) : SameClock (s.bump a c n) s := ⟨rfl, rfl⟩
@[simp] theorem State.setScr_clock (n a : Nat) (b : List Byte) : SameClock (s.setScr n a b) s := ⟨rfl, rfl⟩
@[simp] theorem State.putRow_clock (n : Nat) (t : TileDesc) (r : Nat) (els : List (Nat × Nat)) : SameClock (s.putRow n t r els) s := ⟨rfl, rfl⟩
@[simp] theorem State.putScale_clock (n : Nat) (t : TileDesc) (r b v : Nat) : SameClock (s.putScale n t r b v) s := ⟨rfl, rfl⟩
@[simp] theorem State.count_clock (c : Fin 21) (n : Nat) : SameClock (s.count c n) s := ⟨rfl, rfl⟩
@[simp] theorem State.countCtx_clock (b : Fin 8) (c : Fin 16) (n : Nat) : SameClock (s.countCtx b c n) s := ⟨rfl, rfl⟩
@[simp] theorem State.acctAdd_clock (client off size n : Nat) : SameClock (s.acctAdd client off size n) s := ⟨rfl, rfl⟩
@[simp] theorem State.sampleWord_clock (d : DataRec) (slot w : Nat) : SameClock (s.sampleWord d slot w) s := ⟨rfl, rfl⟩
@[simp] theorem State.setJob_clock (id : Nat) (j : JobSt) : SameClock (s.setJob id j) s := ⟨rfl, rfl⟩
@[simp] theorem State.setReq_clock (c : Fin 8) (slot : Nat) (x : ReqSt) : SameClock (s.setReq c slot x) s := ⟨rfl, rfl⟩
@[simp] theorem State.setSession_clock (id : Nat) (x : SessionSt) : SameClock (s.setSession id x) s := ⟨rfl, rfl⟩
@[simp] theorem State.send_clock (m : List Out) : SameClock (s.send m) s := ⟨rfl, rfl⟩
@[simp] theorem State.journal_clock (b : JnlBody) : SameClock (s.journal b) s := ⟨rfl, rfl⟩
@[simp] theorem State.payMeter_clock (st : Fin 10) (cost : Nat) : SameClock (s.payMeter st cost) s := ⟨rfl, rfl⟩
@[simp] theorem State.setEngJob_clock (core i : Nat) (j : EngJob) : SameClock (s.setEngJob core i j) s := ⟨rfl, rfl⟩
@[simp] theorem State.dropJob_clock (core i : Nat) : SameClock (s.dropJob core i) s := ⟨rfl, rfl⟩
@[simp] theorem State.markStalls_clock : SameClock s.markStalls s := ⟨rfl, rfl⟩
@[simp] theorem State.settleRefs_clock : SameClock s.settleRefs s := ⟨rfl, rfl⟩
@[simp] theorem State.retireAdapter_clock (ident : Nat) (teacher : Bool) : SameClock (s.retireAdapter ident teacher) s := ⟨rfl, rfl⟩
@[simp] theorem State.sendVine_clock (f : VineFrame) : SameClock (s.sendVine f) s := ⟨rfl, rfl⟩

@[simp] theorem State.capture_clock (cap : Option CapKey) (xs : List Num) : SameClock (s.capture cap xs) s := by
  cases cap <;> exact ⟨rfl, rfl⟩
@[simp] theorem State.mapAcct_clock (c : Fin 8) (f : AcctSt → AcctSt) : SameClock (s.mapAcct c f) s := by
  unfold State.mapAcct; split <;> exact ⟨rfl, rfl⟩
@[simp] theorem State.grant_clock (core : Nat) : SameClock (s.grant core) s := by
  unfold State.grant; split <;> exact ⟨rfl, rfl⟩
@[simp] theorem State.bumpEntry_clock (id : Nat) (n : Word) : SameClock (s.bumpEntry id n) s := by
  unfold State.bumpEntry; split
  · exact ⟨rfl, rfl⟩
  · split <;> exact ⟨rfl, rfl⟩
@[simp] theorem State.zeroShare_clock (c : Fin 8) : SameClock (s.zeroShare c) s := by
  unfold State.zeroShare; split
  · split <;> exact ⟨rfl, rfl⟩
  · exact ⟨rfl, rfl⟩
@[simp] theorem State.returnStations_clock : SameClock s.returnStations s := by
  unfold State.returnStations; split <;> exact ⟨rfl, rfl⟩

/-! ## Sessions and reports -/

@[simp] theorem State.flushTx_clock (id : Nat) : SameClock (s.flushTx id) s := by
  unfold State.flushTx; split
  · exact ⟨rfl, rfl⟩
  · split <;> exact ⟨rfl, rfl⟩

@[simp] theorem State.sendFrame_clock (id : Nat) (w : FrameOut) : SameClock (s.sendFrame id w) s := by
  unfold State.sendFrame; split <;> simp [SameClock]

@[simp] theorem State.reportFrom_clock (r : Report) : SameClock (s.reportFrom r) s := by
  unfold State.reportFrom; split
  · split <;> exact ⟨rfl, rfl⟩
  · exact .foldl (fun t id => t.sendFrame_clock id _) _ s

@[simp] theorem State.report_clock (code : Nat) (d : ReportDetail) : SameClock (s.report code d) s := s.reportFrom_clock _

@[simp] theorem State.recordFault_clock (f : FaultRec) : SameClock (s.recordFault f) s := by
  simp [State.recordFault, SameClock]

/-! ## Requests -/

@[simp] theorem State.pumpStream_clock (c : Fin 8) (slot : Nat) : SameClock (s.pumpStream c slot) s := by
  unfold State.pumpStream; split
  · exact ⟨rfl, rfl⟩
  · split
    · exact ⟨rfl, rfl⟩
    · exact (State.setReq_clock ..).trans (.foldl (fun t w => t.sendFrame_clock _ w) _ s)

@[simp] theorem State.putRing_clock (c : Fin 8) (slot : Nat) (l : List RingRec) : SameClock (s.putRing c slot l) s := by
  unfold State.putRing; split <;> simp [SameClock]

@[simp] theorem State.writeVerdict_clock (b : List Byte) : SameClock (s.writeVerdict b) s := by
  unfold State.writeVerdict; split
  · exact ⟨rfl, rfl⟩
  · split <;> simp [SameClock]

@[simp] theorem State.verdict_clock (c : Fin 8) (x : ReqSt) (code : Nat) (rank : List Nat) : SameClock (s.verdict c x code rank) s := by
  unfold State.verdict
  dsimp only
  split
  · exact ⟨rfl, rfl⟩
  · split
    · exact ⟨rfl, rfl⟩
    · split <;> exact State.writeVerdict_clock ..

@[simp] theorem State.endRequest_clock (c : Fin 8) (slot code : Nat) (rank : List Nat) : SameClock (s.endRequest c slot code rank) s := by
  unfold State.endRequest
  split
  · exact ⟨rfl, rfl⟩
  · dsimp only
    split <;> simp [SameClock]

@[simp] theorem State.endAll_clock (c : Fin 8) (code : Nat) : SameClock (s.endAll c code) s :=
  .foldl (fun t _ => t.endRequest_clock ..) _ s

/-! ## Faults -/

@[simp] theorem State.haltCtx_clock (c : Fin 8) : SameClock (s.haltCtx c) s := by
  have hu (l : List Nat) : SameClock (l.foldl (fun (t : State) n => t.setCore n (t.core n)) s) s := .foldl (fun t n => t.setCore_clock ..) l s
  unfold State.haltCtx
  dsimp only
  refine (State.endAll_clock ..).trans ((State.zeroShare_clock ..).trans ?_)
  split
  · exact (State.returnStations_clock _).trans (hu _)
  · exact hu _

@[simp] theorem State.unapply_clock (j : JobRec) : SameClock (s.unapply j) s := by
  unfold State.unapply
  split
  · exact ⟨rfl, rfl⟩
  · split
    · exact ⟨rfl, rfl⟩
    · refine (State.setJob_clock ..).trans ?_
      split
      · exact (SameClock.foldl (fun t c => t.countCtx_clock ..) _ _).trans ⟨rfl, rfl⟩
      · exact ⟨rfl, rfl⟩

@[simp] theorem State.haltJob_clock (j : JobRec) : SameClock (s.haltJob j) s :=
  have h : SameClock ((jobCtxs j).foldl State.haltCtx (s.unapply j)) s :=
    (SameClock.foldl (fun t c => t.haltCtx_clock c) _ _).trans (s.unapply_clock j)
  (State.setJob_clock ..).trans h

@[simp] theorem State.reportHalt_clock (j : JobRec) (f : Option FaultRec) : SameClock (s.reportHalt j f) s := by
  unfold State.reportHalt
  dsimp only
  split <;> exact ⟨rfl, rfl⟩

@[simp] theorem State.haltAndNotify_clock (f : FaultRec) (j : JobRec) : SameClock (s.haltAndNotify f j) s := by
  unfold State.haltAndNotify
  dsimp only
  split
  · simp [SameClock]
  · split <;> simp [SameClock]

@[simp] theorem State.faultCtx_clock (code : Nat) (c : Fin 8) (detail : List Nat) : SameClock (s.faultCtx code c detail) s := by
  unfold State.faultCtx
  cases s.jobOf c <;> simp [SameClock]

@[simp] theorem State.faultDevice_clock (code : Nat) (detail : List Nat) : SameClock (s.faultDevice code detail) s := by
  have hhalt (t : State) : SameClock (if t.dev == .joined || t.dev == .run || t.dev == .drain then { t with dev := .halt } else t) t := by
    split <;> exact ⟨rfl, rfl⟩
  unfold State.faultDevice
  exact (State.send_clock ..).trans <| (hhalt _).trans <| (SameClock.foldl (fun t c => t.haltCtx_clock c) _ _).trans <|
    (SameClock.foldl (fun t j => t.haltAndNotify_clock _ j) _ _).trans (s.recordFault_clock _)

/-! ## Engines -/

theorem State.storeRow_clock (n : Nat) (t : TileDesc) (sr : SrCtx) (r : Nat) (vals : List (Nat × Num)) : SameClock (s.storeRow n t sr r vals).1 s := by
  unfold State.storeRow
  split
  · refine SameClock.foldlFst (fun q b => ?_) _ (s, 0)
    exact (State.putScale_clock ..).trans (State.putRow_clock ..)
  · exact (State.capture_clock ..).trans (State.putRow_clock ..)

theorem State.mrdRows_clock (n : Nat) (c : TileDesc) (step : Nat) (set : List (List RawRec)) (who : Fin 8 × Nat) :
    SameClock (s.mrdRows n c step set who).1 s :=
  SameClock.foldlFst (fun q _ => by exact q.1.storeRow_clock ..) _ (s, 0)

theorem State.mrdpRows_clock (n : Nat) (a c : TileDesc) (set : List (List RawRec)) : SameClock (s.mrdpRows n a c set).1 s :=
  SameClock.foldlFst (fun q _ => by exact ⟨rfl, rfl⟩) _ (s, 0)

theorem State.msavRows_clock (n : Nat) (c : TileDesc) (set : List (List RawRec)) : SameClock (s.msavRows n c set) s :=
  .foldl (fun t _ => .foldl (fun t _ => t.setScr_clock ..) _ t) _ s

theorem State.vopRows_clock (n : Nat) (k : VKind) (d : TileDesc) (v : VArgs) (rows step : Nat) (who : Fin 8 × Nat) :
    SameClock (s.vopRows n k d v rows step who).1 s := by
  refine SameClock.foldlFst (fun q i => ?_) _ (s, 0)
  dsimp only
  split
  · have hstatus (t : State) (a : Option Nat) (b : List Byte) :
        SameClock (match a with | some a => t.setScr n a b | none => t) t := by
      cases a <;> exact ⟨rfl, rfl⟩
    refine (hstatus _ _ _).trans ?_
    split <;> exact q.1.storeRow_clock ..
  · exact q.1.storeRow_clock ..

theorem State.startEffect_clock (core : Nat) (j : EngJob) : SameClock (s.startEffect core j).1 s := by
  unfold State.startEffect
  split
  · split <;> exact ⟨rfl, rfl⟩
  · exact ⟨rfl, rfl⟩
  · exact s.mrdRows_clock ..
  · exact s.mrdpRows_clock ..
  · exact s.msavRows_clock ..
  · split
    · exact s.vopRows_clock ..
    · exact ⟨rfl, rfl⟩
  · exact ⟨rfl, rfl⟩

@[simp] theorem State.startJob_clock (core i : Nat) : SameClock (s.startJob core i) s := by
  unfold State.startJob
  split
  · exact ⟨rfl, rfl⟩
  · dsimp only
    split
    · simp [SameClock]
    · split
      · exact (State.setEngJob_clock ..).trans ((State.startEffect_clock ..).trans (s.payMeter_clock ..))
      · simp [SameClock]

@[simp] theorem State.pumpN_clock (n core : Nat) : SameClock (s.pumpN n core) s := by
  induction n generalizing s with
  | zero => exact ⟨rfl, rfl⟩
  | succ n ih =>
    unfold State.pumpN
    split
    · exact (ih _).trans (s.startJob_clock ..)
    · exact ⟨rfl, rfl⟩

theorem State.pumpCore_clock (core : Nat) : SameClock (s.pumpCore core) s := (State.pumpN_clock ..).trans (s.grant_clock core)

theorem State.pumpAllN_clock (n : Nat) : SameClock (State.pumpAllN n s) s := by
  induction n generalizing s with
  | zero => exact ⟨rfl, rfl⟩
  | succ n ih =>
    have h : SameClock ((s.cores.map (·.1)).foldl State.pumpCore s) s := .foldl (fun t c => t.pumpCore_clock c) _ s
    unfold State.pumpAllN
    dsimp only
    split
    · exact (ih _).trans h
    · exact h

@[simp] theorem State.pumpAll_clock : SameClock s.pumpAll s := s.pumpAllN_clock 9

theorem State.slip_clock (detail : List Nat) : SameClock (s.slip detail) s := (State.pumpAll_clock _).trans (s.faultDevice_clock ..)

/-! ## The boundary -/

@[simp] theorem State.append_clock (a : Site) (e : StartEntry) : SameClock (s.append a e) s := by
  unfold State.append
  dsimp only
  split
  · exact ⟨rfl, rfl⟩
  · split <;> exact ⟨rfl, rfl⟩

theorem State.trigger_clock (c : Fin 8) (r : SchedRec) (args : List Word) (tag : EntryTag) : SameClock (s.trigger c r args tag) s := by
  unfold State.trigger
  split
  · exact ⟨rfl, rfl⟩
  · refine (State.append_clock ..).trans ?_
    split <;> exact ⟨rfl, rfl⟩

theorem State.runSchedule_clock : SameClock s.runSchedule s := by
  refine .foldl (fun t x => ?_) _ s
  dsimp only
  split
  · exact (State.trigger_clock ..).trans ⟨rfl, rfl⟩
  · exact ⟨rfl, rfl⟩

theorem State.probeLinks_clock : SameClock s.probeLinks s := by
  unfold State.probeLinks; split <;> exact ⟨rfl, rfl⟩

theorem State.sendMarkers_clock : SameClock s.sendMarkers s := by
  unfold State.sendMarkers; split <;> exact ⟨rfl, rfl⟩

theorem State.checkUpstreams_clock : SameClock s.checkUpstreams s := by
  unfold State.checkUpstreams
  split
  · exact s.slip_clock _
  · exact ⟨rfl, rfl⟩

theorem State.countUnseen_clock : SameClock s.countUnseen s := .foldl (fun t _ => t.count_clock ..) _ s

theorem State.countStemStalls_clock : SameClock s.countStemStalls s := by
  refine SameClock.foldl (fun t p => ?_) (List.finRange 4) s.markStalls
  split <;> exact ⟨rfl, rfl⟩

theorem State.countIdle_clock : SameClock s.countIdle s := by
  refine (SameClock.foldl (fun t c => ?_) (List.finRange 8) _).trans (SameClock.foldl (fun t c => ?_) (List.finRange 8) s)
  · split <;> simp [SameClock]
  · split <;> simp [SameClock]

theorem State.countQwait_clock : SameClock s.countQwait s := by
  refine SameClock.foldl (fun t x => ?_) s.reqs s
  dsimp only
  split <;> exact ⟨rfl, rfl⟩

theorem State.settleLive_clock : SameClock s.settleLive s := SameClock.foldl (fun t _ => by exact ⟨rfl, rfl⟩) _ s

/-- What the end of a beat counts leaves the beat count itself (R356). -/
theorem State.endBeat_clock : SameClock s.endBeat s := by
  have h : SameClock (s.countUnseen.countStemStalls.countIdle.countQwait).settleLive s :=
    (State.settleLive_clock _).trans <| (State.countQwait_clock _).trans <| (State.countIdle_clock _).trans <|
      (State.countStemStalls_clock _).trans s.countUnseen_clock
  unfold State.endBeat
  dsimp only
  split
  · exact (State.count_clock ..).trans h
  · exact h

end Sys2Proof.Machine

/-!
SUPPORT. O27: the boundary, the source of the acting Plot Root, markers and failover, a lemma per case of each command (R350, R356, R361 to R369).
-/

namespace Sys2Proof.Machine

section
variable (s : State)

/-! ## The boundary (R356) -/

theorem State.nextBeat_clock : s.nextBeat.beat = (s.beat + 1) % 2 ^ 64 ∧ s.nextBeat.phase = 0 := by
  have hvine (t : State) : SameClock (if t.isMaster && t.vineUp && t.beat % 1024 == 0 then t.sendVine (.ebeat t.beat) else t) t := by
    split <;> exact ⟨rfl, rfl⟩
  have h : SameClock s.nextBeat { s.endBeat with beat := (s.endBeat.beat + 1) % 2 ^ 64, phase := 0 } := by
    unfold State.nextBeat
    exact (State.pumpAll_clock _).trans <| (State.runSchedule_clock _).trans <| (State.sendMarkers_clock _).trans <|
      (State.probeLinks_clock _).trans <| (hvine _).trans (State.checkUpstreams_clock _)
  obtain ⟨hbeat, hphase⟩ := h
  refine ⟨hbeat.trans ?_, hphase⟩
  rw [s.endBeat_clock.1]

theorem execBeatBoundary_powered (h : s.powered = true) : execBeatBoundary s = .next s.nextBeat := by
  rw [execBeatBoundary, if_pos h]

theorem execBeatBoundary_unpowered (h : s.powered = false) : execBeatBoundary s = .next s := by
  rw [execBeatBoundary, h, if_neg Bool.false_ne_true]

/-! ## The start of the count (R363) -/

/-- What a device holds of the Plot's beat: its count, phase and formation, and whose it is. -/
def State.timing (s : State) : Nat × Nat × Bool × Nat × Nat := (s.beat, s.phase, s.acquired, s.origin, s.form)

theorem State.tryAnnounce_timing : s.tryAnnounce.timing = s.timing := by
  unfold State.tryAnnounce
  dsimp only
  split
  · rfl
  · split <;> rfl

theorem State.takeLocks_timing (l : List Nat) : (s.takeLocks l).timing = s.timing := by
  unfold State.takeLocks
  split
  · rfl
  · split
    · refine foldl_kept State.timing (fun t d => ?_) l s
      split <;> rfl
    · exact State.tryAnnounce_timing _

theorem State.sendMarkers_timing : s.sendMarkers.timing = s.timing := by
  unfold State.sendMarkers; split <;> rfl

theorem State.startBeats_timing (b phase : Nat) : (s.startBeats b phase).timing = (b, phase, true, s.addr, s.form + 1) := by
  unfold State.startBeats
  dsimp only
  split
  · exact (State.sendMarkers_timing _).trans (State.takeLocks_timing ..)
  · exact State.takeLocks_timing ..

/-! ## The source of the acting Plot Root (R361, R362) -/

theorem execBeatPpsIn_start {err : Int} {b : Nat} (hr : s.rootsBeat = true) (hsrc : s.img.beat.source = 1) (hb : s.bt.start = some b)
    (hp : s.formation.phase = 4) :
    execBeatPpsIn err s =
      .next (State.startBeats { s with bt := { s.bt with ppsRun := if err.natAbs ≤ 10 then s.bt.ppsRun + 1 else 0 } } b 0) := by
  simp only [execBeatPpsIn, hr, hsrc, hb, hp, Bool.not_true, bne_self_eq_false, Bool.or_self, Bool.false_eq_true, if_false, beq_self_eq_true, if_true]

theorem execBeatPpsIn_counts {err : Int} (hr : s.rootsBeat = true) (hsrc : s.img.beat.source = 1)
    (hn : s.bt.start = none ∨ s.formation.phase ≠ 4) :
    execBeatPpsIn err s = .next { s with bt := { s.bt with ppsRun := if err.natAbs ≤ 10 then s.bt.ppsRun + 1 else 0 } } := by
  simp only [execBeatPpsIn, hr, hsrc, Bool.not_true, bne_self_eq_false, Bool.or_self, Bool.false_eq_true, if_false]
  rcases hn with hn | hn
  · simp only [hn]
  · cases hb : s.bt.start with
    | none => rfl
    | some b => simp only [beq_iff_eq, hn, if_false]

theorem execPtpSync_counts {off : Int} (hr : s.rootsBeat = true) (hsrc : s.img.beat.source = 2) :
    execPtpSync s.img.ptpDomain off s = .next { s with bt := { s.bt with ptpRun := if off.natAbs ≤ 100 then s.bt.ptpRun + 1 else 0 } } := by
  simp only [execPtpSync, hr, hsrc, beq_self_eq_true, Bool.and_self, if_true]

/-- A device that is not the acting Plot Root takes nothing from a source. -/
theorem source_commands_elsewhere (n : Nat) (x : Int) (hr : s.rootsBeat = false) :
    ∀ i ∈ [Instr.beatPpsIn x, .ptpSync n x, .sourceLock n, .sourceLockLoss], exec i s = .next s := by
  simp only [List.forall_mem_cons, List.not_mem_nil, false_imp_iff, implies_true, exec, execBeatPpsIn, execPtpSync, execSourceLock,
    execSourceLockLoss, hr, Bool.not_false, Bool.true_or, Bool.false_and, Bool.false_eq_true, if_true, if_false, and_self]

theorem execSourceLock_unready (ptp : Nat) (h : s.sourceReady = false) : execSourceLock ptp s = .next s := by
  simp only [execSourceLock, h, Bool.not_false, Bool.or_true, if_true]

theorem execSourceLock_relock {ptp : Nat} (hr : s.rootsBeat = true) (hs : s.sourceReady = true) (h : s.formed = true ∨ s.formation.phase = 5) :
    execSourceLock ptp s = .next { s with bt := { s.bt with source := true, refLost := false } } := by
  have h5 : (s.formed || s.formation.phase == 5) = true := by simpa using h
  simp only [execSourceLock, hr, hs, h5, Bool.not_true, Bool.or_self, Bool.false_eq_true, if_false, if_true]

theorem execSourceLock_starts {ptp b : Nat} {r : JoinRec} (hr : s.rootsBeat = true) (hs : s.sourceReady = true) (hf : s.formed = false)
    (hp : s.formation.phase = 4) (ht : s.formation.total = some r) (hb : startCount s.img.beat.source s.period r.beatHwm ptp = some b) :
    execSourceLock ptp s = .next (if s.img.beat.source = 1 then { s with bt := { s.bt with source := true, start := some b } }
      else s.startBeats b (if s.img.beat.source = 2 then ptp % s.period else 0)) := by
  simp only [execSourceLock, hr, hs, hf, hp, ht, hb, Bool.not_true, Bool.or_self, Bool.false_or, beq_iff_eq, Nat.reduceEqDiff, Bool.false_eq_true,
    if_false, bne_self_eq_false]

theorem execSourceLock_refused {ptp : Nat} {r : JoinRec} (hr : s.rootsBeat = true) (hs : s.sourceReady = true) (hf : s.formed = false)
    (hp : s.formation.phase = 4) (ht : s.formation.total = some r) (hb : startCount s.img.beat.source s.period r.beatHwm ptp = none) :
    execSourceLock ptp s = .next (State.report { s with formation := { s.formation with phase := 0 } } 0x5031 (.join r)) := by
  simp only [execSourceLock, hr, hs, hf, hp, ht, hb, Bool.not_true, Bool.or_self, Bool.false_or, beq_iff_eq, Nat.reduceEqDiff, Bool.false_eq_true,
    if_false, bne_self_eq_false]

theorem execSourceLockLoss_lost (hr : s.rootsBeat = true) (hb : s.bt.source = true) (hsrc : s.img.beat.source ≠ 0) :
    execSourceLockLoss s = .next (
      if s.formed then
        State.count { s with bt := { s.bt with source := false, ppsRun := 0, ptpRun := 0, start := none, refLost := s.formed } } cntRefLoss
      else { s with bt := { s.bt with source := false, ppsRun := 0, ptpRun := 0, start := none, refLost := s.formed } }) := by
  simp only [execSourceLockLoss, hr, hb, beq_false_of_ne hsrc, Bool.not_true, Bool.or_self, Bool.false_eq_true, if_false]

theorem execSourceLockLoss_unlocked (h : s.bt.source = false ∨ s.img.beat.source = 0) : execSourceLockLoss s = .next s := by
  have hu : (!s.rootsBeat || !s.bt.source || s.img.beat.source == 0) = true := by
    rcases h with h | h <;> simp [h]
  simp only [execSourceLockLoss, hu, if_true]

/-! ## Failover and windows (R350, R368) -/

theorem execBeatFailover_steady
    (h : s.formed = false ∨ s.isOrigin = true ∨ s.bt.secondary = true ∨ s.recent s.bt.lastPri = true) : execBeatFailover s = .next s := by
  have hu : (!s.formed || s.isOrigin || s.bt.secondary || s.recent s.bt.lastPri) = true := by
    rcases h with h | h | h | h <;> simp [h]
  simp only [execBeatFailover, hu, if_true]

theorem execBeatFailover_silent (hf : s.formed = true) (ho : s.isOrigin = false) (hsec : s.bt.secondary = false)
    (hpri : s.recent s.bt.lastPri = false) :
    execBeatFailover s = .next (
      if s.secondaryAlive then State.count { s with bt := { s.bt with secondary := true, back := 0 } } cntBeatFailover else s.slip [s.addr]) := by
  simp only [execBeatFailover, hf, ho, hsec, hpri, Bool.not_true, Bool.or_self, Bool.false_eq_true, if_false]

theorem execAccountingWindow_plan {p : Plan} (hp : s.plan = some p) :
    execAccountingWindow s = .next (if s.beat % p.acct.beats = 0 then
      { s with mem := memZero s.mem (s.scratchAt p.acct.off + s.beat / p.acct.beats % 2 * 131072) 131072 } else s) := by
  simp only [execAccountingWindow, hp, bne_iff_ne, ite_not]

end

/-! ## Markers (R364 to R369) -/

/-- Whether a marker does not fit the device's own beat: it is wild, or of another period, formation or Root (R366, R368). -/
abbrev State.disagrees (s : State) (m : BeatMarker) (d : Nat) (frac : Fin 8) : Prop :=
  (8 * s.period < 4 * (s.deviation m.beat d frac).natAbs ∨ (m.beat : Int) ≠ s.ownCount d frac) ∨
    (m.periodCode ≠ s.img.beat.periodCode ∨ m.form ≠ s.form ∨ m.origin % 2 ^ 17 ≠ s.origin)

/-- What an upstream's marker does to a device that holds the beat: `good` where it fits; otherwise a joined device slips, and another one counts its
lock anew. -/
def State.heeds (s s1 good : State) (m : BeatMarker) (d : Nat) (frac : Fin 8) : State :=
  if s.disagrees m d frac then
    if s.formed then s1.slip [s.addr, m.sender, s.beat, m.beat] else { s1 with bt := { s1.bt with run := 0 } }
  else good

theorem State.heeds_cases {s s1 good : State} {m : BeatMarker} {d : Nat} {frac : Fin 8} {o : Host.Outcome State Fault Refusal}
    (h : o = .next (s.heeds s1 good m d frac)) :
    (s.disagrees m d frac → s.formed = true → o = .next (s1.slip [s.addr, m.sender, s.beat, m.beat])) ∧
    (s.disagrees m d frac → s.formed = false → o = .next { s1 with bt := { s1.bt with run := 0 } }) ∧
    (¬ s.disagrees m d frac → o = .next good) := by
  subst h
  refine ⟨fun hd hf => ?_, fun hd hf => ?_, fun hd => ?_⟩
  · rw [State.heeds, if_pos hd, if_pos hf]
  · rw [State.heeds, if_pos hd, hf, if_neg Bool.false_ne_true]
  · rw [State.heeds, if_neg hd]

section Marker
variable {s : State} {port lane : Nat} {m : BeatMarker} (frac : Fin 8)

theorem execBeatMarker_unheard (h : s.onBeat = false ∨ s.isOrigin = true ∨ m.secondary = true) : execBeatMarker port lane m frac s = .next s := by
  unfold execBeatMarker
  rcases h with h | h | h
  · simp only [h, Bool.not_false, Bool.true_or, if_true]
  · simp only [h, Bool.or_true, Bool.true_or, if_true]
  · simp only [h, Bool.not_true, Bool.and_false, Bool.or_self, Bool.not_false, Bool.or_true, if_true]

variable (hon : s.onBeat = true) (ho : s.isOrigin = false) (hm : m.secondary = false)
include hon ho hm

theorem execBeatMarker_acquires (ha : s.acquired = false) (hup : s.primaryUp (m.origin % 2 ^ 17) = some m.sender)
    (hkey : beatKey s.img (m.origin % 2 ^ 17) s.addr = some (port * 8 + lane)) (hp : m.periodCode = s.img.beat.periodCode) :
    execBeatMarker port lane m frac s = .next { s with
      beat := m.beat + (s.portSt (port * 8 + lane)).delay / 8 / s.period, phase := (s.portSt (port * 8 + lane)).delay / 8 % s.period, acquired := true
      origin := m.origin % 2 ^ 17, form := m.form
      bt := { s.bt with depth := m.depth + 1, refLost := m.refLost, lastPri := m.beat, run := 0 } } := by
  simp only [execBeatMarker, hon, ho, hm, ha, hup, hkey, hp, Bool.not_true, Bool.not_false, Bool.or_self, Bool.false_eq_true, if_false, if_true,
    beq_self_eq_true, Bool.and_self, Bool.true_or]

variable (ha : s.acquired = true)
include ha

theorem execBeatMarker_primary (hup : s.primaryUp s.origin = some m.sender) (hkey : beatKey s.img s.origin s.addr = some (port * 8 + lane)) :
    let d := (s.portSt (port * 8 + lane)).delay
    let dev := s.deviation m.beat d frac
    let s0 := if dev.natAbs ≤ 400 then s else s.count cntBeatExcess
    execBeatMarker port lane m frac s = .next (s.heeds { s0 with bt := { s0.bt with dev } }
      (State.primaryMarker { s0 with bt := { s0.bt with dev } } m dev (decide (dev.natAbs ≤ 400))) m d frac) := by
  simp only [execBeatMarker, State.heeds, State.disagrees, hon, ho, hm, ha, hup, hkey, Bool.not_true, Bool.not_false, Bool.or_self, Bool.false_eq_true, if_false,
    if_true, beq_self_eq_true, Bool.and_self, Bool.true_or, Bool.or_eq_true, decide_eq_true_eq, bne_iff_ne, or_assoc]

theorem execBeatMarker_secondary (hpri : ¬ (s.primaryUp s.origin = some m.sender ∧ beatKey s.img s.origin s.addr = some (port * 8 + lane)))
    (hup : s.secondaryUp = some m.sender) (hkey : s.secondaryKey s.pos = some (port * 8 + lane)) :
    let d := (s.portSt (port * 8 + lane)).delay
    let dev := s.deviation m.beat d frac
    let s0 := if dev.natAbs ≤ 400 then s else s.count cntBeatExcess
    execBeatMarker port lane m frac s = .next (s.heeds s0 (s0.secondaryMarker m dev) m d frac) := by
  have hp : (s.primaryUp s.origin == some m.sender && beatKey s.img s.origin s.addr == some (port * 8 + lane)) = false := by
    simpa only [Bool.eq_false_iff, ne_eq, Bool.and_eq_true, beq_iff_eq] using hpri
  simp only [execBeatMarker, State.heeds, State.disagrees, hon, ho, hm, ha, hup, hkey, hp, Bool.not_true, Bool.not_false, Bool.or_self, Bool.false_eq_true, if_false,
    if_true, beq_self_eq_true, Bool.and_self, Bool.false_or, Bool.false_and, Bool.or_eq_true, decide_eq_true_eq, bne_iff_ne, or_assoc]

omit hon ho hm in
theorem execBeatMarker_other (hpri : ¬ (s.primaryUp s.origin = some m.sender ∧ beatKey s.img s.origin s.addr = some (port * 8 + lane)))
    (hsec : ¬ (s.secondaryUp = some m.sender ∧ s.secondaryKey s.pos = some (port * 8 + lane))) :
    execBeatMarker port lane m frac s = .next s := by
  have hp : (s.primaryUp s.origin == some m.sender && beatKey s.img s.origin s.addr == some (port * 8 + lane)) = false := by
    simpa only [Bool.eq_false_iff, ne_eq, Bool.and_eq_true, beq_iff_eq] using hpri
  have hs : (s.secondaryUp == some m.sender && s.secondaryKey s.pos == some (port * 8 + lane)) = false := by
    simpa only [Bool.eq_false_iff, ne_eq, Bool.and_eq_true, beq_iff_eq] using hsec
  simp only [execBeatMarker, ha, hp, hs, Bool.not_false, if_true, Bool.true_and, Bool.false_and, Bool.or_self, Bool.or_true]

end Marker

/-- Settles O27: the boundary's count passes every unit by (State.nextBeat_clock), and each other command's cases are those of its definition. -/
theorem beatResults : Obligations.BeatResults := by
  unfold Obligations.BeatResults
  refine ⟨fun s => ⟨fun h => ⟨s.nextBeat, ?_, s.nextBeat_clock⟩, fun h => ?_⟩, fun s b phase => ?_, fun s err hr hsrc => ⟨fun b hb hp => ?_, fun hn => ?_⟩,
    fun s off hr hsrc => ?_, fun s n x hr => source_commands_elsewhere s n x hr, fun s ptp hr => ⟨fun h => ?_, fun hs => ⟨fun b r hf hp ht hb => ?_,
    fun r hf hp ht hb => ?_, fun h => ?_⟩⟩, fun s hr hb hsrc => ⟨fun hf => ?_, fun hf => ?_⟩, fun s hr h => ?_,
    fun s port lane m frac => ⟨fun h => ?_, fun hon ho hm => ⟨fun ha hup hkey hp => ?_, fun ha => ⟨fun hpri => ?_, fun hpri hsec => ?_,
    fun hpri hsec => ?_⟩⟩⟩, fun s => ⟨fun h => ?_, fun hf ho hsec hpri => ⟨fun halive => ?_, fun halive => ?_⟩⟩,
    fun s => ⟨fun hp => ?_, fun p hp => ⟨fun hz => ?_, fun hz => ?_⟩⟩⟩
  · exact execBeatBoundary_powered s h
  · exact execBeatBoundary_unpowered s h
  · have h := s.startBeats_timing b phase
    simp only [State.timing, Prod.mk.injEq] at h
    exact h
  · exact execBeatPpsIn_start s hr hsrc hb hp
  · exact execBeatPpsIn_counts s hr hsrc hn
  · exact execPtpSync_counts s hr hsrc
  · exact execSourceLock_unready s ptp h
  · have h := execSourceLock_starts s hr hs hf hp ht hb
    refine ⟨fun h1 => ?_, fun h2 => ?_, fun h0 => ?_⟩
    · rw [if_pos h1] at h
      exact h
    · rw [if_neg (by omega), if_pos h2] at h
      exact h
    · rw [if_neg (by omega), if_neg (by omega)] at h
      exact h
  · exact execSourceLock_refused s hr hs hf hp ht hb
  · exact execSourceLock_relock s hr hs h
  · have h := execSourceLockLoss_lost s hr hb hsrc
    rw [hf, if_pos rfl] at h
    exact h
  · have h := execSourceLockLoss_lost s hr hb hsrc
    rw [hf, if_neg Bool.false_ne_true] at h
    exact h
  · exact execSourceLockLoss_unlocked s h
  · exact execBeatMarker_unheard frac h
  · exact ⟨_, execBeatMarker_acquires frac hon ho hm ha hup hkey hp, rfl, rfl, rfl, rfl, rfl, rfl⟩
  · exact State.heeds_cases (execBeatMarker_primary frac hon ho hm ha hpri.1 hpri.2)
  · exact State.heeds_cases (execBeatMarker_secondary frac hon ho hm ha hpri hsec.1 hsec.2)
  · exact execBeatMarker_other frac ha hpri hsec
  · exact execBeatFailover_steady s h
  · have h := execBeatFailover_silent s hf ho hsec hpri
    rw [if_pos halive] at h
    exact h
  · have h := execBeatFailover_silent s hf ho hsec hpri
    rw [halive, if_neg Bool.false_ne_true] at h
    exact h
  · simp only [exec, execAccountingWindow, hp]
  · have h := execAccountingWindow_plan s hp
    rw [if_pos hz] at h
    exact h
  · have h := execAccountingWindow_plan s hp
    rw [if_neg hz] at h
    exact h

end Sys2Proof.Machine
